-- ==== Sys2Proof/Word.lean ====
section
/-!
DEFINITION. The word types of the module: registers are 32 or 64 bits (R4), mesh flits 256 bits (R115),
memories are bytes.
-/
namespace Sys2Proof

/-- One byte of a memory or of a message. -/
abbrev Byte := BitVec 8
/-- A 32-bit register, instruction unit or microword. -/
abbrev W32 := BitVec 32
/-- A 64-bit register, scratchpad word or memory-row segment. -/
abbrev W64 := BitVec 64
/-- A mesh flit (R115) or a nanoword (R210). -/
abbrev W256 := BitVec 256

end Sys2Proof
end

