-- ==== Sys2Proof/Syntax.lean ====
section
/-!
DEFINITION. The commands: one constructor of `Instr` for each row of spec/opcode_table.json, in the table's order.
Operands are what the sender of the command supplies: the unit it acts on, the value of an access, and what the outside
world delivers with the event (bytes read from host memory, the levels of input lines, a frame). A `Fin` operand names
one of the units the machine has.
-/
namespace Sys2Proof

/-- A sequencer or partition, S0-S3. -/
abbrev SeqId := Fin 4
/-- A turf, T0-T63. -/
abbrev TurfId := Fin 64
/-- A tile, 0-1023. -/
abbrev TileId := Fin 1024

/-- A mesh packet: its header flit (R117) and its data flits. -/
structure Packet where
  header : W256
  data : List W256
  deriving DecidableEq, Repr

/-- An access through a memory window (R312, R313): the function (0 PF, 1-4 VFs), its BAR (0, 2 or 4), the offset,
and either the bytes to write or the length to read. -/
structure WinAccess where
  fn : Fin 5
  bar : Nat
  off : Nat
  write : Bool
  data : List Byte
  len : Nat
  deriving DecidableEq, Repr

/-- How the outside world's part of a transfer ended (R238, R244, R332). -/
inductive Delivery where
  /-- All bytes arrived or were taken. -/
  | ok
  /-- A PCIe completion error. -/
  | hostError
  /-- A poisoned TLP (R332). -/
  | poisoned
  /-- A data error of HBM or a poisoned flit. -/
  | dataError
  deriving DecidableEq, Repr

/-- What a CAP message of the partner carries (R341). -/
structure CapMsg where
  vmin : Nat
  vmax : Nat
  serial : W64
  static : Bool
  id : Nat
  idValid : Bool
  port : Nat
  dim : Nat
  dir : Bool
  deriving DecidableEq, Repr

/-- One slot of a fabric frame (R337): its tag byte and its flit. -/
structure FrameSlot where
  tag : Byte
  flit : W256
  deriving DecidableEq, Repr

/-- A fabric frame (R337), with the outcome of its CRC check. -/
structure Frame where
  slots : List FrameSlot
  seq : BitVec 16
  ack : BitVec 16
  credit : List Nat
  crcGood : Bool
  deriving DecidableEq, Repr

/-- A partial or result of a collective as it travels the tree (R357). -/
structure Partial where
  cid : W32
  op : Nat
  width : Nat
  nmem : Nat
  count : Nat
  value : Nat
  deriving DecidableEq, Repr

/-- How a collective ends for those who hear of it: 0 for its result, else the failure's code (R358), and the port the message came from. -/
structure CollEnd where
  code : Nat
  port : Option (Fin 8)
  deriving DecidableEq, Repr

/-- A link of the fabric tree: child and parent by serial number, the child's port and the parent's (R347). -/
structure TreeEdge where
  child : W64
  parent : W64
  childPort : BitVec 3
  parentPort : BitVec 3
  deriving DecidableEq, Repr

/-- What discovery tells the root of a module: its serial number, the ID it holds and the one it requests, and at each port the partner of an
active link, by serial number and port (R345-R347). -/
structure FabModule where
  serial : W64
  held : Option (BitVec 16)
  request : Option (BitVec 16)
  links : List (Option (W64 × BitVec 3))
  deriving DecidableEq, Repr

/-- A detected fault (R364): kind code, partition, step when the mechanism gives one, unit, shared resource. A machine check
(kind 0xC) has store times 2^16 plus the address as its unit (R217); a parity error of shared scratch (kind 8) has the reading sequencer as
unit 0 to 3, or any larger unit where another agent read (R364, R370). -/
structure FaultInfo where
  kind : Nat
  part : SeqId
  step : Option W64
  unit : Nat
  shared : Bool
  deriving DecidableEq, Repr

/-- The target of a reset: the module, a partition or a block by its code (R388, R395). -/
inductive ResetTarget where
  | module
  | part (p : SeqId)
  | block (code : Fin 64)
  deriving DecidableEq, Repr

/-- What the march test of one tile found (R383, RST_MTMAP). -/
structure MarchTile where
  cols : W64
  spare : Bool
  par : Bool
  count : Nat
  deriving DecidableEq, Repr

/-- What boot finds outside the core (R402): the firmware and image slots that verify, the failing cells and ROM
sweeps, and the image committed. -/
structure BootInfo where
  /-- Sequencers whose ROM sweep found a parity error (R220). -/
  sweepFail : BitVec 4
  /-- Turfs and the findings of their tiles in the start-up march, where a cell failed. -/
  march : List (Nat × MarchTile)
  deriving DecidableEq, Repr

/-- How a stack has retrained (R222, R224): the stack, the rate it came up at, if any, coded 0 to 2 for 9.6, 8.0 and 6.4 Gb/s, and whether some
rate failed. -/
structure Retrain where
  stack : Fin 8
  rate : Option (Fin 3)
  failedSome : Bool
  deriving DecidableEq, Repr

/-- An abort of a DMA channel (R244): the channel, the descriptor under way where the chain is in host memory, and what the host or a stream
port has supplied of its data. -/
structure DmaStop where
  chan : Fin 16
  desc : List Byte
  bytes : List Byte
  deriving DecidableEq, Repr

/-- The blocks whose device reads can time out (R332). -/
inductive Requester where
  | dma (c : Fin 16)
  | staging (e : Fin 8) (slot : Nat)
  | ring (p : SeqId)
  deriving DecidableEq, Repr

/-- The commands of the block, one constructor a row of the table. -/
inductive Instr where
  -- registers
  | registerWrite (dbg : Bool) (off : Nat) (data : List Byte)
  | shadowWrite (off : Nat) (value : W64)
  | readClear (off : Nat) (len : Nat)
  -- bursts, steps and turfs
  | burstIssue (p : SeqId)
  | burstArrival (p : SeqId)
  | step (p : SeqId)
  | retentionEntry (t : TurfId)
  | retentionWake (t : TurfId)
  | paceWindow (t : TurfId) (steps : Nat)
  | paceClear (t : TurfId)
  -- array integer instructions
  | mov (p : SeqId)
  | extu (p : SeqId)
  | exts (p : SeqId)
  | bool (p : SeqId)
  | add (p : SeqId)
  | sub (p : SeqId)
  | addv (p : SeqId)
  | subv (p : SeqId)
  | cmpu (p : SeqId)
  | cmps (p : SeqId)
  | shl (p : SeqId)
  | shru (p : SeqId)
  | shrs (p : SeqId)
  | mulu (p : SeqId)
  | muls (p : SeqId)
  | divu (p : SeqId)
  | divs (p : SeqId)
  | fset (p : SeqId)
  | sprd (p : SeqId)
  | idle (p : SeqId)
  -- array floating point
  | fadd (p : SeqId)
  | fsub (p : SeqId)
  | fmul (p : SeqId)
  | fdiv (p : SeqId)
  | fsqrt (p : SeqId)
  | ffma (p : SeqId)
  | fmulx (p : SeqId)
  | fcvt (p : SeqId)
  | ftol (p : SeqId)
  | ltof (p : SeqId)
  | fcmp (p : SeqId)
  | fcmps (p : SeqId)
  | fcls (p : SeqId)
  | fneg (p : SeqId)
  | fabs (p : SeqId)
  | eclr (p : SeqId)
  -- the Flue
  | rany (p : SeqId)
  | rall (p : SeqId)
  | rcnt (p : SeqId)
  | rsumu (p : SeqId)
  | rsums (p : SeqId)
  | rmaxu (p : SeqId)
  | rmaxs (p : SeqId)
  | rminu (p : SeqId)
  | rmins (p : SeqId)
  | tmaxu (p : SeqId)
  | tmaxs (p : SeqId)
  | tminu (p : SeqId)
  | tmins (p : SeqId)
  | flueResultWrite (p : SeqId)
  -- sequencer control
  | nop (p : SeqId)
  | rep (p : SeqId)
  | b (p : SeqId)
  | call (p : SeqId)
  | ret (p : SeqId)
  | iret (p : SeqId)
  | wait (p : SeqId)
  | waitFlagSatisfied (p : SeqId)
  | sig (p : SeqId)
  | fbar (p : SeqId)
  | jobs (p : SeqId)
  | jobe (p : SeqId)
  | ldp (p : SeqId)
  | stp (p : SeqId)
  | pset (p : SeqId)
  | padd (p : SeqId)
  | snum (p : SeqId)
  | setl (p : SeqId)
  | setlm (p : SeqId)
  | stgq (p : SeqId)
  | halt (p : SeqId)
  -- sequencer scalar arithmetic
  | scalarMov (p : SeqId)
  | scalarAdd (p : SeqId)
  | adc (p : SeqId)
  | scalarSub (p : SeqId)
  | sbc (p : SeqId)
  | cmp (p : SeqId)
  | and (p : SeqId)
  | or (p : SeqId)
  | xor (p : SeqId)
  | scalarShl (p : SeqId)
  | shr (p : SeqId)
  | sar (p : SeqId)
  | tas (p : SeqId)
  | lr (p : SeqId)
  | sc (p : SeqId)
  | mulw (p : SeqId)
  | scalarDivu (p : SeqId)
  | scalarDivs (p : SeqId)
  | scalarFadd (p : SeqId)
  | scalarFsub (p : SeqId)
  | scalarFmul (p : SeqId)
  | scalarFdiv (p : SeqId)
  | scalarFsqrt (p : SeqId)
  | scalarFfma (p : SeqId)
  | scalarFcmp (p : SeqId)
  | scalarFcvt (p : SeqId)
  | fstr (p : SeqId)
  | fstw (p : SeqId)
  | outstandingResultWrite (p : SeqId) (k : Nat)
  | trapDelivery (p : SeqId)
  | interruptEntry (p : SeqId)
  | start (p : SeqId)
  | stop (p : SeqId)
  | clrf (p : SeqId)
  -- microcode
  | stepMicroword (p : SeqId)
  | loop (p : SeqId)
  | jump (p : SeqId)
  | bft (p : SeqId)
  | bff (p : SeqId)
  | bpt (p : SeqId)
  | microCall (p : SeqId)
  | microRet (p : SeqId)
  -- the mesh
  | read (pkt : Packet)
  | write (pkt : Packet)
  | rdata (pkt : Packet)
  | wack (pkt : Packet)
  | err (pkt : Packet)
  | sdata (pkt : Packet)
  | ping (pkt : Packet)
  | mread (pkt : Packet)
  | mwrite (pkt : Packet)
  | badcmd (pkt : Packet)
  | poisonedFlit (pkt : Packet) (tile : TileId) (port : Fin 8) (crc : Bool) (header : Bool)
  | reservedFlitArrival (tile : TileId) (port : Fin 8) (p : SeqId) (flit : W256)
  -- fences
  | fenceRequest (d : Fin 88)
  | fenceStopComplete (d : Fin 88)
  | fenceDrainComplete (d : Fin 88)
  | fenceClamp (d : Fin 88)
  | fenceTimeout (d : Fin 88)
  | fenceRelease (d : Fin 88)
  | turfRejoin (t : TurfId)
  -- staging, checkpoints, HBM
  | descriptorAccept (e : Fin 8) (p : SeqId)
  | transferComplete (e : Fin 8) (slot : Nat) (bytes : List Byte) (d : Delivery)
  | stagingResend (e : Fin 8) (slot : Nat)
  | checkpoint (p : SeqId)
  | checkpointComplete (p : SeqId)
  | selfRefreshEntry (n : Fin 8)
  | selfRefreshExit (n : Fin 8)
  | hbmPowerOff (n : Fin 8)
  | hbmRetrainComplete (n : Retrain)
  -- DMA
  | dmaStart (c : Fin 16)
  | dmaAbort (c : DmaStop)
  | dmaDescriptorComplete (c : Fin 16) (desc : List Byte) (bytes : List Byte) (d : Delivery)
  -- the loader
  | load (auto : Bool) (image : List Byte) (readGood : Bool)
  | loaded
  | commit
  | bareCommit
  | apply
  | abort
  | withdrawal (t : TurfId)
  | return (t : TurfId)
  -- the edge fabric
  | readbackArm (clk : Fin 8) (edges : BitVec 16)
  | readbackCapture (clk : Fin 8)
  | readbackDataRead
  | edgeFreeze (on : Bool)
  | clkloss (n : Fin 8)
  | edgeEvent (i : Fin 32)
  -- Kindling engines
  | kindlingNop (c : Fin 128)
  | br (c : Fin 128) (lines : BitVec 176)
  | kindlingWait (c : Fin 128) (lines : BitVec 176)
  | sleep (c : Fin 128)
  | sleepTurn (c : Fin 128)
  | stallTurn (c : Fin 128) (lines : BitVec 176)
  | sho (c : Fin 128)
  | shi (c : Fin 128) (lines : BitVec 176)
  | take (c : Fin 128)
  | give (c : Fin 128)
  | drv (c : Fin 128)
  | smp (c : Fin 128) (lines : BitVec 176)
  | dir (c : Fin 128)
  | ldi (c : Fin 128)
  | opr (c : Fin 128)
  | arm (c : Fin 128)
  | stmp (c : Fin 128)
  | evt (c : Fin 128)
  | edgeLatch (c : Fin 128) (rising : Bool) (line : Fin 176)
  | tick (c : Fin 128)
  | engineStop (e : Fin 4)
  | cleanStop (e : Fin 4)
  | engineStart (e : Fin 4)
  | globalStart (mask : BitVec 4)
  | kindlingFreeze (e : Fin 4) (on : Bool)
  | align
  | txEnqueue (c : Fin 128) (word : W32)
  | rxDequeue (c : Fin 128)
  -- host rings and the PCIe endpoint
  | doorbell (p : SeqId) (value : W32)
  | entryFetch (p : SeqId) (entry : List Byte)
  | mailboxDelivery (p : SeqId)
  | launch (p : SeqId)
  | completionWrite (p : SeqId)
  | ringEnable (p : SeqId)
  | ringDisable (p : SeqId)
  | completionHeadWrite (p : SeqId) (value : W32)
  | hivOffer (value : BitVec 8)
  | flr (fn : Fin 5)
  | bar0OversizeAccess (off : Nat) (len : Nat) (write : Bool)
  | instructionMemoryWrite (p : SeqId) (addr : Nat) (data : List Byte)
  | windowAccess (a : WinAccess)
  | linkTrained (speed : Fin 6)
  | eventEnable (i : Fin 1024) (value : W32)
  | pendingClear (j : Fin 32) (mask : W32)
  | vectorUnmask (fn : Fin 5) (vec : Fin 256)
  | waitFlagMirrorWrite (p : SeqId)
  | ptmTrigger
  | ptmPeriodExpiry
  | ptmDialogComplete (t : W64)
  -- the fabric
  | portEnable (n : Fin 8)
  | partnerDetected (n : Fin 8)
  | equalisationDone (n : Fin 8) (rate112 : Bool) (lanes : Fin 3)
  | frameLock (n : Fin 8)
  | cap (n : Fin 8) (msg : CapMsg)
  | trainingTimeout (n : Fin 8)
  | failedRetry (n : Fin 8)
  | linkDown (n : Fin 8)
  | cablePresentChange (n : Fin 8) (present : Bool)
  | frameReceive (n : Fin 8) (frame : Frame)
  | retry (n : Fin 8) (seq : BitVec 16)
  | keyFlood (n : Fin 8) (appointed : Bool) (serial : W64)
  | rootDeclare
  | heartbeat
  | electionTimeout
  | parentMap (epoch : W32) (root : W64) (ids : List (W64 × BitVec 16)) (edges : List TreeEdge) (arrival : Option (Fin 8))
  | epoch (value : W32)
  | epochDrainTimeout
  | fabricForward (arrival : Option (Fin 8)) (dl : Bool) (pkt : Packet)
  | gatewayDelivery (pkt : Packet)
  | gatewayTimeout (i : Fin 1024)
  | broadcast (arrival : Option (Fin 8)) (pkt : Packet)
  | collectiveSubmit (p : SeqId) (slot : Fin 16)
  | collectivePartial (n : Fin 8) (part : Partial)
  | collectiveResult (part : Partial) (res : CollEnd)
  | collectiveTimeout (cid : W32)
  | rcmd (pkt : Packet)
  | rcmdVerified (good : Bool)
  -- faults, recovery and repair
  | faultReport (f : FaultInfo)
  | replay (p : SeqId)
  | rollback (p : SeqId)
  | rollbackResume (p : SeqId)
  | rollbackRequest (mask : BitVec 4)
  | columnRepair (tile : TileId) (col : BitVec 6)
  | retire (tile : TileId)
  | marchTestStart (t : TurfId) (preserving : Bool)
  | marchTestEnd (t : TurfId) (psave : Bool) (tiles : List (Nat × MarchTile))
  | recoveryLogRead
  -- reset, boot, power
  | poweron (asserted : Bool) (aux : Bool)
  | drwLongLow (asserted : Bool)
  | perst (asserted : Bool)
  | hotReset
  | linkDownReset
  | software (reach : BitVec 3) (target : Byte)
  | watchdog (p : SeqId)
  | watchdogEnable (p : SeqId) (value : W32)
  | watchdogKick (mask : BitVec 4)
  | thermalTrip (die : Fin 5) (reading : Byte)
  | thermalWarning (die : Fin 5) (reading : Byte)
  | refclkLoss
  | refclkReturn
  | idleReached (target : ResetTarget)
  | idleTimeout (target : ResetTarget)
  | resetRelease (target : ResetTarget)
  | coldBoot (info : BootInfo)
  | warmBoot (info : BootInfo)
  | hbmTrainingComplete (n : Fin 8) (rate : Option (Fin 3)) (failedSome : Bool)
  | ready (ms : BitVec 16)
  | ashClear
  | turfOff (t : TurfId)
  -- security and the store
  | svnburn
  | attestation
  | attestationDone
  | store (area : BitVec 3)
  | storeComplete (good : Bool)
  | storeReadData
  -- debug
  | openPw (password : List Byte)
  | kexInit (cert : List Byte) (key : List Byte) (level : Nat)
  | kexFinish (signature : List Byte)
  | close
  | sessionIdleTimeout
  | kill
  | debugStatus
  | debugRead (space : Byte) (addr : W64) (len : Nat)
  | debugWrite (space : Byte) (addr : W64) (data : List Byte)
  | debugHalt (mask : BitVec 4)
  | debugResume (mask : BitVec 4)
  | debugStep (p : SeqId)
  | debugReset (reach : BitVec 3) (target : Byte)
  | turfFreeze (mask : W64)
  | turfUnfreeze (mask : W64)
  | blockFreeze (value : W32)
  -- SMBus
  | smbusStatus
  | smbusTemp
  | smbusPower
  | smbusSerial
  | ashlast
  | smbusUnknownCommand (code : Byte)
  -- further events
  | completionTimeout (r : Requester)
  | readyReport (serial : W64)
  | junctionSensorReading (die : Fin 5) (reading : Byte)
  | configurationMemoryParity
  | controllerStateParity (firmware : Bool) (addr : BitVec 16)
  | newAop (p : SeqId)
  deriving DecidableEq, Repr

end Sys2Proof
end

