-- ==== Sys2Proof/Decode.lean ====
section
/-!
DEFINITION. The command that a word spells. No row of spec/opcode_table.json gives bits: commands reach the block through
registers, windows, links and pins, not as encoded words. The words the module itself decodes (a sequencer's instructions,
microwords, Kindling words, mesh headers) are decoded in the meanings of the commands that read them.
-/
namespace Sys2Proof

/-- No word spells a command. -/
def decodeTableWord (_nbits _w : Nat) : Option Instr := none

end Sys2Proof
end

