-- ==== Sys2Proof/Config.lean ====
section
/-!
DEFINITION. What one module or one implementation fixes, and the values the spec leaves open. None of these constants
has a body that Lean can evaluate, so no proof rests on a value of one. Each is named in the assumption log.
-/
namespace Sys2Proof.Config

/-- A free value: the `n`-th value the spec leaves open in a run (log entry 6). -/
opaque freeValue : Nat → BitVec 64

/-- A free value that the spec calls a deterministic function of the operands: the first argument names the
operation, the list holds the operands (R51, R68, R98; log entry 8). -/
opaque freeFunction : Nat → List Nat → Nat

/-- What discovery's link messages, which the manual leaves to the link, have told the root of the other modules (R345-R347; log entry 26). -/
opaque topology : Nat → List FabModule
/-- The header of the Stream packets in which partials, results and failures of collectives travel, but for the fields that the manual gives them
(R357; log entry 26). -/
opaque collHeader : List Nat → BitVec 256

/-- The fused serial number (FAB_SERIAL, R363; log entry 4). -/
opaque serial : BitVec 64
/-- The order code: true for ZQ-4096-L128K (R1; log entry 4). -/
opaque keyed : Bool
/-- The silicon revision (HST_ID.REV, R333; log entry 4). -/
opaque revision : BitVec 8
/-- The fused minimum SVN at manufacture (SEC_SVN.MIN, R435; log entry 4). -/
opaque fusedSvn : BitVec 16
/-- The words of the device identity certificate (SEC_IDCERT, R415; log entry 4). -/
opaque identityCert : Nat → BitVec 32
/-- The factory fuse repair map: record `i` of 1,024 (R379; log entry 4). -/
opaque fuseRepair : Nat → BitVec 32

/-- The words of the microword ROM that the manual does not print (R205-R210; log entry 9). -/
opaque microRest : Nat → BitVec 32
/-- The microword ROM; the one word of ADD's routine is printed in the dispatch that follows R210. -/
def microRom (u : Nat) : BitVec 32 := if u = 0x0120 then 0x40211246 else microRest u
/-- The words of the nanoword ROM that the manual does not print (R210; log entry 9). -/
opaque nanoRest : Nat → BitVec 256
/-- The nanoword ROM; the word of ADD's steps is printed in the dispatch that follows R210. -/
def nanoRom (n : Nat) : BitVec 256 := if n = 0x021 then 0x0260_0004_0300_E896 else nanoRest n
/-- Whether the ROM routine that starts at one microaddress goes through another; the manual does not print the routines (R213; log entry 9). -/
opaque romRoutine : Nat → Nat → Bool
/-- The ROM default of the dispatch table (R205; log entry 9). -/
opaque dispatchRom : Nat → BitVec 32

/-- SHA-512, which the manual names and does not define (R246; log entry 10). -/
opaque sha512 : List (BitVec 8) → BitVec 512
/-- ECDSA P-521 verification of a signature by a 132-byte public key over a hash (R246, R413; log entry 10). -/
opaque ecdsaVerify : List (BitVec 8) → BitVec 512 → List (BitVec 8) → Bool
/-- A signature by the device identity key over a hash (R415, R418; log entry 10). -/
opaque identitySign : BitVec 512 → List (BitVec 8)
/-- The device's ephemeral key and challenge of the `n`-th key exchange (R425; log entry 10). -/
opaque kexAnswer : Nat → List (BitVec 8)
/-- The session key of the `n`-th key exchange with a debugger's ephemeral key: HKDF-SHA-512 of their ECDH secret (R425; log entry 10). -/
opaque sessionKey : Nat → List (BitVec 8) → List (BitVec 8)
/-- HMAC-SHA-512 under a key, truncated to 128 bits (R424; log entry 10). -/
opaque hmacTag : List (BitVec 8) → List (BitVec 8) → List (BitVec 8)
/-- CRC-32 of IEEE 802.3 (R399, R419; log entry 10). -/
opaque crc32 : List (BitVec 8) → BitVec 32
/-- The root public keys that manufacture wrote into the identity area (R412, R419; log entry 4). -/
opaque rootKey : Nat → List (BitVec 8)
/-- The root public key bytes whose hash the fuses hold: 0 Falermine, 1 customer (R412; log entry 10). -/
opaque rootKeyHash : Nat → BitVec 512

/-- The source that a CLOCK frame selects, whose layout the manual does not give (R268, R272; log entry 25): 0 the Hearth clock,
1-6 pin 22 of bank 0-5, 7-10 the D-PHY ports of banks 4 and 5. -/
opaque clockSource : List (BitVec 8) → Nat

/-- The Vendor ID, which the manual names FALERMINE_VID and gives no number, and the Subsystem IDs, which are loaded from fuses (R307; log entry 11). -/
opaque vendorId : Nat
opaque subsystemIds : Nat

/-- The divider of a CLOCK frame that selects the Hearth main clock: one of 148 from 3 on (R272; log entry 21). -/
opaque clockDivider : List (BitVec 8) → Nat

/-! The design that the frames of the edge fabric configure. The manual says what cells, multiplexers, registers and memories do and leaves
the bit order of a LOGIC frame open (R268), so how the frames name them is opaque (log entry 21). A net is a number. -/

/-- What drives a net of the edge fabric: a constant, the input of a pin, a line KE, the main or second output or the carry sum of a cell, a
flip-flop of a cell (R269), the 16:1 multiplexer of the cluster that begins at a cell or the 64:1 one of four clusters (R270), another net, or through a switch-box register (R271), a bit of
the read output of a block-memory port (R273), a bit of the word at the head of an outward stream port, that such a word is there, that an
inward port has room (R283), or a bit of a D-PHY data lane (R280). -/
inductive EdgeDriver where
  | const (v : Bool)
  | pin (n : Nat)
  | ke (n : Nat)
  | main (cell : Nat)
  | second (cell : Nat)
  | sum (cell : Nat)
  | flop (cell : Nat) (second : Bool)
  | wide (cell : Nat) (four : Bool) (data select : List Nat)
  | wire (net : Nat)
  | hop (reg : Nat)
  | mem (m : Nat) (portB : Bool) (bit : Nat)
  | streamBit (port bit : Nat)
  | streamValid (port : Nat)
  | streamReady (port : Nat)
  | lane (n bit : Nat)
  deriving DecidableEq, Repr, Inhabited

/-- A logic cell (R269): its table, dual mode, whether the first flip-flop takes the carry sum, the clocks and the clock-enable nets of the
two flip-flops, and the nets of I0-I5. -/
structure EdgeCell where
  table : BitVec 64
  dual : Bool
  carry : Bool
  clk : Nat × Nat
  enable : Nat × Nat
  inputs : List Nat
  deriving DecidableEq, Repr, Inhabited

/-- An enabled switch-box register (R271): the net it carries and that net's clock. -/
structure EdgeHop where
  enabled : Bool
  net : Nat
  clk : Nat
  deriving DecidableEq, Repr, Inhabited

/-- A block-memory port (R273, R274): its clock, write-read mode (0 NEWDATA, 1 OLDDATA, 2 KEEP), and the nets of enable, write enable, address
and data, low bits first. -/
structure EdgePort where
  clk : Nat
  mode : Nat
  enable : Nat
  write : Nat
  addr : List Nat
  data : List Nat
  deriving DecidableEq, Repr, Inhabited

/-- A block memory (R273): one of seven shapes, from 32,768 words of 1 bit to 512 of 72, and its ports. -/
structure EdgeMem where
  shape : Nat
  a : EdgePort
  b : EdgePort
  deriving DecidableEq, Repr, Inhabited

/-- The fabric side of a stream port (R283): its clock, the net of its handshake (valid inward, ready outward), and the 256 data nets. -/
structure EdgeStream where
  clk : Nat
  go : Nat
  data : List Nat
  deriving DecidableEq, Repr, Inhabited

/-- The frames of the configuration memory, as (address, byte) pairs. -/
abbrev EdgeFrames := List (Nat × BitVec 8)

/-- What drives a net. -/
opaque edgeDriver : EdgeFrames → Nat → EdgeDriver
/-- Cell 0-131,071. -/
opaque edgeCell : EdgeFrames → Nat → EdgeCell
/-- How many switch-box outputs the fabric has, and each. -/
opaque edgeHops : Nat
opaque edgeHop : EdgeFrames → Nat → EdgeHop
/-- Block memory 0-511. -/
opaque edgeMem : EdgeFrames → Nat → EdgeMem
/-- Stream port 0-15. -/
opaque edgeStream : EdgeFrames → Nat → EdgeStream
/-- The nets that drive a pin (its level), an event line and an EK line. -/
opaque edgePinNet : EdgeFrames → Nat → Nat
opaque edgeEvNet : EdgeFrames → Nat → Nat
opaque edgeEkNet : EdgeFrames → Nat → Nat
/-- How many nets in a row a level crosses at most. -/
opaque edgeDepth : Nat

end Sys2Proof.Config
end

