-- ==== Sys2Proof/Machine/SMap.lean ====
section
/-!
DEFINITION. Sparse maps from natural numbers, in one canonical form: keys strictly rising and no entry equal to
what an unlisted key reads as. Every memory, register file and set of like units of the module is one of these.
-/
namespace Sys2Proof.Machine

/-- A sparse map: key and value pairs, keys strictly rising, no value equal to the default of its key. -/
abbrev SMap (α : Type) := List (Nat × α)

/-- The value at key `k`; `d` is what an unlisted key reads as. -/
def SMap.get {α : Type} (d : α) : SMap α → Nat → α
  | [], _ => d
  | (j, v) :: m, k => if k = j then v else SMap.get d m k

/-- The entry at `k` becomes `v`, in key order. -/
def SMap.insert {α : Type} : SMap α → Nat → α → SMap α
  | [], k, v => [(k, v)]
  | (j, w) :: m, k, v =>
    if k < j then (k, v) :: (j, w) :: m
    else if k = j then (k, v) :: m
    else (j, w) :: SMap.insert m k v

/-- No entry at `k`. -/
def SMap.remove {α : Type} : SMap α → Nat → SMap α
  | [], _ => []
  | (j, w) :: m, k => if k = j then SMap.remove m k else (j, w) :: SMap.remove m k

/-- Key `k` holds `v` from now on; writing the default removes the entry, so equal maps are equal data. -/
def SMap.put {α : Type} [DecidableEq α] (d : α) (m : SMap α) (k : Nat) (v : α) : SMap α :=
  if v = d then SMap.remove m k else SMap.insert m k v

/-- Keys strictly rising, above `lo` where one is given. -/
def SMap.risingFrom {α : Type} : Option Nat → SMap α → Bool
  | _, [] => true
  | none, (j, _) :: m => SMap.risingFrom (some j) m
  | some b, (j, _) :: m => decide (b < j) && SMap.risingFrom (some j) m

/-- The canonical form: keys strictly rising, no entry equal to the default of its key. -/
def SMap.wf {α : Type} [DecidableEq α] (d : Nat → α) (m : SMap α) : Bool :=
  SMap.risingFrom none m && m.all (fun e => decide (e.2 ≠ d e.1))

end Sys2Proof.Machine
end

