-- ==== Sys2Proof/Machine/Regs.lean ====
section
/-!
DEFINITION. The register maps of BAR0, one row a register, each with its fields' bits, access code, reset value and
the largest reach that leaves the field unchanged, as the register tables of the manual print them (R6, R7, R44, R138,
R140, R183, R245, R267, R286, R305, R333, R363, R387, R411, R435).
-/
namespace Sys2Proof.Machine

/-- Access codes of R7; CMT is a flag of its own. -/
inductive Acc where
  | ro | rw | wo | w1c | w1s | rc
  deriving DecidableEq, Repr

/-- The Kept by column of R6: the largest reach that leaves the field unchanged. -/
inductive Kept where
  | none | part | warm | cold
  deriving DecidableEq, Repr

/-- Which command of the table acts on a field: `none`, the register commands; `row`, a command of its own;
`rise`, setting a bit is a command of its own and clearing it is a register write. -/
inductive Own where
  | none | row | rise
  deriving DecidableEq, Repr

/-- One field of a register map. -/
structure FieldRow where
  name : String
  hi : Nat
  lo : Nat
  acc : Acc
  cmt : Bool
  reset : Nat
  kept : Kept
  own : Own
  deriving DecidableEq, Repr

/-- One register, or one array of like registers: `n1` times `n2` of them, `s1` and `s2` bytes apart. -/
structure RegRow where
  name : String
  off : Nat
  n1 : Nat
  s1 : Nat
  n2 : Nat
  s2 : Nat
  fields : List FieldRow
  deriving DecidableEq, Repr

/-- A named field of one register of BAR0: the register's offset and the field's bits. -/
structure Field where
  off : Nat
  hi : Nat
  lo : Nat
  deriving DecidableEq, Repr

/-- Turf registers (R44). -/
def trfRegs : List RegRow := [
  ⟨"TRF_ID", 0x2000000, 64, 0x4000, 1, 0x0, [⟨"DIE", 13, 12, .ro, false, 0, .cold, .none⟩, ⟨"TURF", 5, 0, .ro, false, 0, .cold, .none⟩]⟩,
  ⟨"TRF_CFG", 0x2000004, 64, 0x4000, 1, 0x0, [⟨"ASSIGNED", 31, 31, .rw, true, 0, .part, .none⟩, ⟨"PART", 25, 24, .rw, true, 0, .part, .none⟩, ⟨"MAXW", 18, 16, .rw, true, 0, .part, .none⟩]⟩,
  ⟨"TRF_STATE", 0x2000008, 64, 0x4000, 1, 0x0, [⟨"BURSTS", 22, 16, .ro, false, 0, .none, .none⟩, ⟨"STATE", 3, 0, .ro, false, 0, .none, .none⟩]⟩,
  ⟨"TRF_STEP", 0x2000010, 64, 0x4000, 1, 0x0, [⟨"STEP", 63, 0, .ro, false, 0, .none, .none⟩]⟩,
  ⟨"TRF_PACE_STEPS", 0x2000018, 64, 0x4000, 1, 0x0, [⟨"STEPS", 63, 0, .ro, false, 0, .none, .none⟩]⟩,
  ⟨"TRF_PACE_BUSY", 0x2000020, 64, 0x4000, 1, 0x0, [⟨"BUSY", 63, 0, .ro, false, 0, .none, .none⟩]⟩,
  ⟨"TRF_PACE_MIN", 0x2000028, 64, 0x4000, 1, 0x0, [⟨"MINSTEPS", 15, 0, .rc, false, 65535, .none, .none⟩]⟩,
  ⟨"TRF_PACE_FLOOR", 0x200002C, 64, 0x4000, 1, 0x0, [⟨"FLOOR", 15, 0, .rw, false, 0, .none, .none⟩]⟩,
  ⟨"TRF_PACE_CTL", 0x2000030, 64, 0x4000, 1, 0x0, [⟨"CLR", 0, 0, .wo, false, 0, .none, .row⟩]⟩,
  ⟨"TRF_ERR", 0x2000034, 64, 0x4000, 1, 0x0, [⟨"FLOOR", 4, 4, .w1c, false, 0, .none, .none⟩, ⟨"STGCOL", 3, 3, .w1c, false, 0, .none, .none⟩, ⟨"WIDTH", 2, 2, .w1c, false, 0, .none, .none⟩, ⟨"DRAIL", 1, 1, .w1c, false, 0, .none, .none⟩, ⟨"PARITY", 0, 0, .w1c, false, 0, .none, .none⟩]⟩,
  ⟨"TRF_CONFLICT", 0x2000038, 64, 0x4000, 1, 0x0, [⟨"EXTRA", 63, 0, .ro, false, 0, .none, .none⟩]⟩,
  ⟨"TRF_STGCOL", 0x2000040, 64, 0x4000, 1, 0x0, [⟨"COUNT", 15, 0, .rc, false, 0, .none, .none⟩]⟩,
  ⟨"TRF_WIDTHERR", 0x2000044, 64, 0x4000, 1, 0x0, [⟨"WIDTH", 18, 16, .ro, false, 0, .none, .none⟩, ⟨"TILE", 9, 0, .ro, false, 0, .none, .none⟩]⟩]

/-- Mesh registers (R138). -/
def mshRegs : List RegRow := [
  ⟨"MSH_TOPO", 0x2800000, 4, 0x4, 1, 0x0, [⟨"WRAPH", 1, 1, .rw, true, 0, .part, .none⟩, ⟨"WRAPV", 0, 0, .rw, true, 0, .part, .none⟩]⟩,
  ⟨"MSH_COST", 0x2800010, 4, 0x4, 1, 0x0, [⟨"HCOST", 5, 4, .ro, false, 0, .part, .none⟩, ⟨"VCOST", 1, 0, .ro, false, 0, .part, .none⟩]⟩,
  ⟨"MSH_FENCE_TMO", 0x2800020, 1, 0x0, 1, 0x0, [⟨"TMO", 15, 0, .rw, false, 100, .part, .none⟩]⟩,
  ⟨"MSH_ERR", 0x2800024, 1, 0x0, 1, 0x0, [⟨"CORDMISS", 4, 4, .w1c, false, 0, .none, .none⟩, ⟨"BADCMD", 3, 3, .w1c, false, 0, .none, .none⟩, ⟨"NOPORT", 2, 2, .w1c, false, 0, .none, .none⟩, ⟨"CRC", 1, 1, .w1c, false, 0, .none, .none⟩, ⟨"DRAIL", 0, 0, .w1c, false, 0, .none, .none⟩]⟩,
  ⟨"MSH_ERRTILE", 0x2800028, 1, 0x0, 1, 0x0, [⟨"VALID", 31, 31, .w1c, false, 0, .none, .none⟩, ⟨"KIND", 18, 16, .ro, false, 0, .none, .none⟩, ⟨"PORT", 14, 12, .ro, false, 0, .none, .none⟩, ⟨"TILE", 9, 0, .ro, false, 0, .none, .none⟩]⟩,
  ⟨"MSH_DROPS", 0x280002C, 1, 0x0, 1, 0x0, [⟨"COUNT", 15, 0, .rc, false, 0, .none, .none⟩]⟩,
  ⟨"MSH_FENCE", 0x2800100, 88, 0x4, 1, 0x0, [⟨"REQ", 31, 31, .rw, false, 0, .none, .row⟩, ⟨"OWNER", 30, 30, .ro, false, 0, .none, .none⟩, ⟨"FORCED", 7, 7, .ro, false, 0, .none, .none⟩, ⟨"PHASE", 2, 0, .ro, false, 0, .none, .none⟩]⟩]

/-- Cord registers (R140). -/
def crdRegs : List RegRow := [
  ⟨"CRD_FRAME", 0x2840000, 4, 0x4, 1, 0x0, [⟨"FRAME", 7, 0, .rw, true, 128, .part, .none⟩]⟩,
  ⟨"CRD_MISS", 0x2840010, 1, 0x0, 1, 0x0, [⟨"COUNT", 15, 0, .rc, false, 0, .none, .none⟩]⟩,
  ⟨"CRD_SLOT", 0x2850000, 1024, 0x200, 128, 0x4, [⟨"V", 31, 31, .rw, true, 0, .part, .none⟩, ⟨"FIRST", 30, 30, .rw, true, 0, .part, .none⟩, ⟨"LAST", 29, 29, .rw, true, 0, .part, .none⟩, ⟨"PART", 28, 27, .rw, true, 0, .part, .none⟩, ⟨"IN", 26, 24, .rw, true, 0, .part, .none⟩, ⟨"OUT", 22, 20, .rw, true, 0, .part, .none⟩, ⟨"FLOW", 11, 0, .rw, true, 0, .part, .none⟩]⟩]

/-- Sequencer registers (R183). -/
def seqRegs : List RegRow := [
  ⟨"SEQ_CTL", 0x1000000, 4, 0x100000, 1, 0x0, [⟨"CLRF", 2, 2, .wo, false, 0, .none, .row⟩, ⟨"STOP", 1, 1, .wo, false, 0, .none, .row⟩, ⟨"START", 0, 0, .wo, false, 0, .none, .row⟩]⟩,
  ⟨"SEQ_STATE", 0x1000004, 4, 0x100000, 1, 0x0, [⟨"RSVV", 17, 17, .ro, false, 0, .none, .none⟩, ⟨"FLC", 16, 16, .ro, false, 0, .none, .none⟩, ⟨"REPI", 9, 9, .ro, false, 0, .none, .none⟩, ⟨"REPACT", 8, 8, .ro, false, 0, .none, .none⟩, ⟨"STATE", 2, 0, .ro, false, 0, .none, .none⟩]⟩,
  ⟨"SEQ_ENTRY", 0x1000008, 4, 0x100000, 1, 0x0, [⟨"ENTRY", 19, 2, .rw, false, 0, .part, .none⟩]⟩,
  ⟨"SEQ_PC", 0x100000C, 4, 0x100000, 1, 0x0, [⟨"PC", 19, 2, .ro, false, 0, .none, .none⟩]⟩,
  ⟨"SEQ_FAULT", 0x1000010, 4, 0x100000, 1, 0x0, [⟨"VALID", 31, 31, .ro, false, 0, .part, .none⟩, ⟨"AOP", 25, 16, .ro, false, 0, .part, .none⟩, ⟨"REASON", 10, 8, .ro, false, 0, .part, .none⟩, ⟨"CODE", 7, 0, .ro, false, 0, .part, .none⟩]⟩,
  ⟨"SEQ_FAULTPC", 0x1000014, 4, 0x100000, 1, 0x0, [⟨"PC", 19, 2, .ro, false, 0, .part, .none⟩]⟩,
  ⟨"SEQ_LEN", 0x1000018, 4, 0x100000, 1, 0x0, [⟨"FLB", 29, 16, .ro, false, 0, .none, .none⟩, ⟨"FLA", 13, 0, .ro, false, 0, .none, .none⟩]⟩,
  ⟨"SEQ_REPCNT", 0x100001C, 4, 0x100000, 1, 0x0, [⟨"COUNT", 31, 0, .ro, false, 0, .none, .none⟩]⟩,
  ⟨"SEQ_RSV", 0x1000020, 4, 0x100000, 1, 0x0, [⟨"VALID", 31, 31, .ro, false, 0, .none, .none⟩, ⟨"GRAN", 24, 6, .ro, false, 0, .none, .none⟩]⟩,
  ⟨"SEQ_COLL", 0x1000024, 4, 0x100000, 1, 0x0, [⟨"COUNT", 15, 0, .rc, false, 0, .none, .none⟩]⟩,
  ⟨"SEQ_IVEC", 0x1000028, 4, 0x100000, 1, 0x0, [⟨"VEC", 19, 2, .rw, false, 0, .none, .none⟩, ⟨"IEN", 0, 0, .ro, false, 0, .none, .none⟩]⟩,
  ⟨"SEQ_VIOL", 0x100002C, 4, 0x100000, 1, 0x0, [⟨"VALID", 31, 31, .ro, false, 0, .none, .none⟩, ⟨"KIND", 27, 24, .ro, false, 0, .none, .none⟩, ⟨"ENG", 16, 16, .ro, false, 0, .none, .none⟩, ⟨"UNIT", 9, 0, .ro, false, 0, .none, .none⟩]⟩,
  ⟨"SEQ_NEXTSTEP", 0x1000030, 4, 0x100000, 1, 0x0, [⟨"STEP", 63, 0, .ro, false, 0, .none, .none⟩]⟩,
  ⟨"SEQ_JOBSTEP", 0x1000038, 4, 0x100000, 1, 0x0, [⟨"STEP", 63, 0, .ro, false, 0, .none, .none⟩]⟩,
  ⟨"SEQ_VIOLSTEP", 0x1000040, 4, 0x100000, 1, 0x0, [⟨"STEP", 63, 0, .ro, false, 0, .none, .none⟩]⟩,
  ⟨"SEQ_PADDR", 0x1000100, 4, 0x100000, 16, 0x10, [⟨"VALUE", 63, 0, .ro, false, 0, .none, .none⟩]⟩,
  ⟨"SEQ_PDESC", 0x1000108, 4, 0x100000, 16, 0x10, [⟨"VALUE", 63, 0, .ro, false, 0, .none, .none⟩]⟩]

/-- HBM registers (R245). -/
def hbmRegs : List RegRow := [
  ⟨"HBM_CFG", 0x3000000, 8, 0x1000, 1, 0x0, [⟨"PWROFF", 31, 31, .rw, false, 0, .warm, .none⟩, ⟨"RATE", 19, 18, .rw, false, 0, .warm, .none⟩, ⟨"TCR", 17, 17, .rw, false, 1, .warm, .none⟩, ⟨"SRDIS", 16, 16, .rw, false, 0, .warm, .none⟩, ⟨"SRIDLE", 15, 0, .rw, false, 1000, .warm, .none⟩]⟩,
  ⟨"HBM_STAT", 0x3000004, 8, 0x1000, 1, 0x0, [⟨"TEMP", 23, 16, .ro, false, 0, .warm, .none⟩, ⟨"RATE", 5, 4, .ro, false, 0, .warm, .none⟩, ⟨"STATE", 2, 0, .ro, false, 0, .warm, .none⟩]⟩,
  ⟨"HBM_ERR", 0x3000008, 8, 0x1000, 1, 0x0, [⟨"TRAIN", 2, 2, .w1c, false, 0, .warm, .none⟩, ⟨"LINK", 1, 1, .w1c, false, 0, .warm, .none⟩, ⟨"DATA", 0, 0, .w1c, false, 0, .warm, .none⟩]⟩,
  ⟨"HBM_DERRCNT", 0x300000C, 8, 0x1000, 1, 0x0, [⟨"COUNT", 15, 0, .rc, false, 0, .warm, .none⟩]⟩,
  ⟨"HBM_DERRADDR", 0x3000010, 8, 0x1000, 1, 0x0, [⟨"VALID", 63, 63, .w1c, false, 0, .warm, .none⟩, ⟨"ADDR", 36, 0, .ro, false, 0, .warm, .none⟩]⟩,
  ⟨"HBM_CORRCNT", 0x3000018, 8, 0x1000, 1, 0x0, [⟨"COUNT", 15, 0, .rc, false, 0, .warm, .none⟩]⟩,
  ⟨"HBM_CKPT", 0x3020000, 4, 0x8, 1, 0x0, [⟨"VALID", 63, 63, .ro, false, 0, .warm, .none⟩, ⟨"OFF", 34, 0, .ro, false, 0, .warm, .none⟩]⟩]

/-- Staging registers (R245). -/
def stgRegs : List RegRow := [
  ⟨"STG_STAT", 0x3010000, 8, 0x1000, 1, 0x0, [⟨"QDEPTH", 22, 16, .ro, false, 0, .none, .none⟩, ⟨"BUSY", 0, 0, .ro, false, 0, .none, .none⟩]⟩,
  ⟨"STG_ERR", 0x3010004, 8, 0x1000, 1, 0x0, [⟨"COLL", 2, 2, .w1c, false, 0, .none, .none⟩, ⟨"REFUSE", 1, 1, .w1c, false, 0, .none, .none⟩, ⟨"FAIL", 0, 0, .w1c, false, 0, .none, .none⟩]⟩,
  ⟨"STG_REFUSE", 0x3010008, 8, 0x1000, 1, 0x0, [⟨"VALID", 31, 31, .w1c, false, 0, .none, .none⟩, ⟨"PART", 17, 16, .ro, false, 0, .none, .none⟩, ⟨"CODE", 7, 0, .ro, false, 0, .none, .none⟩]⟩,
  ⟨"STG_DONE", 0x301000C, 8, 0x1000, 1, 0x0, [⟨"COUNT", 31, 0, .ro, false, 0, .none, .none⟩]⟩,
  ⟨"STG_COLL", 0x3010010, 8, 0x1000, 1, 0x0, [⟨"COUNT", 15, 0, .rc, false, 0, .none, .none⟩]⟩,
  ⟨"STG_WAIT", 0x3010018, 8, 0x1000, 1, 0x0, [⟨"CYCLES", 63, 0, .ro, false, 0, .none, .none⟩]⟩]

/-- DMA registers (R245). -/
def dmaRegs : List RegRow := [
  ⟨"DMA_CTL", 0x3400000, 16, 0x40, 1, 0x0, [⟨"ABORT", 1, 1, .wo, false, 0, .none, .row⟩, ⟨"START", 0, 0, .wo, false, 0, .none, .row⟩]⟩,
  ⟨"DMA_STAT", 0x3400004, 16, 0x40, 1, 0x0, [⟨"ERR", 11, 8, .ro, false, 0, .none, .none⟩, ⟨"STATE", 1, 0, .ro, false, 0, .none, .none⟩]⟩,
  ⟨"DMA_HEAD", 0x3400008, 16, 0x40, 1, 0x0, [⟨"ADDR", 63, 0, .rw, false, 0, .none, .none⟩]⟩,
  ⟨"DMA_HSP", 0x3400010, 16, 0x40, 1, 0x0, [⟨"SPACE", 2, 0, .rw, false, 0, .none, .none⟩]⟩,
  ⟨"DMA_DONE", 0x3400014, 16, 0x40, 1, 0x0, [⟨"COUNT", 31, 0, .ro, false, 0, .none, .none⟩]⟩,
  ⟨"DMA_CUR", 0x3400018, 16, 0x40, 1, 0x0, [⟨"ADDR", 63, 0, .ro, false, 0, .none, .none⟩]⟩]

/-- Hearth global, loader and ring registers (R267, R333). -/
def hstRegs : List RegRow := [
  ⟨"HST_SIFCTL", 0x8000, 1, 0x0, 1, 0x0, [⟨"AUTO", 4, 4, .wo, false, 0, .none, .row⟩, ⟨"ABORT", 3, 3, .wo, false, 0, .none, .row⟩, ⟨"COMMIT", 2, 2, .wo, false, 0, .none, .row⟩, ⟨"LOAD", 1, 1, .wo, false, 0, .none, .row⟩]⟩,
  ⟨"HST_SIFSTAT", 0x8004, 1, 0x0, 1, 0x0, [⟨"TARGET", 29, 24, .ro, false, 0, .part, .none⟩, ⟨"VER", 23, 20, .ro, false, 0, .part, .none⟩, ⟨"KIND", 19, 16, .ro, false, 15, .part, .none⟩, ⟨"DIRECT", 11, 11, .ro, false, 0, .part, .none⟩, ⟨"IGNW", 10, 10, .w1c, false, 0, .part, .none⟩, ⟨"SHDISC", 9, 9, .w1c, false, 0, .part, .none⟩, ⟨"EDGELOST", 8, 8, .w1c, false, 0, .part, .none⟩, ⟨"STATE", 1, 0, .ro, false, 0, .part, .none⟩]⟩,
  ⟨"HST_SIFERR", 0x8008, 1, 0x0, 1, 0x0, [⟨"VALID", 31, 31, .w1c, false, 0, .part, .none⟩, ⟨"SECT", 20, 16, .ro, false, 0, .part, .none⟩, ⟨"CODE", 7, 0, .ro, false, 0, .part, .none⟩]⟩,
  ⟨"HST_SIFSRC", 0x800C, 1, 0x0, 1, 0x0, [⟨"SPACE", 1, 0, .rw, false, 0, .part, .none⟩]⟩,
  ⟨"HST_SIFADDR", 0x8010, 1, 0x0, 1, 0x0, [⟨"ADDR", 63, 0, .rw, false, 0, .part, .none⟩]⟩,
  ⟨"HST_SIFLEN", 0x8018, 1, 0x0, 1, 0x0, [⟨"LEN", 31, 0, .rw, false, 0, .part, .none⟩]⟩,
  ⟨"HST_SIFPEND", 0x801C, 1, 0x0, 1, 0x0, [⟨"TYPES", 9, 1, .ro, false, 0, .part, .none⟩]⟩,
  ⟨"HST_SIFID", 0x8020, 1, 0x0, 1, 0x0, [⟨"ID", 31, 0, .ro, false, 0, .part, .none⟩]⟩,
  ⟨"HST_SIFREV", 0x8024, 1, 0x0, 1, 0x0, [⟨"REV", 31, 0, .ro, false, 0, .part, .none⟩]⟩,
  ⟨"HST_WDRAW", 0x8028, 1, 0x0, 1, 0x0, [⟨"TURF", 63, 0, .w1s, false, 0, .part, .row⟩]⟩,
  ⟨"HST_WRETURN", 0x8030, 1, 0x0, 1, 0x0, [⟨"TURF", 63, 0, .wo, false, 0, .none, .row⟩]⟩,
  ⟨"HST_SIFBOOT", 0x8038, 1, 0x0, 1, 0x0, [⟨"CODEB", 23, 16, .ro, false, 0, .part, .none⟩, ⟨"CODEA", 15, 8, .ro, false, 0, .part, .none⟩, ⟨"SLOT", 1, 0, .ro, false, 2, .part, .none⟩]⟩,
  ⟨"HST_SIFHASH", 0x8040, 16, 0x4, 1, 0x0, [⟨"HASH", 31, 0, .ro, false, 0, .part, .none⟩]⟩,
  ⟨"HST_ID", 0x0, 1, 0x0, 1, 0x0, [⟨"DEVID", 31, 16, .ro, false, 23104, .cold, .none⟩, ⟨"REV", 7, 0, .ro, false, 0, .cold, .none⟩]⟩,
  ⟨"HST_HIV", 0x4, 1, 0x0, 1, 0x0, [⟨"CHOSEN", 15, 8, .ro, false, 0, .part, .none⟩, ⟨"OFFER", 7, 0, .rw, false, 0, .part, .row⟩]⟩,
  ⟨"HST_LINK", 0x8, 1, 0x0, 1, 0x0, [⟨"DEGR", 8, 8, .ro, false, 0, .none, .none⟩, ⟨"SPEED", 4, 2, .ro, false, 0, .none, .none⟩]⟩,
  ⟨"HST_ERR", 0xC, 1, 0x0, 1, 0x0, [⟨"HIVW", 2, 2, .w1c, false, 0, .none, .none⟩, ⟨"IMEMW", 1, 1, .w1c, false, 0, .none, .none⟩, ⟨"PARTW", 0, 0, .w1c, false, 0, .none, .none⟩]⟩,
  ⟨"HST_OWN", 0x10, 1, 0x0, 1, 0x0, [⟨"FN", 11, 0, .ro, false, 0, .none, .none⟩]⟩,
  ⟨"HST_B2WIN", 0x14, 1, 0x0, 1, 0x0, [⟨"BASE", 10, 0, .rw, false, 0, .warm, .none⟩]⟩,
  ⟨"HST_VFWIN", 0x18, 4, 0x4, 1, 0x0, [⟨"SIZE", 31, 16, .rw, false, 0, .warm, .none⟩, ⟨"BASE", 6, 0, .rw, false, 0, .warm, .none⟩]⟩,
  ⟨"HST_PTMCTL", 0x30, 1, 0x0, 1, 0x0, [⟨"NOPTM", 17, 17, .ro, false, 1, .none, .none⟩, ⟨"TRIG", 16, 16, .wo, false, 0, .none, .row⟩, ⟨"PERIOD", 15, 0, .rw, false, 0, .warm, .none⟩]⟩,
  ⟨"HST_PTMT", 0x38, 1, 0x0, 1, 0x0, [⟨"T", 63, 0, .ro, false, 0, .warm, .none⟩]⟩,
  ⟨"HST_PTMK", 0x40, 1, 0x0, 1, 0x0, [⟨"KTIME", 63, 0, .ro, false, 0, .warm, .none⟩]⟩,
  ⟨"HST_RCTL", 0x1000, 4, 0x40, 1, 0x0, [⟨"RSIZE", 5, 1, .rw, false, 0, .none, .none⟩, ⟨"EN", 0, 0, .rw, false, 0, .none, .row⟩]⟩,
  ⟨"HST_RBASE", 0x1008, 4, 0x40, 1, 0x0, [⟨"ADDR", 63, 0, .rw, false, 0, .none, .none⟩]⟩,
  ⟨"HST_CBASE", 0x1010, 4, 0x40, 1, 0x0, [⟨"ADDR", 63, 0, .rw, false, 0, .none, .none⟩]⟩,
  ⟨"HST_DB", 0x1018, 4, 0x40, 1, 0x0, [⟨"TAIL", 15, 0, .wo, false, 0, .none, .row⟩]⟩,
  ⟨"HST_RHEAD", 0x101C, 4, 0x40, 1, 0x0, [⟨"HEAD", 15, 0, .ro, false, 0, .none, .none⟩]⟩,
  ⟨"HST_CHEAD", 0x1020, 4, 0x40, 1, 0x0, [⟨"HEAD", 15, 0, .rw, false, 0, .none, .row⟩]⟩,
  ⟨"HST_CTAIL", 0x1024, 4, 0x40, 1, 0x0, [⟨"PHASE", 16, 16, .ro, false, 1, .none, .none⟩, ⟨"TAIL", 15, 0, .ro, false, 0, .none, .none⟩]⟩,
  ⟨"HST_RMBOX", 0x1028, 4, 0x40, 1, 0x0, [⟨"MBN", 26, 21, .rw, false, 0, .none, .none⟩, ⟨"MBADDR", 20, 6, .rw, false, 0, .none, .none⟩]⟩,
  ⟨"HST_RERR", 0x102C, 4, 0x40, 1, 0x0, [⟨"MBOX", 3, 3, .w1c, false, 0, .none, .none⟩, ⟨"DBRANGE", 2, 2, .w1c, false, 0, .none, .none⟩, ⟨"ALIGN", 1, 1, .w1c, false, 0, .none, .none⟩, ⟨"SIZE", 0, 0, .w1c, false, 0, .none, .none⟩]⟩]

/-- Edge fabric registers (R286). -/
def edgRegs : List RegRow := [
  ⟨"EDG_CTL", 0x3D00000, 1, 0x0, 1, 0x0, [⟨"FREEZE", 0, 0, .rw, false, 0, .part, .row⟩]⟩,
  ⟨"EDG_STAT", 0x3D00004, 1, 0x0, 1, 0x0, [⟨"CLKRUN", 15, 8, .ro, false, 0, .none, .none⟩, ⟨"STATE", 2, 0, .ro, false, 0, .none, .none⟩]⟩,
  ⟨"EDG_ERR", 0x3D00008, 1, 0x0, 1, 0x0, [⟨"CLKLOSS", 2, 2, .w1c, false, 0, .none, .none⟩, ⟨"RBABORT", 1, 1, .w1c, false, 0, .none, .none⟩, ⟨"PARITY", 0, 0, .w1c, false, 0, .none, .none⟩]⟩,
  ⟨"EDG_RBCTL", 0x3D0000C, 1, 0x0, 1, 0x0, [⟨"GO", 31, 31, .wo, false, 0, .none, .row⟩, ⟨"DONE", 30, 30, .ro, false, 0, .none, .none⟩, ⟨"CLK", 18, 16, .rw, false, 0, .none, .none⟩, ⟨"EDGES", 15, 0, .rw, false, 1, .none, .none⟩]⟩,
  ⟨"EDG_RBADDR", 0x3D00010, 1, 0x0, 1, 0x0, [⟨"FRAME", 12, 5, .rw, false, 0, .none, .none⟩, ⟨"WORD", 4, 0, .rw, false, 0, .none, .none⟩]⟩,
  ⟨"EDG_RBDATA", 0x3D00014, 1, 0x0, 1, 0x0, [⟨"DATA", 31, 0, .ro, false, 0, .none, .row⟩]⟩,
  ⟨"EDG_EVMASK", 0x3D00018, 1, 0x0, 1, 0x0, [⟨"EN", 31, 0, .rw, false, 0, .part, .none⟩]⟩,
  ⟨"EDG_SPSTAT", 0x3D00020, 16, 0x4, 1, 0x0, [⟨"FILL", 12, 0, .ro, false, 0, .none, .none⟩]⟩,
  ⟨"EDG_BANKV", 0x3D00060, 6, 0x4, 1, 0x0, [⟨"MV", 12, 0, .ro, false, 0, .none, .none⟩]⟩]

/-- Kindling registers (R305). -/
def kdlRegs : List RegRow := [
  ⟨"KDL_ECTL", 0x3C00000, 4, 0x40, 1, 0x0, [⟨"FREEZE", 3, 3, .rw, false, 0, .none, .row⟩, ⟨"CLEAN", 2, 2, .wo, false, 0, .none, .row⟩, ⟨"STOP", 1, 1, .wo, false, 0, .none, .row⟩, ⟨"START", 0, 0, .wo, false, 0, .none, .row⟩]⟩,
  ⟨"KDL_ESTAT", 0x3C00004, 4, 0x40, 1, 0x0, [⟨"ACTIVE", 13, 8, .ro, false, 0, .none, .none⟩, ⟨"STATE", 1, 0, .ro, false, 0, .none, .none⟩]⟩,
  ⟨"KDL_EERR", 0x3C00008, 4, 0x40, 1, 0x0, [⟨"PARITY", 1, 1, .w1c, false, 0, .none, .none⟩, ⟨"CFGW", 0, 0, .w1c, false, 0, .none, .none⟩]⟩,
  ⟨"KDL_GSTART", 0x3C00100, 1, 0x0, 1, 0x0, [⟨"ENG", 3, 0, .wo, false, 0, .none, .row⟩]⟩,
  ⟨"KDL_TIME", 0x3C00108, 1, 0x0, 1, 0x0, [⟨"KTIME", 63, 0, .ro, false, 0, .warm, .none⟩]⟩,
  ⟨"KDL_TCTL", 0x3C00110, 1, 0x0, 1, 0x0, [⟨"AERR", 2, 2, .w1c, false, 0, .warm, .none⟩, ⟨"ALIGNED", 1, 1, .ro, false, 0, .warm, .none⟩, ⟨"ALIGN", 0, 0, .wo, false, 0, .none, .row⟩]⟩,
  ⟨"KDL_CCFG", 0x3C01000, 128, 0x40, 1, 0x0, [⟨"EN", 31, 31, .rw, false, 0, .part, .none⟩, ⟨"QST", 26, 24, .rw, false, 1, .part, .none⟩, ⟨"QDIR", 23, 23, .rw, false, 0, .part, .none⟩, ⟨"ENTRY", 8, 0, .rw, false, 0, .part, .none⟩]⟩,
  ⟨"KDL_CSHF", 0x3C01004, 128, 0x40, 1, 0x0, [⟨"TXW", 29, 24, .rw, false, 32, .part, .none⟩, ⟨"RXW", 21, 16, .rw, false, 32, .part, .none⟩, ⟨"TXMSB", 1, 1, .rw, false, 1, .part, .none⟩, ⟨"RXMSB", 0, 0, .rw, false, 1, .part, .none⟩]⟩,
  ⟨"KDL_CPACE", 0x3C01008, 128, 0x40, 1, 0x0, [⟨"INC", 31, 0, .rw, false, 16777216, .part, .none⟩]⟩,
  ⟨"KDL_CPARAM", 0x3C0100C, 128, 0x40, 1, 0x0, [⟨"PARAM", 31, 0, .rw, false, 0, .part, .none⟩]⟩,
  ⟨"KDL_CST", 0x3C01010, 128, 0x40, 1, 0x0, [⟨"RXLVL", 28, 24, .ro, false, 0, .none, .none⟩, ⟨"TXLVL", 20, 16, .ro, false, 0, .none, .none⟩, ⟨"LATCHED", 15, 15, .ro, false, 0, .none, .none⟩, ⟨"TICK", 14, 14, .ro, false, 0, .none, .none⟩, ⟨"STALE", 13, 13, .ro, false, 0, .none, .none⟩, ⟨"STALL", 12, 12, .ro, false, 0, .none, .none⟩, ⟨"PC", 8, 0, .ro, false, 0, .none, .none⟩]⟩,
  ⟨"KDL_CA", 0x3C01014, 128, 0x40, 1, 0x0, [⟨"VALUE", 31, 0, .ro, false, 0, .none, .none⟩]⟩,
  ⟨"KDL_CB", 0x3C01018, 128, 0x40, 1, 0x0, [⟨"VALUE", 31, 0, .ro, false, 0, .none, .none⟩]⟩,
  ⟨"KDL_CTXS", 0x3C0101C, 128, 0x40, 1, 0x0, [⟨"VALUE", 31, 0, .ro, false, 0, .none, .none⟩]⟩,
  ⟨"KDL_CRXS", 0x3C01020, 128, 0x40, 1, 0x0, [⟨"VALUE", 31, 0, .ro, false, 0, .none, .none⟩]⟩,
  ⟨"KDL_CSC", 0x3C01024, 128, 0x40, 1, 0x0, [⟨"CNT", 31, 16, .ro, false, 0, .none, .none⟩, ⟨"RXN", 13, 8, .ro, false, 0, .none, .none⟩, ⟨"TXN", 5, 0, .ro, false, 0, .none, .none⟩]⟩,
  ⟨"KDL_CTXQ", 0x3C01028, 128, 0x40, 1, 0x0, [⟨"WORD", 31, 0, .wo, false, 0, .none, .row⟩]⟩,
  ⟨"KDL_CRXQ", 0x3C0102C, 128, 0x40, 1, 0x0, [⟨"WORD", 31, 0, .rc, false, 0, .none, .row⟩]⟩,
  ⟨"KDL_CERR", 0x3C01030, 128, 0x40, 1, 0x0, [⟨"DROPS", 31, 16, .rc, false, 0, .none, .none⟩, ⟨"TICKLOST", 2, 2, .w1c, false, 0, .none, .none⟩, ⟨"RXUNF", 1, 1, .w1c, false, 0, .none, .none⟩, ⟨"TXOVF", 0, 0, .w1c, false, 0, .none, .none⟩]⟩,
  ⟨"KDL_CLAST", 0x3C01034, 128, 0x40, 1, 0x0, [⟨"VALUE", 31, 0, .ro, false, 0, .none, .none⟩]⟩,
  ⟨"KDL_CEDGE", 0x3C01038, 128, 0x40, 1, 0x0, [⟨"SLP", 31, 16, .ro, false, 0, .none, .none⟩, ⟨"EDGE", 9, 8, .ro, false, 0, .none, .none⟩, ⟨"LINE", 7, 0, .ro, false, 0, .none, .none⟩]⟩,
  ⟨"KDL_PMEM", 0x3C08000, 4, 0x800, 512, 0x4, [⟨"WORD", 31, 0, .ro, false, 0, .part, .none⟩]⟩]

/-- Event registers (R333). -/
def evtRegs : List RegRow := [
  ⟨"EVT_SRC", 0x200000, 1024, 0x4, 1, 0x0, [⟨"EN", 31, 31, .rw, false, 0, .part, .rise⟩, ⟨"FN", 30, 28, .rw, false, 0, .part, .none⟩, ⟨"VEC", 27, 20, .rw, false, 0, .part, .none⟩, ⟨"SEQ", 19, 16, .rw, false, 0, .part, .none⟩, ⟨"WFLAG", 15, 8, .rw, false, 0, .part, .none⟩]⟩,
  ⟨"EVT_PEND", 0x201000, 32, 0x4, 1, 0x0, [⟨"PEND", 31, 0, .w1c, false, 0, .none, .row⟩]⟩,
  ⟨"EVT_SIEN", 0x202000, 4, 0x20, 8, 0x4, [⟨"EN", 31, 0, .rw, false, 0, .none, .none⟩]⟩,
  ⟨"EVT_SMIR", 0x202100, 4, 0x4, 1, 0x0, [⟨"EN", 31, 31, .rw, false, 0, .none, .none⟩, ⟨"ADDR", 20, 5, .rw, false, 0, .none, .none⟩]⟩,
  ⟨"EVT_SFLAG", 0x202200, 4, 0x20, 8, 0x4, [⟨"FLAG", 31, 0, .ro, false, 0, .none, .none⟩]⟩,
  ⟨"EVT_ERR", 0x202300, 1, 0x0, 1, 0x0, [⟨"ROUTE", 0, 0, .w1c, false, 0, .none, .none⟩]⟩]

/-- Fabric registers (R363). -/
def fabRegs : List RegRow := [
  ⟨"FAB_CTL", 0x3800000, 1, 0x0, 1, 0x0, [⟨"RCEN", 3, 3, .rw, false, 0, .warm, .none⟩, ⟨"APPOINT", 2, 2, .rw, false, 0, .warm, .none⟩, ⟨"CEN", 1, 1, .rw, false, 0, .warm, .none⟩, ⟨"EN", 0, 0, .rw, false, 0, .warm, .none⟩]⟩,
  ⟨"FAB_STAT", 0x3800004, 1, 0x0, 1, 0x0, [⟨"NOID", 18, 18, .ro, false, 0, .none, .none⟩, ⟨"ROOT", 17, 17, .ro, false, 0, .none, .none⟩, ⟨"IDV", 16, 16, .ro, false, 0, .warm, .none⟩, ⟨"ID", 15, 0, .ro, false, 0, .warm, .none⟩]⟩,
  ⟨"FAB_EPOCH", 0x3800008, 1, 0x0, 1, 0x0, [⟨"EPOCH", 31, 0, .ro, false, 0, .none, .none⟩]⟩,
  ⟨"FAB_ERR", 0x380000C, 1, 0x0, 1, 0x0, [⟨"RCMD", 3, 3, .w1c, false, 0, .none, .none⟩, ⟨"COLL", 2, 2, .w1c, false, 0, .none, .none⟩, ⟨"NOROUTE", 1, 1, .w1c, false, 0, .none, .none⟩, ⟨"EPOCHDROP", 0, 0, .w1c, false, 0, .none, .none⟩]⟩,
  ⟨"FAB_DROPS", 0x3800010, 1, 0x0, 1, 0x0, [⟨"COUNT", 15, 0, .rc, false, 0, .none, .none⟩]⟩,
  ⟨"FAB_CTMO", 0x3800014, 1, 0x0, 1, 0x0, [⟨"MS", 15, 0, .rw, false, 100, .warm, .none⟩]⟩,
  ⟨"FAB_SERIAL", 0x3800018, 1, 0x0, 1, 0x0, [⟨"SERIAL", 63, 0, .ro, false, 0, .cold, .none⟩]⟩,
  ⟨"FAB_ROOTSER", 0x3800020, 1, 0x0, 1, 0x0, [⟨"SERIAL", 63, 0, .ro, false, 0, .none, .none⟩]⟩,
  ⟨"FAB_RCNT", 0x3800028, 1, 0x0, 1, 0x0, [⟨"COUNT", 63, 0, .ro, false, 0, .cold, .none⟩]⟩,
  ⟨"FAB_IDREQ", 0x3800030, 1, 0x0, 1, 0x0, [⟨"VALID", 31, 31, .rw, false, 0, .warm, .none⟩, ⟨"ID", 15, 0, .rw, false, 0, .warm, .none⟩]⟩,
  ⟨"FAB_PCTL", 0x3800100, 8, 0x40, 1, 0x0, [⟨"VMAX", 10, 8, .rw, true, 3, .warm, .none⟩, ⟨"EN", 0, 0, .rw, true, 0, .warm, .none⟩]⟩,
  ⟨"FAB_PSTAT", 0x3800104, 8, 0x40, 1, 0x0, [⟨"REASON", 19, 16, .ro, false, 0, .none, .none⟩, ⟨"WRAP", 12, 12, .ro, false, 0, .none, .none⟩, ⟨"LANES", 11, 10, .ro, false, 0, .none, .none⟩, ⟨"RATE", 9, 9, .ro, false, 0, .none, .none⟩, ⟨"VER", 7, 4, .ro, false, 0, .none, .none⟩, ⟨"STATE", 2, 0, .ro, false, 0, .none, .none⟩]⟩,
  ⟨"FAB_PPEER", 0x3800108, 8, 0x40, 1, 0x0, [⟨"SERIAL", 63, 0, .ro, false, 0, .none, .none⟩]⟩,
  ⟨"FAB_PPID", 0x3800110, 8, 0x40, 1, 0x0, [⟨"PORT", 22, 20, .ro, false, 0, .none, .none⟩, ⟨"VALID", 16, 16, .ro, false, 0, .none, .none⟩, ⟨"ID", 15, 0, .ro, false, 0, .none, .none⟩]⟩,
  ⟨"FAB_PRETRY", 0x3800114, 8, 0x40, 1, 0x0, [⟨"COUNT", 15, 0, .rc, false, 0, .none, .none⟩]⟩,
  ⟨"FAB_PCRC", 0x3800118, 8, 0x40, 1, 0x0, [⟨"COUNT", 15, 0, .rc, false, 0, .none, .none⟩]⟩,
  ⟨"FAB_PERR", 0x380011C, 8, 0x40, 1, 0x0, [⟨"DOWN", 2, 2, .w1c, false, 0, .none, .none⟩, ⟨"VERSION", 1, 1, .w1c, false, 0, .none, .none⟩, ⟨"TRAIN", 0, 0, .w1c, false, 0, .none, .none⟩]⟩,
  ⟨"FAB_ROUTE", 0x3840000, 65536, 0x4, 1, 0x0, [⟨"ENTRY", 31, 0, .ro, false, 0, .none, .none⟩]⟩]

/-- Reset and integrity registers (R387, R411). -/
def rstRegs : List RegRow := [
  ⟨"RST_RECCTL", 0x180000, 1, 0x0, 1, 0x0, [⟨"RBLIM", 7, 0, .rw, false, 4, .part, .none⟩]⟩,
  ⟨"RST_RBREQ", 0x180004, 1, 0x0, 1, 0x0, [⟨"PART", 3, 0, .wo, false, 0, .none, .row⟩]⟩,
  ⟨"RST_RECSTAT", 0x180010, 4, 0x4, 1, 0x0, [⟨"NORB", 31, 31, .ro, false, 0, .none, .none⟩, ⟨"STATE", 1, 0, .ro, false, 0, .none, .none⟩]⟩,
  ⟨"RST_SUBST", 0x180020, 4, 0x4, 1, 0x0, [⟨"V", 31, 31, .rw, false, 0, .warm, .none⟩, ⟨"FROM", 13, 8, .rw, false, 0, .warm, .none⟩, ⟨"TO", 5, 0, .rw, false, 0, .warm, .none⟩]⟩,
  ⟨"RST_REPLAYS", 0x180040, 4, 0x8, 1, 0x0, [⟨"COUNT", 63, 0, .ro, false, 0, .warm, .none⟩]⟩,
  ⟨"RST_ROLLBACKS", 0x180060, 4, 0x8, 1, 0x0, [⟨"COUNT", 63, 0, .ro, false, 0, .warm, .none⟩]⟩,
  ⟨"RST_RECLOG", 0x180080, 1, 0x0, 1, 0x0, [⟨"ENTRY", 63, 0, .rc, false, 0, .warm, .row⟩]⟩,
  ⟨"RST_RECLVL", 0x180088, 1, 0x0, 1, 0x0, [⟨"OVF", 31, 31, .w1c, false, 0, .warm, .none⟩, ⟨"LEVEL", 6, 0, .ro, false, 0, .warm, .none⟩]⟩,
  ⟨"RST_MTCTL", 0x180100, 1, 0x0, 1, 0x0, [⟨"GO", 31, 31, .wo, false, 0, .none, .row⟩, ⟨"MODE", 8, 8, .wo, false, 0, .none, .row⟩, ⟨"TURF", 5, 0, .wo, false, 0, .none, .row⟩]⟩,
  ⟨"RST_REPAIR", 0x180104, 1, 0x0, 1, 0x0, [⟨"APPLY", 31, 31, .wo, false, 0, .none, .row⟩, ⟨"RETIRE", 30, 30, .wo, false, 0, .none, .row⟩, ⟨"TILE", 25, 16, .wo, false, 0, .none, .row⟩, ⟨"COL", 5, 0, .wo, false, 0, .none, .row⟩]⟩,
  ⟨"RST_REPST", 0x180108, 1, 0x0, 1, 0x0, [⟨"VALID", 31, 31, .w1c, false, 0, .warm, .none⟩, ⟨"CODE", 1, 0, .ro, false, 0, .warm, .none⟩]⟩,
  ⟨"RST_MTST", 0x180200, 64, 0x4, 1, 0x0, [⟨"BUSY", 31, 31, .ro, false, 0, .none, .none⟩, ⟨"DONE", 30, 30, .w1c, false, 0, .none, .none⟩, ⟨"FAIL", 29, 29, .ro, false, 0, .none, .none⟩, ⟨"PSAVE", 28, 28, .ro, false, 0, .none, .none⟩, ⟨"MODE", 8, 8, .ro, false, 0, .none, .none⟩, ⟨"REF", 1, 0, .ro, false, 0, .none, .none⟩]⟩,
  ⟨"RST_MTMAPLO", 0x181000, 64, 0x100, 16, 0x10, [⟨"LO", 31, 0, .ro, false, 0, .none, .none⟩]⟩,
  ⟨"RST_MTMAPHI", 0x181004, 64, 0x100, 16, 0x10, [⟨"HI", 31, 0, .ro, false, 0, .none, .none⟩]⟩,
  ⟨"RST_MTMAPC", 0x181008, 64, 0x100, 16, 0x10, [⟨"COUNT", 31, 16, .ro, false, 0, .none, .none⟩, ⟨"PAR", 1, 1, .ro, false, 0, .none, .none⟩, ⟨"SPARE", 0, 0, .ro, false, 0, .none, .none⟩]⟩,
  ⟨"RST_RMAP", 0x185000, 1024, 0x4, 1, 0x0, [⟨"V", 31, 31, .ro, false, 0, .warm, .none⟩, ⟨"SRC", 30, 30, .ro, false, 0, .warm, .none⟩, ⟨"CONFLICT", 29, 29, .ro, false, 0, .warm, .none⟩, ⟨"RET", 28, 28, .ro, false, 0, .warm, .none⟩, ⟨"COL", 5, 0, .ro, false, 0, .warm, .none⟩]⟩,
  ⟨"RST_CTL", 0x100000, 1, 0x0, 1, 0x0, [⟨"GO", 31, 31, .wo, false, 0, .none, .row⟩, ⟨"REACH", 18, 16, .wo, false, 0, .none, .row⟩, ⟨"TARGET", 7, 0, .wo, false, 0, .none, .row⟩]⟩,
  ⟨"RST_STAT", 0x100004, 1, 0x0, 1, 0x0, [⟨"LASTREACH", 22, 20, .ro, false, 0, .cold, .none⟩, ⟨"LASTSRC", 15, 8, .ro, false, 0, .cold, .none⟩, ⟨"PARTRST", 3, 0, .ro, false, 0, .none, .none⟩]⟩,
  ⟨"RST_BOOT", 0x100008, 1, 0x0, 1, 0x0, [⟨"READY", 31, 31, .ro, false, 0, .none, .none⟩, ⟨"FWFAIL", 30, 30, .ro, false, 0, .none, .none⟩, ⟨"FWSLOT", 29, 29, .ro, false, 0, .none, .none⟩, ⟨"HBMFAIL", 23, 16, .ro, false, 0, .warm, .none⟩, ⟨"MS", 15, 0, .ro, false, 0, .none, .none⟩]⟩,
  ⟨"RST_IDLETMO", 0x10000C, 1, 0x0, 1, 0x0, [⟨"TMO", 15, 0, .rw, false, 100, .warm, .none⟩]⟩,
  ⟨"RST_OPTSTAT", 0x100010, 1, 0x0, 1, 0x0, [⟨"COPY", 31, 30, .ro, false, 0, .none, .none⟩, ⟨"BAD1", 29, 29, .ro, false, 0, .none, .none⟩, ⟨"BAD0", 28, 28, .ro, false, 0, .none, .none⟩]⟩,
  ⟨"RST_OPTSEQ", 0x100014, 1, 0x0, 1, 0x0, [⟨"SEQ", 31, 0, .ro, false, 0, .none, .none⟩]⟩,
  ⟨"RST_SEQDIS", 0x100018, 1, 0x0, 1, 0x0, [⟨"DIS", 3, 0, .ro, false, 0, .warm, .none⟩]⟩,
  ⟨"RST_OPT", 0x100100, 64, 0x4, 1, 0x0, [⟨"BYTES", 31, 0, .ro, false, 0, .none, .none⟩]⟩,
  ⟨"RST_WDCFG", 0x100200, 4, 0x10, 1, 0x0, [⟨"EN", 31, 31, .rw, false, 0, .none, .rise⟩, ⟨"FRZ", 30, 30, .rw, false, 1, .none, .none⟩, ⟨"TIMEOUT", 15, 0, .rw, false, 1000, .none, .none⟩]⟩,
  ⟨"RST_WDCNT", 0x100204, 4, 0x10, 1, 0x0, [⟨"REMAIN", 31, 0, .ro, false, 0, .none, .none⟩]⟩,
  ⟨"RST_WDKICK", 0x100240, 1, 0x0, 1, 0x0, [⟨"PART", 3, 0, .wo, false, 0, .none, .row⟩]⟩,
  ⟨"RST_ASHCNT", 0x100300, 16, 0x4, 1, 0x0, [⟨"COUNT", 15, 0, .ro, false, 0, .cold, .none⟩]⟩,
  ⟨"RST_ASHHEAD", 0x100340, 1, 0x0, 1, 0x0, [⟨"WRAPPED", 31, 31, .ro, false, 0, .cold, .none⟩, ⟨"NEWEST", 4, 0, .ro, false, 0, .cold, .none⟩]⟩,
  ⟨"RST_ASHCLR", 0x100344, 1, 0x0, 1, 0x0, [⟨"CLR", 0, 0, .wo, false, 0, .none, .row⟩]⟩,
  ⟨"RST_ASHTIME", 0x100348, 1, 0x0, 1, 0x0, [⟨"MS", 39, 0, .ro, false, 0, .cold, .none⟩]⟩,
  ⟨"RST_ASHREC", 0x100400, 32, 0x10, 4, 0x4, [⟨"RECORD", 31, 0, .ro, false, 0, .cold, .none⟩]⟩]

/-- Power registers (R411). -/
def pwrRegs : List RegRow := [
  ⟨"PWR_STAT", 0x140000, 1, 0x0, 1, 0x0, [⟨"REFLOSS", 2, 2, .w1c, false, 0, .cold, .none⟩, ⟨"TRIPPED", 1, 1, .w1c, false, 0, .cold, .none⟩, ⟨"TWARN", 0, 0, .ro, false, 0, .none, .none⟩]⟩,
  ⟨"PWR_TURFOFF", 0x140008, 1, 0x0, 1, 0x0, [⟨"OFF", 63, 0, .rw, false, 0, .warm, .none⟩]⟩,
  ⟨"PWR_TWARN", 0x140010, 1, 0x0, 1, 0x0, [⟨"LIMIT", 7, 0, .rw, false, 105, .warm, .none⟩]⟩,
  ⟨"PWR_TEMP", 0x140020, 5, 0x4, 1, 0x0, [⟨"PEAK", 15, 8, .rc, false, 0, .none, .none⟩, ⟨"NOW", 7, 0, .ro, false, 0, .none, .none⟩]⟩,
  ⟨"PWR_INPUT", 0x140040, 1, 0x0, 1, 0x0, [⟨"WATTS", 31, 16, .ro, false, 0, .none, .none⟩, ⟨"VIN", 15, 0, .ro, false, 0, .none, .none⟩]⟩]

/-- Security registers (R435). -/
def secRegs : List RegRow := [
  ⟨"SEC_STAT", 0x300000, 1, 0x0, 1, 0x0, [⟨"KEYED", 31, 31, .ro, false, 0, .cold, .none⟩, ⟨"FROOT", 30, 30, .ro, false, 0, .none, .none⟩, ⟨"CROOT", 29, 29, .ro, false, 0, .none, .none⟩, ⟨"ENGBUSY", 28, 28, .ro, false, 0, .none, .none⟩, ⟨"FWSLOT", 0, 0, .ro, false, 0, .none, .none⟩]⟩,
  ⟨"SEC_SVN", 0x300004, 1, 0x0, 1, 0x0, [⟨"MIN", 31, 16, .ro, false, 0, .cold, .none⟩, ⟨"CUR", 15, 0, .ro, false, 0, .none, .none⟩]⟩,
  ⟨"SEC_CTL", 0x300008, 1, 0x0, 1, 0x0, [⟨"SVNBURN", 0, 0, .wo, false, 0, .none, .row⟩]⟩,
  ⟨"SEC_NONCE", 0x300040, 16, 0x4, 1, 0x0, [⟨"NONCE", 31, 0, .rw, false, 0, .none, .none⟩]⟩,
  ⟨"SEC_ATTCTL", 0x300080, 1, 0x0, 1, 0x0, [⟨"GO", 31, 31, .wo, false, 0, .none, .row⟩, ⟨"DONE", 30, 30, .ro, false, 0, .none, .none⟩, ⟨"BUSY", 29, 29, .ro, false, 0, .none, .none⟩]⟩,
  ⟨"SEC_ATTREP", 0x301000, 169, 0x4, 1, 0x0, [⟨"REPORT", 31, 0, .ro, false, 0, .none, .none⟩]⟩,
  ⟨"SEC_IDCERT", 0x302000, 74, 0x4, 1, 0x0, [⟨"CERT", 31, 0, .ro, false, 0, .cold, .none⟩]⟩,
  ⟨"SEC_KEY", 0x303000, 32, 0x10, 1, 0x0, [⟨"KEYID", 63, 0, .ro, false, 0, .none, .none⟩]⟩,
  ⟨"SEC_KEYW2", 0x303008, 32, 0x10, 1, 0x0, [⟨"V", 31, 31, .ro, false, 0, .none, .none⟩, ⟨"DBGLEVEL", 25, 24, .ro, false, 0, .none, .none⟩, ⟨"ISSUER", 16, 16, .ro, false, 0, .none, .none⟩, ⟨"PURPOSE", 15, 0, .ro, false, 0, .none, .none⟩]⟩]

/-- Store registers (R435). -/
def nvmRegs : List RegRow := [
  ⟨"NVM_CTL", 0x308000, 1, 0x0, 1, 0x0, [⟨"GO", 31, 31, .wo, false, 0, .none, .row⟩, ⟨"AREA", 2, 0, .wo, false, 0, .none, .row⟩]⟩,
  ⟨"NVM_SRC", 0x308004, 1, 0x0, 1, 0x0, [⟨"ADDR", 24, 0, .rw, false, 0, .none, .none⟩]⟩,
  ⟨"NVM_LEN", 0x308008, 1, 0x0, 1, 0x0, [⟨"LEN", 31, 0, .rw, false, 0, .none, .none⟩]⟩,
  ⟨"NVM_STAT", 0x30800C, 1, 0x0, 1, 0x0, [⟨"BUSY", 31, 31, .ro, false, 0, .none, .none⟩, ⟨"DONE", 30, 30, .w1c, false, 0, .none, .none⟩, ⟨"TORN", 29, 29, .w1c, false, 0, .none, .none⟩, ⟨"CODE", 7, 0, .ro, false, 0, .none, .none⟩]⟩,
  ⟨"NVM_RDADDR", 0x308010, 1, 0x0, 1, 0x0, [⟨"ADDR", 22, 0, .rw, false, 0, .none, .none⟩]⟩,
  ⟨"NVM_RDDATA", 0x308014, 1, 0x0, 1, 0x0, [⟨"DATA", 31, 0, .ro, false, 0, .none, .row⟩]⟩,
  ⟨"NVM_AREA", 0x308040, 6, 0x4, 1, 0x0, [⟨"BANK", 31, 31, .ro, false, 0, .none, .none⟩, ⟨"VALID", 30, 30, .ro, false, 0, .none, .none⟩, ⟨"SEQ", 27, 0, .ro, false, 0, .none, .none⟩]⟩]

/-- Debug registers (R435). -/
def dbgRegs : List RegRow := [
  ⟨"DBG_STAT", 0x400000, 1, 0x0, 1, 0x0, [⟨"OPEN", 31, 31, .ro, false, 0, .none, .none⟩, ⟨"KEX", 30, 30, .ro, false, 0, .none, .none⟩, ⟨"LEVEL", 29, 28, .ro, false, 0, .none, .none⟩, ⟨"FULLSEEN", 27, 27, .ro, false, 0, .warm, .none⟩, ⟨"LOCKED", 26, 26, .ro, false, 0, .cold, .none⟩, ⟨"FAILS", 7, 0, .ro, false, 0, .cold, .none⟩]⟩,
  ⟨"DBG_CTL", 0x400004, 1, 0x0, 1, 0x0, [⟨"KILL", 0, 0, .wo, false, 0, .none, .row⟩]⟩,
  ⟨"DBG_HALT", 0x400008, 1, 0x0, 1, 0x0, [⟨"HALTED", 3, 0, .ro, false, 0, .none, .none⟩]⟩,
  ⟨"DBG_HFRZ", 0x40000C, 1, 0x0, 1, 0x0, [⟨"MASK", 5, 0, .ro, false, 62, .none, .none⟩]⟩,
  ⟨"DBG_BFRZ", 0x400010, 1, 0x0, 1, 0x0, [⟨"FRZ", 29, 0, .ro, false, 0, .none, .none⟩]⟩,
  ⟨"DBG_TFRZ", 0x400018, 1, 0x0, 1, 0x0, [⟨"FRZ", 63, 0, .ro, false, 0, .none, .none⟩]⟩,
  ⟨"DBG_TRCCTL", 0x400020, 1, 0x0, 1, 0x0, [⟨"EN", 31, 31, .ro, false, 0, .none, .none⟩, ⟨"STOP", 30, 30, .ro, false, 0, .none, .none⟩, ⟨"WRAPPED", 29, 29, .ro, false, 0, .none, .none⟩, ⟨"LEVEL", 12, 0, .ro, false, 0, .none, .none⟩]⟩]

/-- The rows of the block an offset lies in (the BAR0 block map of 00_scope). -/
def blockRows (off : Nat) : List RegRow :=
  if off < 0x100000 then hstRegs
  else if off < 0x140000 then rstRegs
  else if off < 0x180000 then pwrRegs
  else if off < 0x200000 then rstRegs
  else if off < 0x300000 then evtRegs
  else if off < 0x308000 then secRegs
  else if off < 0x400000 then nvmRegs
  else if off < 0x1000000 then dbgRegs
  else if off < 0x2000000 then seqRegs
  else if off < 0x2800000 then trfRegs
  else if off < 0x2840000 then mshRegs
  else if off < 0x3000000 then crdRegs
  else if off < 0x3010000 then hbmRegs
  else if off < 0x3020000 then stgRegs
  else if off < 0x3400000 then hbmRegs
  else if off < 0x3800000 then dmaRegs
  else if off < 0x3C00000 then fabRegs
  else if off < 0x3D00000 then kdlRegs
  else edgRegs

/-- The two indices at which a row's register starts at `off`, if it does. -/
def RegRow.indexOf (r : RegRow) (off : Nat) : Option (Nat × Nat) :=
  if off < r.off then none
  else
    let d := off - r.off
    let i := if r.s1 = 0 then 0 else d / r.s1
    let e := if r.s1 = 0 then d else d % r.s1
    let j := if r.s2 = 0 then 0 else e / r.s2
    let f := if r.s2 = 0 then e else e % r.s2
    if i < r.n1 ∧ j < r.n2 ∧ f = 0 then some (i, j) else none

/-- The register that starts at `off`, with its indices. -/
def findReg (off : Nat) : Option (RegRow × Nat × Nat) :=
  (blockRows off).findSome? (fun r => (r.indexOf off).map (fun ij => (r, ij.1, ij.2)))

/-- A 64-bit register holds a field above bit 31 (R4). -/
def RegRow.width (r : RegRow) : Nat :=
  if r.fields.any (fun f => 31 < f.hi) then 64 else 32

/-- The register a 32-bit word of BAR0 belongs to: its row, indices, start offset, and whether the word is the high half. -/
def findWord (off : Nat) : Option (RegRow × Nat × Nat × Nat × Bool) :=
  match findReg off with
  | some (r, i, j) => some (r, i, j, off, false)
  | none =>
    if off < 4 then none
    else match findReg (off - 4) with
      | some (r, i, j) => if r.width = 64 then some (r, i, j, off - 4, true) else none
      | none => none

/-- Die of turf `n` (R13). -/
def dieOfTurf (n : Nat) : Nat := 2 * (n / 32) + (n % 8) / 4

/-- Reset values that the fuses or the unit's own index give (R44, R333, R363, R435; log entry 4). -/
def fusedReset (start : Nat) (i : Nat) : Nat :=
  if start = 0x2000000 then 0x1000 * dieOfTurf i + i -- TRF_ID
  else if start = 0x0 then Config.revision.toNat -- HST_ID
  else if start = 0x3800018 then Config.serial.toNat -- FAB_SERIAL
  else if start = 0x300000 then (if Config.keyed then 0x80000000 else 0) -- SEC_STAT
  else if start = 0x300004 then 0x10000 * Config.fusedSvn.toNat -- SEC_SVN
  else if start = 0x302000 then (Config.identityCert i).toNat -- SEC_IDCERT
  else 0

/-- The reset value of the register at `off` (R6), 0 where none stands there (R5). -/
def resetValue (off : Nat) : BitVec 64 :=
  match findReg off with
  | some (r, i, _) =>
    BitVec.ofNat 64 (r.fields.foldl (fun a f => a + f.reset * 2 ^ f.lo) (fusedReset r.off i))
  | none => 0

end Sys2Proof.Machine
end

