-- ==== Sys2Proof/Machine/Fields.lean ====
section
/-!
DEFINITION. The register fields by name, `Reg.<REGISTER>_<FIELD>`, with the places the manual's register maps give
them. `i` is the first index of a register array (turf, sequencer, stack, channel, port), `j` the second.
-/
namespace Sys2Proof.Machine

def Reg.TRF_ID_DIE (i : Nat) : Field := ⟨0x2000000 + 0x4000 * i, 13, 12⟩
def Reg.TRF_ID_TURF (i : Nat) : Field := ⟨0x2000000 + 0x4000 * i, 5, 0⟩
def Reg.TRF_CFG_ASSIGNED (i : Nat) : Field := ⟨0x2000004 + 0x4000 * i, 31, 31⟩
def Reg.TRF_CFG_PART (i : Nat) : Field := ⟨0x2000004 + 0x4000 * i, 25, 24⟩
def Reg.TRF_CFG_MAXW (i : Nat) : Field := ⟨0x2000004 + 0x4000 * i, 18, 16⟩
def Reg.TRF_STATE_BURSTS (i : Nat) : Field := ⟨0x2000008 + 0x4000 * i, 22, 16⟩
def Reg.TRF_STATE_STATE (i : Nat) : Field := ⟨0x2000008 + 0x4000 * i, 3, 0⟩
def Reg.TRF_STEP_STEP (i : Nat) : Field := ⟨0x2000010 + 0x4000 * i, 63, 0⟩
def Reg.TRF_PACE_STEPS_STEPS (i : Nat) : Field := ⟨0x2000018 + 0x4000 * i, 63, 0⟩
def Reg.TRF_PACE_BUSY_BUSY (i : Nat) : Field := ⟨0x2000020 + 0x4000 * i, 63, 0⟩
def Reg.TRF_PACE_MIN_MINSTEPS (i : Nat) : Field := ⟨0x2000028 + 0x4000 * i, 15, 0⟩
def Reg.TRF_PACE_FLOOR_FLOOR (i : Nat) : Field := ⟨0x200002C + 0x4000 * i, 15, 0⟩
def Reg.TRF_PACE_CTL_CLR (i : Nat) : Field := ⟨0x2000030 + 0x4000 * i, 0, 0⟩
def Reg.TRF_ERR_FLOOR (i : Nat) : Field := ⟨0x2000034 + 0x4000 * i, 4, 4⟩
def Reg.TRF_ERR_STGCOL (i : Nat) : Field := ⟨0x2000034 + 0x4000 * i, 3, 3⟩
def Reg.TRF_ERR_WIDTH (i : Nat) : Field := ⟨0x2000034 + 0x4000 * i, 2, 2⟩
def Reg.TRF_ERR_DRAIL (i : Nat) : Field := ⟨0x2000034 + 0x4000 * i, 1, 1⟩
def Reg.TRF_ERR_PARITY (i : Nat) : Field := ⟨0x2000034 + 0x4000 * i, 0, 0⟩
def Reg.TRF_CONFLICT_EXTRA (i : Nat) : Field := ⟨0x2000038 + 0x4000 * i, 63, 0⟩
def Reg.TRF_STGCOL_COUNT (i : Nat) : Field := ⟨0x2000040 + 0x4000 * i, 15, 0⟩
def Reg.TRF_WIDTHERR_WIDTH (i : Nat) : Field := ⟨0x2000044 + 0x4000 * i, 18, 16⟩
def Reg.TRF_WIDTHERR_TILE (i : Nat) : Field := ⟨0x2000044 + 0x4000 * i, 9, 0⟩
def Reg.MSH_TOPO_WRAPH (i : Nat) : Field := ⟨0x2800000 + 0x4 * i, 1, 1⟩
def Reg.MSH_TOPO_WRAPV (i : Nat) : Field := ⟨0x2800000 + 0x4 * i, 0, 0⟩
def Reg.MSH_COST_HCOST (i : Nat) : Field := ⟨0x2800010 + 0x4 * i, 5, 4⟩
def Reg.MSH_COST_VCOST (i : Nat) : Field := ⟨0x2800010 + 0x4 * i, 1, 0⟩
def Reg.MSH_FENCE_TMO_TMO : Field := ⟨0x2800020, 15, 0⟩
def Reg.MSH_ERR_CORDMISS : Field := ⟨0x2800024, 4, 4⟩
def Reg.MSH_ERR_BADCMD : Field := ⟨0x2800024, 3, 3⟩
def Reg.MSH_ERR_NOPORT : Field := ⟨0x2800024, 2, 2⟩
def Reg.MSH_ERR_CRC : Field := ⟨0x2800024, 1, 1⟩
def Reg.MSH_ERR_DRAIL : Field := ⟨0x2800024, 0, 0⟩
def Reg.MSH_ERRTILE_VALID : Field := ⟨0x2800028, 31, 31⟩
def Reg.MSH_ERRTILE_KIND : Field := ⟨0x2800028, 18, 16⟩
def Reg.MSH_ERRTILE_PORT : Field := ⟨0x2800028, 14, 12⟩
def Reg.MSH_ERRTILE_TILE : Field := ⟨0x2800028, 9, 0⟩
def Reg.MSH_DROPS_COUNT : Field := ⟨0x280002C, 15, 0⟩
def Reg.MSH_FENCE_REQ (i : Nat) : Field := ⟨0x2800100 + 0x4 * i, 31, 31⟩
def Reg.MSH_FENCE_OWNER (i : Nat) : Field := ⟨0x2800100 + 0x4 * i, 30, 30⟩
def Reg.MSH_FENCE_FORCED (i : Nat) : Field := ⟨0x2800100 + 0x4 * i, 7, 7⟩
def Reg.MSH_FENCE_PHASE (i : Nat) : Field := ⟨0x2800100 + 0x4 * i, 2, 0⟩
def Reg.CRD_FRAME_FRAME (i : Nat) : Field := ⟨0x2840000 + 0x4 * i, 7, 0⟩
def Reg.CRD_MISS_COUNT : Field := ⟨0x2840010, 15, 0⟩
def Reg.CRD_SLOT_V (i j : Nat) : Field := ⟨0x2850000 + 0x200 * i + 0x4 * j, 31, 31⟩
def Reg.CRD_SLOT_FIRST (i j : Nat) : Field := ⟨0x2850000 + 0x200 * i + 0x4 * j, 30, 30⟩
def Reg.CRD_SLOT_LAST (i j : Nat) : Field := ⟨0x2850000 + 0x200 * i + 0x4 * j, 29, 29⟩
def Reg.CRD_SLOT_PART (i j : Nat) : Field := ⟨0x2850000 + 0x200 * i + 0x4 * j, 28, 27⟩
def Reg.CRD_SLOT_IN (i j : Nat) : Field := ⟨0x2850000 + 0x200 * i + 0x4 * j, 26, 24⟩
def Reg.CRD_SLOT_OUT (i j : Nat) : Field := ⟨0x2850000 + 0x200 * i + 0x4 * j, 22, 20⟩
def Reg.CRD_SLOT_FLOW (i j : Nat) : Field := ⟨0x2850000 + 0x200 * i + 0x4 * j, 11, 0⟩
def Reg.SEQ_CTL_CLRF (i : Nat) : Field := ⟨0x1000000 + 0x100000 * i, 2, 2⟩
def Reg.SEQ_CTL_STOP (i : Nat) : Field := ⟨0x1000000 + 0x100000 * i, 1, 1⟩
def Reg.SEQ_CTL_START (i : Nat) : Field := ⟨0x1000000 + 0x100000 * i, 0, 0⟩
def Reg.SEQ_STATE_RSVV (i : Nat) : Field := ⟨0x1000004 + 0x100000 * i, 17, 17⟩
def Reg.SEQ_STATE_FLC (i : Nat) : Field := ⟨0x1000004 + 0x100000 * i, 16, 16⟩
def Reg.SEQ_STATE_REPI (i : Nat) : Field := ⟨0x1000004 + 0x100000 * i, 9, 9⟩
def Reg.SEQ_STATE_REPACT (i : Nat) : Field := ⟨0x1000004 + 0x100000 * i, 8, 8⟩
def Reg.SEQ_STATE_STATE (i : Nat) : Field := ⟨0x1000004 + 0x100000 * i, 2, 0⟩
def Reg.SEQ_ENTRY_ENTRY (i : Nat) : Field := ⟨0x1000008 + 0x100000 * i, 19, 2⟩
def Reg.SEQ_PC_PC (i : Nat) : Field := ⟨0x100000C + 0x100000 * i, 19, 2⟩
def Reg.SEQ_FAULT_VALID (i : Nat) : Field := ⟨0x1000010 + 0x100000 * i, 31, 31⟩
def Reg.SEQ_FAULT_AOP (i : Nat) : Field := ⟨0x1000010 + 0x100000 * i, 25, 16⟩
def Reg.SEQ_FAULT_REASON (i : Nat) : Field := ⟨0x1000010 + 0x100000 * i, 10, 8⟩
def Reg.SEQ_FAULT_CODE (i : Nat) : Field := ⟨0x1000010 + 0x100000 * i, 7, 0⟩
def Reg.SEQ_FAULTPC_PC (i : Nat) : Field := ⟨0x1000014 + 0x100000 * i, 19, 2⟩
def Reg.SEQ_LEN_FLB (i : Nat) : Field := ⟨0x1000018 + 0x100000 * i, 29, 16⟩
def Reg.SEQ_LEN_FLA (i : Nat) : Field := ⟨0x1000018 + 0x100000 * i, 13, 0⟩
def Reg.SEQ_REPCNT_COUNT (i : Nat) : Field := ⟨0x100001C + 0x100000 * i, 31, 0⟩
def Reg.SEQ_RSV_VALID (i : Nat) : Field := ⟨0x1000020 + 0x100000 * i, 31, 31⟩
def Reg.SEQ_RSV_GRAN (i : Nat) : Field := ⟨0x1000020 + 0x100000 * i, 24, 6⟩
def Reg.SEQ_COLL_COUNT (i : Nat) : Field := ⟨0x1000024 + 0x100000 * i, 15, 0⟩
def Reg.SEQ_IVEC_VEC (i : Nat) : Field := ⟨0x1000028 + 0x100000 * i, 19, 2⟩
def Reg.SEQ_IVEC_IEN (i : Nat) : Field := ⟨0x1000028 + 0x100000 * i, 0, 0⟩
def Reg.SEQ_VIOL_VALID (i : Nat) : Field := ⟨0x100002C + 0x100000 * i, 31, 31⟩
def Reg.SEQ_VIOL_KIND (i : Nat) : Field := ⟨0x100002C + 0x100000 * i, 27, 24⟩
def Reg.SEQ_VIOL_ENG (i : Nat) : Field := ⟨0x100002C + 0x100000 * i, 16, 16⟩
def Reg.SEQ_VIOL_UNIT (i : Nat) : Field := ⟨0x100002C + 0x100000 * i, 9, 0⟩
def Reg.SEQ_NEXTSTEP_STEP (i : Nat) : Field := ⟨0x1000030 + 0x100000 * i, 63, 0⟩
def Reg.SEQ_JOBSTEP_STEP (i : Nat) : Field := ⟨0x1000038 + 0x100000 * i, 63, 0⟩
def Reg.SEQ_VIOLSTEP_STEP (i : Nat) : Field := ⟨0x1000040 + 0x100000 * i, 63, 0⟩
def Reg.SEQ_PADDR_VALUE (i j : Nat) : Field := ⟨0x1000100 + 0x100000 * i + 0x10 * j, 63, 0⟩
def Reg.SEQ_PDESC_VALUE (i j : Nat) : Field := ⟨0x1000108 + 0x100000 * i + 0x10 * j, 63, 0⟩
def Reg.HBM_CFG_PWROFF (i : Nat) : Field := ⟨0x3000000 + 0x1000 * i, 31, 31⟩
def Reg.HBM_CFG_RATE (i : Nat) : Field := ⟨0x3000000 + 0x1000 * i, 19, 18⟩
def Reg.HBM_CFG_TCR (i : Nat) : Field := ⟨0x3000000 + 0x1000 * i, 17, 17⟩
def Reg.HBM_CFG_SRDIS (i : Nat) : Field := ⟨0x3000000 + 0x1000 * i, 16, 16⟩
def Reg.HBM_CFG_SRIDLE (i : Nat) : Field := ⟨0x3000000 + 0x1000 * i, 15, 0⟩
def Reg.HBM_STAT_TEMP (i : Nat) : Field := ⟨0x3000004 + 0x1000 * i, 23, 16⟩
def Reg.HBM_STAT_RATE (i : Nat) : Field := ⟨0x3000004 + 0x1000 * i, 5, 4⟩
def Reg.HBM_STAT_STATE (i : Nat) : Field := ⟨0x3000004 + 0x1000 * i, 2, 0⟩
def Reg.HBM_ERR_TRAIN (i : Nat) : Field := ⟨0x3000008 + 0x1000 * i, 2, 2⟩
def Reg.HBM_ERR_LINK (i : Nat) : Field := ⟨0x3000008 + 0x1000 * i, 1, 1⟩
def Reg.HBM_ERR_DATA (i : Nat) : Field := ⟨0x3000008 + 0x1000 * i, 0, 0⟩
def Reg.HBM_DERRCNT_COUNT (i : Nat) : Field := ⟨0x300000C + 0x1000 * i, 15, 0⟩
def Reg.HBM_DERRADDR_VALID (i : Nat) : Field := ⟨0x3000010 + 0x1000 * i, 63, 63⟩
def Reg.HBM_DERRADDR_ADDR (i : Nat) : Field := ⟨0x3000010 + 0x1000 * i, 36, 0⟩
def Reg.HBM_CORRCNT_COUNT (i : Nat) : Field := ⟨0x3000018 + 0x1000 * i, 15, 0⟩
def Reg.HBM_CKPT_VALID (i : Nat) : Field := ⟨0x3020000 + 0x8 * i, 63, 63⟩
def Reg.HBM_CKPT_OFF (i : Nat) : Field := ⟨0x3020000 + 0x8 * i, 34, 0⟩
def Reg.STG_STAT_QDEPTH (i : Nat) : Field := ⟨0x3010000 + 0x1000 * i, 22, 16⟩
def Reg.STG_STAT_BUSY (i : Nat) : Field := ⟨0x3010000 + 0x1000 * i, 0, 0⟩
def Reg.STG_ERR_COLL (i : Nat) : Field := ⟨0x3010004 + 0x1000 * i, 2, 2⟩
def Reg.STG_ERR_REFUSE (i : Nat) : Field := ⟨0x3010004 + 0x1000 * i, 1, 1⟩
def Reg.STG_ERR_FAIL (i : Nat) : Field := ⟨0x3010004 + 0x1000 * i, 0, 0⟩
def Reg.STG_REFUSE_VALID (i : Nat) : Field := ⟨0x3010008 + 0x1000 * i, 31, 31⟩
def Reg.STG_REFUSE_PART (i : Nat) : Field := ⟨0x3010008 + 0x1000 * i, 17, 16⟩
def Reg.STG_REFUSE_CODE (i : Nat) : Field := ⟨0x3010008 + 0x1000 * i, 7, 0⟩
def Reg.STG_DONE_COUNT (i : Nat) : Field := ⟨0x301000C + 0x1000 * i, 31, 0⟩
def Reg.STG_COLL_COUNT (i : Nat) : Field := ⟨0x3010010 + 0x1000 * i, 15, 0⟩
def Reg.STG_WAIT_CYCLES (i : Nat) : Field := ⟨0x3010018 + 0x1000 * i, 63, 0⟩
def Reg.DMA_CTL_ABORT (i : Nat) : Field := ⟨0x3400000 + 0x40 * i, 1, 1⟩
def Reg.DMA_CTL_START (i : Nat) : Field := ⟨0x3400000 + 0x40 * i, 0, 0⟩
def Reg.DMA_STAT_ERR (i : Nat) : Field := ⟨0x3400004 + 0x40 * i, 11, 8⟩
def Reg.DMA_STAT_STATE (i : Nat) : Field := ⟨0x3400004 + 0x40 * i, 1, 0⟩
def Reg.DMA_HEAD_ADDR (i : Nat) : Field := ⟨0x3400008 + 0x40 * i, 63, 0⟩
def Reg.DMA_HSP_SPACE (i : Nat) : Field := ⟨0x3400010 + 0x40 * i, 2, 0⟩
def Reg.DMA_DONE_COUNT (i : Nat) : Field := ⟨0x3400014 + 0x40 * i, 31, 0⟩
def Reg.DMA_CUR_ADDR (i : Nat) : Field := ⟨0x3400018 + 0x40 * i, 63, 0⟩
def Reg.HST_SIFCTL_AUTO : Field := ⟨0x8000, 4, 4⟩
def Reg.HST_SIFCTL_ABORT : Field := ⟨0x8000, 3, 3⟩
def Reg.HST_SIFCTL_COMMIT : Field := ⟨0x8000, 2, 2⟩
def Reg.HST_SIFCTL_LOAD : Field := ⟨0x8000, 1, 1⟩
def Reg.HST_SIFSTAT_TARGET : Field := ⟨0x8004, 29, 24⟩
def Reg.HST_SIFSTAT_VER : Field := ⟨0x8004, 23, 20⟩
def Reg.HST_SIFSTAT_KIND : Field := ⟨0x8004, 19, 16⟩
def Reg.HST_SIFSTAT_DIRECT : Field := ⟨0x8004, 11, 11⟩
def Reg.HST_SIFSTAT_IGNW : Field := ⟨0x8004, 10, 10⟩
def Reg.HST_SIFSTAT_SHDISC : Field := ⟨0x8004, 9, 9⟩
def Reg.HST_SIFSTAT_EDGELOST : Field := ⟨0x8004, 8, 8⟩
def Reg.HST_SIFSTAT_STATE : Field := ⟨0x8004, 1, 0⟩
def Reg.HST_SIFERR_VALID : Field := ⟨0x8008, 31, 31⟩
def Reg.HST_SIFERR_SECT : Field := ⟨0x8008, 20, 16⟩
def Reg.HST_SIFERR_CODE : Field := ⟨0x8008, 7, 0⟩
def Reg.HST_SIFSRC_SPACE : Field := ⟨0x800C, 1, 0⟩
def Reg.HST_SIFADDR_ADDR : Field := ⟨0x8010, 63, 0⟩
def Reg.HST_SIFLEN_LEN : Field := ⟨0x8018, 31, 0⟩
def Reg.HST_SIFPEND_TYPES : Field := ⟨0x801C, 9, 1⟩
def Reg.HST_SIFID_ID : Field := ⟨0x8020, 31, 0⟩
def Reg.HST_SIFREV_REV : Field := ⟨0x8024, 31, 0⟩
def Reg.HST_WDRAW_TURF : Field := ⟨0x8028, 63, 0⟩
def Reg.HST_WRETURN_TURF : Field := ⟨0x8030, 63, 0⟩
def Reg.HST_SIFBOOT_CODEB : Field := ⟨0x8038, 23, 16⟩
def Reg.HST_SIFBOOT_CODEA : Field := ⟨0x8038, 15, 8⟩
def Reg.HST_SIFBOOT_SLOT : Field := ⟨0x8038, 1, 0⟩
def Reg.HST_SIFHASH_HASH (i : Nat) : Field := ⟨0x8040 + 0x4 * i, 31, 0⟩
def Reg.EDG_CTL_FREEZE : Field := ⟨0x3D00000, 0, 0⟩
def Reg.EDG_STAT_CLKRUN : Field := ⟨0x3D00004, 15, 8⟩
def Reg.EDG_STAT_STATE : Field := ⟨0x3D00004, 2, 0⟩
def Reg.EDG_ERR_CLKLOSS : Field := ⟨0x3D00008, 2, 2⟩
def Reg.EDG_ERR_RBABORT : Field := ⟨0x3D00008, 1, 1⟩
def Reg.EDG_ERR_PARITY : Field := ⟨0x3D00008, 0, 0⟩
def Reg.EDG_RBCTL_GO : Field := ⟨0x3D0000C, 31, 31⟩
def Reg.EDG_RBCTL_DONE : Field := ⟨0x3D0000C, 30, 30⟩
def Reg.EDG_RBCTL_CLK : Field := ⟨0x3D0000C, 18, 16⟩
def Reg.EDG_RBCTL_EDGES : Field := ⟨0x3D0000C, 15, 0⟩
def Reg.EDG_RBADDR_FRAME : Field := ⟨0x3D00010, 12, 5⟩
def Reg.EDG_RBADDR_WORD : Field := ⟨0x3D00010, 4, 0⟩
def Reg.EDG_RBDATA_DATA : Field := ⟨0x3D00014, 31, 0⟩
def Reg.EDG_EVMASK_EN : Field := ⟨0x3D00018, 31, 0⟩
def Reg.EDG_SPSTAT_FILL (i : Nat) : Field := ⟨0x3D00020 + 0x4 * i, 12, 0⟩
def Reg.EDG_BANKV_MV (i : Nat) : Field := ⟨0x3D00060 + 0x4 * i, 12, 0⟩
def Reg.KDL_ECTL_FREEZE (i : Nat) : Field := ⟨0x3C00000 + 0x40 * i, 3, 3⟩
def Reg.KDL_ECTL_CLEAN (i : Nat) : Field := ⟨0x3C00000 + 0x40 * i, 2, 2⟩
def Reg.KDL_ECTL_STOP (i : Nat) : Field := ⟨0x3C00000 + 0x40 * i, 1, 1⟩
def Reg.KDL_ECTL_START (i : Nat) : Field := ⟨0x3C00000 + 0x40 * i, 0, 0⟩
def Reg.KDL_ESTAT_ACTIVE (i : Nat) : Field := ⟨0x3C00004 + 0x40 * i, 13, 8⟩
def Reg.KDL_ESTAT_STATE (i : Nat) : Field := ⟨0x3C00004 + 0x40 * i, 1, 0⟩
def Reg.KDL_EERR_PARITY (i : Nat) : Field := ⟨0x3C00008 + 0x40 * i, 1, 1⟩
def Reg.KDL_EERR_CFGW (i : Nat) : Field := ⟨0x3C00008 + 0x40 * i, 0, 0⟩
def Reg.KDL_GSTART_ENG : Field := ⟨0x3C00100, 3, 0⟩
def Reg.KDL_TIME_KTIME : Field := ⟨0x3C00108, 63, 0⟩
def Reg.KDL_TCTL_AERR : Field := ⟨0x3C00110, 2, 2⟩
def Reg.KDL_TCTL_ALIGNED : Field := ⟨0x3C00110, 1, 1⟩
def Reg.KDL_TCTL_ALIGN : Field := ⟨0x3C00110, 0, 0⟩
def Reg.KDL_CCFG_EN (i : Nat) : Field := ⟨0x3C01000 + 0x40 * i, 31, 31⟩
def Reg.KDL_CCFG_QST (i : Nat) : Field := ⟨0x3C01000 + 0x40 * i, 26, 24⟩
def Reg.KDL_CCFG_QDIR (i : Nat) : Field := ⟨0x3C01000 + 0x40 * i, 23, 23⟩
def Reg.KDL_CCFG_ENTRY (i : Nat) : Field := ⟨0x3C01000 + 0x40 * i, 8, 0⟩
def Reg.KDL_CSHF_TXW (i : Nat) : Field := ⟨0x3C01004 + 0x40 * i, 29, 24⟩
def Reg.KDL_CSHF_RXW (i : Nat) : Field := ⟨0x3C01004 + 0x40 * i, 21, 16⟩
def Reg.KDL_CSHF_TXMSB (i : Nat) : Field := ⟨0x3C01004 + 0x40 * i, 1, 1⟩
def Reg.KDL_CSHF_RXMSB (i : Nat) : Field := ⟨0x3C01004 + 0x40 * i, 0, 0⟩
def Reg.KDL_CPACE_INC (i : Nat) : Field := ⟨0x3C01008 + 0x40 * i, 31, 0⟩
def Reg.KDL_CPARAM_PARAM (i : Nat) : Field := ⟨0x3C0100C + 0x40 * i, 31, 0⟩
def Reg.KDL_CST_RXLVL (i : Nat) : Field := ⟨0x3C01010 + 0x40 * i, 28, 24⟩
def Reg.KDL_CST_TXLVL (i : Nat) : Field := ⟨0x3C01010 + 0x40 * i, 20, 16⟩
def Reg.KDL_CST_LATCHED (i : Nat) : Field := ⟨0x3C01010 + 0x40 * i, 15, 15⟩
def Reg.KDL_CST_TICK (i : Nat) : Field := ⟨0x3C01010 + 0x40 * i, 14, 14⟩
def Reg.KDL_CST_STALE (i : Nat) : Field := ⟨0x3C01010 + 0x40 * i, 13, 13⟩
def Reg.KDL_CST_STALL (i : Nat) : Field := ⟨0x3C01010 + 0x40 * i, 12, 12⟩
def Reg.KDL_CST_PC (i : Nat) : Field := ⟨0x3C01010 + 0x40 * i, 8, 0⟩
def Reg.KDL_CA_VALUE (i : Nat) : Field := ⟨0x3C01014 + 0x40 * i, 31, 0⟩
def Reg.KDL_CB_VALUE (i : Nat) : Field := ⟨0x3C01018 + 0x40 * i, 31, 0⟩
def Reg.KDL_CTXS_VALUE (i : Nat) : Field := ⟨0x3C0101C + 0x40 * i, 31, 0⟩
def Reg.KDL_CRXS_VALUE (i : Nat) : Field := ⟨0x3C01020 + 0x40 * i, 31, 0⟩
def Reg.KDL_CSC_CNT (i : Nat) : Field := ⟨0x3C01024 + 0x40 * i, 31, 16⟩
def Reg.KDL_CSC_RXN (i : Nat) : Field := ⟨0x3C01024 + 0x40 * i, 13, 8⟩
def Reg.KDL_CSC_TXN (i : Nat) : Field := ⟨0x3C01024 + 0x40 * i, 5, 0⟩
def Reg.KDL_CTXQ_WORD (i : Nat) : Field := ⟨0x3C01028 + 0x40 * i, 31, 0⟩
def Reg.KDL_CRXQ_WORD (i : Nat) : Field := ⟨0x3C0102C + 0x40 * i, 31, 0⟩
def Reg.KDL_CERR_DROPS (i : Nat) : Field := ⟨0x3C01030 + 0x40 * i, 31, 16⟩
def Reg.KDL_CERR_TICKLOST (i : Nat) : Field := ⟨0x3C01030 + 0x40 * i, 2, 2⟩
def Reg.KDL_CERR_RXUNF (i : Nat) : Field := ⟨0x3C01030 + 0x40 * i, 1, 1⟩
def Reg.KDL_CERR_TXOVF (i : Nat) : Field := ⟨0x3C01030 + 0x40 * i, 0, 0⟩
def Reg.KDL_CLAST_VALUE (i : Nat) : Field := ⟨0x3C01034 + 0x40 * i, 31, 0⟩
def Reg.KDL_CEDGE_SLP (i : Nat) : Field := ⟨0x3C01038 + 0x40 * i, 31, 16⟩
def Reg.KDL_CEDGE_EDGE (i : Nat) : Field := ⟨0x3C01038 + 0x40 * i, 9, 8⟩
def Reg.KDL_CEDGE_LINE (i : Nat) : Field := ⟨0x3C01038 + 0x40 * i, 7, 0⟩
def Reg.KDL_PMEM_WORD (i j : Nat) : Field := ⟨0x3C08000 + 0x800 * i + 0x4 * j, 31, 0⟩
def Reg.HST_ID_DEVID : Field := ⟨0x0, 31, 16⟩
def Reg.HST_ID_REV : Field := ⟨0x0, 7, 0⟩
def Reg.HST_HIV_CHOSEN : Field := ⟨0x4, 15, 8⟩
def Reg.HST_HIV_OFFER : Field := ⟨0x4, 7, 0⟩
def Reg.HST_LINK_DEGR : Field := ⟨0x8, 8, 8⟩
def Reg.HST_LINK_SPEED : Field := ⟨0x8, 4, 2⟩
def Reg.HST_ERR_HIVW : Field := ⟨0xC, 2, 2⟩
def Reg.HST_ERR_IMEMW : Field := ⟨0xC, 1, 1⟩
def Reg.HST_ERR_PARTW : Field := ⟨0xC, 0, 0⟩
def Reg.HST_OWN_FN : Field := ⟨0x10, 11, 0⟩
def Reg.HST_B2WIN_BASE : Field := ⟨0x14, 10, 0⟩
def Reg.HST_VFWIN_SIZE (i : Nat) : Field := ⟨0x18 + 0x4 * i, 31, 16⟩
def Reg.HST_VFWIN_BASE (i : Nat) : Field := ⟨0x18 + 0x4 * i, 6, 0⟩
def Reg.HST_PTMCTL_NOPTM : Field := ⟨0x30, 17, 17⟩
def Reg.HST_PTMCTL_TRIG : Field := ⟨0x30, 16, 16⟩
def Reg.HST_PTMCTL_PERIOD : Field := ⟨0x30, 15, 0⟩
def Reg.HST_PTMT_T : Field := ⟨0x38, 63, 0⟩
def Reg.HST_PTMK_KTIME : Field := ⟨0x40, 63, 0⟩
def Reg.HST_RCTL_RSIZE (i : Nat) : Field := ⟨0x1000 + 0x40 * i, 5, 1⟩
def Reg.HST_RCTL_EN (i : Nat) : Field := ⟨0x1000 + 0x40 * i, 0, 0⟩
def Reg.HST_RBASE_ADDR (i : Nat) : Field := ⟨0x1008 + 0x40 * i, 63, 0⟩
def Reg.HST_CBASE_ADDR (i : Nat) : Field := ⟨0x1010 + 0x40 * i, 63, 0⟩
def Reg.HST_DB_TAIL (i : Nat) : Field := ⟨0x1018 + 0x40 * i, 15, 0⟩
def Reg.HST_RHEAD_HEAD (i : Nat) : Field := ⟨0x101C + 0x40 * i, 15, 0⟩
def Reg.HST_CHEAD_HEAD (i : Nat) : Field := ⟨0x1020 + 0x40 * i, 15, 0⟩
def Reg.HST_CTAIL_PHASE (i : Nat) : Field := ⟨0x1024 + 0x40 * i, 16, 16⟩
def Reg.HST_CTAIL_TAIL (i : Nat) : Field := ⟨0x1024 + 0x40 * i, 15, 0⟩
def Reg.HST_RMBOX_MBN (i : Nat) : Field := ⟨0x1028 + 0x40 * i, 26, 21⟩
def Reg.HST_RMBOX_MBADDR (i : Nat) : Field := ⟨0x1028 + 0x40 * i, 20, 6⟩
def Reg.HST_RERR_MBOX (i : Nat) : Field := ⟨0x102C + 0x40 * i, 3, 3⟩
def Reg.HST_RERR_DBRANGE (i : Nat) : Field := ⟨0x102C + 0x40 * i, 2, 2⟩
def Reg.HST_RERR_ALIGN (i : Nat) : Field := ⟨0x102C + 0x40 * i, 1, 1⟩
def Reg.HST_RERR_SIZE (i : Nat) : Field := ⟨0x102C + 0x40 * i, 0, 0⟩
def Reg.EVT_SRC_EN (i : Nat) : Field := ⟨0x200000 + 0x4 * i, 31, 31⟩
def Reg.EVT_SRC_FN (i : Nat) : Field := ⟨0x200000 + 0x4 * i, 30, 28⟩
def Reg.EVT_SRC_VEC (i : Nat) : Field := ⟨0x200000 + 0x4 * i, 27, 20⟩
def Reg.EVT_SRC_SEQ (i : Nat) : Field := ⟨0x200000 + 0x4 * i, 19, 16⟩
def Reg.EVT_SRC_WFLAG (i : Nat) : Field := ⟨0x200000 + 0x4 * i, 15, 8⟩
def Reg.EVT_PEND_PEND (i : Nat) : Field := ⟨0x201000 + 0x4 * i, 31, 0⟩
def Reg.EVT_SIEN_EN (i j : Nat) : Field := ⟨0x202000 + 0x20 * i + 0x4 * j, 31, 0⟩
def Reg.EVT_SMIR_EN (i : Nat) : Field := ⟨0x202100 + 0x4 * i, 31, 31⟩
def Reg.EVT_SMIR_ADDR (i : Nat) : Field := ⟨0x202100 + 0x4 * i, 20, 5⟩
def Reg.EVT_SFLAG_FLAG (i j : Nat) : Field := ⟨0x202200 + 0x20 * i + 0x4 * j, 31, 0⟩
def Reg.EVT_ERR_ROUTE : Field := ⟨0x202300, 0, 0⟩
def Reg.FAB_CTL_RCEN : Field := ⟨0x3800000, 3, 3⟩
def Reg.FAB_CTL_APPOINT : Field := ⟨0x3800000, 2, 2⟩
def Reg.FAB_CTL_CEN : Field := ⟨0x3800000, 1, 1⟩
def Reg.FAB_CTL_EN : Field := ⟨0x3800000, 0, 0⟩
def Reg.FAB_STAT_NOID : Field := ⟨0x3800004, 18, 18⟩
def Reg.FAB_STAT_ROOT : Field := ⟨0x3800004, 17, 17⟩
def Reg.FAB_STAT_IDV : Field := ⟨0x3800004, 16, 16⟩
def Reg.FAB_STAT_ID : Field := ⟨0x3800004, 15, 0⟩
def Reg.FAB_EPOCH_EPOCH : Field := ⟨0x3800008, 31, 0⟩
def Reg.FAB_ERR_RCMD : Field := ⟨0x380000C, 3, 3⟩
def Reg.FAB_ERR_COLL : Field := ⟨0x380000C, 2, 2⟩
def Reg.FAB_ERR_NOROUTE : Field := ⟨0x380000C, 1, 1⟩
def Reg.FAB_ERR_EPOCHDROP : Field := ⟨0x380000C, 0, 0⟩
def Reg.FAB_DROPS_COUNT : Field := ⟨0x3800010, 15, 0⟩
def Reg.FAB_CTMO_MS : Field := ⟨0x3800014, 15, 0⟩
def Reg.FAB_SERIAL_SERIAL : Field := ⟨0x3800018, 63, 0⟩
def Reg.FAB_ROOTSER_SERIAL : Field := ⟨0x3800020, 63, 0⟩
def Reg.FAB_RCNT_COUNT : Field := ⟨0x3800028, 63, 0⟩
def Reg.FAB_IDREQ_VALID : Field := ⟨0x3800030, 31, 31⟩
def Reg.FAB_IDREQ_ID : Field := ⟨0x3800030, 15, 0⟩
def Reg.FAB_PCTL_VMAX (i : Nat) : Field := ⟨0x3800100 + 0x40 * i, 10, 8⟩
def Reg.FAB_PCTL_EN (i : Nat) : Field := ⟨0x3800100 + 0x40 * i, 0, 0⟩
def Reg.FAB_PSTAT_REASON (i : Nat) : Field := ⟨0x3800104 + 0x40 * i, 19, 16⟩
def Reg.FAB_PSTAT_WRAP (i : Nat) : Field := ⟨0x3800104 + 0x40 * i, 12, 12⟩
def Reg.FAB_PSTAT_LANES (i : Nat) : Field := ⟨0x3800104 + 0x40 * i, 11, 10⟩
def Reg.FAB_PSTAT_RATE (i : Nat) : Field := ⟨0x3800104 + 0x40 * i, 9, 9⟩
def Reg.FAB_PSTAT_VER (i : Nat) : Field := ⟨0x3800104 + 0x40 * i, 7, 4⟩
def Reg.FAB_PSTAT_STATE (i : Nat) : Field := ⟨0x3800104 + 0x40 * i, 2, 0⟩
def Reg.FAB_PPEER_SERIAL (i : Nat) : Field := ⟨0x3800108 + 0x40 * i, 63, 0⟩
def Reg.FAB_PPID_PORT (i : Nat) : Field := ⟨0x3800110 + 0x40 * i, 22, 20⟩
def Reg.FAB_PPID_VALID (i : Nat) : Field := ⟨0x3800110 + 0x40 * i, 16, 16⟩
def Reg.FAB_PPID_ID (i : Nat) : Field := ⟨0x3800110 + 0x40 * i, 15, 0⟩
def Reg.FAB_PRETRY_COUNT (i : Nat) : Field := ⟨0x3800114 + 0x40 * i, 15, 0⟩
def Reg.FAB_PCRC_COUNT (i : Nat) : Field := ⟨0x3800118 + 0x40 * i, 15, 0⟩
def Reg.FAB_PERR_DOWN (i : Nat) : Field := ⟨0x380011C + 0x40 * i, 2, 2⟩
def Reg.FAB_PERR_VERSION (i : Nat) : Field := ⟨0x380011C + 0x40 * i, 1, 1⟩
def Reg.FAB_PERR_TRAIN (i : Nat) : Field := ⟨0x380011C + 0x40 * i, 0, 0⟩
def Reg.FAB_ROUTE_ENTRY (i : Nat) : Field := ⟨0x3840000 + 0x4 * i, 31, 0⟩
def Reg.RST_RECCTL_RBLIM : Field := ⟨0x180000, 7, 0⟩
def Reg.RST_RBREQ_PART : Field := ⟨0x180004, 3, 0⟩
def Reg.RST_RECSTAT_NORB (i : Nat) : Field := ⟨0x180010 + 0x4 * i, 31, 31⟩
def Reg.RST_RECSTAT_STATE (i : Nat) : Field := ⟨0x180010 + 0x4 * i, 1, 0⟩
def Reg.RST_SUBST_V (i : Nat) : Field := ⟨0x180020 + 0x4 * i, 31, 31⟩
def Reg.RST_SUBST_FROM (i : Nat) : Field := ⟨0x180020 + 0x4 * i, 13, 8⟩
def Reg.RST_SUBST_TO (i : Nat) : Field := ⟨0x180020 + 0x4 * i, 5, 0⟩
def Reg.RST_REPLAYS_COUNT (i : Nat) : Field := ⟨0x180040 + 0x8 * i, 63, 0⟩
def Reg.RST_ROLLBACKS_COUNT (i : Nat) : Field := ⟨0x180060 + 0x8 * i, 63, 0⟩
def Reg.RST_RECLOG_ENTRY : Field := ⟨0x180080, 63, 0⟩
def Reg.RST_RECLVL_OVF : Field := ⟨0x180088, 31, 31⟩
def Reg.RST_RECLVL_LEVEL : Field := ⟨0x180088, 6, 0⟩
def Reg.RST_MTCTL_GO : Field := ⟨0x180100, 31, 31⟩
def Reg.RST_MTCTL_MODE : Field := ⟨0x180100, 8, 8⟩
def Reg.RST_MTCTL_TURF : Field := ⟨0x180100, 5, 0⟩
def Reg.RST_REPAIR_APPLY : Field := ⟨0x180104, 31, 31⟩
def Reg.RST_REPAIR_RETIRE : Field := ⟨0x180104, 30, 30⟩
def Reg.RST_REPAIR_TILE : Field := ⟨0x180104, 25, 16⟩
def Reg.RST_REPAIR_COL : Field := ⟨0x180104, 5, 0⟩
def Reg.RST_REPST_VALID : Field := ⟨0x180108, 31, 31⟩
def Reg.RST_REPST_CODE : Field := ⟨0x180108, 1, 0⟩
def Reg.RST_MTST_BUSY (i : Nat) : Field := ⟨0x180200 + 0x4 * i, 31, 31⟩
def Reg.RST_MTST_DONE (i : Nat) : Field := ⟨0x180200 + 0x4 * i, 30, 30⟩
def Reg.RST_MTST_FAIL (i : Nat) : Field := ⟨0x180200 + 0x4 * i, 29, 29⟩
def Reg.RST_MTST_PSAVE (i : Nat) : Field := ⟨0x180200 + 0x4 * i, 28, 28⟩
def Reg.RST_MTST_MODE (i : Nat) : Field := ⟨0x180200 + 0x4 * i, 8, 8⟩
def Reg.RST_MTST_REF (i : Nat) : Field := ⟨0x180200 + 0x4 * i, 1, 0⟩
def Reg.RST_MTMAPLO_LO (i j : Nat) : Field := ⟨0x181000 + 0x100 * i + 0x10 * j, 31, 0⟩
def Reg.RST_MTMAPHI_HI (i j : Nat) : Field := ⟨0x181004 + 0x100 * i + 0x10 * j, 31, 0⟩
def Reg.RST_MTMAPC_COUNT (i j : Nat) : Field := ⟨0x181008 + 0x100 * i + 0x10 * j, 31, 16⟩
def Reg.RST_MTMAPC_PAR (i j : Nat) : Field := ⟨0x181008 + 0x100 * i + 0x10 * j, 1, 1⟩
def Reg.RST_MTMAPC_SPARE (i j : Nat) : Field := ⟨0x181008 + 0x100 * i + 0x10 * j, 0, 0⟩
def Reg.RST_RMAP_V (i : Nat) : Field := ⟨0x185000 + 0x4 * i, 31, 31⟩
def Reg.RST_RMAP_SRC (i : Nat) : Field := ⟨0x185000 + 0x4 * i, 30, 30⟩
def Reg.RST_RMAP_CONFLICT (i : Nat) : Field := ⟨0x185000 + 0x4 * i, 29, 29⟩
def Reg.RST_RMAP_RET (i : Nat) : Field := ⟨0x185000 + 0x4 * i, 28, 28⟩
def Reg.RST_RMAP_COL (i : Nat) : Field := ⟨0x185000 + 0x4 * i, 5, 0⟩
def Reg.RST_CTL_GO : Field := ⟨0x100000, 31, 31⟩
def Reg.RST_CTL_REACH : Field := ⟨0x100000, 18, 16⟩
def Reg.RST_CTL_TARGET : Field := ⟨0x100000, 7, 0⟩
def Reg.RST_STAT_LASTREACH : Field := ⟨0x100004, 22, 20⟩
def Reg.RST_STAT_LASTSRC : Field := ⟨0x100004, 15, 8⟩
def Reg.RST_STAT_PARTRST : Field := ⟨0x100004, 3, 0⟩
def Reg.RST_BOOT_READY : Field := ⟨0x100008, 31, 31⟩
def Reg.RST_BOOT_FWFAIL : Field := ⟨0x100008, 30, 30⟩
def Reg.RST_BOOT_FWSLOT : Field := ⟨0x100008, 29, 29⟩
def Reg.RST_BOOT_HBMFAIL : Field := ⟨0x100008, 23, 16⟩
def Reg.RST_BOOT_MS : Field := ⟨0x100008, 15, 0⟩
def Reg.RST_IDLETMO_TMO : Field := ⟨0x10000C, 15, 0⟩
def Reg.RST_OPTSTAT_COPY : Field := ⟨0x100010, 31, 30⟩
def Reg.RST_OPTSTAT_BAD1 : Field := ⟨0x100010, 29, 29⟩
def Reg.RST_OPTSTAT_BAD0 : Field := ⟨0x100010, 28, 28⟩
def Reg.RST_OPTSEQ_SEQ : Field := ⟨0x100014, 31, 0⟩
def Reg.RST_SEQDIS_DIS : Field := ⟨0x100018, 3, 0⟩
def Reg.RST_OPT_BYTES (i : Nat) : Field := ⟨0x100100 + 0x4 * i, 31, 0⟩
def Reg.RST_WDCFG_EN (i : Nat) : Field := ⟨0x100200 + 0x10 * i, 31, 31⟩
def Reg.RST_WDCFG_FRZ (i : Nat) : Field := ⟨0x100200 + 0x10 * i, 30, 30⟩
def Reg.RST_WDCFG_TIMEOUT (i : Nat) : Field := ⟨0x100200 + 0x10 * i, 15, 0⟩
def Reg.RST_WDCNT_REMAIN (i : Nat) : Field := ⟨0x100204 + 0x10 * i, 31, 0⟩
def Reg.RST_WDKICK_PART : Field := ⟨0x100240, 3, 0⟩
def Reg.RST_ASHCNT_COUNT (i : Nat) : Field := ⟨0x100300 + 0x4 * i, 15, 0⟩
def Reg.RST_ASHHEAD_WRAPPED : Field := ⟨0x100340, 31, 31⟩
def Reg.RST_ASHHEAD_NEWEST : Field := ⟨0x100340, 4, 0⟩
def Reg.RST_ASHCLR_CLR : Field := ⟨0x100344, 0, 0⟩
def Reg.RST_ASHTIME_MS : Field := ⟨0x100348, 39, 0⟩
def Reg.RST_ASHREC_RECORD (i j : Nat) : Field := ⟨0x100400 + 0x10 * i + 0x4 * j, 31, 0⟩
def Reg.PWR_STAT_REFLOSS : Field := ⟨0x140000, 2, 2⟩
def Reg.PWR_STAT_TRIPPED : Field := ⟨0x140000, 1, 1⟩
def Reg.PWR_STAT_TWARN : Field := ⟨0x140000, 0, 0⟩
def Reg.PWR_TURFOFF_OFF : Field := ⟨0x140008, 63, 0⟩
def Reg.PWR_TWARN_LIMIT : Field := ⟨0x140010, 7, 0⟩
def Reg.PWR_TEMP_PEAK (i : Nat) : Field := ⟨0x140020 + 0x4 * i, 15, 8⟩
def Reg.PWR_TEMP_NOW (i : Nat) : Field := ⟨0x140020 + 0x4 * i, 7, 0⟩
def Reg.PWR_INPUT_WATTS : Field := ⟨0x140040, 31, 16⟩
def Reg.PWR_INPUT_VIN : Field := ⟨0x140040, 15, 0⟩
def Reg.SEC_STAT_KEYED : Field := ⟨0x300000, 31, 31⟩
def Reg.SEC_STAT_FROOT : Field := ⟨0x300000, 30, 30⟩
def Reg.SEC_STAT_CROOT : Field := ⟨0x300000, 29, 29⟩
def Reg.SEC_STAT_ENGBUSY : Field := ⟨0x300000, 28, 28⟩
def Reg.SEC_STAT_FWSLOT : Field := ⟨0x300000, 0, 0⟩
def Reg.SEC_SVN_MIN : Field := ⟨0x300004, 31, 16⟩
def Reg.SEC_SVN_CUR : Field := ⟨0x300004, 15, 0⟩
def Reg.SEC_CTL_SVNBURN : Field := ⟨0x300008, 0, 0⟩
def Reg.SEC_NONCE_NONCE (i : Nat) : Field := ⟨0x300040 + 0x4 * i, 31, 0⟩
def Reg.SEC_ATTCTL_GO : Field := ⟨0x300080, 31, 31⟩
def Reg.SEC_ATTCTL_DONE : Field := ⟨0x300080, 30, 30⟩
def Reg.SEC_ATTCTL_BUSY : Field := ⟨0x300080, 29, 29⟩
def Reg.SEC_ATTREP_REPORT (i : Nat) : Field := ⟨0x301000 + 0x4 * i, 31, 0⟩
def Reg.SEC_IDCERT_CERT (i : Nat) : Field := ⟨0x302000 + 0x4 * i, 31, 0⟩
def Reg.SEC_KEY_KEYID (i : Nat) : Field := ⟨0x303000 + 0x10 * i, 63, 0⟩
def Reg.SEC_KEYW2_V (i : Nat) : Field := ⟨0x303008 + 0x10 * i, 31, 31⟩
def Reg.SEC_KEYW2_DBGLEVEL (i : Nat) : Field := ⟨0x303008 + 0x10 * i, 25, 24⟩
def Reg.SEC_KEYW2_ISSUER (i : Nat) : Field := ⟨0x303008 + 0x10 * i, 16, 16⟩
def Reg.SEC_KEYW2_PURPOSE (i : Nat) : Field := ⟨0x303008 + 0x10 * i, 15, 0⟩
def Reg.NVM_CTL_GO : Field := ⟨0x308000, 31, 31⟩
def Reg.NVM_CTL_AREA : Field := ⟨0x308000, 2, 0⟩
def Reg.NVM_SRC_ADDR : Field := ⟨0x308004, 24, 0⟩
def Reg.NVM_LEN_LEN : Field := ⟨0x308008, 31, 0⟩
def Reg.NVM_STAT_BUSY : Field := ⟨0x30800C, 31, 31⟩
def Reg.NVM_STAT_DONE : Field := ⟨0x30800C, 30, 30⟩
def Reg.NVM_STAT_TORN : Field := ⟨0x30800C, 29, 29⟩
def Reg.NVM_STAT_CODE : Field := ⟨0x30800C, 7, 0⟩
def Reg.NVM_RDADDR_ADDR : Field := ⟨0x308010, 22, 0⟩
def Reg.NVM_RDDATA_DATA : Field := ⟨0x308014, 31, 0⟩
def Reg.NVM_AREA_BANK (i : Nat) : Field := ⟨0x308040 + 0x4 * i, 31, 31⟩
def Reg.NVM_AREA_VALID (i : Nat) : Field := ⟨0x308040 + 0x4 * i, 30, 30⟩
def Reg.NVM_AREA_SEQ (i : Nat) : Field := ⟨0x308040 + 0x4 * i, 27, 0⟩
def Reg.DBG_STAT_OPEN : Field := ⟨0x400000, 31, 31⟩
def Reg.DBG_STAT_KEX : Field := ⟨0x400000, 30, 30⟩
def Reg.DBG_STAT_LEVEL : Field := ⟨0x400000, 29, 28⟩
def Reg.DBG_STAT_FULLSEEN : Field := ⟨0x400000, 27, 27⟩
def Reg.DBG_STAT_LOCKED : Field := ⟨0x400000, 26, 26⟩
def Reg.DBG_STAT_FAILS : Field := ⟨0x400000, 7, 0⟩
def Reg.DBG_CTL_KILL : Field := ⟨0x400004, 0, 0⟩
def Reg.DBG_HALT_HALTED : Field := ⟨0x400008, 3, 0⟩
def Reg.DBG_HFRZ_MASK : Field := ⟨0x40000C, 5, 0⟩
def Reg.DBG_BFRZ_FRZ : Field := ⟨0x400010, 29, 0⟩
def Reg.DBG_TFRZ_FRZ : Field := ⟨0x400018, 63, 0⟩
def Reg.DBG_TRCCTL_EN : Field := ⟨0x400020, 31, 31⟩
def Reg.DBG_TRCCTL_STOP : Field := ⟨0x400020, 30, 30⟩
def Reg.DBG_TRCCTL_WRAPPED : Field := ⟨0x400020, 29, 29⟩
def Reg.DBG_TRCCTL_LEVEL : Field := ⟨0x400020, 12, 0⟩

end Sys2Proof.Machine
end

