-- ==== Sys2Proof/Machine/Bits.lean ====
section
/-!
DEFINITION. Bits, bytes and bit-field helpers: fields of a register, little-endian words, and words built from bits.
-/
namespace Sys2Proof.Machine

/-- Bits `hi` to `lo` of `n`. -/
def bitsOf (n hi lo : Nat) : Nat := n / 2 ^ lo % 2 ^ (hi + 1 - lo)

/-- Bit `i` of `n` as a number. -/
def bitAt (n i : Nat) : Nat := n / 2 ^ i % 2

/-- The mask of bits `hi` to `lo` of a 64-bit register. -/
def fieldMask (hi lo : Nat) : W64 := BitVec.ofNat 64 ((2 ^ (hi + 1 - lo) - 1) * 2 ^ lo)

/-- Bits `hi` to `lo` of a register. -/
def getField (r : W64) (hi lo : Nat) : Nat := bitsOf r.toNat hi lo

/-- A register with bits `hi` to `lo` replaced by the low bits of `v`. -/
def setField (r : W64) (hi lo v : Nat) : W64 :=
  (r &&& ~~~(fieldMask hi lo)) ||| (BitVec.ofNat 64 (v * 2 ^ lo) &&& fieldMask hi lo)

/-- One or zero. -/
def bnat (b : Bool) : Nat := if b then 1 else 0

/-- The signed reading of the low `w` bits of `n`. -/
def signedOf (n w : Nat) : Int := if w = 0 then 0 else if 2 ^ (w - 1) ≤ n % 2 ^ w then (n % 2 ^ w : Nat) - (2 ^ w : Nat) else (n % 2 ^ w : Nat)

/-- The `w`-bit two's-complement encoding of an integer. -/
def encodeInt (v : Int) (w : Nat) : Nat := (v % (2 ^ w : Nat)).toNat

/-- The number whose bit `i` is `f i`, for `i < n`. -/
def natOfBits (n : Nat) (f : Nat → Bool) : Nat :=
  match n with
  | 0 => 0
  | n + 1 => natOfBits n f + (if f n then 2 ^ n else 0)

/-- The little-endian number of a list of bytes. -/
def leNat : List Byte → Nat
  | [] => 0
  | b :: bs => b.toNat + 256 * leNat bs

/-- The `n` little-endian bytes of a number. -/
def leBytes : Nat → Nat → List Byte
  | 0, _ => []
  | n + 1, v => BitVec.ofNat 8 v :: leBytes n (v / 256)

/-- Ceiling division. -/
def cdiv (a b : Nat) : Nat := (a + b - 1) / b

/-- The smallest `b` with `n ≤ 2 ^ b`. -/
def clog2 (n : Nat) : Nat := if n ≤ 1 then 0 else Nat.log2 (n - 1) + 1

/-- `v` with its low `b` bits in reverse order (R160). -/
def bitrev (b v : Nat) : Nat := v / 2 ^ b * 2 ^ b + natOfBits b (fun i => v.testBit (b - 1 - i))

/-- Bytes at `a` onwards of a byte memory whose unlisted addresses read 0 (log entry 3). -/
def readBytes (m : SMap Byte) (a : Nat) : Nat → List Byte
  | 0 => []
  | n + 1 => SMap.get 0 m a :: readBytes m (a + 1) n

/-- A byte memory with `bs` written at `a` onwards. -/
def writeBytes (m : SMap Byte) (a : Nat) : List Byte → SMap Byte
  | [] => m
  | b :: bs => writeBytes (SMap.put 0 m a b) (a + 1) bs

/-- A map updated at each of the keys `ks` to what `f` gives for the key. -/
def SMap.update {α : Type} [DecidableEq α] (d : Nat → α) (m : SMap α) (f : Nat → α) : List Nat → SMap α
  | [] => m
  | k :: ks => SMap.put (d k) (SMap.update d m f ks) k (f k)

end Sys2Proof.Machine
end

