-- ==== Sys2Proof/Machine/State.lean ====
section
/-!
DEFINITION. The state of the module as plain data, the reasons a step can stop, and the state right after the release
of a cold reset. Every BAR0 register is held once, in `State.regs`; what the manual gives no register stands in a
field of its own. INVENTORY.md lists the rule that names each piece.
-/
namespace Sys2Proof.Machine

/-- No command of this model faults: the module's own faults are states of the module (R172, R364). -/
inductive Fault where
  deriving DecidableEq, Repr

/-- Why a command was refused by the model. -/
inductive Refusal where
  /-- The model holds no meaning for the command yet; raised by Dispatch only, and safe. -/
  | notModelled (mnemonic : String)
  deriving DecidableEq, Repr

/-! ## Processing elements and partitions -/

/-- The registers of one PE (R10). -/
structure PeRegs where
  c : Bool
  f : Bool
  k : Bool
  n : Bool
  q : Bool
  s : Bool
  t : Bool
  e : BitVec 5
  deriving DecidableEq, Repr

/-- The PE registers after a partition reset (R10, R11). -/
def PeRegs.reset : PeRegs := ⟨false, false, true, false, false, false, false, 0⟩

/-- A step burst (R26): its nanoword, count, counters, broadcast word, bundle width code and the first step number of
the macro-instruction that issued it, with its AOP for SEQ_FAULT (R30); `rom` marks the steps of a routine of the ROM whose nanowords the
manual does not print, which takes effect at its last step (log entry 13). -/
structure Burst where
  nano : W256
  count : Nat
  fa : Nat
  fb : Nat
  fd : Nat
  ia : Int
  ib : Int
  id : Int
  bcast : W64
  width : Nat
  aop : Nat
  mfirst : Nat
  rom : Bool
  deriving DecidableEq, Repr

/-- A decoded operand specifier (R159). -/
inductive Spec where
  | abs (n : Nat)
  | ind (i : Nat) (d : Int)
  | idx (i j : Nat)
  | pre (i : Nat) (d : Int)
  | post (i : Nat) (d : Int)
  | modu (i : Nat) (d : Int)
  | rev (i : Nat) (d : Int)
  | imm (v : Int)
  deriving DecidableEq, Repr

/-- A floating-point format (R65). -/
structure Format where
  e : Nat
  p : Nat
  deriving DecidableEq, Repr

/-- The dispatch quantities of one array instruction (R206), resolved once at dispatch (R171): field start addresses
(`none` is the zero field Z, R47), lengths, and the parameters that travel in the specifiers (R166, R167). -/
structure Dispatch where
  aop : Nat
  kw : Nat
  x : Option Nat
  y : Option Nat
  z : Option Nat
  d : Option Nat
  lx : Nat
  ly : Nat
  ld : Nat
  la : Nat
  work : Nat
  param : W64
  dst : Nat
  sel : Nat
  inv : Bool
  emask : Nat
  cmask : Nat
  fz : Bool
  rm : Nat
  fmt : Format
  fmt2 : Format
  scale : Int
  pc : Nat
  deriving DecidableEq, Repr

/-- An open macro-instruction (R368): its dispatch quantities, its first step number and the step number after its
last, and its register snapshot slots, each with its parity bit (R369). -/
structure OpenMacro where
  disp : Dispatch
  first : Nat
  next : Nat
  snap : SMap PeRegs
  parity : SMap Bool
  deriving DecidableEq, Repr

/-- A Flue result on its way to the sequencer (R95): FLC, or the words of `dst`; its macro-instruction's first step number, and the step number
after its stream's last input step, 0 where no step was issued (R93, R100, R367). -/
structure FlueResult where
  first : Nat
  upto : Nat
  flc : Option Bool
  dst : Nat
  words : List W64
  failed : Bool
  deriving DecidableEq, Repr

/-- A Flue stream fed by single steps of a microroutine (R89, R96): the macro-instruction, mode, width, first input
step, last input step, digits taken, the word each bundle has supplied so far, whether its result is on its way to the sequencer, and whether it has been
marked failed (R105). -/
structure StepStream where
  mfirst : Nat
  mode : Nat
  k : Nat
  first : Nat
  last : Nat
  taken : Nat
  words : SMap Nat
  sent : Bool
  failed : Bool
  deriving DecidableEq, Repr

/-- A staging write that meets PE memory in step `due` (R25, R128): one memory row of a tile, and the engine, queue slot and segment it
belongs to, where a transfer is bound to its flow (R233, R237). -/
structure Landing where
  tile : Nat
  row : Nat
  bit : Nat
  data : W64
  src : Option (Nat × Nat × Nat)
  due : Nat
  deriving DecidableEq, Repr

/-- A partition's array side: the burst in the issue stage, on the Draught, and in the tiles' buffers (R26, R29),
the steps of the front burst already taken, whether array service has stopped (R30), the open macro-instructions
(R368), Flue results and streams (R95, R104), staging rows that have still to land, step numbers consumed (R31), the confirmation point
(R366), the first PEs of the memory rows that staging has written into fields of the ROM's instruction under way (log entry 13), and the Δ that
descriptors still to be accepted are given (R142, R149; log entry 19). -/
structure Part where
  issue : List Burst
  draught : List Burst
  buffer : List Burst
  taken : Nat
  stopped : Bool
  opened : List OpenMacro
  results : List FlueResult
  streams : List StepStream
  landing : List Landing
  step : Nat
  confirmed : Nat
  touched : List Nat
  shift : Nat
  deriving DecidableEq, Repr

/-- A partition after reset. -/
def Part.reset : Part := ⟨[], [], [], 0, false, [], [], [], [], 0, 0, [], 0⟩

/-! ## Sequencers -/

/-- Scalar status Z, N, C, V (R156, R186). -/
structure Sst where
  z : Bool
  n : Bool
  c : Bool
  v : Bool
  deriving DecidableEq, Repr

/-- A result not yet written (R192): the destination bytes, the SST it will set (MULW, DIVU, DIVS), and for the FPU
the exceptions raised, the CC it will write (FCMP) and the record it would leave (R202). -/
structure Outstanding where
  fp : Bool
  dst : Nat
  bytes : List Byte
  sst : Option Sst
  cc : Option (BitVec 4)
  exc : BitVec 5
  unit0 : W32
  unit1 : W32
  pc : Nat
  deriving DecidableEq, Repr

/-- An open loop level of a microroutine (R209): remaining passes, first microword of the body, continuation, passes
completed. -/
structure MicroLoop where
  left : Nat
  body : Nat
  target : Nat
  passes : Nat
  deriving DecidableEq, Repr

/-- A microroutine under way (R206-R209): the dispatch quantities, the next
microaddress, the saved microaddress, the open loop levels (innermost first), the counters that "Continue" takes up (`none`
where the field is Z, R47) with their increments, the macro-instruction's first step number, the bytes of the instruction's units, whether a replay issues it again after its
instruction had retired (R371), the bursts it has still to hand to the issue stage, one at a time (R29, R171), whether it ends with the last of
them, and the pointer updates that take effect then. A routine of the ROM whose microwords the manual does not print is its bursts alone. -/
structure Micro where
  disp : Dispatch
  uaddr : Nat
  saved : Option Nat
  loops : List MicroLoop
  fa : Option Nat
  fb : Option Nat
  fd : Option Nat
  ia : Int
  ib : Int
  id : Int
  first : Nat
  size : Nat
  again : Bool
  todo : List Burst
  ends : Bool
  upd : List (Spec × Nat)
  deriving DecidableEq, Repr

/-- An open job (R155, R182, R321): replays and rollbacks so far, and whether a violation that affects results was
raised in it. -/
structure Job where
  replays : Nat
  rollbacks : Nat
  broken : Bool
  deriving DecidableEq, Repr

/-- The four words of a staging descriptor (R226). -/
structure StgDesc where
  q0 : W64
  q1 : W64
  q2 : W64
  q3 : W64
  deriving DecidableEq, Repr

/-- A checkpoint under way (R239): its descriptor, the engine whose queue it entered, whether that engine has accepted it, whether its parts are
written, and whether it has been started again once (R376). -/
structure Ckpt where
  desc : StgDesc
  eng : Nat
  accepted : Bool
  written : Bool
  again : Bool
  deriving DecidableEq, Repr

/-- The sequencer state that a checkpoint holds (R239): next step number, turf mask, BIT0, L, PC, pointer addresses and
descriptors, FLA, FLB, SST, FLC, FSR, the REP state and IEN; and the header in which each die's part holds it, whose layout the manual does not
give (log entry 20). `shift` is the model's own: the Δ by which the partition then ran behind its fault-free step count (R150). -/
structure SavedSeq where
  step : Nat
  turfs : List Nat
  bit0 : Nat
  len : Nat
  pc : Nat
  ptrs : List (Nat × Nat)
  fla : Nat
  flb : Nat
  sst : Sst
  flc : Nat
  fsr : W64
  rep : Bool
  repi : Bool
  repcnt : Nat
  ien : Nat
  header : List Byte
  shift : Nat
  deriving DecidableEq, Repr

/-- A sequencer's state outside its registers (R156, R192, R194, R202, R206, R219, R430); `expander` holds the AOP of a refused burst until
the next instruction boundary (R30). -/
structure Seq where
  sst : Sst
  fsr : W64
  tra : W64
  trb : W64
  outstanding : List Outstanding
  micro : Option Micro
  job : Option Job
  waiting : Option Nat
  stopReq : Bool
  haltReq : Bool
  left : Option Nat
  mirrorDirty : Bool
  disabled : Bool
  checked : List Nat
  offer : Option StgDesc
  ckpt : Option Ckpt
  expander : Option Nat
  deriving DecidableEq, Repr

/-- A sequencer after a partition reset (R156, R194). -/
def Seq.reset : Seq := ⟨⟨false, false, false, false⟩, 0, 0, 0, [], none, none, none, false, false, none, false, false, [], none, none, none⟩

/-- The microcode stores of one sequencer that a patch fills (R204, R212-R215): dispatch entries that differ from the
ROM default, match registers, patch microwords and nanowords, and the container's hash. -/
structure Patch where
  dispatch : SMap W32
  hits : List W32
  micro : List W32
  nano : List W256
  hash : BitVec 512
  id : W32
  rev : W32
  deriving DecidableEq, Repr

/-- No patch in force. -/
def Patch.reset : Patch := ⟨[], [], [], [], 0, 0, 0⟩

/-! ## Job rings and the PCIe endpoint -/

/-- A completion not yet written (R321). -/
structure Completion where
  token : W64
  first : W64
  last : W64
  contract : Bool
  failed : Bool
  vkind : Nat
  fault : Nat
  replays : Nat
  rollbacks : Nat
  deriving DecidableEq, Repr

/-- A ring's state outside its registers (R318-R321): whether it has been enabled since its registers were last reset,
the values taken at the enable, the current doorbell value, the index of the next entry to fetch, a fetched entry that
waits for a mailbox slot, the entry address of a launch that waits for the sequencer, the entries delivered, the tokens
in the occupied slots (oldest first) and the completions held. -/
structure Ring where
  ready : Bool
  rsize : Nat
  rbase : Nat
  cbase : Nat
  mbn : Nat
  mbaddr : Nat
  tail : Nat
  fetched : Nat
  entry : Option (List Byte)
  launch : Option Nat
  delivered : Nat
  slots : List W64
  held : List Completion
  deriving DecidableEq, Repr

/-- A ring never enabled. -/
def Ring.reset : Ring := ⟨false, 0, 0, 0, 0, 0, 0, 0, none, none, 0, [], []⟩

/-- The configuration-space state of the endpoint that the BAR0 registers do not hold (R306, R309, R325, R331): VF
Enable, NumVFs, PTM Enable, the size of PF BAR2 as a power of two, the functions in D3hot, those whose MSI-X function mask is set, whether the
link has been in L0, whether a PTM dialog is under way, the words of the MSI-X tables, the messages held in the PBA, and the messages that wait
for the wait-flag images of the sequencers named to be written (R315, R330). -/
structure Endpoint where
  vfEnable : Bool
  numVfs : Nat
  ptmEnable : Bool
  bar2 : Nat
  d3hot : BitVec 5
  fnMask : BitVec 5
  linkUp : Bool
  dialog : Bool
  msix : SMap W32
  pba : List (Nat × Nat)
  after : List (Nat × Nat × List Nat)
  deriving DecidableEq, Repr

/-- The endpoint after a conventional reset (log entry 11). -/
def Endpoint.reset : Endpoint := ⟨false, 0, false, 28, 0, 0, false, false, [], [], []⟩

/-! ## Mesh, fences and staging -/

/-- Where the data of a reserved flow stands at its end (R118, R128): the data flits left of the packet in progress, its bit
address and row, the next segment, and whether a flit of it was poisoned, so that the rest is discarded (R132). -/
structure FlowRx where
  left : Nat
  bit0 : Nat
  row0 : Nat
  seg : Nat
  bad : Bool
  deriving DecidableEq, Repr

/-- A flow of which nothing has come. -/
def FlowRx.reset : FlowRx := ⟨0, 0, 0, 0, false⟩

/-- A reserved flit on its way to a router (R128): tile and input port, partition and flow, the step in which it is taken,
content, and whether it is poisoned (R132). -/
structure LinkFlit where
  tile : Nat
  port : Nat
  part : Nat
  flow : Nat
  due : Nat
  flit : W256
  bad : Bool
  deriving DecidableEq, Repr

/-- A best-effort flit in the mesh: its packet, and its place in it, 0 for the header (R117). -/
structure MeshFlit where
  pkt : Packet
  idx : Nat
  deriving DecidableEq, Repr

/-- Who holds an output channel (R122): the input port, and the packet whose flits pass. -/
structure Holder where
  port : Nat
  pkt : Packet
  deriving DecidableEq, Repr

/-- An RDATA that a T port sends (R116, R119): the packet as it stands in the mesh, its data flits 0, the ADDR of its READ, and the data flits as
the port has read them, each in the beat in which it sent it. -/
structure Reply where
  pkt : Packet
  addr : Nat
  data : List W256
  deriving DecidableEq, Repr

/-- The virtual channels of the mesh (R121, R122). A channel is router · 32 + port · 4 + class. The packets that have been taken in, the
flits that have still to enter at a port, the queue of each input channel, the credits of each output channel, 4 after reset, the credits on
their way back with the beats they still take, who holds each output channel, where the round robins stand (for an output
channel the input, for an output port the class), the packets that have left the mesh and whose command has still to come, the data flits
of the packets under way that a T port has taken, so that their rows have met PE memory there (R116), the requests whose response has still to come, for which the port named has kept
room: tile, port, TAG (R125), the packets that the gateway put in at an H port (R123, R353), those sent to an endpoint that had closed (R133), and
the answers of T ports to READs. -/
structure Net where
  known : List Packet
  entering : SMap (List MeshFlit)
  queues : SMap (List MeshFlit)
  credits : SMap Nat
  returning : List (Nat × Nat)
  owner : SMap (Option Holder)
  nextIn : SMap Nat
  nextClass : SMap Nat
  arrived : List Packet
  landed : List MeshFlit
  rooms : List (Nat × Nat × Nat)
  gated : List Packet
  late : List Packet
  replies : List Reply
  deriving DecidableEq, Repr

/-- The mesh after reset. -/
def Net.reset : Net := ⟨[], [], [], [], [], [], [], [], [], [], [], [], [], []⟩

/-- Who holds a fence (R136), and the fence step once picked (R133). -/
structure Fence where
  host : Bool
  loader : Bool
  wdraw : Bool
  reset : Bool
  step : Option Nat
  deriving DecidableEq, Repr

/-- A fence nobody holds. -/
def Fence.open : Fence := ⟨false, false, false, false, none⟩

/-- An accepted staging transfer (R225-R237): its queue slot, descriptor, partition, the segments each tile has moved in its
Cord slots, the step from which each tile's next slot is looked for, the packets begun, the segments discarded under R25, the flits of four
segments to be sent again, the data flits left of each tile's resent packet, and the segments that those flits are to bring (R237), the words
collected from the PEs, whether it has failed, the Δ it was given (R371), the step number after the last in which one of its flits reached
its end (R146), the tiles of an OUT transfer whose arm order has not come (R234), and whether a flit of it was poisoned (R132). -/
structure Transfer where
  slot : Nat
  desc : StgDesc
  part : Nat
  sent : SMap Nat
  from_ : SMap Nat
  packets : Nat
  lost : List (Nat × Nat)
  resend : List (Nat × Nat)
  left : SMap Nat
  mask : List (Nat × Nat)
  got : SMap W64
  failed : Bool
  delta : Nat
  last : Nat
  unarmed : List Nat
  poisoned : Bool
  deriving DecidableEq, Repr

/-! ## The edge fabric (R268-R286) -/

/-- The edge fabric outside its registers: whether a configuration stands and the bytes of its frames (frame address times
128 plus the byte), a parity error found (R364), the global clocks that have lost their source (R272), the bytes of the bank records in force, an armed capture's clock and
edges, whether it is due behind a freeze (R276, R277), the read-back buffer, and the bytes in each stream port's buffer
(R283). The design's own state: flip-flop `f` of cell `c` at 2c + f (R269), the switch-box registers (R271), the bits of the block memories
in bytes, 4,608 for each (R273), the read outputs of port `b` of memory `m` at 2m + b (R274), the Hearth cycles since each global clock's
last edge (R272), the levels it drives on pins (R282), EV lines (R284) and EK lines (R285), and those of the EK lines before its last Hearth
cycle; the levels that the outside drives on pins (R282), and where the D-PHY lanes stand: what a lane detects, 0 LP-11, 1 the high-speed entry, 2
high speed, 3 ULPS, and its last byte; at 16 + a port its clock lane, with the periods of it since the last edge of the divided clock (R272, R280). -/
structure Edge where
  loaded : Bool
  config : SMap Byte
  parityBad : Bool
  lost : BitVec 8
  banks : List Byte
  armed : Option (Nat × Nat)
  due : Bool
  buffer : SMap Byte
  ports : SMap (List Byte)
  ffs : SMap Bool
  hops : SMap Bool
  bram : SMap Byte
  outs : SMap Nat
  phase : SMap Nat
  pins : BitVec 144
  ev : BitVec 32
  ek : BitVec 32
  ekWas : BitVec 32
  inputs : BitVec 144
  lanes : SMap (Nat × Nat)
  deriving DecidableEq, Repr

/-- An empty edge fabric with inert pins (R261, R286). -/
def Edge.reset : Edge := ⟨false, [], false, 0, [], none, false, [], [], [], [], [], [], [], 0, 0, 0, 0, 0, []⟩

/-! ## Kindling engines (R287-R305) -/

/-- A Kindling channel outside its registers: its queues (R295), the latched time (R298), the divider's phase (R297), the values it last
wrote to the KE lines (R289). -/
structure KChan where
  tx : List W32
  rx : List W32
  latched : W64
  phase : Nat
  ke : BitVec 32
  deriving DecidableEq, Repr

/-- A channel after reset. -/
def KChan.reset : KChan := ⟨[], [], 0, 0, 0⟩

/-- A Kindling engine outside its registers: its active channels in the order of their turns from now on (R287), whether it runs again
when FREEZE clears, and whether a start waits for that (R302, R303). -/
structure KEng where
  turns : List Nat
  resume : Bool
  start : Bool
  deriving DecidableEq, Repr

/-- A stopped engine. -/
def KEng.reset : KEng := ⟨[], false, false⟩

/-- The Kindling engines: channels, engines, a requested KTIME alignment (R299), levels and directions of the pins that channels own
(R282, R290), and the program words whose parity is wrong, 512 for each engine (R303). -/
structure Kindling where
  chans : SMap KChan
  engs : SMap KEng
  align : Bool
  pinOut : BitVec 144
  pinDir : BitVec 144
  bad : List Nat
  deriving DecidableEq, Repr

/-- The engines after a cold reset. -/
def Kindling.reset : Kindling := ⟨[], [], false, 0, 0, []⟩

/-! ## The fabric (R335-R360) -/

/-- A message of the link protocol as the module sends it; the manual gives their content and not their layout. -/
inductive LinkMsg where
  | cap (m : CapMsg)
  | retry (seq : Nat)
  | key (appointed : Bool) (serial : W64)
  | heartbeat
  | parentMap (epoch : W32) (root : W64) (ids : List (W64 × BitVec 16)) (edges : List TreeEdge)
  | ready (serial : W64)
  | epoch (value : Nat)
  deriving DecidableEq, Repr

/-- A flit waiting to be sent: virtual channel, tag bits HEAD and TAIL, content (R337, R339). -/
structure TxFlit where
  vc : Nat
  head : Bool
  tail : Bool
  flit : W256
  deriving DecidableEq, Repr

/-- A fabric port's link state (R338, R339): next SEQ to send, frames not acknowledged, credits of each virtual channel,
flits waiting; the SEQ expected, whether frames are being discarded until it comes, the flits of packets not yet whole
in each virtual channel, the flits removed since the last frame; the SEQ of the last retry and how often it was named; whether a cable is present (R442). -/
structure Port where
  txSeq : Nat
  unacked : List Frame
  credits : List Nat
  queue : List TxFlit
  rxSeq : Nat
  discarding : Bool
  rx : SMap (List W256)
  removed : List Nat
  retrySeq : Nat
  retries : Nat
  cable : Bool
  deriving DecidableEq, Repr

/-- A port before its link becomes active (R339). -/
def Port.reset : Port := ⟨0, [], [96, 96, 96, 96, 96, 96, 96, 96], [], 0, false, [], [0, 0, 0, 0, 0, 0, 0, 0], 0, 0, true⟩

/-- What the gateway keeps of a remote request (R353). -/
structure GwEntry where
  src : Nat
  sport : Nat
  sfab : Nat
  tag : Nat
  deriving DecidableEq, Repr

/-- A packet at the module that the fabric router has still to forward (R351): the port it came from, its dateline bit. -/
structure FabArrival where
  port : Option Nat
  dl : Bool
  pkt : Packet
  deriving DecidableEq, Repr

/-- A member of a collective in this module (R356): partition and the addresses of its descriptor. -/
structure CollMember where
  part : Nat
  res : Bool
  dst : Nat
  stat : Nat
  deriving DecidableEq, Repr

/-- A collective context (R357): what has been combined, its local members, the ports partials came from, and the headers of the partial last sent to
the parent, which is outstanding until it is acknowledged. -/
structure CollCtx where
  cid : W32
  op : Nat
  width : Nat
  nmem : Nat
  count : Nat
  value : Nat
  members : List CollMember
  children : List Nat
  sent : List W256
  deriving DecidableEq, Repr

/-- A remote command whose signature is being verified, or, `done`, one that acts once its WACK has left (R360). -/
structure Rcmd where
  counter : W64
  op : Nat
  arg : W64
  reply : Packet
  done : Bool
  deriving DecidableEq, Repr

/-- The fabric outside its registers and ports (R344-R360): static mode, the smallest key seen and its port, the parent
port, the inactive route bank with its epoch and parent and the modules of its map, the epoch whose switch waits for the port queues (R347), the modules that
reported READY, packets awaiting the router and the gateway, requests the gateway holds, its entries, collective contexts, the remote
command under verification, and the bytes of the ROUTE section in effect (R361). -/
structure Fabric where
  static : Bool
  keyAppointed : Bool
  keySerial : W64
  keySeen : Bool
  parent : Option Nat
  bank : SMap W32
  bankEpoch : Option Nat
  bankParent : Option Nat
  mapped : List W64
  draining : Option Nat
  ready : List W64
  arrivals : List FabArrival
  inbound : List Packet
  held : List Packet
  entries : SMap (Option GwEntry)
  coll : List CollCtx
  rcmd : Option Rcmd
  route : List Byte
  deriving DecidableEq, Repr

/-- The fabric's reset state: discovered mode (R344). -/
def Fabric.reset : Fabric := ⟨false, false, 0, false, none, [], none, none, [], none, [], [], [], [], [], [], none, []⟩

/-! ## Recovery (R364-R387) -/

/-- A recovery of a partition under way (R371, R372): the fault, the action (1 replay, 2 rollback, 3 partition reset), its
stage (0 reported, 1 the checkpoint restored, 2 restarted, its window open, 3 a replay whose window has closed before it has issued all again), the
macro-instructions still to be issued again in order, the microroutine that the fault cut short, the step number of the restart, and whether its
record carries ESC. -/
structure Recovery where
  fault : FaultInfo
  action : Nat
  stage : Nat
  todo : List OpenMacro
  unfinished : Option Micro
  sr : Nat
  esc : Bool
  deriving DecidableEq, Repr

/-- A march test under way (R382): its mode and the state the turf returns to. -/
structure March where
  preserving : Bool
  back : Nat
  deriving DecidableEq, Repr

/-! ## The loader (R246-R266) -/

/-- A load under way (R257, R261, R262): the bytes of the image, AUTO, and what the targets return to:
turfs with their states, the edge fabric's state, the bank records, the fabric with its flip-flops and memories. -/
structure Loader where
  image : List Byte
  auto : Bool
  turfs : List (Nat × Nat)
  edge : Nat
  banks : List Byte
  design : Edge
  deriving DecidableEq, Repr

/-! ## Security, the store and debug (R412-R433) -/

/-- A STORE under way (R420): area, store offset and bytes of the bank or copy it writes, and the certificate it adds or revokes. -/
structure StoreJob where
  area : Nat
  off : Nat
  bytes : List Byte
  cert : List Byte
  deriving DecidableEq, Repr

/-- Security state outside its registers (R412-R420): installed certificates by slot, revoked KEYIDs, the unsigned part of an
attestation report under way, a STORE under way, SHA-512 of the firmware container in effect, and the store offsets of banks that a cut
STORE left torn (R420). -/
structure Sec where
  certs : SMap (List Byte)
  revoked : List Nat
  report : Option (List Byte)
  store : Option StoreJob
  fwHash : BitVec 512
  torn : List Nat
  deriving DecidableEq, Repr

/-- Security state before boot. -/
def Sec.reset : Sec := ⟨[], [], none, none, 0, []⟩

/-- A key exchange under way (R425): the certificate, the debugger's ephemeral key, the requested level, the device's answer, the session key
that it yields. -/
structure Kex where
  cert : List Byte
  key : List Byte
  level : Nat
  answer : List Byte
  secret : List Byte
  deriving DecidableEq, Repr

/-- The debug master outside its registers (R424-R433): a key exchange under way, the session key and the frames of a key-exchange
session so far, the freezes that halts have set (turfs, blocks) and the block freezes that the session set itself, the trace ring. -/
structure Debug where
  kex : Option Kex
  key : List Byte
  frames : W64
  turfs : W64
  blocks : Nat
  own : Nat
  trace : List (BitVec 128)
  deriving DecidableEq, Repr

/-- No session. -/
def Debug.reset : Debug := ⟨none, [], 0, 0, 0, 0, []⟩

/-! ## The reset controller (R388-R398) -/

/-- A reset asserted on a target: the largest reach and its source (R391), whether the target is idle (R394), and the index of its
cause record. -/
structure Pending where
  reach : Nat
  src : Nat
  idle : Bool
  record : Option Nat
  deriving DecidableEq, Repr

/-- The reset controller (R389-R397): the level sources still asserted, the module reset, the partition and block resets by target code
(partitions 0-3, blocks 256 + code), REFCLK present, the thermal hold, the reach and source of a boot in progress, whether the
temperature warning has been raised and not armed again, and the last readings of the junction sensors (R396). -/
structure ResetCtl where
  levels : List Nat
  module : Option Pending
  targets : SMap (Option Pending)
  refclk : Bool
  hold : Bool
  boot : Option (Nat × Nat)
  warned : Bool
  temps : SMap Nat
  deriving DecidableEq, Repr

/-- The controller right after the release of a cold reset that POWERON asserted: boot is in progress. -/
def ResetCtl.reset : ResetCtl := ⟨[], none, [], true, false, some (4, 1), false, []⟩

/-! ## What leaves the machine -/

/-- What the machine has sent outside, oldest first (log entry 7). -/
inductive Out where
  /-- An MSI-X message (R325). -/
  | msix (fn vec : Nat)
  /-- A write to host memory, and whether it carries Relaxed Ordering (R315). -/
  | hostWrite (addr : Nat) (data : List Byte) (relaxed : Bool)
  /-- The bytes a read of a register or window returned. -/
  | readData (data : List Byte)
  /-- An access answered with Completer Abort (R311). -/
  | completerAbort
  /-- An access answered with Unsupported Request (R313). -/
  | unsupportedRequest
  /-- An error reported through AER (R332): 1 completion timeout, 2 Unsupported Request, 3 Completer Abort, 4 poisoned TLP received. -/
  | aer (kind : Nat)
  /-- A response on the debug link: STATUS, payload and check field (R424). -/
  | debug (status : Nat) (data check : List Byte)
  /-- An SMBus answer, and a NACK (R440). -/
  | smbus (data : List Byte)
  | smbusNack
  /-- A frame sent on a fabric port (R337). -/
  | frame (port : Nat) (f : Frame)
  /-- A link message sent on a fabric port (R337). -/
  | link (port : Nat) (m : LinkMsg)
  deriving DecidableEq, Repr

/-! ## The whole machine -/

/-- A write to the Hearth memories (R179): the sequencer at whose port it was made, none for the system port; address and bytes. -/
structure PortWrite where
  who : Option Nat
  addr : Nat
  data : List Byte
  deriving DecidableEq, Repr

/-- The state of the module. `lastPort` is the last write to the Hearth memories, which the next may meet in one cycle (R179); `spineBad` says that
a CRC error on a spine link is to fail the next register access (R137). -/
structure State where
  regs : SMap W64
  shadow : SMap W64
  peMem : SMap (BitVec 8192)
  pes : SMap PeRegs
  parts : SMap Part
  seqs : SMap Seq
  imem : SMap Byte
  hearth : SMap Byte
  lastPort : Option PortWrite
  spineBad : Bool
  hbm : SMap Byte
  patches : SMap Patch
  mesh : List Packet
  net : Net
  maint : SMap W256
  cordBad : List (Nat × Nat)
  links : List LinkFlit
  flows : SMap FlowRx
  fences : SMap Fence
  staging : SMap (List Transfer)
  saved : SMap (Option SavedSeq)
  dma : SMap Nat
  edge : Edge
  kdl : Kindling
  ports : SMap Port
  fabric : Fabric
  detected : List FaultInfo
  recovery : SMap (Option Recovery)
  recLog : List W64
  softRepair : List W64
  march : SMap (Option March)
  loader : Option Loader
  flash : SMap Byte
  nvm : SMap Byte
  sec : Sec
  dbg : Debug
  rst : ResetCtl
  rings : SMap Ring
  ep : Endpoint
  out : List Out
  free : Nat
  pending : List Instr
  deriving DecidableEq, Repr

/-- The module right after the release of a cold reset, before any command of boot: every register at its reset value, every memory as
nothing has written it (log entry 3). -/
def State.reset : State where
  regs := []
  shadow := []
  peMem := []
  pes := []
  parts := []
  seqs := []
  imem := []
  hearth := []
  lastPort := none
  spineBad := false
  hbm := []
  patches := []
  mesh := []
  net := Net.reset
  maint := []
  cordBad := []
  links := []
  flows := []
  fences := []
  staging := []
  saved := []
  dma := []
  edge := Edge.reset
  kdl := Kindling.reset
  ports := []
  fabric := Fabric.reset
  detected := []
  recovery := []
  recLog := []
  softRepair := []
  march := []
  loader := none
  flash := []
  nvm := []
  sec := Sec.reset
  dbg := Debug.reset
  rst := ResetCtl.reset
  rings := []
  ep := Endpoint.reset
  out := []
  free := 0
  pending := []

end Sys2Proof.Machine
end

