-- ==== Sys2Proof/Machine/Float.lean ====
section
/-!
DEFINITION. Floating point in any format (e, p): encoding, rounding, exceptions and the operations that the array
instructions (R76) and the scalar FPU (R196) share (R65-R75, R77-R80, R83, R197, R198). Exceptions are five bits coded
as E (R10).
-/
namespace Sys2Proof.Machine

/-- binary32. -/
def Format.b32 : Format := ⟨8, 24⟩
/-- binary64. -/
def Format.b64 : Format := ⟨11, 53⟩

/-- `emax` of a format, also its bias (R65). -/
def Format.emax (f : Format) : Nat := 2 ^ (f.e - 1) - 1
/-- `emin` of a format (R65). -/
def Format.emin (f : Format) : Int := 1 - (f.emax : Int)
/-- The word width W of a format (R66). -/
def Format.w (f : Format) : Nat := f.e + f.p

/-- The value a word encodes: `fin s m x` is m·2^x with m > 0. -/
inductive FpVal where
  | nan (s : Bool) (trail : Nat)
  | inf (s : Bool)
  | zero (s : Bool)
  | fin (s : Bool) (m : Nat) (x : Int)
  deriving DecidableEq, Repr

/-- Sign bit of a word. -/
def fpSign (f : Format) (v : Nat) : Bool := v.testBit (f.w - 1)
/-- Biased exponent of a word. -/
def fpExp (f : Format) (v : Nat) : Nat := bitsOf v (f.w - 2) (f.p - 1)
/-- Trailing significand of a word. -/
def fpTrail (f : Format) (v : Nat) : Nat := v % 2 ^ (f.p - 1)

/-- The word with the given sign, biased exponent and trailing significand (R66). -/
def fpPack (f : Format) (s : Bool) (ex tr : Nat) : Nat := bnat s * 2 ^ (f.w - 1) + ex * 2 ^ (f.p - 1) + tr

/-- Reads a word (R66). -/
def fpRead (f : Format) (v : Nat) : FpVal :=
  let s := fpSign f v
  let ex := fpExp f v
  let tr := fpTrail f v
  if ex = 2 ^ f.e - 1 then (if tr = 0 then .inf s else .nan s tr)
  else if ex = 0 then (if tr = 0 then .zero s else .fin s tr (f.emin - (f.p : Int) + 1))
  else .fin s (2 ^ (f.p - 1) + tr) ((ex : Int) - f.emax - (f.p : Int) + 1)

/-- Whether a word encodes a subnormal. -/
def fpSubnormal (f : Format) (v : Nat) : Bool := fpExp f v = 0 && fpTrail f v ≠ 0

/-- A source operand under the flush option (R73). -/
def fpSource (f : Format) (fz : Bool) (v : Nat) : FpVal :=
  if fz && fpSubnormal f v then .zero (fpSign f v) else fpRead f v

/-- The default NaN (R75). -/
def fpDefaultNan (f : Format) : Nat := fpPack f false (2 ^ f.e - 1) (2 ^ (f.p - 2))
/-- An infinity. -/
def fpInf (f : Format) (s : Bool) : Nat := fpPack f s (2 ^ f.e - 1) 0
/-- A zero. -/
def fpZero (f : Format) (s : Bool) : Nat := fpPack f s 0 0
/-- The largest finite value. -/
def fpMax (f : Format) (s : Bool) : Nat := fpPack f s (2 ^ f.e - 2) (2 ^ (f.p - 1) - 1)

/-- Whether an encoding is a NaN, and a signalling one (R66). -/
def fpIsNan (f : Format) (v : Nat) : Bool := fpExp f v = 2 ^ f.e - 1 && fpTrail f v ≠ 0
def fpIsSnan (f : Format) (v : Nat) : Bool := fpIsNan f v && !v.testBit (f.p - 2)
/-- A NaN with its quiet bit set, sign and other trailing bits kept (R75). -/
def fpQuiet (f : Format) (v : Nat) : Nat :=
  fpPack f (fpSign f v) (2 ^ f.e - 1) (2 ^ (f.p - 2) + v % 2 ^ (f.p - 2))

/-- Exception bits: invalid, divide-by-zero, overflow with inexact, underflow with inexact, inexact (R71-R75). -/
def excNv : BitVec 5 := 0x10
def excDz : BitVec 5 := 0x08
def excOx : BitVec 5 := 0x05
def excUx : BitVec 5 := 0x03
def excX : BitVec 5 := 0x01

/-- `m` with its low `n` bits rounded away in mode `rm` (R69, R70), and whether any of them was set. -/
def roundBits (rm : Nat) (s : Bool) (m n : Nat) : Nat × Bool :=
  let q := m / 2 ^ n
  let r := m % 2 ^ n
  let half := 2 ^ n / 2
  let up : Bool :=
    if r = 0 then false
    else match rm with
    | 0 => decide (half < r) || (decide (half = r) && decide (q % 2 = 1))
    | 1 => decide (half ≤ r)
    | 2 => false
    | 3 => !s
    | 4 => s
    | _ => decide (q % 2 = 0)
  (if up then q + 1 else q, decide (r ≠ 0))

/-- The overflow result (R71). -/
def fpOverflow (f : Format) (rm : Nat) (s : Bool) : Nat :=
  match rm with
  | 0 | 1 => fpInf f s
  | 3 => if s then fpMax f s else fpInf f s
  | 4 => if s then fpInf f s else fpMax f s
  | _ => fpMax f s

/-- ±m·2^x, m > 0, rounded once to the format (R70-R73). -/
def fpRound (f : Format) (rm : Nat) (fz : Bool) (s : Bool) (m : Nat) (x : Int) : Nat × BitVec 5 :=
  let n := Nat.log2 m + 1
  let drop := n - f.p
  let u := roundBits rm s m drop
  let lead : Int := x + drop + Nat.log2 u.1
  if (f.emax : Int) < lead then (fpOverflow f rm s, excOx)
  else if lead < f.emin then
    let quantum : Int := f.emin - (f.p : Int) + 1
    let t := if x ≤ quantum then roundBits rm s m (quantum - x).toNat
             else (m * 2 ^ (x - quantum).toNat, false)
    if fz then (fpZero f s, excUx)
    else (fpPack f s 0 0 + t.1, if t.2 then excUx else 0)
  else
    let sig := u.1 * 2 ^ (f.p - 1 - Nat.log2 u.1) / 2 ^ (Nat.log2 u.1 - (f.p - 1))
    (fpPack f s (lead + f.emax).toNat (sig - 2 ^ (f.p - 1)), if u.2 then excX else 0)

/-- The NaN rules of R75 over the source words in order: the propagated NaN, and the exceptions. -/
def fpNan (f : Format) (vs : List Nat) : Option (Nat × BitVec 5) :=
  match vs.find? (fpIsNan f) with
  | some v => some (fpQuiet f v, if vs.any (fpIsSnan f) then excNv else 0)
  | none => none

/-- The signed value m·2^x as an integer multiple of 2^q, q at most x. -/
def scaled (s : Bool) (m : Nat) (x q : Int) : Int :=
  let v : Int := (m : Int) * 2 ^ (x - q).toNat
  if s then -v else v

/-- A sum of two signed dyadic numbers, rounded; an exact zero is +0, or −0 in RDN (R74). -/
def fpSum (f : Format) (rm : Nat) (fz : Bool) (sa : Bool) (ma : Nat) (xa : Int) (sb : Bool) (mb : Nat) (xb : Int) :
    Nat × BitVec 5 :=
  let q := min xa xb
  let v := scaled sa ma xa q + scaled sb mb xb q
  if v = 0 then (fpZero f (decide (rm = 4)), 0)
  else fpRound f rm fz (decide (v < 0)) v.natAbs q

/-- The sum of two values that are not NaNs. -/
def fpAddVal (f : Format) (rm : Nat) (fz : Bool) (a b : FpVal) : Nat × BitVec 5 :=
  match a, b with
  | .inf s, .inf t => if s = t then (fpInf f s, 0) else (fpDefaultNan f, excNv)
  | .inf s, _ => (fpInf f s, 0)
  | _, .inf t => (fpInf f t, 0)
  | .zero s, .zero t => (fpZero f (if s = t then s else decide (rm = 4)), 0)
  | .zero _, .fin t m x => fpRound f rm fz t m x
  | .fin s m x, .zero _ => fpRound f rm fz s m x
  | .fin s m x, .fin t n y => fpSum f rm fz s m x t n y
  | _, _ => (fpDefaultNan f, excNv)

/-- FADD (R76). -/
def fpAdd (f : Format) (rm : Nat) (fz : Bool) (x y : Nat) : Nat × BitVec 5 :=
  match fpNan f [x, y] with
  | some r => r
  | none => fpAddVal f rm fz (fpSource f fz x) (fpSource f fz y)

/-- The value with its sign inverted. -/
def FpVal.neg : FpVal → FpVal
  | .nan s t => .nan (!s) t
  | .inf s => .inf (!s)
  | .zero s => .zero (!s)
  | .fin s m x => .fin (!s) m x

/-- FSUB (R76). -/
def fpSub (f : Format) (rm : Nat) (fz : Bool) (x y : Nat) : Nat × BitVec 5 :=
  match fpNan f [x, y] with
  | some r => r
  | none => fpAddVal f rm fz (fpSource f fz x) (fpSource f fz y).neg

/-- The exact product of two values that are not NaNs; `none` is 0·∞. -/
def fpMulVal (a b : FpVal) : Option FpVal :=
  match a, b with
  | .inf _, .zero _ => none
  | .zero _, .inf _ => none
  | .inf s, .inf t => some (.inf (s != t))
  | .inf s, .fin t _ _ => some (.inf (s != t))
  | .fin s _ _, .inf t => some (.inf (s != t))
  | .zero s, .zero t => some (.zero (s != t))
  | .zero s, .fin t _ _ => some (.zero (s != t))
  | .fin s _ _, .zero t => some (.zero (s != t))
  | .fin s m x, .fin t n y => some (.fin (s != t) (m * n) (x + y))
  | _, _ => none

/-- A value that is not a NaN, rounded. -/
def fpDeliver (f : Format) (rm : Nat) (fz : Bool) (v : FpVal) : Nat × BitVec 5 :=
  match v with
  | .inf s => (fpInf f s, 0)
  | .zero s => (fpZero f s, 0)
  | .fin s m x => fpRound f rm fz s m x
  | .nan _ _ => (fpDefaultNan f, excNv)

/-- FMUL (R76). -/
def fpMul (f : Format) (rm : Nat) (fz : Bool) (x y : Nat) : Nat × BitVec 5 :=
  match fpNan f [x, y] with
  | some r => r
  | none =>
    match fpMulVal (fpSource f fz x) (fpSource f fz y) with
    | some v => fpDeliver f rm fz v
    | none => (fpDefaultNan f, excNv)

/-- FMULX: the exact product in (e + 1, 2p); it sets no bit but E[4] (R73, R76). The trailing bits of a propagated NaN go to the top of
the wider field, with zeros below, as R75 has it for a widening FCVT (DEDUCED, log entry 42). -/
def fpMulx (f : Format) (fz : Bool) (x y : Nat) : Nat × BitVec 5 :=
  let g : Format := ⟨f.e + 1, 2 * f.p⟩
  let widen (v : Nat) : Nat := fpPack g (fpSign f v) (2 ^ g.e - 1) (fpTrail f v * 2 ^ (g.p - f.p))
  match fpNan f [x, y] with
  | some r => (widen r.1, r.2)
  | none =>
    match fpMulVal (fpSource f fz x) (fpSource f fz y) with
    | some v => ((fpDeliver g 2 false v).1, 0)
    | none => (fpDefaultNan g, excNv)

/-- m/n to at least p + 2 bits with a sticky low bit, and its exponent. -/
def divBits (p m n : Nat) : Nat × Int :=
  let sh := p + 3 + Nat.log2 n
  let num := m * 2 ^ sh
  (num / n * 2 + (if num % n = 0 then 0 else 1), -(sh : Int) - 1)

/-- FDIV (R76). -/
def fpDiv (f : Format) (rm : Nat) (fz : Bool) (x y : Nat) : Nat × BitVec 5 :=
  match fpNan f [x, y] with
  | some r => r
  | none =>
    match fpSource f fz x, fpSource f fz y with
    | .inf _, .inf _ => (fpDefaultNan f, excNv)
    | .zero _, .zero _ => (fpDefaultNan f, excNv)
    | .inf s, .zero t => (fpInf f (s != t), 0)
    | .inf s, .fin t _ _ => (fpInf f (s != t), 0)
    | .zero s, .inf t => (fpZero f (s != t), 0)
    | .zero s, .fin t _ _ => (fpZero f (s != t), 0)
    | .fin s _ _, .inf t => (fpZero f (s != t), 0)
    | .fin s _ _, .zero t => (fpInf f (s != t), excDz)
    | .fin s m a, .fin t n b =>
      let q := divBits f.p m n
      fpRound f rm fz (s != t) q.1 (a - b + q.2)
    | _, _ => (fpDefaultNan f, excNv)

/-- The integer square root by bisection over `b` bits. -/
def isqrtBits (n : Nat) : Nat → Nat → Nat
  | 0, r => r
  | b + 1, r => isqrtBits n b (if (r + 2 ^ b) * (r + 2 ^ b) ≤ n then r + 2 ^ b else r)

/-- FSQRT (R76). -/
def fpSqrt (f : Format) (rm : Nat) (fz : Bool) (x : Nat) : Nat × BitVec 5 :=
  match fpNan f [x] with
  | some r => r
  | none =>
    match fpSource f fz x with
    | .zero s => (fpZero f s, 0)
    | .inf false => (fpInf f false, 0)
    | .fin false m a =>
      let odd := (a % 2).toNat
      let m2 := m * 2 ^ (odd + 2 * (f.p + 3))
      let e2 : Int := (a - odd) / 2 - (f.p + 3)
      let r := isqrtBits m2 (Nat.log2 m2 / 2 + 1) 0
      fpRound f rm fz false (2 * r + (if r * r = m2 then 0 else 1)) (e2 - 1)
    | _ => (fpDefaultNan f, excNv)

/-- FFMA: x·y + z rounded once (R75, R76). After 0·∞ any NaN `z` is delivered quieted: R75 excepts a quiet `z` from the default NaN and
has a signalling one propagated (DEDUCED, log entry 42). -/
def fpFma (f : Format) (rm : Nat) (fz : Bool) (x y z : Nat) : Nat × BitVec 5 :=
  match fpNan f [x, y] with
  | some r => (r.1, if fpIsSnan f z then excNv else r.2)
  | none =>
    match fpMulVal (fpSource f fz x) (fpSource f fz y) with
    | none => (if fpIsNan f z then fpQuiet f z else fpDefaultNan f, excNv)
    | some v =>
      match fpNan f [z] with
      | some r => r
      | none => fpAddVal f rm fz v (fpSource f fz z)

/-- FCVT from format `f` to `g` (R75, R76); an exact widening ignores FZ (R73). The spec does not say which conversions those are: the model takes the
ones whose exponent and precision are both not narrower and not both equal (DESIGN CHOICE; log entry 47). -/
def fpCvt (f g : Format) (rm : Nat) (fz : Bool) (x : Nat) : Nat × BitVec 5 :=
  if fpIsNan f x then
    let low := x % 2 ^ (f.p - 2)
    let kept := if f.p ≤ g.p then low * 2 ^ (g.p - f.p) else low / 2 ^ (f.p - g.p)
    (fpPack g (fpSign f x) (2 ^ g.e - 1) (2 ^ (g.p - 2) + kept), if fpIsSnan f x then excNv else 0)
  else
    let fl := fz && !(decide (f.e ≤ g.e) && decide (f.p ≤ g.p) && decide (f ≠ g))
    fpDeliver g rm fl (fpSource f fl x)

/-- A finite value divided by 2^z, rounded to an integer in mode `rm`, and whether bits were discarded. -/
def fpToInt (rm : Nat) (v : FpVal) (z : Int) : Int × Bool :=
  match v with
  | .fin s m x =>
    let r := if z ≤ x then (m * 2 ^ (x - z).toNat, false) else roundBits rm s m (z - x).toNat
    (if s then -(r.1 : Int) else r.1, r.2)
  | _ => (0, false)

/-- FTOL (R79) and scalar FCVT kinds 1 and 2 (R198): the integer in [lo, hi], or 0 and E[4]. -/
def fpToRange (f : Format) (rm : Nat) (fz : Bool) (x : Nat) (z lo hi : Int) : Int × BitVec 5 :=
  match fpSource f fz x with
  | .nan _ _ => (0, excNv)
  | .inf _ => (0, excNv)
  | v =>
    let r := fpToInt rm v z
    if r.1 < lo ∨ hi < r.1 then (0, excNv) else (r.1, if r.2 then excX else 0)

/-- LTOF (R80) and scalar FCVT kinds 3 and 4: v·2^z rounded once; zero gives +0. -/
def fpOfInt (f : Format) (rm : Nat) (fz : Bool) (v : Int) (z : Int) : Nat × BitVec 5 :=
  if v = 0 then (fpZero f false, 0) else fpRound f rm fz (decide (v < 0)) v.natAbs z

/-- The order of two values that are not NaNs: less, equal or greater. -/
def fpOrder (a b : FpVal) : Ordering :=
  match a, b with
  | .inf s, .inf t => if s = t then .eq else if s then .lt else .gt
  | .inf s, _ => if s then .lt else .gt
  | _, .inf t => if t then .gt else .lt
  | .zero _, .zero _ => .eq
  | .zero _, .fin t _ _ => if t then .gt else .lt
  | .fin s _ _, .zero _ => if s then .lt else .gt
  | .fin s m x, .fin t n y => compare (scaled s m x (min x y)) (scaled t n y (min x y))
  | _, _ => .eq

/-- FCMP and FCMPS (R77, R197): `none` when unordered, and the exceptions. -/
def fpCompare (f : Format) (signal : Bool) (x y : Nat) : Option Ordering × BitVec 5 :=
  if fpIsNan f x || fpIsNan f y then
    (none, if signal || fpIsSnan f x || fpIsSnan f y then excNv else 0)
  else (some (fpOrder (fpRead f x) (fpRead f y)), 0)

/-- The class bit of a word (R78). -/
def fpClass (f : Format) (v : Nat) : Nat :=
  let s := fpSign f v
  if fpIsSnan f v then 0
  else if fpIsNan f v then 1
  else if fpExp f v = 2 ^ f.e - 1 then (if s then 2 else 9)
  else if fpExp f v = 0 then
    (if fpTrail f v = 0 then (if s then 5 else 6) else (if s then 4 else 7))
  else (if s then 3 else 8)

end Sys2Proof.Machine
end

