-- ==== Sys2Proof/Machine/Operands.lean ====
section
/-!
DEFINITION. The encoding of sequencer instructions: operand specifiers (R159), the layouts of the units (R158), the
opcodes (R168, R170) and the APX unit (R167). `decodeAt` is total: `none` is ILLEGAL (R172, code 0x01).
-/
namespace Sys2Proof.Machine

/-- The mnemonics of R168 and R170; a leading `s` marks a scalar instruction that shares its name with an array one. -/
inductive Mn where
  | nop | rep | b | call | ret | iret | wait | sig | fbar | jobs | jobe | ldp | stp | pset | padd | snum
  | sMov | sAdd | adc | sSub | sbc | and | or | xor | sShl | shr | sar | cmp | tas | lr | sc | mulw
  | sFadd | sFsub | sFmul | sFdiv | sFsqrt | sFfma | sFcmp | sFcvt | fstr | fstw | sDivu | sDivs
  | setl | setlm | stgq | halt
  | idle | mov | extu | exts | bool | add | sub | addv | subv | cmpu | cmps | shl | shru | shrs
  | mulu | muls | divu | divs | fset | sprd
  | fadd | fsub | fmul | fdiv | fsqrt | ffma | fmulx | fcvt | ftol | ltof | fcmp | fcmps | fneg | fabs | eclr | fcls
  | rany | rall | rcnt | rsumu | rsums | rmaxu | rmaxs | rminu | rmins | tmaxu | tmaxs | tminu | tmins
  | newAop
  deriving DecidableEq, Repr

/-- Whether a specifier names no address. -/
def Spec.isImm : Spec → Bool
  | .imm _ => true
  | _ => false

/-- A specifier whose operand bits below the mode are `lo`, `w` bits wide: 13 in a 16-bit specifier, 9 in a 12-bit
one. -/
def specOf (w mode lo : Nat) : Option Spec :=
  let i := lo / 2 ^ (w - 4)
  let d := signedOf lo (w - 4)
  match mode with
  | 0 => some (.abs lo)
  | 1 => some (.ind i d)
  | 2 => if lo % 2 ^ (w - 8) = 0 then some (.idx i (lo / 2 ^ (w - 8) % 16)) else none
  | 3 => some (.pre i d)
  | 4 => some (.post i d)
  | 5 => some (.modu i d)
  | 6 => some (.rev i d)
  | _ => some (.imm (signedOf lo w))

/-- A 16-bit specifier (R159). -/
def spec16 (n : Nat) : Option Spec := specOf 13 (bitsOf n 15 13) (bitsOf n 12 0)

/-- A 12-bit specifier (R159). -/
def spec12 (n : Nat) : Option Spec := specOf 9 (bitsOf n 11 9) (bitsOf n 8 0)

/-- A 7-bit field specifier (R159); Z is `imm 0`. -/
def spec7 (n : Nat) : Option Spec :=
  let i := bitsOf n 3 0
  match bitsOf n 6 4 with
  | 0 => some (.imm 0)
  | 1 => some (.ind i 0)
  | 3 => some (.pre i 1)
  | 4 => some (.post i 1)
  | 5 => some (.modu i 1)
  | 6 => some (.rev i 1)
  | _ => none

/-- A decoded sequencer instruction: mnemonic, bytes of its units, whether it is a short form, operand size in bytes,
MOD, PR, the three specifiers (`a`, `b` are X, Y of an array instruction), a small number (pointer, event, condition,
REP count), I of REP, whether REP reads its count from `a`, the displacement of a branch in bytes, AOP, KW and the APX
unit, and the first two units for the trap record (R202). -/
structure SeqInstr where
  mn : Mn
  size : Nat
  short : Bool
  sz : Nat
  md : Nat
  pr : Bool
  d : Spec
  a : Spec
  b : Spec
  num : Nat
  flag : Bool
  src : Bool
  disp : Int
  aop : Nat
  kw : Nat
  apx : Nat
  unit0 : W32
  unit1 : W32
  deriving DecidableEq, Repr

/-- A short instruction with nothing in its fields. -/
def SeqInstr.short0 (mn : Mn) (u : Nat) : SeqInstr :=
  ⟨mn, 4, true, 8, 0, false, .imm 0, .imm 0, .imm 0, 0, false, false, 0, 0, 0, 0, BitVec.ofNat 32 u, 0⟩

/-- Short form whose fields are all reserved. -/
def shortNone (mn : Mn) (u : Nat) : Option SeqInstr :=
  if bitsOf u 31 7 = 0 then some (SeqInstr.short0 mn u) else none

/-- Short form with a destination D and a source A; `fp` allows PR, `dst` refuses an IMM D, `adr` an IMM A (R159). -/
def shortDA (mn : Mn) (u : Nat) (fp dst adr : Bool) : Option SeqInstr := do
  let d ← spec12 (bitsOf u 18 7)
  let a ← spec12 (bitsOf u 30 19)
  let pr := bitAt u 31 = 1
  if (pr && !fp) || (dst && d.isImm) || (adr && a.isImm) then none
  else some { SeqInstr.short0 mn u with d := d, a := a, pr := pr }

/-- Short form with D alone. -/
def shortD (mn : Mn) (u : Nat) : Option SeqInstr := do
  let d ← spec12 (bitsOf u 18 7)
  if bitsOf u 31 19 ≠ 0 ∨ d.isImm then none else some { SeqInstr.short0 mn u with d := d }

/-- Short form with A alone; `adr` refuses an IMM A. -/
def shortA (mn : Mn) (u : Nat) (adr : Bool) : Option SeqInstr := do
  let a ← spec12 (bitsOf u 30 19)
  if bitsOf u 18 7 ≠ 0 ∨ bitAt u 31 ≠ 0 ∨ (adr && a.isImm) then none
  else some { SeqInstr.short0 mn u with a := a }

/-- LDP, STP, PSET, PADD: P*n* in [10:7], [18:11] zero, A. -/
def shortPtr (mn : Mn) (u : Nat) (adr : Bool) : Option SeqInstr := do
  let a ← spec12 (bitsOf u 30 19)
  if bitsOf u 18 11 ≠ 0 ∨ bitAt u 31 ≠ 0 ∨ (adr && a.isImm) then none
  else some { SeqInstr.short0 mn u with a := a, num := bitsOf u 10 7 }

/-- WAIT and SIG: event number in [14:7]. -/
def shortEvent (mn : Mn) (u : Nat) : Option SeqInstr :=
  if bitsOf u 31 15 = 0 then some { SeqInstr.short0 mn u with num := bitsOf u 14 7 } else none

/-- REP (R173). -/
def shortRep (u : Nat) : Option SeqInstr :=
  if bitAt u 8 = 1 then do
    let a ← spec12 (bitsOf u 20 9)
    if bitsOf u 31 21 ≠ 0 then none
    else some { SeqInstr.short0 .rep u with a := a, src := true, flag := bitAt u 7 = 1 }
  else if bitsOf u 31 25 ≠ 0 then none
  else some { SeqInstr.short0 .rep u with num := bitsOf u 24 9, flag := bitAt u 7 = 1 }

/-- Short array opcodes (R168): the mnemonic and AOP of MAJ 0x30-0x37. -/
def shortAop (maj : Nat) : Mn × Nat :=
  match maj with
  | 0x30 => (.mov, 0x001)
  | 0x31 => (.add, 0x020)
  | 0x32 => (.sub, 0x021)
  | 0x33 => (.bool, 0x018)
  | 0x34 => (.bool, 0x01E)
  | 0x35 => (.bool, 0x016)
  | 0x36 => (.cmpu, 0x024)
  | _ => (.mulu, 0x030)

/-- A short array unit (R158, R168): KW above 5, the reserved bit and a wrong D raise ILLEGAL. -/
def shortArray (u : Nat) : Option SeqInstr := do
  let m := shortAop (bitsOf u 6 1)
  let kw := bitsOf u 9 7
  let d ← spec7 (bitsOf u 16 10)
  let x ← spec7 (bitsOf u 23 17)
  let y ← spec7 (bitsOf u 30 24)
  if bitAt u 31 = 1 ∨ 5 < kw ∨ (d.isImm != decide (m.1 = .cmpu)) then none
  else some { SeqInstr.short0 m.1 u with d := d, a := x, b := y, aop := m.2, kw := kw }

/-- A short unit (R158, R168). -/
def decodeShort (u : Nat) : Option SeqInstr :=
  match bitsOf u 6 1 with
  | 0x00 => shortNone .nop u
  | 0x01 => shortRep u
  | 0x02 => some { SeqInstr.short0 .b u with num := bitsOf u 10 7, disp := 4 * signedOf (bitsOf u 31 11) 21 }
  | 0x03 => if bitsOf u 10 7 = 0 then some { SeqInstr.short0 .call u with disp := 4 * signedOf (bitsOf u 31 11) 21 } else none
  | 0x04 => shortNone .ret u
  | 0x05 => shortNone .iret u
  | 0x06 => shortEvent .wait u
  | 0x07 => shortEvent .sig u
  | 0x08 => shortNone .fbar u
  | 0x09 => shortNone .jobs u
  | 0x0A => shortA .jobe u false
  | 0x0B => shortPtr .ldp u true
  | 0x0C => shortPtr .stp u true
  | 0x0D => shortPtr .pset u false
  | 0x0E => shortPtr .padd u false
  | 0x0F => shortD .snum u
  | 0x10 => shortDA .sMov u false true false
  | 0x11 => shortDA .sAdd u false true false
  | 0x12 => shortDA .adc u false true false
  | 0x13 => shortDA .sSub u false true false
  | 0x14 => shortDA .sbc u false true false
  | 0x15 => shortDA .and u false true false
  | 0x16 => shortDA .or u false true false
  | 0x17 => shortDA .xor u false true false
  | 0x18 => shortDA .sShl u false true false
  | 0x19 => shortDA .shr u false true false
  | 0x1A => shortDA .sar u false true false
  | 0x1B => shortDA .cmp u false false false
  | 0x1C => shortDA .tas u false true true
  | 0x1D => shortDA .lr u false true true
  | 0x20 => shortDA .sFadd u true true false
  | 0x21 => shortDA .sFsub u true true false
  | 0x22 => shortDA .sFmul u true true false
  | 0x23 => shortDA .sFdiv u true true false
  | 0x29 => shortD .fstr u
  | 0x2A => shortA .fstw u false
  | 0x30 | 0x31 | 0x32 | 0x33 | 0x34 | 0x35 | 0x36 | 0x37 => shortArray u
  | 0x3E => shortA .stgq u true
  | 0x3F => shortNone .halt u
  | _ => none

/-- A long, not array, unit with its three specifiers (R158); `w` is its 64 bits. -/
def long0 (mn : Mn) (w : Nat) (dst adr : Bool) : Option SeqInstr := do
  let d ← spec16 (bitsOf w 31 16)
  let a ← spec16 (bitsOf w 47 32)
  let b ← spec16 (bitsOf w 63 48)
  if (dst && d.isImm) || (adr && a.isImm) then none
  else some ⟨mn, 8, false, 2 ^ bitsOf w 9 8, bitsOf w 15 10, false, d, a, b, 0, false, false, 0, 0, 0, 0,
    BitVec.ofNat 32 w, BitVec.ofNat 32 (w / 2 ^ 32)⟩

/-- A long integer unit: MOD zero (R158). -/
def longInt (mn : Mn) (w : Nat) (dst adr : Bool) : Option SeqInstr :=
  if bitsOf w 15 10 = 0 then long0 mn w dst adr else none

/-- A long atomic unit: SZ is 8 bytes (R177). -/
def longAtomic (mn : Mn) (w : Nat) : Option SeqInstr :=
  if bitsOf w 9 8 = 3 then longInt mn w true true else none

/-- A long FP unit: format, rounding, flush and MOD[5] rules of R193, R196 and R198. -/
def longFp (mn : Mn) (w : Nat) : Option SeqInstr := do
  let i ← long0 mn w (decide (mn ≠ .sFcmp)) false
  let rm := i.md % 8
  if (mn ≠ .sFcvt ∧ i.sz < 4) ∨ rm = 5 ∨ rm = 6 ∨ bitsOf i.md 4 3 = 3 ∨ (32 ≤ i.md ∧ mn ≠ .sFcmp) then none
  else if mn = .sFcmp ∧ i.d ≠ .imm 0 then none
  else if mn = .sFsqrt ∧ i.b ≠ .imm 0 then none
  else if mn = .sFcvt then
    match i.b with
    | .imm k => if k = 0 ∧ 4 ≤ i.sz ∨ (1 ≤ k ∧ k ≤ 4) then some { i with num := k.toNat } else none
    | _ => none
  else some i

/-- A long unit that is not an array body and not an APX (R168). -/
def decodeLong (w : Nat) : Option SeqInstr :=
  match bitsOf w 7 2 with
  | 0x10 => longInt .sMov w true false
  | 0x11 => longInt .sAdd w true false
  | 0x12 => longInt .adc w true false
  | 0x13 => longInt .sSub w true false
  | 0x14 => longInt .sbc w true false
  | 0x15 => longInt .and w true false
  | 0x16 => longInt .or w true false
  | 0x17 => longInt .xor w true false
  | 0x18 => longInt .sShl w true false
  | 0x19 => longInt .shr w true false
  | 0x1A => longInt .sar w true false
  | 0x1B => longInt .cmp w false false
  | 0x1C => longAtomic .tas w
  | 0x1D => longAtomic .lr w
  | 0x1E => longAtomic .sc w
  | 0x1F => if bitsOf w 15 11 = 0 then long0 .mulw w true false else none
  | 0x20 => longFp .sFadd w
  | 0x21 => longFp .sFsub w
  | 0x22 => longFp .sFmul w
  | 0x23 => longFp .sFdiv w
  | 0x24 => longFp .sFsqrt w
  | 0x25 => longFp .sFfma w
  | 0x26 => longFp .sFcmp w
  | 0x27 => longFp .sFcvt w
  | 0x30 => longInt .sDivu w true false
  | 0x31 => longInt .sDivs w true false
  | 0x38 =>
    if bitsOf w 15 10 ≠ 0 ∨ bitsOf w 31 30 ≠ 0 ∨ bitsOf w 63 46 ≠ 0 then none
    else some ⟨.setl, 8, false, 2 ^ bitsOf w 9 8, 0, false, .abs (bitsOf w 29 16), .abs (bitsOf w 45 32), .imm 0, 0, false, false,
      0, 0, 0, 0, BitVec.ofNat 32 w, BitVec.ofNat 32 (w / 2 ^ 32)⟩
  | 0x39 => longInt .setlm w false false
  | _ => none

/-- The mnemonic of an array opcode (R170); `none` outside the table. -/
def aopMn (aop : Nat) : Option Mn :=
  if aop = 0x000 then some .idle
  else if aop = 0x001 then some .mov
  else if aop = 0x002 then some .extu
  else if aop = 0x003 then some .exts
  else if 0x010 ≤ aop ∧ aop ≤ 0x01F then some .bool
  else if 0x020 ≤ aop ∧ aop ≤ 0x025 then [.add, .sub, .addv, .subv, .cmpu, .cmps][aop - 0x020]?
  else if 0x028 ≤ aop ∧ aop ≤ 0x02A then [.shl, .shru, .shrs][aop - 0x028]?
  else if 0x030 ≤ aop ∧ aop ≤ 0x033 then [.mulu, .muls, .divu, .divs][aop - 0x030]?
  else if 0x040 ≤ aop ∧ aop ≤ 0x047 then some .fset
  else if 0x050 ≤ aop ∧ aop ≤ 0x05F then some .sprd
  else if 0x080 ≤ aop ∧ aop ≤ 0x08E then
    [.fadd, .fsub, .fmul, .fdiv, .fsqrt, .ffma, .fmulx, .fcvt, .ftol, .ltof, .fcmp, .fcmps, .fneg, .fabs, .eclr][aop - 0x080]?
  else if 0x090 ≤ aop ∧ aop ≤ 0x093 then some .fcls
  else if 0x0C0 ≤ aop ∧ aop ≤ 0x0C4 then some .rany
  else if 0x0C8 ≤ aop ∧ aop ≤ 0x0CC then some .rall
  else if 0x0D0 ≤ aop ∧ aop ≤ 0x0D6 then [.rcnt, .rsumu, .rsums, .rmaxu, .rmaxs, .rminu, .rmins][aop - 0x0D0]?
  else if 0x0D8 ≤ aop ∧ aop ≤ 0x0DF then [.tmaxu, .tmaxs, .tminu, .tmins][(aop - 0x0D8) / 2]?
  else none

/-- The FP opcodes that an APX unit must precede (R167): all but ECLR. -/
def Mn.needsApx (m : Mn) : Bool :=
  match m with
  | .fadd | .fsub | .fmul | .fdiv | .fsqrt | .ffma | .fmulx | .fcvt | .ftol | .ltof | .fcmp | .fcmps | .fneg | .fabs
  | .fcls => true
  | _ => false

/-- Array instructions whose D names a destination field that may not be Z (R159). -/
def Mn.writesField (m : Mn) : Bool :=
  match m with
  | .mov | .extu | .exts | .bool | .add | .sub | .addv | .subv | .shl | .shru | .shrs | .mulu | .muls | .divu | .divs
  | .fadd | .fsub | .fmul | .fdiv | .fsqrt | .ffma | .fmulx | .fcvt | .ftol | .ltof | .fneg | .fabs => true
  | _ => false

/-- The ILLEGAL checks of an array body's specifiers (R159, R166, R168). IDLE with a D or X other than IMM 0 is ILLEGAL (DESIGN CHOICE: R166 says only that they
are IMM 0; log entry 47). -/
def arrayLegal (m : Mn) (d x y : Spec) : Bool :=
  (!m.writesField || !d.isImm) &&
  (match m with
  | .cmpu | .cmps | .fcmp | .fcmps => decide (d = .imm 0)
  | .shl | .shru | .shrs => match y with | .imm v => decide (0 ≤ v) | _ => true
  | .idle => decide (d = .imm 0) && decide (x = .imm 0)
  | .rany | .rall =>
    decide (d = .imm 0) && decide (y = .imm 0) && (match x with | .imm v => decide (0 ≤ v ∧ v < 1024) | _ => false)
  | .rcnt => (match x with | .imm v => decide (0 ≤ v ∧ v < 1024) | _ => false) && !y.isImm && (!d.isImm || decide (d = .imm 0))
  | .rsumu | .rsums | .rmaxu | .rmaxs | .rminu | .rmins => !y.isImm && (!d.isImm || decide (d = .imm 0))
  | .fcls => decide (d = .imm 0) && (match y with | .imm v => decide (0 ≤ v ∧ v < 1024) | _ => false)
  | _ => true)

/-- The EXT half of an APX unit keeps its unused bits zero (R167). -/
def apxLegal (m : Mn) (apx : Nat) : Bool :=
  let ext := apx / 2 ^ 32
  decide (bitsOf apx 31 29 = 0) &&
  (match m with
  | .fadd | .fsub | .fmul | .fdiv | .fmulx | .fcmp | .fcmps => decide (ext < 2 ^ 16) && (spec16 ext).isSome
  | .ffma => (spec16 (bitsOf ext 15 0)).isSome && (spec16 (bitsOf ext 31 16)).isSome
  | .fcvt => decide (ext < 2 ^ 17)
  | .ftol | .ltof => true
  | _ => decide (ext = 0))

/-! ## Dispatch entries (R205) -/

/-- The length group of a mnemonic of R170: its row in the table of R165; the manual gives FSET, SPRD, IDLE and ECLR none. -/
def Mn.group (m : Mn) : Option Nat :=
  match m with
  | .mov | .bool | .add | .sub | .addv | .subv | .cmpu | .cmps | .shl => some 0
  | .extu | .exts => some 1
  | .shru | .shrs => some 2
  | .mulu | .muls => some 3
  | .divu | .divs => some 4
  | .fadd | .fsub | .fmul | .fdiv | .fsqrt | .ffma | .fcmp | .fcmps | .fneg | .fabs | .fcls => some 5
  | .fmulx => some 6
  | .fcvt => some 7
  | .ftol => some 8
  | .ltof => some 9
  | .rsumu | .rsums | .rmaxu | .rmaxs | .rminu | .rmins | .tmaxu | .tmaxs | .tminu | .tmins => some 10
  | .rany | .rall | .rcnt => some 11
  | _ => none

/-- The shape rule of a mnemonic of R170. -/
def Mn.shape (m : Mn) : Nat :=
  match m with
  | .mov | .bool | .add | .sub | .addv | .subv => 1
  | .cmpu | .cmps | .fcmp | .fcmps => 2
  | .extu | .exts => 3
  | .shl | .shru | .shrs => 4
  | .mulu | .muls => 5
  | .divu | .divs => 6
  | .fset | .sprd | .idle | .eclr => 0
  | .rany | .rall | .rcnt | .rsumu | .rsums | .rmaxu | .rmaxs | .rminu | .rmins | .tmaxu | .tmaxs | .tminu | .tmins => 8
  | _ => 7

/-- The ROM's dispatch entry of an AOP: nothing outside the table of R170; 0x80800120 for ADD, as printed; the microaddress of every other
routine is not printed (log entry 9). -/
def romEntry (aop : Nat) : W32 :=
  if aop = 0x020 then 0x80800120
  else match aopMn aop with
  | some m =>
    BitVec.ofNat 32 (2 ^ 31 + (m.group.getD (bitsOf (Config.dispatchRom aop).toNat 30 27)) * 2 ^ 27 + m.shape * 2 ^ 23 +
      bnat m.needsApx * 2 ^ 22 + bnat (decide (m.shape = 8)) * 2 ^ 21 + bitsOf (Config.dispatchRom aop).toNat 14 0)
  | none => 0

/-- Fields of a dispatch entry. -/
def entryGrp (e : Nat) : Nat := bitsOf e 30 27
def entryShp (e : Nat) : Nat := bitsOf e 26 23
def entryApx (e : Nat) : Bool := bitAt e 22 = 1
def entryRf (e : Nat) : Bool := bitAt e 21 = 1

/-- The instruction of the ROM whose operand specifiers an AOP outside the table of R170 has, by the GRP and SHP fields of its entry
(R205). -/
def patchRole (entry : Nat) : Mn :=
  match entryShp entry with
  | 0 => .eclr
  | 1 => .bool
  | 2 => if entryApx entry then .fcmp else .cmpu
  | 3 => .extu
  | 4 => if entryGrp entry = 2 then .shru else .shl
  | 5 => .mulu
  | 6 => .divu
  | 7 =>
    match entryGrp entry with
    | 6 => .fmulx
    | 7 => .fcvt
    | 8 => .ftol
    | 9 => .ltof
    | _ => .fadd
  | _ => if entryGrp entry = 11 then .rcnt else .rsumu

/-- The mnemonic whose operand specifiers an AOP with this entry has: its own where the table of R170 lists it (R205). -/
def roleOf (aop entry : Nat) : Mn := (aopMn aop).getD (patchRole entry)

/-- An array body, after an APX unit or alone (R158, R167, R170); `entry` is the dispatch entry that a patch gives an AOP, which
says whether an APX unit must precede it (R205). -/
def decodeArray (w : Nat) (apx : Option Nat) (entry : Nat → Option Nat) : Option SeqInstr := do
  let aop := bitsOf w 11 2
  let kw := bitsOf w 14 12
  let d ← spec16 (bitsOf w 31 16)
  let x ← spec16 (bitsOf w 47 32)
  let y ← spec16 (bitsOf w 63 48)
  let (m, role, needs) ← match entry aop with
    | some e => some ((aopMn aop).getD Mn.newAop, roleOf aop e, entryApx e)
    | none => (aopMn aop).map (fun m => (m, m, m.needsApx))
  if bitAt w 15 = 1 ∨ 5 < kw ∨ needs ≠ apx.isSome ∨ !arrayLegal role d x y then none
  else if apx.isSome ∧ !apxLegal role (apx.getD 0) then none
  else some ⟨m, if apx.isSome then 16 else 8, false, 8, 0, false, d, x, y, 0, false, false, 0, aop, kw, apx.getD 0,
    BitVec.ofNat 32 (apx.getD w), BitVec.ofNat 32 (apx.getD w / 2 ^ 32)⟩

/-- The instruction whose first unit is at byte address `a`, the units read by `unit` (R158). -/
def decodeAt (unit : Nat → Nat) (valid : Nat → Option Nat) (a : Nat) : Option SeqInstr :=
  let u := unit a
  if u % 2 = 0 then decodeShort u
  else
    let w := u + 2 ^ 32 * unit (a + 4)
    if bitAt u 1 = 1 then decodeArray w none valid
    else if bitsOf u 7 2 = 0x3F then
      let v := unit (a + 8)
      if bitsOf v 1 0 = 3 then decodeArray (v + 2 ^ 32 * unit (a + 12)) (some w) valid else none
    else decodeLong w

/-- The bytes of the instruction at `a` by its form bits alone, as REP 0 skips it (R174). -/
def sizeAt (unit : Nat → Nat) (a : Nat) : Nat :=
  let u := unit a
  if u % 2 = 0 then 4
  else if bitAt u 1 = 0 ∧ bitsOf u 7 2 = 0x3F ∧ bitsOf (unit (a + 8)) 1 0 = 3 then 16 else 8

/-- The targets that make a REP ILLEGAL (R173), judged on the target's first unit. -/
def repBars (u : Nat) : Bool :=
  if u % 2 = 0 then
    (match bitsOf u 6 1 with
    | 0x01 | 0x02 | 0x03 | 0x04 | 0x05 | 0x06 | 0x09 | 0x0A | 0x1D | 0x3F => true
    | _ => false)
  else bitAt u 1 = 0 && (bitsOf u 7 2 = 0x1D || bitsOf u 7 2 = 0x1E)

end Sys2Proof.Machine
end

