-- ==== Sys2Proof/Machine/Ops.lean ====
section
/-!
DEFINITION. The named operations over registers, memories and events that the meanings share: register fields, the free
values, event sources and their messages (R323-R326), completions (R321), data memory and the reservation (R157,
R178), and taking a sequencer fault (R172).
-/
namespace Sys2Proof.Machine

/-! ## Registers -/

/-- The register at BAR0 offset `off`. -/
def State.reg (s : State) (off : Nat) : W64 := SMap.get (resetValue off) s.regs off

/-- The register at `off` holds `v`. -/
def State.setReg (s : State) (off : Nat) (v : W64) : State :=
  { s with regs := SMap.put (resetValue off) s.regs off v }

/-- The value of a register field. -/
def State.get (s : State) (f : Field) : Nat := getField (s.reg f.off) f.hi f.lo

/-- The state with a register field set. -/
def State.set (s : State) (f : Field) (v : Nat) : State := s.setReg f.off (setField (s.reg f.off) f.hi f.lo v)

/-- Whether a one-bit field is 1. -/
def State.flag (s : State) (f : Field) : Bool := s.get f = 1

/-- Largest value of a field. -/
def Field.max (f : Field) : Nat := 2 ^ (f.hi + 1 - f.lo) - 1

/-- A count field increased by `n`, saturating at its largest value. -/
def State.count (s : State) (f : Field) (n : Nat) : State := s.set f (min (s.get f + n) f.max)

/-- A field increased by `n`, wrapping in its width. -/
def State.bump (s : State) (f : Field) (n : Nat) : State := s.set f (s.get f + n)

/-- Applies `f` at each of the numbers `0 .. n - 1`. -/
def State.each (s : State) (n : Nat) (f : Nat → State → State) : State := (List.range n).foldl (fun t i => f i t) s

/-! ## Clearing registers (R6, R388) -/

/-- The largest reach that leaves a field unchanged, as a code. -/
def Kept.code : Kept → Nat
  | .none => 0
  | .part => 2
  | .warm => 3
  | .cold => 4

/-- The bits of a register that a reset of a reach leaves unchanged. -/
def RegRow.keptMask (r : RegRow) (reach : Nat) : W64 :=
  r.fields.foldl (fun a f => if reach ≤ f.kept.code then a ||| fieldMask f.hi f.lo else a) (0 : W64)

/-- A register after a reset of a reach (R6). -/
def resetReg (reach off : Nat) (v : W64) : W64 :=
  match findReg off with
  | some (r, _, _) => (v &&& r.keptMask reach) ||| (resetValue off &&& ~~~(r.keptMask reach))
  | none => v

/-- The registers at the offsets that `inside` takes are reset. -/
def State.resetRegs (s : State) (reach : Nat) (inside : Nat → Bool) : State :=
  let one (e : Nat × W64) : Nat × W64 := if inside e.1 then (e.1, resetReg reach e.1 e.2) else e
  { s with regs := (s.regs.map one).filter (fun e => decide (e.2 ≠ resetValue e.1)) }

/-- Offsets from `lo` on, `n` bytes. -/
def inBlock (lo n off : Nat) : Bool := decide (lo ≤ off) && decide (off < lo + n)

/-! ## Units -/

/-- Partition `p`'s array side. -/
def State.part (s : State) (p : Nat) : Part := SMap.get Part.reset s.parts p
/-- Partition `p`'s array side replaced. -/
def State.setPart (s : State) (p : Nat) (v : Part) : State := { s with parts := SMap.put Part.reset s.parts p v }
/-- Sequencer `p` outside its registers. -/
def State.seq (s : State) (p : Nat) : Seq := SMap.get Seq.reset s.seqs p
/-- Sequencer `p` replaced. -/
def State.setSeq (s : State) (p : Nat) (v : Seq) : State := { s with seqs := SMap.put Seq.reset s.seqs p v }
/-- The patch stores of sequencer `p`. -/
def State.patch (s : State) (p : Nat) : Patch := SMap.get Patch.reset s.patches p
/-- The patch stores of sequencer `p` replaced. -/
def State.setPatch (s : State) (p : Nat) (v : Patch) : State := { s with patches := SMap.put Patch.reset s.patches p v }
/-- Ring `p` outside its registers. -/
def State.ring (s : State) (p : Nat) : Ring := SMap.get Ring.reset s.rings p
/-- Ring `p` replaced. -/
def State.setRing (s : State) (p : Nat) (v : Ring) : State := { s with rings := SMap.put Ring.reset s.rings p v }
/-- The accepted transfers of staging engine `e`. -/
def State.stg (s : State) (e : Nat) : List Transfer := SMap.get [] s.staging e
/-- The accepted transfers of staging engine `e` replaced; STG_STAT shows them (R245). -/
def State.setStg (s : State) (e : Nat) (l : List Transfer) : State :=
  let s1 : State := { s with staging := SMap.put [] s.staging e l }
  (s1.set (Reg.STG_STAT_QDEPTH e) l.length).set (Reg.STG_STAT_BUSY e) (bnat (!l.isEmpty))
/-- Who holds fence `n`. -/
def State.fence (s : State) (n : Nat) : Fence := SMap.get Fence.open s.fences n
/-- The holders of fence `n` replaced. -/
def State.setFence (s : State) (n : Nat) (v : Fence) : State := { s with fences := SMap.put Fence.open s.fences n v }
/-- The link state of port `n`. -/
def State.port (s : State) (n : Nat) : Port := SMap.get Port.reset s.ports n
/-- The link state of port `n` replaced. -/
def State.setPort (s : State) (n : Nat) (v : Port) : State := { s with ports := SMap.put Port.reset s.ports n v }
/-- The recovery of partition `p` under way. -/
def State.recov (s : State) (p : Nat) : Option Recovery := SMap.get none s.recovery p
/-- The recovery of partition `p` replaced. -/
def State.setRecov (s : State) (p : Nat) (v : Option Recovery) : State := { s with recovery := SMap.put none s.recovery p v }
/-- Whether a recovery holds the issue of partition `p`: until its restart, and until a replay has issued all it has to (R371, R372). A
partition reset used as a recovery stops the sequencer by the idle request of R394 instead. -/
def State.issueHeld (s : State) (p : Nat) : Bool :=
  match s.recov p with
  | some r => decide (r.action ≠ 3) && !(decide (r.stage = 2) && r.todo.isEmpty)
  | none => false
/-- Whether a recovery holds the steps of partition `p`, its restart not having been made (R371, R372). -/
def State.stepsHeld (s : State) (p : Nat) : Bool :=
  match s.recov p with
  | some r => decide (r.action ≠ 3) && decide (r.stage < 2)
  | none => false
/-- A fault the machine has detected and not yet reported (R366). -/
def State.detect (s : State) (f : FaultInfo) : State := { s with detected := s.detected ++ [f] }
/-- Whether a reset of the module is asserted, which holds every unit in reset (R390). -/
def State.moduleReset (s : State) : Bool := s.rst.module.isSome
/-- Whether the target `key`, a partition or 256 and a block code, is in reset: a reset of the module is asserted, or one of its own has begun and
not ended, in which nothing starts it (R390, R391; log entry 29). -/
def State.inReset (s : State) (key : Nat) : Bool := s.moduleReset || (SMap.get none s.rst.targets key).isSome
/-- The phase of fence `n` (R133). -/
def State.phase (s : State) (n : Nat) : Nat := s.get (Reg.MSH_FENCE_PHASE n)
/-- Whether turf `t` is fenced in any phase. -/
def State.turfShut (s : State) (t : Nat) : Bool := decide (s.phase t ≠ 0)
/-- The memory of PE `i` (R10). -/
def State.peMemory (s : State) (i : Nat) : BitVec 8192 := SMap.get 0 s.peMem i
/-- The registers of PE `i` (R10). -/
def State.pe (s : State) (i : Nat) : PeRegs := SMap.get PeRegs.reset s.pes i

/-- Something sent outside. -/
def State.send (s : State) (o : Out) : State := { s with out := s.out ++ [o] }

/-- The next free value (log entry 6), and the state that has used it. -/
def State.freeValue (s : State) : W64 := Config.freeValue s.free
/-- The state after a free value has been used. -/
def State.useFree (s : State) : State := { s with free := s.free + 1 }

/-! ## Events (R323-R326) -/

/-- The functions and vectors that exist (R309, R326). -/
def Endpoint.hasVector (e : Endpoint) (hiv2 : Bool) (fn vec : Nat) : Bool :=
  if fn = 0 then decide (vec < 256)
  else decide (fn ≤ 4) && e.vfEnable && !hiv2 && decide (fn ≤ min e.numVfs 4) && decide (vec < 64)

/-- Index of a word of the MSI-X table: function, vector, word 0-3. -/
def msixIndex (fn vec word : Nat) : Nat := fn * 1024 + vec * 4 + word

/-- Whether a vector is masked, by its own mask or its function's; the mask bits are set after reset (log entry 11). -/
def Endpoint.masked (e : Endpoint) (fn vec : Nat) : Bool := e.fnMask.getLsbD fn || (SMap.get 1 e.msix (msixIndex fn vec 3)).getLsbD 0

/-- Whether HIV 2 was chosen (R316, R317). -/
def State.hiv2 (s : State) : Bool := s.get Reg.HST_HIV_CHOSEN = 2

/-- Sends or holds the message of function `fn`, vector `vec`, or sets EVT_ERR.ROUTE (R325, R326). -/
def State.message (s : State) (fn vec : Nat) : State :=
  if s.ep.hasVector s.hiv2 fn vec then
    if s.ep.masked fn vec || s.ep.d3hot.getLsbD fn then
      if s.ep.pba.contains (fn, vec) then s else { s with ep := { s.ep with pba := s.ep.pba ++ [(fn, vec)] } }
    else s.send (.msix fn vec)
  else s.set Reg.EVT_ERR_ROUTE 1

/-- The wait flag `n` of sequencer `q` as a register bit. -/
def waitFlag (q n : Nat) : Field := ⟨(Reg.EVT_SFLAG_FLAG q (n / 32)).off, n % 32, n % 32⟩
/-- The pending bit of source `i`. -/
def pendBit (i : Nat) : Field := ⟨(Reg.EVT_PEND_PEND (i / 32)).off, i % 32, i % 32⟩

/-- Wait flag `n` of sequencer `q` becomes `v`; a change makes the mirror image stale (R330). -/
def State.setFlag (s : State) (q n : Nat) (v : Bool) : State :=
  if s.flag (waitFlag q n) = v then s
  else (s.setSeq q { s.seq q with mirrorDirty := true }).set (waitFlag q n) (bnat v)

/-- The message of function `fn`, vector `vec`, once the images of the wait flags of the sequencers `qs` have been written (R315, R330). -/
def State.messageAfter (s : State) (fn vec : Nat) (qs : List Nat) : State :=
  if qs = [] then s.message fn vec else { s with ep := { s.ep with after := s.ep.after ++ [(fn, vec, qs)] } }

/-- The image of the wait flags of sequencer `q` has been written, or is kept no longer: the messages that waited for it alone are sent (R315, R330). -/
def State.mirrored (s : State) (q : Nat) : State :=
  let s1 := s.setSeq q { s.seq q with mirrorDirty := false }
  let l := s1.ep.after.map (fun m => (m.1, m.2.1, m.2.2.filter (· ≠ q)))
  (l.filter (fun m => m.2.2.isEmpty)).foldl (fun t m => t.message m.1 m.2.1) { s1 with ep := { s1.ep with after := l.filter (fun m => !m.2.2.isEmpty) } }

/-- Source `i` is raised (R324, R325); where it sets a wait flag whose image is kept, the image goes before the message (R315). -/
def State.raise (s : State) (i : Nat) : State :=
  let old := s.flag (pendBit i)
  let s1 := s.set (pendBit i) 1
  let who := s1.get (Reg.EVT_SRC_SEQ i)
  let s2 := s1.each 4 (fun q t => if bitAt who q = 1 then t.setFlag q (s1.get (Reg.EVT_SRC_WFLAG i)) true else t)
  let qs := (List.range 4).filter (fun q => decide (bitAt who q = 1) && s2.flag (Reg.EVT_SMIR_EN q) && (s2.seq q).mirrorDirty)
  if s1.flag (Reg.EVT_SRC_EN i) && !old then s2.messageAfter (s1.get (Reg.EVT_SRC_FN i)) (s1.get (Reg.EVT_SRC_VEC i)) qs else s2

/-- The records of one fault, detected; one of a shared resource raises its source, once (R377, R386). -/
def State.detectAll (s : State) (fs : List FaultInfo) : State :=
  let t := fs.foldl State.detect s
  if fs.any (·.shared) then t.raise 0x1D4 else t

/-! ## Completions (R321) -/

/-- The 16 bits of bytes 24-25 of a completion entry. -/
def Completion.bits (c : Completion) (phase : Bool) : Nat :=
  bnat phase + 2 * bnat c.contract + 4 * bnat c.failed + 16 * (c.vkind % 16) + 256 * (c.fault % 256)

/-- The bytes of a completion entry, 32 under HIV 3 and 16 under HIV 2 (R317, R321). -/
def Completion.bytes (c : Completion) (p : Nat) (phase hiv2 : Bool) : List Byte :=
  if hiv2 then leBytes 8 c.token.toNat ++ leBytes 2 (c.bits phase) ++ leBytes 6 0
  else leBytes 8 c.token.toNat ++ leBytes 8 c.first.toNat ++ leBytes 8 c.last.toNat ++ leBytes 2 (c.bits phase) ++
    leBytes 2 p ++ leBytes 2 (min c.replays 0xFFFF) ++ leBytes 2 (min c.rollbacks 0xFFFF)

/-- Whether ring `p`'s completion ring is full (R321). -/
def State.ringFull (s : State) (p : Nat) : Bool :=
  (s.get (Reg.HST_CTAIL_TAIL p) + 1) % 2 ^ (s.ring p).rsize = s.get (Reg.HST_CHEAD_HEAD p) % 2 ^ (s.ring p).rsize

/-- Writes a completion at CTAIL, advances it, and raises the ring's source (R321). -/
def State.writeCompletion (s : State) (p : Nat) (c : Completion) : State :=
  let tail := s.get (Reg.HST_CTAIL_TAIL p)
  let size := if s.hiv2 then 16 else 32
  let s1 := s.send (.hostWrite ((s.ring p).cbase + size * tail) (c.bytes p (s.flag (Reg.HST_CTAIL_PHASE p)) s.hiv2) false)
  let next := (tail + 1) % 2 ^ (s.ring p).rsize
  let s2 := s1.set (Reg.HST_CTAIL_TAIL p) next
  let s3 := if next = 0 then s2.set (Reg.HST_CTAIL_PHASE p) (1 - s2.get (Reg.HST_CTAIL_PHASE p)) else s2
  s3.raise (0x0B0 + p)

/-- A completion that never stalls: nothing on a ring never enabled, held on a full ring (R321). -/
def State.postHeld (s : State) (p : Nat) (c : Completion) : State :=
  if !(s.ring p).ready then s
  else if s.ringFull p || !(s.ring p).held.isEmpty then
    s.setRing p { s.ring p with held := (s.ring p).held ++ [c] }
  else s.writeCompletion p c

/-- Step number of the last step the partition has issued. -/
def State.lastStep (s : State) (p : Nat) : W64 := BitVec.ofNat 64 (s.get (Reg.SEQ_NEXTSTEP_STEP p)) - 1

/-- The open job of partition `p`, if any, is reported failed with `fault` and closed; its mailbox slot is freed (R172,
R320, R321). The token is that of the oldest occupied slot, or a free value where no entry was delivered. -/
def State.failJob (s : State) (p : Nat) (fault : Nat) : State :=
  match (s.seq p).job with
  | none => s
  | some j =>
    let slot := (s.ring p).slots.head?
    let c : Completion := ⟨slot.getD s.freeValue, BitVec.ofNat 64 (s.get (Reg.SEQ_JOBSTEP_STEP p)), s.lastStep p,
      !j.broken, true,
      if s.flag (Reg.SEQ_VIOL_VALID p) then s.get (Reg.SEQ_VIOL_KIND p) else 0, fault, j.replays, j.rollbacks⟩
    let s1 := if slot.isSome then s else s.useFree
    let s2 := s1.setSeq p { s1.seq p with job := none }
    let s3 := s2.setRing p { s2.ring p with slots := (s2.ring p).slots.tail }
    s3.postHeld p c

/-- The watchdog of partition `p` is reloaded while it is enabled; TIMEOUT 0 is read as 1 (R405). -/
def State.wdReload (s : State) (p : Nat) : State :=
  if s.flag (Reg.RST_WDCFG_EN p) then s.set (Reg.RST_WDCNT_REMAIN p) (1000 * max 1 (s.get (Reg.RST_WDCFG_TIMEOUT p))) else s

/-! ## Sequencer faults (R172) -/

/-- SEQ_STATE.STATE values (R183). -/
def seqStopped : Nat := 0
def seqRunning : Nat := 1
def seqWaiting : Nat := 2
def seqFaulted : Nat := 3
def seqHalted : Nat := 4

/-- The fault codes of R172. -/
def illegal : Nat := 0x01
def dispatchFault : Nat := 0x02
def addrFault : Nat := 0x03
def alignFault : Nat := 0x04
def ptrdesc : Nat := 0x05
def fptrap : Nat := 0x06
def expanderFault : Nat := 0x07

/-! ## Data memory of a sequencer (R157) and the reservation (R178) -/

/-- Where `n` bytes at data address `a` of sequencer `p` stand in the Hearth memories, or `none` outside them (R157,
R243). -/
def hearthAt (p a n : Nat) : Option Nat :=
  if a + n ≤ 0x200000 then some (0x200000 * p + a)
  else if 0x1000000 ≤ a ∧ a + n ≤ 0x2000000 then some a
  else none

/-- The reservation of sequencer `q` becomes `v`, in both registers that show it (R183). -/
def State.setRsv (s : State) (q : Nat) (v : Bool) : State :=
  (s.set (Reg.SEQ_RSV_VALID q) (bnat v)).set (Reg.SEQ_STATE_RSVV q) (bnat v)

/-- FLC of sequencer `q` (R92). -/
def State.setFlc (s : State) (q : Nat) (v : Bool) : State := s.set (Reg.SEQ_STATE_FLC q) (bnat v)

/-- The granule of a Hearth address that the reservation of sequencer `q` covers. -/
def State.rsvAt (s : State) (q : Nat) : Nat :=
  let g := s.get (Reg.SEQ_RSV_GRAN q)
  if g < 0x8000 then 0x8000 * q + g else g

/-- Every reservation on a granule that the bytes `a .. a + n - 1` touch is lost (R178). -/
def State.loseRsv (s : State) (a n : Nat) : State :=
  s.each 4 (fun q t =>
    if t.flag (Reg.SEQ_RSV_VALID q) && decide (0 < n ∧ a / 64 ≤ t.rsvAt q ∧ t.rsvAt q ≤ (a + n - 1) / 64)
    then t.setRsv q false else t)

/-- Bytes written to the Hearth memories by any agent (R178). -/
def State.hearthPut (s : State) (a : Nat) (bs : List Byte) : State :=
  { s.loseRsv a bs.length with hearth := writeBytes (s.loseRsv a bs.length).hearth a bs }

/-- Whether two writes have an 8-byte word in common (R179, R180). -/
def PortWrite.meets (w v : PortWrite) : Bool :=
  decide (0 < w.data.length) && decide (0 < v.data.length) && decide (w.addr / 8 ≤ (v.addr + v.data.length - 1) / 8) &&
    decide (v.addr / 8 ≤ (w.addr + w.data.length - 1) / 8)

/-- Whether two writes that follow each other fall in one cycle: free (log entry 40). -/
def State.oneCycle (s : State) : Bool := decide (Config.freeFunction 22 [s.free] % 2 = 1)

/-- A collision at the scratchpad of sequencer `q`, or at the shared scratch with its write: counted and raised, once; the repeat does not collide
again (R179). -/
def State.scratchMeet (s : State) (q : Nat) : State := (({ s with lastPort := none } : State).count (Reg.SEQ_COLL_COUNT q) 1).raise (0x0AC + q)

/-- A write through the system port (R178, R179): where it meets a sequencer's write in one cycle it is repeated in the next, so that it stands. -/
def State.hearthWrite (s : State) (a : Nat) (bs : List Byte) : State :=
  let w : PortWrite := ⟨none, a, bs⟩
  let t : State := { s.hearthPut a bs with lastPort := some w }
  match s.lastPort with
  | some ⟨some q, b, cs⟩ => if PortWrite.meets ⟨some q, b, cs⟩ w then (if s.oneCycle then t.useFree.scratchMeet q else t.useFree) else t
  | _ => t

/-- A write through the port of sequencer `p` (R178, R179): a write of the system port that it meets in one cycle lands after it. -/
def State.seqPut (s : State) (p a : Nat) (bs : List Byte) : State :=
  let w : PortWrite := ⟨some p, a, bs⟩
  let t : State := { s.hearthPut a bs with lastPort := some w }
  match s.lastPort with
  | some ⟨none, b, cs⟩ =>
    if PortWrite.meets ⟨none, b, cs⟩ w then (if s.oneCycle then (t.useFree.hearthPut b cs).scratchMeet p else t.useFree) else t
  | _ => t

/-- Bytes read from the Hearth memories. -/
def State.hearthRead (s : State) (a n : Nat) : List Byte := readBytes s.hearth a n

/-! ## Turfs -/

/-- The turf of tile `t` (R13). -/
def turfOfTile (t : Nat) : Nat := 8 * (t / 32 / 4) + t % 32 / 4
/-- The tile of PE `i`, numbered 2,048·r + c (R13). -/
def tileOfPe (i : Nat) : Nat := 32 * (i / 2048 / 64) + i % 2048 / 64
/-- The turf of PE `i` (R13). -/
def turfOfPe (i : Nat) : Nat := 8 * (i / 2048 / 256) + i % 2048 / 256
/-- The PEs of turf `t`, row by row. -/
def turfPes (t : Nat) : List Nat :=
  (List.range 256).flatMap (fun r => (List.range 256).map (fun c => 2048 * (256 * (t / 8) + r) + 256 * (t % 8) + c))

/-- Whether turf `t` belongs to partition `p` (R14). -/
def State.owns (s : State) (p t : Nat) : Bool := s.flag (Reg.TRF_CFG_ASSIGNED t) && s.get (Reg.TRF_CFG_PART t) = p
/-- The turfs of partition `p`. -/
def State.turfsOf (s : State) (p : Nat) : List Nat := (List.range 64).filter (fun t => s.owns p t)
/-- The turfs of partition `p` that receive steps and contribute to its Flue (R14, R88); a turf takes no step from its fence
step on (R133). -/
def State.serving (s : State) (p : Nat) : List Nat :=
  (s.turfsOf p).filter (fun t =>
    (s.get (Reg.TRF_STATE_STATE t) = 1 || s.get (Reg.TRF_STATE_STATE t) = 2) && (s.fence t).step.isNone)
/-- The smallest maximum bundle width of partition `p`, as a code (R38); 5 where it has no turf. -/
def State.maxWidth (s : State) (p : Nat) : Nat := (s.turfsOf p).foldl (fun m t => min m (s.get (Reg.TRF_CFG_MAXW t))) 5

/-- A TRF_ERR bit set by hardware raises the turf's source (R323). -/
def State.turfError (s : State) (t : Nat) (f : Field) : State := (s.set f 1).raise t

/-- A contract violation of partition `p` (R154, R182): kind, step, engine or tile, unit. One that affects results and was detected at or
after the first step number of the open job clears that job's contract bit (R155). -/
def State.violation (s : State) (p kind step : Nat) (eng : Bool) (unit : Nat) : State :=
  let s1 := if s.flag (Reg.SEQ_VIOL_VALID p) then s else
    ((((s.set (Reg.SEQ_VIOL_VALID p) 1).set (Reg.SEQ_VIOL_KIND p) kind).set (Reg.SEQ_VIOL_ENG p) (bnat eng)).set
      (Reg.SEQ_VIOL_UNIT p) unit).set (Reg.SEQ_VIOLSTEP_STEP p) step
  let q := s1.seq p
  let s2 := if kind ≤ 3 ∧ s1.get (Reg.SEQ_JOBSTEP_STEP p) ≤ step then s1.setSeq p { q with job := q.job.map (fun j => { j with broken := true }) } else s1
  s2.raise (0x0A8 + p)

end Sys2Proof.Machine
end

