-- ==== Sys2Proof/Machine/Array.lean ====
section
/-!
DEFINITION. What an array instruction computes in one bundle: words of a field (R36, R48), the flags of each PE (R49),
the results of R54-R60, R76-R80 and R92-R98, the effect of K (R20, R51), and the step counts of R62, R63, R84 and R99.
-/
namespace Sys2Proof.Machine

/-! ## Fields and words -/

/-- The digit `d` of the field at `a` in one PE (R46). -/
def fieldBit (m : BitVec 8192) (a d : Nat) : Bool := m.getLsbD ((a + d) % 8192)

/-- One bit of a PE's memory written. -/
def putBit (m : BitVec 8192) (i : Nat) (b : Bool) : BitVec 8192 :=
  if b then m ||| BitVec.twoPow 8192 i else m &&& ~~~(BitVec.twoPow 8192 i)

/-- Digits `0 .. n - 1` of the field at `a` written with the bits `f` gives. -/
def putField (m : BitVec 8192) (a : Nat) (f : Nat → Bool) : Nat → BitVec 8192
  | 0 => m
  | n + 1 => putBit (putField m a f n) ((a + n) % 8192) (f n)

/-- The word a bundle of width `k` holds in a field of `len` digits (R48); Z reads 0 (R47). -/
def fieldWord (k : Nat) (ms : List (BitVec 8192)) (a : Option Nat) (len : Nat) : Nat :=
  match a with
  | none => 0
  | some a => natOfBits (len * k) (fun i => fieldBit (ms.getD (i % k) 0) a (i / k))

/-- What an instruction writes in a bundle: the destination field and its word, a work area and its word, masks (bit `j`
for PE `j`) of the flags written in PEs with K = 1, of C and K written in PEs with K = 0, E bits set or cleared, and
masks of Q, S and T. -/
structure BundleResult where
  dst : Nat := 0
  len : Nat := 0
  word : Nat := 0
  work : Nat := 0
  wn : Nat := 0
  wword : Nat := 0
  c : Option Nat := none
  f : Option Nat := none
  n : Option Nat := none
  k : Option Nat := none
  c0 : Option Nat := none
  k0 : Option Nat := none
  e : BitVec 5 := 0
  clearE : Bool := false
  mul : Option (Nat × Nat × Nat) := none
  deriving DecidableEq, Repr

/-- All `k` PEs. -/
def allPes (k : Nat) (b : Bool) : Nat := if b then 2 ^ k - 1 else 0

/-- The mask of a flag over a bundle. -/
def flagMask (k : Nat) (rs : List PeRegs) (g : PeRegs → Bool) : Nat :=
  natOfBits k (fun j => g (rs.getD j PeRegs.reset))

/-- Flag codes of R17. -/
def flagOf (code : Nat) (r : PeRegs) : Bool :=
  match code with
  | 0 => r.c
  | 1 => r.f
  | 2 => r.k
  | _ => r.n

/-- The result that writes flag `code` in PEs with K = 1, and K everywhere (R20). -/
def flagResult (code mask mask0 : Nat) : BundleResult :=
  match code with
  | 0 => { c := some mask }
  | 1 => { f := some mask }
  | 2 => { k := some mask, k0 := some mask0 }
  | _ => { n := some mask }

/-! ## Integer results (R52-R60) -/

/-- The mask of a flag defined on the words truncated at PE `j` to `wj` bits (R49). -/
def truncMask (len k : Nat) (g : Nat → Bool) : Nat := natOfBits k (fun j => g ((len - 1) * k + j + 1))

/-- Whether the integer `v` lies outside the signed range of `w` bits. -/
def outside (v : Int) (w : Nat) : Bool := decide (v < -(2 ^ (w - 1) : Nat)) || decide ((2 ^ (w - 1) : Nat) - 1 < v)

/-- ADD, ADDV. -/
def addResult (dst len k x y c : Nat) (ovf : Bool) : BundleResult :=
  { dst := dst, len := len, word := (x + y + c) % 2 ^ (len * k),
    c := some (truncMask len k (fun w => decide (2 ^ w ≤ x % 2 ^ w + y % 2 ^ w + c))),
    f := if ovf then some (truncMask len k (fun w => outside (signedOf x w + signedOf y w + c) w)) else none }

/-- SUB, SUBV. -/
def subResult (dst len k x y c : Nat) (ovf : Bool) : BundleResult :=
  { dst := dst, len := len, word := encodeInt ((x : Int) - y - c) (len * k),
    c := some (truncMask len k (fun w => decide (x % 2 ^ w < y % 2 ^ w + c))),
    f := if ovf then some (truncMask len k (fun w => outside (signedOf x w - signedOf y w - c) w)) else none }

/-- CMPU, CMPS. The N that enters the second comparison as a borrow is the head's (R49), as the first comparison wrote it. -/
def cmpResult (len k x y c : Nat) (signed : Bool) : BundleResult :=
  let n (w : Nat) : Bool := decide (x % 2 ^ w < y % 2 ^ w + c)
  let cc (w : Nat) : Bool := decide (y % 2 ^ w < x % 2 ^ w + bnat (n (len * k)))
  let top (w : Nat) : Bool := signed && (x.testBit (w - 1) != y.testBit (w - 1))
  { n := some (truncMask len k (fun w => n w != top w)),
    c := some (truncMask len k (fun w => cc w != top w)),
    f := some (truncMask len k (fun w => !n w && !cc w)) }

/-- SHL (R56). -/
def shlResult (dst len k x s : Nat) : BundleResult :=
  let w := len * k
  if w ≤ s then { dst := dst, len := len, word := 0, c := some 0 }
  else
    { dst := dst, len := len, word := x * 2 ^ s % 2 ^ w,
      c := some (if s % k = 0 then 0
        else natOfBits k (fun j => decide (s ≤ w - k + j + 1) && x.testBit (w - k + j + 1 - s))) }

/-- SHRU, SHRS (R56); the destination has a guard digit where s mod k ≠ 0. -/
def shrResult (dst lx ld k x s : Nat) (signed : Bool) : BundleResult :=
  let w := lx * k
  let sign := signed && x.testBit (w - 1)
  let bit (i : Nat) : Bool := if i < w then x.testBit i else sign
  if w ≤ s then
    { dst := dst, len := ld, word := if sign then 2 ^ (ld * k) - 1 else 0, c := some (allPes k sign) }
  else
    let r := s % k
    let high := natOfBits w (fun i => bit (i + s))
    if r = 0 then { dst := dst, len := ld, word := high, c := some (allPes k sign) }
    else
      { dst := dst, len := ld, word := high * 2 ^ k + (bitsOf x (s - 1) (s - r)) * 2 ^ (k - r),
        c := some (natOfBits k (fun j => bit (s + w - k + j + 1))) }

/-- MULU, MULS (R57). -/
def mulResult (dst lx ly k x y : Nat) (signed : Bool) : BundleResult :=
  { dst := dst, len := lx + ly,
    word := if signed then encodeInt (signedOf x (lx * k) * signedOf y (ly * k)) ((lx + ly) * k) else x * y,
    c := some 0, mul := some (0, 0, 0) }

/-- Quotient and remainder of R58 at width `w`, with the edge results of R59, and the E bits. -/
def divide (w : Nat) (signed : Bool) (x y : Nat) : Nat × Nat × BitVec 5 :=
  if y = 0 then (2 ^ w - 1, x, 0x08)
  else if signed then
    let a := signedOf x w
    let b := signedOf y w
    if a = -(2 ^ (w - 1) : Nat) ∧ b = -1 then (x, 0, 0x04)
    else (encodeInt (a.tdiv b) w, encodeInt (a.tmod b) w, 0)
  else (x / y, x % y, 0)

/-- DIVU, DIVS (R58, R59). -/
def divResult (dst lx ly k x y : Nat) (signed : Bool) : BundleResult :=
  let w := lx * k
  let yw := if signed then encodeInt (signedOf y (ly * k)) w else y
  let r := divide w signed x yw
  { dst := dst, len := 2 * lx, word := r.1 + r.2.1 * 2 ^ w, c := some 0, n := some 0, e := r.2.2 }

/-- SPRD (R60). -/
def sprdResult (k : Nat) (rs : List PeRegs) (src dst : Nat) : BundleResult :=
  if k = 1 then
    let v := flagMask 1 rs (flagOf src)
    flagResult dst v v
  else
    let v := allPes k (flagOf src (rs.getD (k - 1) PeRegs.reset))
    { flagResult dst v (flagMask k rs (·.c)) with c := some v }

/-! ## Floating-point results (R76-R80) -/

/-- A floating-point result written to `dst`, padding 0 (R66), C := 0. -/
def fpResult (dst len : Nat) (r : Nat × BitVec 5) (mul : Bool) : BundleResult :=
  { dst := dst, len := len, word := r.1, e := r.2, c := some 0, mul := if mul then some (0, 0, 0) else none }

/-- FCMP, FCMPS (R77). -/
def fcmpResult (k : Nat) (r : Option Ordering × BitVec 5) : BundleResult :=
  { n := some (allPes k (decide (r.1 = some .lt))), c := some (allPes k (decide (r.1 = some .gt))),
    f := some (allPes k (decide (r.1 = some .eq))), e := r.2 }

/-! ## Lengths, checks and step counts -/

/-- The floating-point array instructions. -/
def Mn.isFp (m : Mn) : Bool := m.needsApx || decide (m = .eclr)

/-- The array Flue instructions (R92). -/
def Mn.isFlue (m : Mn) : Bool :=
  match m with
  | .rany | .rall | .rcnt | .rsumu | .rsums | .rmaxu | .rmaxs | .rminu | .rmins | .tmaxu | .tmaxs | .tminu | .tmins => true
  | _ => false

/-- The length of a value of a format at width `k` (R66). -/
def Format.len (f : Format) (k : Nat) : Nat := cdiv f.w k

/-- The wider format of FMULX. -/
def Format.wide (f : Format) : Format := ⟨f.e + 1, 2 * f.p⟩

/-- Lx, Ly and Ld of R165 and R92; `s` is the shift count. -/
def arrayLens (m : Mn) (fla flb k s : Nat) (f : Format) : Nat × Nat × Nat :=
  match m with
  | .mov | .shl => (fla, 0, fla)
  | .bool | .add | .sub | .addv | .subv => (fla, fla, fla)
  | .cmpu | .cmps => (fla, fla, 0)
  | .extu | .exts => (fla, 0, flb)
  | .shru | .shrs => (fla, 0, if s % k = 0 then fla else fla + 1)
  | .mulu | .muls => (fla, flb, fla + flb)
  | .divu | .divs => (fla, flb, 2 * fla)
  | .fadd | .fsub | .fmul | .fdiv | .ffma => (fla, fla, fla)
  | .fsqrt | .fneg | .fabs => (fla, 0, fla)
  | .fmulx => (fla, fla, f.wide.len k)
  | .fcvt | .ftol => (fla, 0, flb)
  | .ltof => (flb, 0, fla)
  | .fcmp | .fcmps => (fla, fla, 0)
  | .fcls => (fla, 0, 0)
  | .rcnt => (0, 0, cdiv 23 k)
  | .rsumu | .rsums => (fla, 0, fla + cdiv 22 k)
  | .rmaxu | .rmaxs | .rminu | .rmins => (fla, 0, fla)
  | .tmaxu | .tmaxs | .tminu | .tmins => (fla, 0, 0)
  | _ => (0, 0, 0)

/-- Whether an instruction is zero-length: it issues no burst and is not refused (R64, R81, R100). -/
def zeroLength (m : Mn) (D : Dispatch) : Bool :=
  match m with
  | .mov | .bool | .add | .sub | .addv | .subv | .cmpu | .cmps | .shl | .shru | .shrs => D.lx = 0
  | .extu | .exts => D.lx = 0 || D.ld = 0
  | .mulu | .muls | .divu | .divs => D.lx = 0 || D.ly = 0
  | .ftol => D.ld = 0
  | .ltof => D.lx = 0
  | .rsumu | .rsums | .rmaxu | .rmaxs | .rminu | .rmins | .tmaxu | .tmaxs | .tminu | .tmins => D.lx = 0
  | _ => false

/-- Whether two fields share an address (R50). -/
def overlaps (a : Option Nat) (la : Nat) (b : Option Nat) (lb : Nat) : Bool :=
  match a, b with
  | some a, some b =>
    decide (0 < la) && decide (0 < lb) &&
      (decide ((b % 8192 + 8192 - a % 8192) % 8192 < la) || decide ((a % 8192 + 8192 - b % 8192) % 8192 < lb))
  | _, _ => false

/-- The quantities of R84. -/
structure FpCounts where
  l : Nat
  le : Nat
  lm : Nat
  ls : Nat
  b : Nat
  deriving DecidableEq, Repr

/-- L, Le, Lm, Ls and b of a format at width `k` (R84). -/
def fpCounts (f : Format) (k : Nat) : FpCounts :=
  ⟨f.len k, cdiv (f.e + 2) k, cdiv (f.p + 3) k, cdiv f.p k, clog2 (f.p + 3)⟩

/-- The accumulator length La of FTOL and LTOF. -/
def accLen (m : Mn) (D : Dispatch) : Nat := if m = .ltof then D.lx else D.ld

/-- The work size Wn (R84). -/
def workSize (m : Mn) (D : Dispatch) : Nat :=
  let k := 2 ^ D.kw
  let q := fpCounts D.fmt k
  let lm2 := cdiv (2 * D.fmt.p + 3) k
  match m with
  | .fadd | .fsub | .fmul | .fdiv | .fsqrt => 3 * q.lm + 2 * q.le + 4
  | .ffma | .fmulx => 3 * lm2 + 2 * q.le + 4
  | .fcvt => 3 * (fpCounts D.fmt2 k).lm + 2 * cdiv (max D.fmt.e D.fmt2.e + 2) k + 4
  | .ftol | .ltof => 3 * q.lm + 2 * q.le + 4 + accLen m D
  | _ => 0

/-- The steps of R62, R84 and R99, before conflicts. SHRS by 0 at k > 1 takes the L + 1 steps of R62's table, where R56 speaks of L steps for a shift
by 0 (DESIGN CHOICE: the spec says both; log entry 47). -/
def baseSteps (m : Mn) (D : Dispatch) : Nat :=
  let k := 2 ^ D.kw
  let e := if 1 < k then 1 else 0
  let s := D.param.toNat
  let r := s % k
  let w := D.lx * k
  let wy := D.ly * k
  let q := fpCounts D.fmt k
  let b2 := clog2 (2 * D.fmt.p + 3)
  let lm2 := cdiv (2 * D.fmt.p + 3) k
  let mulu := D.lx * (wy + k + 1)
  let divu := w * (2 * D.lx + 3) + D.lx + D.ly + 3
  let mulPass := q.ls * (q.ls * k + k + 1)
  match m with
  | .mov | .bool | .add | .sub => D.lx
  | .extu => D.ld
  | .exts => D.ld + e
  | .addv | .subv => D.lx + 2
  | .cmpu => 2 * D.lx + 2
  | .cmps => 2 * D.lx + 4
  | .shl => if r = 0 ∨ w ≤ s then D.lx else r * (D.lx + 1)
  | .shru => if r = 0 ∨ w ≤ s then D.ld else (D.lx + 1) + (k - r) * (D.lx + 2)
  | .shrs => if r = 0 ∨ w ≤ s then D.ld + e else (D.lx + 1) + 1 + (k - r) * (D.lx + 2)
  | .mulu => mulu
  | .muls => mulu + D.lx + D.ly + 2
  | .divu => divu
  | .divs => divu + 3 * D.lx + D.ly + 4
  | .fset => 1
  | .sprd =>
    let src := D.aop / 4 % 4
    let dst := D.aop % 4
    if k = 1 then (if src = dst then 0 else 1) else (if src = 0 then 0 else 1) + 1 + (if dst = 0 then 0 else 1)
  | .fadd | .fsub => 3 * q.l + (2 * q.b + 3) * q.lm + 3 * q.le + 2 * q.b + 8
  | .fmul => 3 * q.l + mulPass + (q.b + 3) * q.lm + 2 * q.le + q.b + 6
  | .fdiv => 3 * q.l + (D.fmt.p + 2) * (q.lm + 2) + (q.b + 2) * q.lm + 2 * q.le + q.b + 6
  | .fsqrt => 2 * q.l + (D.fmt.p + 2) * (q.lm + 3) + (q.b + 2) * q.lm + q.le + q.b + 6
  | .ffma => 4 * q.l + mulPass + (2 * b2 + 3) * lm2 + 3 * q.le + 2 * b2 + 10
  | .fmulx => 2 * q.l + D.fmt.wide.len k + mulPass + b2 * (lm2 + 1) + 2 * q.le + 6
  | .fcvt =>
    let g := fpCounts D.fmt2 k
    D.lx + D.ld + (g.b + 2) * g.lm + cdiv (max D.fmt.e D.fmt2.e + 2) k + g.b + 6
  | .ftol => q.l + clog2 (D.ld * k) * (D.ld + 2) + q.lm + q.le + 6
  | .ltof => D.lx + clog2 (D.lx * k) * (D.lx + 2) + (q.b + 2) * q.lm + q.l + q.le + 8
  | .fcmp | .fcmps => 4 * q.l + q.le + 6
  | .fcls => q.l + q.le + 4
  | .fneg | .fabs => q.l + 2
  | .eclr => 1
  | .rany | .rall => if D.aop % 8 = 0 then 1 else 49
  | .rcnt => if D.d.isSome then 48 + cdiv 23 k else 1
  | .rsumu | .rsums => if D.d.isSome then 48 + D.lx + cdiv 22 k else D.lx
  | .rmaxu | .rmaxs | .rminu | .rmins => if D.d.isSome then 48 + D.lx else D.lx
  | .tmaxu | .tmaxs | .tminu | .tmins => 48 + D.lx + 1 + 2 * e + (if D.aop % 2 = 0 then 1 else 0)
  | .idle => D.param.toNat
  | _ => 0

/-- Whether two reads conflict: same bank, different addresses (R23). -/
def pairConflicts (a b : Nat) : Bool := a % 8192 / 4096 = b % 8192 / 4096 && a % 8192 ≠ b % 8192

/-- The conflicting ones of the pairs `(a + f i, b + g i)`, `i < n`; a pair that names Z never conflicts (R63). -/
def pairs (a b : Option Nat) (f g : Nat → Nat) : Nat → Nat
  | 0 => 0
  | n + 1 =>
    pairs a b f g n +
      (match a, b with
      | some a, some b => bnat (pairConflicts (a + f n) (b + g n))
      | _, _ => 0)

/-- The conflicting paired reads of R63. -/
def conflicts (m : Mn) (D : Dispatch) : Nat :=
  let k := 2 ^ D.kw
  let l := D.lx
  let last := pairs D.x D.y (fun _ => l - 1) (fun _ => l - 1) 1
  match m with
  | .bool | .add | .sub => pairs D.x D.y id id l
  | .addv | .subv => pairs D.x D.y id id l + pairs D.x D.d (fun _ => l - 1) (fun _ => l - 1) 1
  | .cmpu => 2 * pairs D.x D.y id id l
  | .cmps => 2 * pairs D.x D.y id id l + 2 * last
  | .mulu | .muls =>
    let wy := D.ly * k
    pairs D.y D.d (fun i => i % wy / k) (fun i => 1 + i / wy + i % wy / k) ((l - 1) * wy)
  | .divu | .divs => (l * k + 1) * pairs D.y D.d id (fun q => l + q) D.ly
  | _ => 0

/-- The step numbers an array instruction consumes (R62, R84, R99, R142). -/
def stepCount (m : Mn) (D : Dispatch) : Nat := if zeroLength m D then 0 else baseSteps m D + conflicts m D

/-! ## One bundle -/

/-- The bits of a source word of `m` that count: an FP instruction ignores the padding of a floating-point source (R66). -/
def sourceWord (m : Mn) (D : Dispatch) (k : Nat) (ms : List (BitVec 8192)) (a : Option Nat) (len : Nat) : Nat :=
  let v := fieldWord k ms a len
  if m.isFp ∧ m ≠ .ltof then v % 2 ^ D.fmt.w else v

/-- The operands of an array instruction in a bundle: width, sources, parameters, lengths, formats and the Flue's result. -/
def operandsOf (m : Mn) (D : Dispatch) (ms : List (BitVec 8192)) (flue : Nat) : List Nat :=
  let k := 2 ^ D.kw
  [D.kw, sourceWord m D k ms D.x D.lx, sourceWord m D k ms D.y D.ly, sourceWord m D k ms D.z D.lx, D.param.toNat, D.lx, D.ly, D.ld,
   D.rm, bnat D.fz, D.fmt.e, D.fmt.p, D.fmt2.e, D.fmt2.p, encodeInt D.scale 32, flue]

/-- The flag an instruction of the second group of R51 reads as an operand: C for the sums, differences and comparisons (R54), `src` for
SPRD (R60). -/
def flagOperand (m : Mn) (D : Dispatch) (rs : List PeRegs) : Nat :=
  match m with
  | .add | .sub | .addv | .subv | .cmpu | .cmps => flagMask (2 ^ D.kw) rs (·.c)
  | .sprd => flagMask (2 ^ D.kw) rs (flagOf (D.aop / 4 % 4))
  | _ => 0

/-- Piece `piece` of what a bundle of mixed K writes: a free function of the operands, the width and the K pattern (R51, R98; log entry
8). -/
def freeWord (m : Mn) (D : Dispatch) (piece : Nat) (ms : List (BitVec 8192)) (rs : List PeRegs) (flue : Nat) : Nat :=
  Config.freeFunction (256 + 16 * D.aop + piece)
    (operandsOf m D ms flue ++ [flagMask (2 ^ D.kw) rs (·.k), flagOperand m D rs])

/-- What a work area holds after an instruction: a free function of the operands (R68; log entry 8). -/
def workWord (m : Mn) (D : Dispatch) (ms : List (BitVec 8192)) : Nat :=
  Config.freeFunction (256 + 16 * D.aop + 8) (operandsOf m D ms 0)

/-- What the instruction writes in a bundle whose PEs all hold K = 1, or whose PEs act alone (R54-R60, R76-R80, R92,
R98); `flue` is the partition's Flue result. In a bundle of mixed K under KA = 1, whose final K R98 leaves open, a PE that held K = 0 keeps it and the others
take a free value (DESIGN CHOICE; log entry 47). -/
def bundleResult (m : Mn) (D : Dispatch) (ms : List (BitVec 8192)) (rs : List PeRegs) (flue : Nat) : BundleResult :=
  let k := 2 ^ D.kw
  let x := fieldWord k ms D.x D.lx
  let y := fieldWord k ms D.y D.ly
  let z := fieldWord k ms D.z D.lx
  let d := D.d.getD 0
  let c := bnat (rs.getD (k - 1) PeRegs.reset).c
  let s := D.param.toNat
  let v (n : Nat) : Nat := n % 2 ^ D.fmt.w
  match m with
  | .mov | .extu => { dst := d, len := D.ld, word := x, c := some 0 }
  | .exts =>
    { dst := d, len := D.ld, word := encodeInt (signedOf x (D.lx * k)) (D.ld * k),
      c := some (allPes k (x.testBit (D.lx * k - 1))) }
  | .bool =>
    { dst := d, len := D.ld, c := some 0,
      word := natOfBits (D.ld * k) (fun i => (D.aop % 16).testBit (2 * bnat (x.testBit i) + bnat (y.testBit i))) }
  | .add => addResult d D.ld k x y c false
  | .addv => addResult d D.ld k x y c true
  | .sub => subResult d D.ld k x y c false
  | .subv => subResult d D.ld k x y c true
  | .cmpu => cmpResult D.lx k x y c false
  | .cmps => cmpResult D.lx k x y c true
  | .shl => shlResult d D.lx k x s
  | .shru => shrResult d D.lx D.ld k x s false
  | .shrs => shrResult d D.lx D.ld k x s true
  | .mulu => mulResult d D.lx D.ly k x y false
  | .muls => mulResult d D.lx D.ly k x y true
  | .divu => divResult d D.lx D.ly k x y false
  | .divs => divResult d D.lx D.ly k x y true
  | .fset => let b := allPes k (D.aop % 2 = 1); flagResult (D.aop / 2 % 4) b b
  | .sprd => sprdResult k rs (D.aop / 4 % 4) (D.aop % 4)
  | .fadd => fpResult d D.ld (fpAdd D.fmt D.rm D.fz (v x) (v y)) false
  | .fsub => fpResult d D.ld (fpSub D.fmt D.rm D.fz (v x) (v y)) false
  | .fmul => fpResult d D.ld (fpMul D.fmt D.rm D.fz (v x) (v y)) true
  | .fdiv => fpResult d D.ld (fpDiv D.fmt D.rm D.fz (v x) (v y)) false
  | .fsqrt => fpResult d D.ld (fpSqrt D.fmt D.rm D.fz (v x)) false
  | .ffma => fpResult d D.ld (fpFma D.fmt D.rm D.fz (v x) (v y) (v z)) true
  | .fmulx => fpResult d D.ld (fpMulx D.fmt D.fz (v x) (v y)) true
  | .fcvt => fpResult d D.ld (fpCvt D.fmt D.fmt2 D.rm D.fz (v x)) false
  | .ftol =>
    let w := D.ld * k
    let r := fpToRange D.fmt 2 D.fz (v x) D.scale (-(2 ^ (w - 1) : Nat)) ((2 ^ (w - 1) : Nat) - 1)
    fpResult d D.ld (encodeInt r.1 w, r.2) false
  | .ltof => fpResult d D.ld (fpOfInt D.fmt D.rm D.fz (signedOf x (D.lx * k)) D.scale) false
  | .fcmp => fcmpResult k (fpCompare D.fmt false (v x) (v y))
  | .fcmps => fcmpResult k (fpCompare D.fmt true (v x) (v y))
  | .fcls => let b := allPes k (D.cmask.testBit (fpClass D.fmt (v x))); flagResult (D.aop % 4) b b
  | .fneg => fpResult d D.ld (fpPack D.fmt (!fpSign D.fmt (v x)) 0 0 + v x % 2 ^ (D.fmt.w - 1), 0) false
  | .fabs => fpResult d D.ld (v x % 2 ^ (D.fmt.w - 1), 0) false
  | .eclr => { clearE := true }
  | .rany | .rall => if D.aop % 8 = 0 then {} else let b := allPes k (flue = 1); flagResult (D.aop % 8 - 1) b b
  | .rcnt | .rsumu | .rsums | .rmaxu | .rmaxs | .rminu | .rmins =>
    if D.d.isSome then { dst := d, len := D.ld, word := flue } else {}
  | .tmaxu | .tmaxs | .tminu | .tmins =>
    let tag := allPes k (x = flue)
    if D.aop % 2 = 0 then { k := some tag, k0 := some tag, c := some 0, c0 := some 0 }
    else { k := some tag, c := some 0 }
  | _ => {}

/-- The instructions of the first group of R51 and the Flue forms that R51 does not bind: a mixed bundle acts PE by
PE. -/
def Mn.perPe (m : Mn) (aop : Nat) : Bool :=
  match m with
  | .mov | .extu | .bool | .fset | .rany | .rall | .rcnt | .rsumu | .rsums | .rmaxu | .rmaxs | .rminu | .rmins => true
  | .tmaxu | .tmaxs | .tminu | .tmins => aop % 2 = 0
  | _ => false

/-- Whether C ends as 0 in every PE with K = 1, in a bundle of mixed K too (R53, R76, R98). -/
def Mn.zeroC (m : Mn) : Bool :=
  match m with
  | .mov | .extu | .bool | .mulu | .muls | .divu | .divs | .tmaxu | .tmaxs | .tminu | .tmins => true
  | .fcmp | .fcmps | .fcls => false
  | _ => m.needsApx

/-- The E bits an instruction can set (R59, R61, R71-R76). -/
def Mn.eMask (m : Mn) : BitVec 5 :=
  match m with
  | .divu => 0x08
  | .divs => 0x0C
  | .fadd | .fsub | .fmul | .fsqrt | .ffma | .fcvt => 0x17
  | .fdiv => 0x1F
  | .fmulx | .fcmp | .fcmps => 0x10
  | .ftol => 0x11
  | .ltof => 0x07
  | _ => 0

/-- The bits of the destination that an instruction can set: the W bits of a floating-point result, the padding above being 0 (R66), and all of
any other. -/
def Mn.openBits (m : Mn) (D : Dispatch) (v : Nat) : Nat :=
  match m with
  | .fcvt => v % 2 ^ D.fmt2.w
  | .fmulx => v % 2 ^ D.fmt.wide.w
  | .fadd | .fsub | .fmul | .fdiv | .fsqrt | .ffma | .ltof | .fneg | .fabs => v % 2 ^ D.fmt.w
  | _ => v

/-- Whether SHL or SHRU leaves C = 0 whatever x holds, and whether every bit of x is shifted out (R56). -/
def Dispatch.shiftsWhole (D : Dispatch) : Bool := decide (D.param.toNat % 2 ^ D.kw = 0)
def Dispatch.shiftsOut (D : Dispatch) : Bool := decide (D.lx * 2 ^ D.kw ≤ D.param.toNat)

/-- What the instruction writes with every piece that R51 or log entry 13 leaves open taken from `g`, but for a C that ends as 0 (R53, R98), the
padding above a floating-point result (R66) and E bits that the instruction never sets (R61). Q, S and T are open after MULU and MULS, and 0 after
FMUL, FFMA and FMULX, of which R76 says so in PEs with K = 1. In a bundle whose PEs are `alike` in K the constants of R54 and R56 stand too: N after
a division, Q, S and T after a multiplication, C and a destination that a shift clears. -/
def BundleResult.freed (r : BundleResult) (m : Mn) (D : Dispatch) (g : Nat → Nat) (alike : Bool) : BundleResult :=
  let shift := alike && (m = .shl || m = .shru)
  { r with
    word := if shift && D.shiftsOut then r.word else m.openBits D (g 0)
    c := if m.zeroC || (shift && (D.shiftsWhole || D.shiftsOut)) then r.c else r.c.map (fun _ => g 1)
    f := r.f.map (fun _ => g 2)
    n := if alike && (m = .divu || m = .divs) then r.n else r.n.map (fun _ => g 3)
    k := r.k.map (fun _ => g 4), k0 := if m = .fcls || m.isFlue then r.k0.map (fun _ => g 6) else r.k0
    mul := if !alike && (m = .mulu || m = .muls) then some (g 9, g 10, g 11) else r.mul
    e := BitVec.ofNat 5 (g 5) &&& m.eMask }

/-- In a bundle of mixed K, every piece that an instruction of the second group writes is a function that the manual leaves open (R51,
R98; log entry 8). Of TMAX and TMIN with KA = 1 the model leaves K open in the PEs that held K = 1, and one that held K = 0 keeps it (DESIGN CHOICE;
log entry 47). -/
def BundleResult.mixed (r : BundleResult) (m : Mn) (D : Dispatch) (ms : List (BitVec 8192)) (rs : List PeRegs) (flue : Nat) :
    BundleResult :=
  r.freed m D (fun i => freeWord m D i ms rs flue) false

/-- Whether the PEs of a bundle hold K alike. -/
def sameK (k : Nat) (rs : List PeRegs) : Bool := flagMask k rs (·.k) = 0 || flagMask k rs (·.k) = 2 ^ k - 1

/-- What the instruction writes in a bundle, its work area included (R51, R68). -/
def bundleWrites (m : Mn) (D : Dispatch) (ms : List (BitVec 8192)) (rs : List PeRegs) (flue : Nat) : BundleResult :=
  let k := 2 ^ D.kw
  let r := bundleResult m D ms rs flue
  let r1 := if sameK k rs || m.perPe D.aop then r else r.mixed m D ms rs flue
  { r1 with work := D.work, wn := workSize m D, wword := workWord m D ms }

/-- What the instruction writes in a bundle whose memory a staging row has changed since the instruction began, `seed` telling the occasion
(log entry 13). -/
def bundleOpen (m : Mn) (D : Dispatch) (ms : List (BitVec 8192)) (rs : List PeRegs) (flue : Nat) (seed : List Nat) : BundleResult :=
  let g (i : Nat) : Nat := Config.freeFunction (128 + i) seed
  { (bundleResult m D ms rs flue).freed m D g (sameK (2 ^ D.kw) rs) with work := D.work, wn := workSize m D, wword := g 8 }

/-- The memory of PE `j` after the instruction: only a PE with K = 1 writes (R20). -/
def BundleResult.memory (r : BundleResult) (k j : Nat) (m : BitVec 8192) (g : PeRegs) : BitVec 8192 :=
  if g.k then
    let m1 := putField m r.dst (fun d => r.word.testBit (d * k + j)) r.len
    let m2 := putField m1 r.work (fun d => r.wword.testBit (d * k + j)) r.wn
    putField m2 (r.work + 4096) (fun d => r.wword.testBit ((r.wn + d) * k + j)) r.wn
  else m

/-- The registers of PE `j` after the instruction (R20). -/
def BundleResult.registers (r : BundleResult) (j : Nat) (g : PeRegs) : PeRegs :=
  if g.k then
    { g with
      c := (r.c.map (·.testBit j)).getD g.c, f := (r.f.map (·.testBit j)).getD g.f,
      n := (r.n.map (·.testBit j)).getD g.n, k := (r.k.map (·.testBit j)).getD g.k,
      q := (r.mul.map (·.1.testBit j)).getD g.q, s := (r.mul.map (·.2.1.testBit j)).getD g.s,
      t := (r.mul.map (·.2.2.testBit j)).getD g.t,
      e := if r.clearE then r.e else g.e ||| r.e }
  else { g with c := (r.c0.map (·.testBit j)).getD g.c, k := (r.k0.map (·.testBit j)).getD g.k }

/-! ## The Flue (R90-R93, R98) -/

/-- The per-PE input of a one-bit reduction (R90); `la` holds FLA as read at dispatch. -/
def flueInput (D : Dispatch) (m : BitVec 8192) (g : PeRegs) : Bool :=
  let v := match D.sel with
    | 0 => g.c
    | 1 => g.f
    | 2 => g.k
    | 3 => g.n
    | 4 => m.getLsbD (D.la % 8192)
    | _ => decide (g.e.toNat &&& D.emask ≠ 0)
  v != D.inv

/-- The value of a word under the signedness of a reduction. -/
def flueValue (m : Mn) (w v : Nat) : Int :=
  match m with
  | .rsums | .rmaxs | .rmins | .tmaxs | .tmins => signedOf v w
  | _ => (v : Int)

/-- The Flue result over the inputs, `w` bits wide words (R92, R93): for OR and AND 0 or 1, for COUNT the count, and
otherwise the exact sum, maximum or minimum. -/
def flueCombine (m : Mn) (w : Nat) (vs : List Nat) : Int :=
  let is := vs.map (flueValue m w)
  match m with
  | .rany => bnat (vs.any (· ≠ 0))
  | .rall => bnat (vs.all (· ≠ 0))
  | .rcnt | .rsumu | .rsums => is.foldl (· + ·) 0
  | .rmaxu | .tmaxu => is.foldl max 0
  | .rmaxs | .tmaxs => is.foldl max (-(2 ^ (w - 1) : Nat))
  | .rminu | .tminu => is.foldl min ((2 ^ w : Nat) - 1)
  | .rmins | .tmins => is.foldl min ((2 ^ (w - 1) : Nat) - 1)
  | _ => 0

/-- The width in bits of the result at `dst` (R92). -/
def flueWidth (m : Mn) (w : Nat) : Nat :=
  match m with
  | .rcnt => 23
  | .rsumu | .rsums => w + 22
  | _ => w

/-- The words written at `dst` (R94): `n` bits, sign or zero above. -/
def flueWords (v : Int) (n : Nat) : List W64 :=
  (List.range (cdiv n 64)).map (fun i => BitVec.ofNat 64 (encodeInt v (64 * cdiv n 64) / 2 ^ (64 * i)))

end Sys2Proof.Machine
end

