-- ==== Sys2Proof/Machine/Freeze.lean ====
section
/-!
DEFINITION. Debug halts and freezes (R277, R303, R406, R429-R431): the freeze bits of blocks, how a sequencer enters a debug halt or
stops in another state, how a halt ends; and taking a sequencer fault (R172), which a halt may hold.
-/
namespace Sys2Proof.Machine

/-! ## Kindling engines -/

def State.kch (s : State) (c : Nat) : KChan := SMap.get KChan.reset s.kdl.chans c
def State.keng (s : State) (e : Nat) : KEng := SMap.get KEng.reset s.kdl.engs e

/-- An engine replaced. -/
def State.setKeng (s : State) (e : Nat) (v : KEng) : State :=
  { s with kdl := { s.kdl with engs := SMap.put KEng.reset s.kdl.engs e v } }

/-- A channel replaced; KDL_CST shows its queue levels (R305). -/
def State.setKch (s : State) (c : Nat) (v : KChan) : State :=
  let s1 : State := { s with kdl := { s.kdl with chans := SMap.put KChan.reset s.kdl.chans c v } }
  (s1.set (Reg.KDL_CST_TXLVL c) v.tx.length).set (Reg.KDL_CST_RXLVL c) v.rx.length

/-- The channels of engine `e`. -/
def kChannels (e : Nat) : List Nat := (List.range 32).map (32 * e + ·)

/-- An engine begins to run (R287, R302). -/
def State.kBegin (s : State) (e : Nat) : State :=
  let active := (kChannels e).filter (fun c => s.flag (Reg.KDL_CCFG_EN c))
  let s1 := (kChannels e).foldl (fun t c => (t.setKch c { t.kch c with phase := 0 }).set (Reg.KDL_CST_TICK c) 0) s
  ((s1.setKeng e ⟨active, false, false⟩).set (Reg.KDL_ESTAT_ACTIVE e) active.length).set (Reg.KDL_ESTAT_STATE e) 1

/-- FREEZE of an engine, with its bit in DBG_BFRZ (R303, R429). -/
def State.kFreeze (s : State) (e : Nat) (on : Bool) : State :=
  let s1 := (s.set (Reg.KDL_ECTL_FREEZE e) (bnat on)).set ⟨Reg.DBG_BFRZ_FRZ.off, 24 + e, 24 + e⟩ (bnat on)
  let st := s.get (Reg.KDL_ESTAT_STATE e)
  if on then
    if st = 0 ∨ st = 1 then (s1.setKeng e { s1.keng e with resume := decide (st = 1) }).set (Reg.KDL_ESTAT_STATE e) 2 else s1
  else if st ≠ 2 then s1
  else if (s1.keng e).start then s1.kBegin e
  else (s1.setKeng e { s1.keng e with resume := false }).set (Reg.KDL_ESTAT_STATE e) (bnat (s1.keng e).resume)

/-! ## The edge fabric -/

/-- EDG_STAT.CLKRUN shows the global clocks that run: those with a source, while the fabric runs or is fenced (R286). -/
def State.showClocks (s : State) : State :=
  let st := s.get Reg.EDG_STAT_STATE
  s.set Reg.EDG_STAT_CLKRUN (if st = 2 ∨ (st = 4 ∧ s.flag Reg.EDG_CTL_FREEZE = false) then 255 - s.edge.lost.toNat else 0)

/-- EDG_STAT.STATE becomes `v`. -/
def State.edgeState (s : State) (v : Nat) : State := (s.set Reg.EDG_STAT_STATE v).showClocks

/-- The values of the flip-flops in the INIT bit order, flip-flop `f` of cell `c` at bit 2c + f (R268). -/
def flopBytes (ffs : SMap Bool) : SMap Byte :=
  ffs.foldl (fun m e => SMap.put 0 m (e.1 / 8) (SMap.get 0 m (e.1 / 8) ||| BitVec.twoPow 8 (e.1 % 8))) []

/-- The values of the flip-flops go to the read-back buffer, and DONE is set (R276). -/
def State.takeCapture (s : State) : State :=
  ({ s with edge := { s.edge with armed := none, due := false, buffer := flopBytes s.edge.ffs } } : State).set Reg.EDG_RBCTL_DONE 1

/-- FREEZE of the edge fabric, with its bit in DBG_BFRZ (R277, R429). -/
def State.freezeEdge (s : State) (on : Bool) : State :=
  let s0 := (s.set Reg.EDG_CTL_FREEZE (bnat on)).set ⟨Reg.DBG_BFRZ_FRZ.off, 28, 28⟩ (bnat on)
  let s1 : State := { s0 with edge := { s0.edge with ekWas := s0.edge.ek } }
  let st := s1.get Reg.EDG_STAT_STATE
  let s2 := if on ∧ st = 2 then s1.edgeState 3 else if on = false ∧ st = 3 then s1.edgeState 2 else s1.showClocks
  if on = false ∧ s2.edge.due = true then s2.takeCapture else s2

/-! ## Freeze bits -/

/-- DBG_BFRZ becomes `v`; the bits of the Kindling engines and of the edge fabric are their own FREEZE bits (R429). -/
def State.freezeBlocks (s : State) (v : Nat) : State :=
  let old := s.get Reg.DBG_BFRZ_FRZ
  let s1 := s.each 4 (fun e t => if bitAt old (24 + e) = bitAt v (24 + e) then t else t.kFreeze e (decide (bitAt v (24 + e) = 1)))
  let s2 := if bitAt old 28 = bitAt v 28 then s1 else s1.freezeEdge (decide (bitAt v 28 = 1))
  s2.set Reg.DBG_BFRZ_FRZ v

/-- The turfs of partition `p` as a mask. -/
def State.ownedMask (s : State) (p : Nat) : Nat := natOfBits 64 (s.owns p)

/-- The halt of sequencer `p` ends: its bit of DBG_HALT clears, the turfs that halts froze in its partition are released, and with the last
halt the blocks that halts froze; a watchdog held by the halt goes on with at least 1,000 µs (R406, R431; log entry 31). -/
def State.endHalt (s : State) (p : Nat) : State :=
  if bitAt (s.get Reg.DBG_HALT_HALTED) p = 0 then s
  else
    let s1 := s.set ⟨Reg.DBG_HALT_HALTED.off, p, p⟩ 0
    let mine := s1.dbg.turfs &&& BitVec.ofNat 64 (s1.ownedMask p)
    let s2 := s1.setReg Reg.DBG_TFRZ_FRZ.off (s1.reg Reg.DBG_TFRZ_FRZ.off &&& ~~~mine)
    let s3 : State := { s2 with dbg := { s2.dbg with turfs := s2.dbg.turfs &&& ~~~mine } }
    let s4 := if s3.flag (Reg.RST_WDCFG_EN p) && s3.flag (Reg.RST_WDCFG_FRZ p) then
        s3.set (Reg.RST_WDCNT_REMAIN p) (max (s3.get (Reg.RST_WDCNT_REMAIN p)) 1000)
      else s3
    if s4.get Reg.DBG_HALT_HALTED = 0 then
      ({ s4 with dbg := { s4.dbg with blocks := 0 } } : State).freezeBlocks
        (natOfBits 30 (fun i => bitAt (s4.get Reg.DBG_BFRZ_FRZ) i = 1 && !(bitAt s4.dbg.blocks i = 1)))
    else s4

/-! ## Halts -/

/-- The freezes that DBG_HFRZ selects are set for a halt of sequencer `p` (R430); those it sets anew are the halts' own. -/
def State.haltFreezes (s : State) (p : Nat) : State :=
  let m := s.get Reg.DBG_HFRZ_MASK
  let sel (k lo hi : Nat) : Nat := if bitAt m k = 1 then 2 ^ (hi + 1) - 2 ^ lo else 0
  let turfs : W64 := if bitAt m 0 = 1 then BitVec.ofNat 64 (s.ownedMask p) else 0
  let old := s.reg Reg.DBG_TFRZ_FRZ.off
  let blocks := sel 1 0 7 + sel 2 8 23 + sel 3 24 27 + sel 4 28 28 + sel 5 29 29
  let was := s.get Reg.DBG_BFRZ_FRZ
  let s1 := (s.setReg Reg.DBG_TFRZ_FRZ.off (old ||| turfs)).freezeBlocks (was ||| blocks)
  { s1 with dbg := { s1.dbg with turfs := s1.dbg.turfs ||| (turfs &&& ~~~old), blocks := s1.dbg.blocks ||| (was ||| blocks) - was } }

/-- Sequencer `p` enters a debug halt, to return to state `left` at its resume; a halt that a STEP had left for one instruction is taken up
again (R430, R431). The reservation is lost (R178). -/
def State.haltSeq (s : State) (p left : Nat) : State :=
  let s1 := ((s.setSeq p { s.seq p with haltReq := false, left := some left, waiting := none }).set (Reg.SEQ_STATE_STATE p) seqHalted).setRsv p
    false
  if bitAt (s.get Reg.DBG_HALT_HALTED) p = 1 then s1
  else ((s1.set ⟨Reg.DBG_HALT_HALTED.off, p, p⟩ 1).haltFreezes p).raise 0x1E4

/-- Sequencer `p` stops in state `st`; where a debug halt is requested or in force, it is halted, and `st` is what it returns to (R430, log
entry 31). -/
def State.stopIn (s : State) (p st : Nat) : State :=
  if (s.seq p).haltReq || decide (bitAt (s.get Reg.DBG_HALT_HALTED) p = 1) then s.haltSeq p st else s.set (Reg.SEQ_STATE_STATE p) st

/-! ## Sequencer faults (R172) -/

/-- Sequencer `p` faults at address `pc` (R172): recorded, stopped, which leaves nothing of a requested stop (R175), its event raised, its open
job failed. -/
def State.seqFault (s : State) (p code reason aop pc : Nat) : State :=
  let s1 := ((((s.set (Reg.SEQ_FAULT_VALID p) 1).set (Reg.SEQ_FAULT_CODE p) code).set (Reg.SEQ_FAULT_REASON p) reason).set
    (Reg.SEQ_FAULT_AOP p) aop).set (Reg.SEQ_FAULTPC_PC p) (pc / 4)
  let s2 := (s1.setSeq p { s1.seq p with stopReq := false }).stopIn p seqFaulted
  (s2.raise (0x0A0 + p)).failJob p code

end Sys2Proof.Machine
end

