-- ==== Sys2Proof/Machine/Sequencer.lean ====
section
/-!
DEFINITION. What every sequencer instruction shares: fetching and decoding at the PC (R156, R158), pointers (R160,
R161), stalls on outstanding results (R192) and on Flue results (R95), repetition (R173-R175), retiring, and taking an
interrupt frame (R176). A command for an instruction whose turn has not come leaves the state unchanged (log entry 1).
-/
namespace Sys2Proof.Machine

/-! ## Pointers -/

/-- The address of pointer `i` of sequencer `p`. -/
def State.ptr (s : State) (p i : Nat) : Nat := s.get (Reg.SEQ_PADDR_VALUE p i)
/-- The descriptor of pointer `i` of sequencer `p` (R162). -/
def State.pdesc (s : State) (p i : Nat) : Nat := s.get (Reg.SEQ_PDESC_VALUE p i)
/-- Pointer `i` of sequencer `p` takes a 64-bit address. -/
def State.setPtr (s : State) (p i : Nat) (v : Int) : State := s.set (Reg.SEQ_PADDR_VALUE p i) (encodeInt v 64)

/-- The wrap of R160: modulo length `ml` from base `mb`; none when `ml` is 0. -/
def wrapPtr (desc : Nat) (v : Int) : Int :=
  let mb : Int := bitsOf desc 31 0
  let ml : Int := bitsOf desc 55 32
  if ml = 0 then v else mb + (signedOf (encodeInt (v - mb) 64) 64) % ml

/-- The address a specifier names, scale `size`, in 64-bit arithmetic (R160). -/
def State.specAddr (s : State) (p : Nat) (sp : Spec) (size : Nat) (field : Bool) : Nat :=
  let k : Int := size
  let r : Int := match sp with
    | .abs n => if field then n else 8 * n
    | .ind i d => s.ptr p i + d * k
    | .idx i j => s.ptr p i + s.ptr p j * k
    | .pre i d => s.ptr p i + d * k
    | .post i _ => s.ptr p i
    | .modu i _ => s.ptr p i
    | .rev i _ =>
      let desc := s.pdesc p i
      let brw := bitsOf desc 60 56
      (bitsOf desc 31 0 : Int) + (bitrev brw (s.ptr p i) : Int) * k
    | .imm _ => 0
  let a := encodeInt r 64
  if field then a % 8192 else a

/-- The pointer update a specifier makes, from the pointer's present value (R160, R161). -/
def State.specStep (s : State) (p : Nat) (sp : Spec) (size : Nat) : State :=
  match sp with
  | .pre i d => s.setPtr p i (s.ptr p i + d * size)
  | .post i d => s.setPtr p i (s.ptr p i + d * size)
  | .modu i d => s.setPtr p i (wrapPtr (s.pdesc p i) (s.ptr p i + d * size))
  | .rev i d => s.setPtr p i (s.ptr p i + d)
  | _ => s

/-- The pointer updates of several specifiers, in order (R161). -/
def State.specSteps (s : State) (p : Nat) (l : List (Spec × Nat)) : State :=
  l.foldl (fun t e => t.specStep p e.1 e.2) s

/-! ## Outcomes of an instruction -/

/-- What an instruction does at its turn: it waits, it faults (R172), it gives a state with its own PC, or it is done, with
the state and, for a transfer of control, the next PC. -/
inductive SeqRes where
  | stay
  | fault (code reason : Nat)
  | hold (s : State)
  | done (s : State) (target : Option Nat)

/-- A scalar source: an immediate, or `n` bytes at an address. -/
inductive Source where
  | value (v : Nat)
  | bytes (a : Nat)
  deriving DecidableEq, Repr

/-- The source a specifier names at access size `n` and scale `size`; an immediate is sign-extended to the width
(R185). -/
def State.source (s : State) (p : Nat) (sp : Spec) (n size : Nat) : Source :=
  match sp with
  | .imm v => .value (encodeInt v (8 * n))
  | _ => .bytes (s.specAddr p sp size false)

/-- The value of a source of `n` bytes; `none` is an address outside the data space (R157). -/
def State.sourceValue (s : State) (p : Nat) (n : Nat) : Source → Option Nat
  | .value v => some v
  | .bytes a => (hearthAt p a n).map (fun h => leNat (s.hearthRead h n))

/-- The bytes of data memory a source touches. -/
def sourceRange (p n : Nat) : Source → List (Nat × Nat)
  | .value _ => []
  | .bytes a => [((hearthAt p a n).getD a, n)]

/-- Whether two byte ranges meet. -/
def meets (a b : Nat × Nat) : Bool := decide (a.1 < b.1 + b.2) && decide (b.1 < a.1 + a.2)

/-- The bursts a partition has issued and not completed. -/
def Part.queued (t : Part) : List Burst := t.issue ++ t.draught ++ t.buffer

/-- The Flue mode of a burst (R210). -/
def Burst.flueMode (b : Burst) : Nat := bitsOf b.nano.toNat 41 38

/-- Whether a Flue mode delivers words to `dst` (3 to 9) and not FLC (R92, R210). -/
def wordMode (mode : Nat) : Bool := decide (3 ≤ mode) && decide (mode ≤ 9)
/-- Whether a Flue mode delivers to FLC. -/
def flcMode (mode : Nat) : Bool := decide (mode = 1) || decide (mode = 2) || decide (10 ≤ mode)

/-- The Flue modes of the bursts of macro-instruction `first` that have still to run, and of its streams whose result has still to be sent
(R95). -/
def Part.flueModes (t : Part) (first : Nat) : List Nat :=
  (t.queued.filter (fun b => decide (b.mfirst = first))).map (·.flueMode) ++
  (t.streams.filter (fun f => decide (f.mfirst = first) && !f.sent)).map (·.mode)

/-- The bits of a word result of a Flue mode over words of `w` bits (R92). -/
def modeWidth (mode w : Nat) : Nat := if mode = 3 then 23 else if mode ≤ 5 then w + 22 else w

/-- The scratchpad bytes that the Flue results of issued bursts may still write (R95). -/
def Part.flueRanges (t : Part) (p : Nat) : List (Nat × Nat) :=
  t.opened.flatMap (fun o => ((t.flueModes o.first).filter wordMode).map
    (fun m => (0x200000 * p + o.disp.dst, 8 * max 1 (cdiv (modeWidth m (o.disp.lx * 2 ^ o.disp.kw)) 64))))

/-- Whether a byte range meets one that an outstanding instruction will write (R192), or a word of a Flue destination
not yet written (R95). -/
def State.busyRange (s : State) (p : Nat) (r : Nat × Nat) : Bool :=
  (s.seq p).outstanding.any (fun o => decide (0 < o.bytes.length) && meets r (o.dst, o.bytes.length)) ||
  (s.part p).results.any (fun f => !f.failed && decide (0 < f.words.length) && meets r (0x200000 * p + f.dst, 8 * f.words.length)) ||
  ((s.part p).flueRanges p).any (meets r)

/-- Whether an integer result is outstanding, which holds every reader and writer of SST (R192). -/
def State.sstBusy (s : State) (p : Nat) : Bool := (s.seq p).outstanding.any (fun o => o.sst.isSome)
/-- Whether the FPU has an instruction outstanding (R192). -/
def State.fpuBusy (s : State) (p : Nat) : Bool := (s.seq p).outstanding.any (·.fp)
/-- Whether a trap is pending (R200). -/
def State.trapPending (s : State) (p : Nat) : Bool := getField (s.seq p).fsr 31 31 = 1
/-- Whether FLC waits for a Flue result, on its way, of a burst under way, or of a stream (R95). -/
def State.flcBusy (s : State) (p : Nat) : Bool :=
  (s.part p).results.any (fun f => f.flc.isSome && !f.failed) || (s.part p).queued.any (fun b => flcMode b.flueMode) ||
  (s.part p).streams.any (fun f => !f.sent && !f.failed && flcMode f.mode)

/-! ## Fetch, decode and boundaries -/

/-- The unit at byte address `a` of sequencer `p`'s instruction memory, addresses modulo its 1 MiB (R156). -/
def State.unitAt (s : State) (p a : Nat) : Nat := leNat (readBytes s.imem (0x100000 * p + a % 0x100000) 4)

/-- The dispatch entry of an AOP (R205, R215). -/
def State.dispatchEntry (s : State) (p aop : Nat) : W32 :=
  SMap.get (romEntry aop) (s.patch p).dispatch aop

/-- Whether a ROM microaddress belongs to the routine that starts at `u`: its first microword, and others of a routine that the manual does not
print; that of ADD is one microword (R210; log entry 9). -/
def inRoutine (u a : Nat) : Bool := decide (a = u) || (decide (u ≠ 0x120) && Config.romRoutine u a)

/-- Whether a valid match register redirects a microword of an AOP's ROM routine (R213). -/
def State.entryMatched (s : State) (p aop : Nat) : Bool :=
  let e := (s.dispatchEntry p aop).toNat
  (s.patch p).hits.any (fun h => h.getLsbD 31 && inRoutine (bitsOf e 14 0) (bitsOf h.toNat 24 11)) && decide (bitsOf e 14 0 < 0x4000) &&
    bitAt e 31 = 1

/-- The dispatch entry of an AOP whose routine a patch gives: by a dispatch record (R205, R215), or by a match register that redirects a microword
of the ROM's (R213). -/
def State.aopValid (s : State) (p aop : Nat) : Option Nat :=
  let e := SMap.get (0 : W32) (s.patch p).dispatch aop
  if e.getLsbD 31 then some e.toNat
  else if s.entryMatched p aop then some (s.dispatchEntry p aop).toNat
  else none

/-- Whether a patch in force gives an AOP its routine (R205, R213, R215). -/
def State.patchedAop (s : State) (p aop : Nat) : Bool := (s.aopValid p aop).isSome

/-- The PC of sequencer `p` (R156). -/
def State.pc (s : State) (p : Nat) : Nat := 4 * s.get (Reg.SEQ_PC_PC p)

/-- Whether a REP is active (R173). -/
def State.repActive (s : State) (p : Nat) : Bool := s.flag (Reg.SEQ_STATE_REPACT p)

/-- The address of the instruction to execute: the target after the REP unit while a REP is active. -/
def State.execAt (s : State) (p : Nat) : Nat := if s.repActive p then s.pc p + 4 else s.pc p

/-- Whether a patch has undefined an AOP: its dispatch record holds V = 0 (R205). -/
def State.aopDead (s : State) (p aop : Nat) : Bool :=
  (s.patch p).dispatch.any (fun e => decide (e.1 = aop)) && !(SMap.get (0 : W32) (s.patch p).dispatch aop).getLsbD 31

/-- Whether a mnemonic is an array instruction's. -/
def Mn.isArray (m : Mn) : Bool :=
  match m with
  | .idle | .mov | .extu | .exts | .bool | .add | .sub | .addv | .subv | .cmpu | .cmps | .shl | .shru | .shrs
  | .mulu | .muls | .divu | .divs | .fset | .sprd
  | .fadd | .fsub | .fmul | .fdiv | .fsqrt | .ffma | .fmulx | .fcvt | .ftol | .ltof | .fcmp | .fcmps | .fneg | .fabs | .eclr
  | .fcls | .rany | .rall | .rcnt | .rsumu | .rsums | .rmaxu | .rmaxs | .rminu | .rmins | .tmaxu | .tmaxs | .tminu | .tmins
  | .newAop => true
  | _ => false

/-- The instruction whose turn it is, decoded. -/
def State.nextInstr (s : State) (p : Nat) : Option SeqInstr :=
  match decodeAt (s.unitAt p) (s.aopValid p) (s.execAt p) with
  | some i => if i.mn.isArray && s.aopDead p i.aop then none else some i
  | none => none

/-- The AOP of the units at `a`, 0 where they are not an array instruction (SEQ_FAULT.AOP, R183). -/
def State.aopAt (s : State) (p a : Nat) : Nat :=
  let u := s.unitAt p a
  if u % 2 = 0 then (if 0x30 ≤ bitsOf u 6 1 ∧ bitsOf u 6 1 ≤ 0x37 then (shortAop (bitsOf u 6 1)).2 else 0)
  else if bitAt u 1 = 1 then bitsOf u 11 2
  else if bitsOf u 7 2 = 0x3F ∧ bitsOf (s.unitAt p (a + 8)) 1 0 = 3 then bitsOf (s.unitAt p (a + 8)) 11 2
  else 0

/-- Whether interrupts, stops and halts may be taken: not inside a microroutine, not between the repetitions of an
uninterruptible REP (R175). -/
def State.atBoundary (s : State) (p : Nat) : Bool :=
  (s.seq p).micro.isNone && !(s.repActive p && !s.flag (Reg.SEQ_STATE_REPI p))

/-- The PC set; it holds no low two bits, so those of a return address are dropped (R156, R176; log entry 44). -/
def State.setPc (s : State) (p a : Nat) : State := s.set (Reg.SEQ_PC_PC p) (a / 4)

/-! ## Reading and writing data memory -/

/-- Whether a write of `bs` at Hearth address `h` sets GO in a collective descriptor slot (R356). -/
def setsGo (h : Nat) (bs : List Byte) : Bool :=
  (List.range 64).any (fun j =>
    let a := 0x1FFF000 + 64 * j + 56
    decide (h ≤ a) && decide (a < h + bs.length) && (bs.getD (a - h) 0).getLsbD 0)

/-- A write by sequencer `p` at a Hearth address; writing GO into a collective slot sets NORB (R373). -/
def State.seqStore (s : State) (p h : Nat) (bs : List Byte) : State :=
  let s1 := s.seqPut p h bs
  if s.flag Reg.FAB_CTL_CEN && setsGo h bs then s1.set (Reg.RST_RECSTAT_NORB p) 1 else s1

/-- The value of a source of `n` bytes; it waits for results not yet written (R95, R192) and faults with ADDR outside the data
space (R157). -/
def State.fetch (s : State) (p n : Nat) (src : Source) : Except SeqRes Nat :=
  if (sourceRange p n src).any (s.busyRange p) then .error .stay
  else match s.sourceValue p n src with
  | none => .error (.fault addrFault 0)
  | some v => .ok v

/-- The Hearth address of a destination of `n` bytes at data address `a`, under the same conditions. -/
def State.dest (s : State) (p n a : Nat) : Except SeqRes Nat :=
  match hearthAt p a n with
  | none => .error (.fault addrFault 0)
  | some h => if s.busyRange p (h, n) then .error .stay else .ok h

/-- A check that faults. -/
def must (b : Bool) (code reason : Nat) : Except SeqRes Unit := if b then .ok () else .error (.fault code reason)

/-- A condition that an instruction waits for. -/
def waitFor (b : Bool) : Except SeqRes Unit := if b then .ok () else .error .stay

/-- The outcome of a body written with the checks above. -/
def seqRes : Except SeqRes SeqRes → SeqRes
  | .ok r => r
  | .error r => r

/-! ## Interrupt frames (R176) -/

/-- SST in the order Z, N, C, V, most significant first (log entry 12). -/
def Sst.bits (t : Sst) : Nat := 8 * bnat t.z + 4 * bnat t.n + 2 * bnat t.c + bnat t.v
/-- SST from its four bits. -/
def Sst.ofBits (n : Nat) : Sst := ⟨n.testBit 3, n.testBit 2, n.testBit 1, n.testBit 0⟩

/-- The 32-byte frame of an interrupt or a trap handler (R176, R203). -/
def State.frame (s : State) (p word3 : Nat) : List Byte :=
  leBytes 8 (s.pc p) ++
  leBytes 8 ((s.seq p).sst.bits + 16 * s.get (Reg.SEQ_STATE_FLC p) + 256 * s.get (Reg.SEQ_STATE_REPACT p) +
    512 * s.get (Reg.SEQ_STATE_REPI p)) ++
  leBytes 8 (s.get (Reg.SEQ_REPCNT_COUNT p)) ++ leBytes 8 word3

/-- Enters the handler at SEQ_IVEC.VEC: pushes the frame at P15 − 32, clears IEN and jumps (R176). A misaligned P15
raises ALIGN, a stack outside the data space ADDR. -/
def State.enterHandler (s : State) (p word3 : Nat) : State :=
  let sp := encodeInt ((s.ptr p 15 : Int) - 32) 64
  if s.ptr p 15 % 8 ≠ 0 then s.seqFault p alignFault 0 0 (s.pc p)
  else match hearthAt p sp 32 with
  | none => s.seqFault p addrFault 0 0 (s.pc p)
  | some h =>
    let s1 := s.seqStore p h (s.frame p word3)
    let s2 := (s1.setPtr p 15 sp).set (Reg.SEQ_IVEC_IEN p) 0
    let s3 := (s2.set (Reg.SEQ_STATE_REPACT p) 0).set (Reg.SEQ_STATE_REPI p) 0
    let s4 := (s3.setSeq p { s3.seq p with waiting := none }).set (Reg.SEQ_STATE_STATE p) seqRunning
    s4.setPc p (4 * s.get (Reg.SEQ_IVEC_VEC p))

/-! ## Boundaries (R175, R201) -/

/-- A pending trap is delivered (R203): to the handler, or as the fault FPTRAP. -/
def State.deliverTrap (s : State) (p : Nat) : State :=
  let q := s.seq p
  let s1 := s.setSeq p { q with fsr := setField q.fsr 31 31 0 }
  if getField q.fsr 4 4 = 1 ∧ s.flag (Reg.SEQ_IVEC_IEN p) then s1.enterHandler p (6 + 256 * getField q.tra 28 24)
  else s1.seqFault p fptrap 0 0 (getField q.tra 19 0)

/-- A stop or a debug halt requested at the next boundary takes place (R175, R430). -/
def State.takeStop (s : State) (p : Nat) : State :=
  if !s.atBoundary p then s
  else if (s.seq p).haltReq then s.haltSeq p seqRunning
  else if (s.seq p).stopReq then
    (s.setSeq p { s.seq p with stopReq := false }).set (Reg.SEQ_STATE_STATE p) seqStopped
  else s

/-- The boundary between two instructions: a refused burst stops the sequencer here (R30), then requested stops and halts (R175). -/
def State.boundary (s : State) (p : Nat) : State :=
  match (s.seq p).expander with
  | some aop =>
    if s.atBoundary p then (s.setSeq p { s.seq p with expander := none }).seqFault p expanderFault 0 aop (s.execAt p) else s
  | none => s.takeStop p

/-- An instruction of `size` bytes at `at_` retires: under a REP one repetition is done (R173), else the PC moves on. At the boundary after an
uninterruptible REP a pending trap is delivered (R201). -/
def State.retire (s : State) (p at_ size : Nat) (target : Option Nat) : State :=
  let s1 :=
    if s.repActive p then
      let n := s.get (Reg.SEQ_REPCNT_COUNT p) - 1
      let s2 := s.set (Reg.SEQ_REPCNT_COUNT p) n
      if n = 0 then
        let s3 := ((s2.set (Reg.SEQ_STATE_REPACT p) 0).set (Reg.SEQ_STATE_REPI p) 0).setPc p (at_ + size)
        if !s.flag (Reg.SEQ_STATE_REPI p) && s3.trapPending p then s3.deliverTrap p else s3
      else s2
    else s.setPc p (target.getD (at_ + size))
  s1.boundary p

/-- Whether the burst in the issue stage waits for a free entry in the tiles' buffers, and the sequencer with it (R29). -/
def Part.crowded (t : Part) : Bool := !t.issue.isEmpty && decide (64 ≤ t.draught.length + t.buffer.length)

/-! ## An instruction at its turn -/

/-- Whether sequencer `p` may execute an instruction: Running, no microroutine under way (R171), its burst not waiting for a buffer entry
(R29), and no recovery or checkpoint holding its issue (R239, R371). -/
def State.canRun (s : State) (p : Nat) : Bool :=
  decide (s.get (Reg.SEQ_STATE_STATE p) = seqRunning) && (s.seq p).micro.isNone &&
    !s.issueHeld p && (s.seq p).ckpt.isNone && !(s.part p).crowded

/-- Runs the instruction at the PC of sequencer `p` if it is a `m` and its turn has come; units that decode to nothing
raise ILLEGAL (R172) under any instruction's command. -/
def State.runInstr (s : State) (p : Nat) (m : Mn) (body : SeqInstr → State → SeqRes) : State :=
  if !s.canRun p then s
  else
    match s.nextInstr p with
    | none => s.seqFault p illegal 0 (s.aopAt p (s.execAt p)) (s.execAt p)
    | some i =>
      if i.mn ≠ m then s
      else match body i s with
      | .stay => s
      | .fault code reason => s.seqFault p code reason i.aop (s.execAt p)
      | .hold t => t
      | .done t target => t.retire p (s.execAt p) i.size target

end Sys2Proof.Machine
end

