-- ==== Sys2Proof/Machine/ArrayRun.lean ====
section
/-!
DEFINITION. Dispatch of an array instruction (R165-R167, R205, R206), its refusals (R50, R67, R94, R172), and its effect
on the partition as a whole: PE state, step numbers (R31, R142), pointers (R171), open macro-instructions (R368, R369) and
Flue results (R95). Its bursts go to the issue stage one at a time (R29, R171).
-/
namespace Sys2Proof.Machine

/-! ## Operands -/

/-- Whether X names a field. -/
def Mn.usesX (m : Mn) : Bool :=
  match m with
  | .fset | .sprd | .idle | .eclr | .rany | .rall | .rcnt => false
  | _ => true

/-- How Y is used: a field, a scalar count, a scalar destination, a work-area start, or nothing (R166). -/
inductive YRole where
  | none | field | count | dst | work
  deriving DecidableEq, Repr

/-- The role of Y (R166). -/
def Mn.yRole (m : Mn) : YRole :=
  match m with
  | .bool | .add | .sub | .addv | .subv | .cmpu | .cmps | .mulu | .muls | .divu | .divs => .field
  | .shl | .shru | .shrs | .idle => .count
  | .rcnt | .rsumu | .rsums | .rmaxu | .rmaxs | .rminu | .rmins => .dst
  | .fadd | .fsub | .fmul | .fdiv | .fsqrt | .ffma | .fmulx | .fcvt | .ftol | .ltof | .fcmp | .fcmps | .fneg | .fabs => .work
  | _ => .none

/-- Whether D names a field where it is not IMM. -/
def Mn.usesD (m : Mn) : Bool :=
  match m with
  | .rcnt | .rsumu | .rsums | .rmaxu | .rmaxs | .rminu | .rmins => true
  | _ => m.writesField

/-- The APX specifiers y and z of an FP instruction, where it has them (R167). -/
def SeqInstr.apxY (i : SeqInstr) : Spec := (spec16 (bitsOf i.apx 47 32)).getD (.imm 0)
def SeqInstr.apxZ (i : SeqInstr) : Spec := (spec16 (bitsOf i.apx 63 48)).getD (.imm 0)
def Mn.hasApxY (m : Mn) : Bool :=
  match m with
  | .fadd | .fsub | .fmul | .fdiv | .fmulx | .fcmp | .fcmps | .ffma => true
  | _ => false

/-- The source format of an APX unit (R167). -/
def SeqInstr.fmt (i : SeqInstr) : Format := ⟨bitsOf i.apx 16 12 + 8, bitsOf i.apx 28 17 + 8⟩
/-- The destination format of FCVT (R167). -/
def SeqInstr.fmt2 (i : SeqInstr) : Format := ⟨bitsOf i.apx 36 32 + 8, bitsOf i.apx 48 37 + 8⟩

/-- A field operand: Z, or its start bit address (R47, R160). -/
def State.fieldAddr (s : State) (p : Nat) (sp : Spec) (len : Nat) : Option Nat :=
  match sp with
  | .imm _ => none
  | _ => some (s.specAddr p sp len true)

/-- The mnemonic whose operand roles an instruction has: its own, or for an AOP outside the table of R170 the one that its entry names
(R205). -/
def State.role (s : State) (p : Nat) (i : SeqInstr) : Mn :=
  if i.mn = .newAop then patchRole (s.dispatchEntry p i.aop).toNat else i.mn

/-- Lx, Ly and Ld by the length group of a patch's entry (R165, R205). -/
def groupLens (g : Nat) (m : Mn) (fla flb k s : Nat) (f : Format) : Nat × Nat × Nat :=
  match g with
  | 0 | 5 => (fla, fla, fla)
  | 1 => arrayLens .extu fla flb k s f
  | 2 => arrayLens .shru fla flb k s f
  | 3 => arrayLens .mulu fla flb k s f
  | 4 => arrayLens .divu fla flb k s f
  | 6 => arrayLens .fmulx fla flb k s f
  | 7 => arrayLens .fcvt fla flb k s f
  | 8 => arrayLens .ftol fla flb k s f
  | 9 => arrayLens .ltof fla flb k s f
  | 10 => arrayLens (if m.group = some 10 then m else .rsumu) fla flb k s f
  | 11 => arrayLens .rcnt fla flb k s f
  | _ => (0, 0, 0)

/-- The lengths of an instruction in the role `m`: by its row of R165, or by the group that a patch's entry names. -/
def State.lens (s : State) (p : Nat) (i : SeqInstr) (m : Mn) (param : Nat) : Nat × Nat × Nat :=
  let fla := s.get (Reg.SEQ_LEN_FLA p)
  let flb := s.get (Reg.SEQ_LEN_FLB p)
  match s.aopValid p i.aop with
  | some e => groupLens (entryGrp e) m fla flb (2 ^ i.kw) param i.fmt
  | none => arrayLens m fla flb (2 ^ i.kw) param i.fmt

/-- The dispatch quantities of instruction `i` in the role `m`, its scalar parameter being `param` (R165, R166,
R206). A floating-point source Z takes the length its format requires (R67); a Flue instruction without a field return has no Ld (R92, R165); a
second format and a scale belong to the instructions whose APX unit holds them (R167). -/
def State.quantities (s : State) (p : Nat) (i : SeqInstr) (m : Mn) (param : Nat) : Dispatch :=
  let k := 2 ^ i.kw
  let fla := s.get (Reg.SEQ_LEN_FLA p)
  let l := s.lens p i m param
  let x := if m.usesX then s.fieldAddr p i.a l.1 else none
  let lx := if m.isFp ∧ m.usesX ∧ m ≠ .ltof ∧ x.isNone then i.fmt.len k else l.1
  let z := if m = .ffma then s.fieldAddr p i.apxZ fla else none
  let y := if m.yRole = .field then s.fieldAddr p i.b l.2.1
    else if m.hasApxY then s.fieldAddr p i.apxY l.2.1 else none
  let bits := match i.a with | .imm v => v.toNat | _ => 0
  let mask := match i.b with | .imm v => v.toNat | _ => 0
  { aop := i.aop, kw := i.kw,
    x := x, y := y, z := z,
    d := if m.usesD then s.fieldAddr p i.d l.2.2 else none,
    lx := lx, ly := l.2.1, ld := if m.isFlue ∧ (!m.usesD || i.d.isImm) = true then 0 else l.2.2,
    la := if m.group = some 11 then fla % 8192 else if m = .ltof then l.1 else l.2.2,
    work := if m.yRole = .work then s.specAddr p i.b 1 true else 0,
    param := BitVec.ofNat 64 param,
    dst := if m.yRole = .dst then s.specAddr p i.b 8 false else 0,
    sel := bits % 16, inv := bitAt bits 4 = 1, emask := bits / 32 % 32, cmask := mask % 1024,
    fz := bitAt i.apx 8 = 1, rm := bitsOf i.apx 11 9, fmt := i.fmt, fmt2 := if m = .fcvt then i.fmt2 else i.fmt,
    scale := if m = .ftol ∨ m = .ltof then signedOf (i.apx / 2 ^ 32) 32 else 0, pc := s.execAt p }

/-- The pointer updates in the order of R161: X, the APX y and z, the body's Y, D. A specifier that the instruction does not use makes no
update (log entry 44). -/
def SeqInstr.arrayUpdates (i : SeqInstr) (m : Mn) (D : Dispatch) : List (Spec × Nat) :=
  (if m.usesX then [(i.a, D.lx)] else []) ++
  (if m.hasApxY then [(i.apxY, D.ly)] else []) ++
  (if m = .ffma then [(i.apxZ, D.lx)] else []) ++
  (match m.yRole with
    | .field => [(i.b, D.ly)]
    | .count => [(i.b, 8)]
    | .dst => [(i.b, 8)]
    | .work => [(i.b, 1)]
    | .none => []) ++
  (if m.usesD then [(i.d, D.ld)] else [])

/-! ## Refusals at dispatch -/

/-- DISPATCH reasons (R172). -/
def reasonShape : Nat := 1
def reasonOverlap : Nat := 2
def reasonWidth : Nat := 3
def reasonFormat : Nat := 4
def reasonWork : Nat := 5
def reasonFluesel : Nat := 6
def reasonDst : Nat := 7

/-- The format conditions of R67. -/
def formatOk (m : Mn) (D : Dispatch) : Bool :=
  let k := 2 ^ D.kw
  let ok (f : Format) : Bool := decide (f.e ≤ 32) && decide (f.p ≤ 4096)
  let is (a : Option Nat) (len : Nat) (f : Format) : Bool := a.isNone || decide (len = f.len k)
  ok D.fmt && decide (D.rm ≤ 5) && (m ≠ .fcvt || ok D.fmt2) && (m ≠ .fmulx || (decide (D.fmt.e ≤ 31) && decide (D.fmt.p ≤ 2048))) &&
  (match m with
  | .fcvt => is D.x D.lx D.fmt && is D.d D.ld D.fmt2
  | .fmulx => is D.x D.lx D.fmt && is D.y D.ly D.fmt && is D.d D.ld D.fmt.wide
  | .ftol => is D.x D.lx D.fmt
  | .ltof => is D.d D.ld D.fmt
  | _ => is D.x D.lx D.fmt && is D.y D.ly D.fmt && is D.z D.lx D.fmt && is D.d D.ld D.fmt)

/-- Whether the destination shares an address with a source (R50, R67, R97). -/
def destOverlaps (D : Dispatch) : Bool :=
  overlaps D.d D.ld D.x D.lx || overlaps D.d D.ld D.y D.ly || overlaps D.d D.ld D.z D.lx

/-- Whether a field shares an address with a half of the work area (R68). -/
def workMeets (D : Dispatch) (wn : Nat) (a : Option Nat) (len : Nat) : Bool :=
  overlaps a len (some D.work) wn || overlaps a len (some (D.work + 4096)) wn

/-- The work-area conditions of R68; an IMM Y names none (R166). -/
def workOk (m : Mn) (D : Dispatch) (imm : Bool) : Bool :=
  let wn := workSize m D
  wn = 0 || (!imm && decide (D.work + wn ≤ 4096) && !workMeets D wn D.x D.lx && !workMeets D wn D.y D.ly &&
    !workMeets D wn D.z D.lx && !workMeets D wn D.d D.ld)

/-- The words of a Flue destination. -/
def dstWords (m : Mn) (D : Dispatch) : Nat := max 1 (cdiv (flueWidth m (D.lx * 2 ^ D.kw)) 64)

/-- Whether `dst` is aligned and lies wholly in the scratchpad (R94). -/
def dstOk (m : Mn) (D : Dispatch) : Bool := D.dst % 8 = 0 && decide (D.dst + 8 * dstWords m D ≤ 0x200000)

/-- The length that the table of R92 gives the field of a return form. -/
def returnLen (m : Mn) (D : Dispatch) : Nat :=
  match m with
  | .rcnt => cdiv 23 (2 ^ D.kw)
  | .rsumu | .rsums => D.lx + cdiv 22 (2 ^ D.kw)
  | _ => D.lx

/-- The length that the shift rule of R54 gives the destination. -/
def shiftLen (m : Mn) (D : Dispatch) : Nat := if m = .shl ∨ D.param.toNat % 2 ^ D.kw = 0 then D.lx else D.lx + 1

/-- Whether lengths break the shape rule SHP of an entry (R205); a group without Ly has no rule on it. -/
def shapeBad (shp : Nat) (m : Mn) (ly : Bool) (D : Dispatch) : Bool :=
  match shp with
  | 1 => decide (D.ld ≠ D.lx) || (ly && decide (D.ly ≠ D.lx))
  | 2 => ly && decide (D.ly ≠ D.lx)
  | 3 => decide (D.ld < D.lx)
  | 4 => decide (D.ld ≠ shiftLen m D)
  | 5 => decide (D.ld ≠ D.lx + D.ly)
  | 6 => decide (D.lx < D.ly) || decide (D.ld ≠ 2 * D.lx)
  | 8 => m.isFlue && D.d.isSome && decide (D.ld ≠ returnLen m D)
  | _ => false

/-- Whether a length group has an Ly (R165). -/
def groupHasLy (g : Nat) : Bool := g = 0 || g = 3 || g = 4 || g = 5 || g = 6

/-- Whether the lengths of an instruction break its shape rule: that of R54, or of the entry `e` that a patch gives its AOP (R205). -/
def lengthsBad (m : Mn) (e : Option Nat) (D : Dispatch) : Bool :=
  decide (8192 < D.lx) || decide (8192 < D.ly) || (D.d.isSome && decide (8192 < D.ld)) ||
  (match e with
  | some e => shapeBad (entryShp e) m (groupHasLy (entryGrp e)) D
  | none => (decide (m.shape = 3) && decide (D.ld < D.lx)) || (decide (m.shape = 6) && decide (D.lx < D.ly)))

/-- The reason an array instruction is refused at dispatch, if it is (R38, R50, R64, R67, R90, R94, R97, R100,
R165); `e` is the entry that a patch gives its AOP (R205). -/
def State.refusal (s : State) (p : Nat) (m : Mn) (e : Option Nat) (D : Dispatch) (workImm : Bool) : Option Nat :=
  let isDst := m.yRole = .dst
  let shp := (e.map entryShp).getD m.shape
  if zeroLength m D then
    if (m = .rsumu ∨ m = .rsums) ∧ !dstOk m D then some reasonDst else none
  else if s.maxWidth p < D.kw then some reasonWidth
  else if (if e.isSome then decide (shp = 7) else m.needsApx) then
    if !formatOk m D then some reasonFormat
    else if !workOk m D workImm then some reasonWork
    else if destOverlaps D then some reasonOverlap
    else none
  else if m.group = some 11 ∧ 5 < D.sel then some reasonFluesel
  else if lengthsBad m e D then some reasonShape
  else if shp ≠ 0 ∧ destOverlaps D then some reasonOverlap
  else if isDst ∧ !dstOk m D then some reasonDst
  else none

/-! ## Open macro-instructions and the confirmation point -/

/-- The window of a replay closes when the faulting macro-instruction, issued again at the restart, has closed; what has still to be issued again
then follows outside the window (R371). -/
def State.closeReplay (s : State) (p : Nat) : State :=
  match s.recov p with
  | some r =>
    if r.action = 1 ∧ r.stage = 2 ∧ decide (s.get (Reg.SEQ_NEXTSTEP_STEP p) = r.sr % 2 ^ 64) = false ∧
        (s.part p).opened.any (fun o => decide (o.first = r.sr)) = false then
      (s.setRecov p (if r.todo = [] then none else some { r with stage := 3 })).set (Reg.RST_RECSTAT_STATE p) 0
    else s
  | none => s

/-- The window of a rollback closes when the first burst of the re-run has been issued (R372). -/
def State.closeRollback (s : State) (p : Nat) : State :=
  match s.recov p with
  | some r => if r.action = 2 ∧ r.stage = 2 then (s.setRecov p none).set (Reg.RST_RECSTAT_STATE p) 0 else s
  | none => s

/-- Whether the microroutine under way is that of the macro-instruction that began at `first`, which then has still to issue its last steps. -/
def State.issuing (s : State) (p first : Nat) : Bool := (s.seq p).micro.any (fun u => decide (u.first = first))

/-- The confirmation point reaches step number `c`: macro-instructions whose last step lies below it close (R366, R368). -/
def State.confirm (s : State) (p c : Nat) : State :=
  let t := s.part p
  State.closeReplay (p := p) <| s.setPart p { t with
    confirmed := max t.confirmed c
    opened := t.opened.filter (fun o => decide (max t.confirmed c < o.next) || s.issuing p o.first) }

/-- The bit address that a one-bit reduction of the ROM reads as its input, select 4 (R90). -/
def Dispatch.bitSource (D : Dispatch) : Option Nat :=
  match aopMn D.aop with
  | some .rany | some .rall | some .rcnt => if D.sel = 4 then some D.la else none
  | _ => none

/-- The step number up to which earlier macro-instructions must be confirmed before one with these destination fields
may issue: those whose sources it overwrites (R368), and the oldest of sixteen (R369). -/
def holdUntil (opened : List OpenMacro) (m : Mn) (D : Dispatch) : Nat :=
  let wn := workSize m D
  let hit (o : OpenMacro) : Bool :=
    let src (a : Option Nat) (len : Nat) : Bool := overlaps D.d D.ld a len || workMeets D wn a len
    src o.disp.x o.disp.lx || src o.disp.y o.disp.ly || src o.disp.z o.disp.lx || src o.disp.bitSource 1
  let h := (opened.filter hit).foldl (fun a o => max a o.next) 0
  if 16 ≤ opened.length then max h ((opened.head?.map (·.next)).getD 0) else h

/-! ## Effect on the partition -/

/-- The PEs of partition `p` that take its steps. -/
def State.pesOf (s : State) (p : Nat) : List Nat := (s.serving p).flatMap turfPes

/-- The memories of the bundle that PE `i` belongs to (R35). -/
def State.bundleMem (s : State) (k i : Nat) : List (BitVec 8192) := (List.range k).map (fun j => s.peMemory (i - i % k + j))
/-- The registers of the bundle that PE `i` belongs to. -/
def State.bundleRegs (s : State) (k i : Nat) : List PeRegs := (List.range k).map (fun j => s.pe (i - i % k + j))

/-- What the bundle of PE `i` writes. -/
def State.writesAt (s : State) (m : Mn) (D : Dispatch) (flue i : Nat) : BundleResult :=
  bundleWrites m D (s.bundleMem (2 ^ D.kw) i) (s.bundleRegs (2 ^ D.kw) i) flue

/-- The memory of PE `i` after the instruction. -/
def State.memAfter (s : State) (m : Mn) (D : Dispatch) (flue i : Nat) : BitVec 8192 :=
  (s.writesAt m D flue i).memory (2 ^ D.kw) (i % 2 ^ D.kw) (s.peMemory i) (s.pe i)

/-- The registers of PE `i` after the instruction. -/
def State.regsAfter (s : State) (m : Mn) (D : Dispatch) (flue i : Nat) : PeRegs :=
  (s.writesAt m D flue i).registers (i % 2 ^ D.kw) (s.pe i)

/-- A turf consumes `n` step numbers, `x` of them from conflicts, the partition then standing at `next` (R31, R43, R44);
a turf in retention has woken (R42). -/
def State.turfSteps (s : State) (t n x next : Nat) : State :=
  (((s.set (Reg.TRF_STEP_STEP t) next).bump (Reg.TRF_PACE_STEPS_STEPS t) n).bump (Reg.TRF_CONFLICT_EXTRA t) x).set
    (Reg.TRF_STATE_STATE t) 1

/-- Partition `p` consumes `n` step numbers, `x` of them from conflicts, that its sequencer has issued. -/
def State.takeSteps (s : State) (p n x : Nat) : State :=
  let next := (s.part p).step + n
  let s1 := s.setPart p { s.part p with step := next }
  (s.serving p).foldl (fun t u => t.turfSteps u n x next) s1

/-- Whether a Flue instruction of the ROM asks for its return form (R92). -/
def Mn.returns (m : Mn) (D : Dispatch) : Bool :=
  match m with
  | .rany | .rall => decide (D.aop % 8 ≠ 0)
  | .tmaxu | .tmaxs | .tminu | .tmins => true
  | _ => D.d.isSome

/-- Whether an instruction asks for its Flue return form, which it has where its entry's RF is 1 (R205). -/
def State.returnForm (s : State) (p : Nat) (D : Dispatch) : Bool :=
  let e := (s.dispatchEntry p D.aop).toNat
  entryRf e && (match aopMn D.aop with
    | some m => if m.isFlue then m.returns D else D.d.isSome
    | none => D.d.isSome || (decide (entryGrp e = 11) && decide (D.aop % 8 ≠ 0)))

/-- The Flue inputs of a partition: one per PE for the one-bit forms, one word per bundle otherwise (R88, R90, R91). -/
def State.flueInputs (s : State) (p : Nat) (m : Mn) (D : Dispatch) : List Nat :=
  match m with
  | .rany | .rall | .rcnt =>
    (s.pesOf p).map (fun i => bnat (flueInput D (s.peMemory i) (s.pe i)))
  | _ =>
    ((s.pesOf p).filter (fun i => i % 2 ^ D.kw = 0)).map (fun i => fieldWord (2 ^ D.kw) (s.bundleMem (2 ^ D.kw) i) D.x D.lx)

/-- The Flue result of a partition (R92, R93). -/
def State.flueResult (s : State) (p : Nat) (m : Mn) (D : Dispatch) : Int :=
  flueCombine m (D.lx * 2 ^ D.kw) (s.flueInputs p m D)

/-- The Flue result as a word for the return path or the tag comparison. -/
def State.flueReturn (s : State) (p : Nat) (m : Mn) (D : Dispatch) : Nat :=
  match m with
  | .tmaxu | .tmaxs | .tminu | .tmins => encodeInt (s.flueResult p m D) (D.lx * 2 ^ D.kw)
  | .rany | .rall => (s.flueResult p m D).toNat
  | _ => encodeInt (s.flueResult p m D) (D.ld * 2 ^ D.kw)

/-- What a Flue instruction without steps delivers to the sequencer: the identity value where no turf contributes (R93), 0 at `dst` for a sum of
zero length, and nothing for another field reduction of zero length (R100). -/
def State.stepless (s : State) (p : Nat) (m : Mn) (D : Dispatch) : List FlueResult :=
  let first := s.get (Reg.SEQ_NEXTSTEP_STEP p)
  let words : List FlueResult := [⟨first, 0, none, D.dst, flueWords (s.flueResult p m D) (flueWidth m (D.lx * 2 ^ D.kw)), false⟩]
  match m with
  | .rany | .rall => [⟨first, 0, some (decide (s.flueResult p m D = 1)), 0, [], false⟩]
  | .tmaxu | .tmaxs | .tminu | .tmins => if D.lx = 0 then [] else [⟨first, 0, some false, 0, [], false⟩]
  | .rcnt => words
  | .rsumu | .rsums => if D.lx = 0 then [⟨first, 0, none, D.dst, [0], false⟩] else words
  | .rmaxu | .rmaxs | .rminu | .rmins => if D.lx = 0 then [] else words
  | _ => []

/-- Whether an array instruction of the table of R170 takes no step: it is of zero length, or a Flue instruction to which no turf contributes
(R64, R93, R100). -/
def State.noSteps (s : State) (p : Nat) (m : Mn) (D : Dispatch) : Bool :=
  (aopMn D.aop).isSome && (zeroLength m D || (m.isFlue && (s.serving p).isEmpty))

/-- An array instruction without steps: its Flue result is on its way, its pointers are updated (R171). -/
def State.performEmpty (s : State) (p : Nat) (m : Mn) (D : Dispatch) (upd : List (Spec × Nat)) : State :=
  let t := s.part p
  (s.setPart p { t with results := t.results ++ s.stepless p m D }).specSteps p upd

/-- The scalar parameter Y of a shift or IDLE (R166). -/
def State.paramSource (s : State) (p : Nat) (m : Mn) (i : SeqInstr) : Source :=
  if m.yRole = .count then s.source p i.b 8 8 else .value 0

/-- Whether the partition's bursts have all completed, so that the next macro-instruction may take its place in step
order. -/
def Part.drained (t : Part) : Bool := t.issue.isEmpty && t.draught.isEmpty && t.buffer.isEmpty

/-- What dispatch decides of an array instruction in the role `m`: it waits, it is refused, or its quantities
(R165-R167, R172, R206). It waits until the issue stage is free (R29), and for results that it reads or overwrites (R95, R192). -/
def State.dispatch (s : State) (p : Nat) (m : Mn) (i : SeqInstr) : Except SeqRes Dispatch :=
  let src := s.paramSource p m i
  match s.sourceValue p 8 src with
  | none => .error (.fault addrFault 0)
  | some v =>
    let D := s.quantities p i m v
    let touched := sourceRange p 8 src ++ (if m.yRole = .dst then [(0x200000 * p + D.dst, 8 * dstWords m D)] else [])
    if !(s.part p).issue.isEmpty || touched.any (s.busyRange p) then .error .stay
    else match s.refusal p m (s.aopValid p i.aop) D i.b.isImm with
    | some r => .error (.fault dispatchFault r)
    | none => .ok D

/-! ## Microroutines (R205, R208, R216) -/

/-- The microroutine goes on with `u`. -/
def State.setMicro (s : State) (p : Nat) (u : Micro) : State := s.setSeq p { s.seq p with micro := some u }

/-- The parity bit of a register snapshot slot (R369). -/
def PeRegs.parity (r : PeRegs) : Bool :=
  r.c ^^ r.f ^^ r.k ^^ r.n ^^ r.q ^^ r.s ^^ r.t ^^ r.e.getLsbD 0 ^^ r.e.getLsbD 1 ^^ r.e.getLsbD 2 ^^ r.e.getLsbD 3 ^^ r.e.getLsbD 4

/-- The parity bits of the slots that hold `pes`. -/
def slotParity (pes : SMap PeRegs) : SMap Bool :=
  (pes.map (fun e => (e.1, e.2.parity))).filter (fun e => decide (e.2 ≠ PeRegs.reset.parity))

/-- A macro-instruction opens with the step numbers from `first` below `next` (R368); its snapshot is taken again in its first step (R369). -/
def State.openMacro (s : State) (p : Nat) (D : Dispatch) (first next : Nat) : State :=
  s.setPart p { s.part p with opened := (s.part p).opened ++ [⟨D, first, next, s.pes, slotParity s.pes⟩] }

/-- The microroutine of an AOP that a patch defines, at its first microword (R205, R206). The increment of a counter that
continues before any burst is free (log entry 8). -/
def State.startMicro (s : State) (p : Nat) (D : Dispatch) (size : Nat) (again : Bool) (upd : List (Spec × Nat)) : State :=
  let first := s.get (Reg.SEQ_NEXTSTEP_STEP p)
  let inc : Int := Config.freeFunction 1 [D.aop]
  (s.openMacro p D first first).setMicro p
    ⟨D, bitsOf (s.dispatchEntry p D.aop).toNat 14 0, none, [], D.x, D.y, D.d, inc, inc, inc, first, size, again, [], false, upd⟩

/-- An array instruction whose AOP a patch defines, at its turn: the shape checks of its entry, then its microroutine begins (R205, R206); one of
the table of R170 without steps issues none (R64, R93, R100). -/
def newAopBody (p : Nat) (i : SeqInstr) (s : State) : SeqRes :=
  let m := s.role p i
  match s.dispatch p m i with
  | .error r => r
  | .ok D =>
    if s.noSteps p m D then .done (s.performEmpty p m D (i.arrayUpdates m D)) none
    else .hold (s.startMicro p D i.size false (i.arrayUpdates m D))

end Sys2Proof.Machine
end

