-- ==== Sys2Proof/Machine/Cord.lean ====
section
/-!
DEFINITION. The Cord tables as they stand (R126-R128): slot entries, the path of a flow, runs (R233), and the steps in which
a bound transfer moves its flits (R145, R149, R233).
-/
namespace Sys2Proof.Machine

/-! ## Routers and fences (R114, R133) -/

/-- Router coordinates of a tile. -/
def tileX (t : Nat) : Nat := t % 32
def tileY (t : Nat) : Nat := t / 32
/-- The die of a tile (R13). -/
def tileDie (t : Nat) : Nat := 2 * (tileY t / 16) + tileX t / 16

/-- The fence domain of a port of router `t`: the turf at a T port, at X0 or X1 the island of the staging engine there (R133). The manual maps
no other mesh port to a domain (DEDUCED; log entry 43). -/
def portDomain (t port : Nat) : Option Nat :=
  match port with
  | 4 => some (turfOfTile t)
  | 5 => some (64 + 2 * tileDie t)
  | 6 => some (65 + 2 * tileDie t)
  | _ => none

/-- Whether a fence has closed a port (R133). -/
def State.portShut (s : State) (t port : Nat) : Bool := (portDomain t port).any (fun d => decide (s.phase d ≠ 0))

/-! ## Slot entries (R127) -/

def cordV (e : Nat) : Bool := bitAt e 31 = 1
def cordFirst (e : Nat) : Bool := bitAt e 30 = 1
def cordLast (e : Nat) : Bool := bitAt e 29 = 1
def cordPart (e : Nat) : Nat := bitsOf e 28 27
def cordIn (e : Nat) : Nat := bitsOf e 26 24
def cordOut (e : Nat) : Nat := bitsOf e 22 20
def cordFlow (e : Nat) : Nat := bitsOf e 11 0

/-- The entry of slot `i` of the router of tile `t`. -/
def State.cordEntry (s : State) (t i : Nat) : Nat := (s.reg (Reg.CRD_SLOT_V t i).off).toNat

/-- The reserved slots of all routers: tile, slot, entry. -/
def State.cordEntries (s : State) : List (Nat × Nat × Nat) :=
  s.regs.filterMap (fun e =>
    if 0x2850000 ≤ e.1 ∧ e.1 < 0x28D0000 ∧ cordV e.2.toNat then
      some ((e.1 - 0x2850000) / 0x200, (e.1 - 0x2850000) % 0x200 / 4, e.2.toNat)
    else none)

/-- Frame length of partition `p` (R126). -/
def State.frameLen (s : State) (p : Nat) : Nat := s.get (Reg.CRD_FRAME_FRAME p)

/-- The router beyond a mesh port, and the port of it that faces back (R114). -/
def beyond (t port : Nat) : Nat :=
  match port with
  | 0 => t - 32
  | 1 => t + 1
  | 2 => t + 32
  | _ => t - 1
def facing (port : Nat) : Nat := (port + 2) % 4

/-- Where the flow that is at slot `i` of tile `t` leaves the mesh, within `n` routers: tile and port. -/
def State.flowExit (s : State) (frame : Nat) : Nat → Nat → Nat → Nat × Nat
  | 0, t, i => (t, cordOut (s.cordEntry t i))
  | n + 1, t, i =>
    let e := s.cordEntry t i
    if !cordV e || cordLast e then (t, cordOut e) else s.flowExit frame n (beyond t (cordOut e)) ((i + 1) % frame)

/-- The FIRST entries of flow `f` of partition `p` that are served (R126); one with a parity error is not (R141): tile, slot, entry. -/
def State.firstEntries (s : State) (p f : Nat) : List (Nat × Nat × Nat) :=
  s.cordEntries.filter (fun e => cordFirst e.2.2 && decide (cordPart e.2.2 = p) && decide (cordFlow e.2.2 = f) &&
    decide (e.2.1 < s.frameLen p) && !s.cordBad.contains (e.1, e.2.1))

/-- Whether the router of tile `t` takes step beats of partition `p` (R115, R126). -/
def State.takesBeats (s : State) (p t : Nat) : Bool := (s.serving p).contains (turfOfTile t)

/-- Whether the router of tile `t` serves slot `i` to partition `p`: it takes the partition's step beats, and no parity error stops it (R126,
R141). -/
def State.slotServed (s : State) (p t i : Nat) : Bool := s.takesBeats p t && !s.cordBad.contains (t, i)

/-- Where a flow starts and ends: tile and port of each (R233). -/
structure FlowPath where
  start : Nat
  inPort : Nat
  stop : Nat
  outPort : Nat
  deriving DecidableEq, Repr

/-- The path of one FIRST entry. -/
def State.pathOf (s : State) (p : Nat) (e : Nat × Nat × Nat) : FlowPath :=
  let x := s.flowExit (s.frameLen p) 1024 e.1 e.2.1
  ⟨e.1, cordIn e.2.2, x.1, x.2⟩

/-- The path of a flow whose FIRST entries all agree (R233). -/
def State.flowPath (s : State) (p f : Nat) : Option FlowPath :=
  match (s.firstEntries p f).map (s.pathOf p) with
  | [] => none
  | x :: xs => if xs.all (fun y => decide (y = x)) then some x else none

/-! ## Runs (R233) -/

/-- How many consecutive slots before slot `i` hold the flow; a flow in every slot has its run begin at slot 0 (log entry
18). -/
def runBefore (slots : List Nat) (frame : Nat) : Nat → Nat → Nat
  | 0, _ => 0
  | n + 1, i =>
    let j := (i + frame - 1) % frame
    if slots.contains j then runBefore slots frame n j + 1 else 0
def runPos (slots : List Nat) (frame i : Nat) : Nat :=
  if slots.length = frame then i else runBefore slots frame frame i

/-- How many consecutive slots from slot `i` on hold the flow. -/
def runFrom (slots : List Nat) (frame : Nat) : Nat → Nat → Nat
  | 0, _ => 0
  | n + 1, i => if slots.contains i then runFrom slots frame n ((i + 1) % frame) + 1 else 0

/-- The length of the run that begins at slot `i`. -/
def runLen (slots : List Nat) (frame i : Nat) : Nat := runFrom slots frame frame i

/-- Whether every run has at least two slots (R227). -/
def runsLong (slots : List Nat) (frame : Nat) : Bool :=
  slots.all (fun i => decide (2 ≤ runLen slots frame ((i + frame - runPos slots frame i) % frame)))

/-! ## Descriptor fields (R226) -/

def StgDesc.dir (d : StgDesc) : Nat := getField d.q0 1 0
def StgDesc.mem (d : StgDesc) : Nat := getField d.q0 3 2
def StgDesc.word (d : StgDesc) : Bool := getField d.q0 4 4 = 1
def StgDesc.repl (d : StgDesc) : Bool := getField d.q0 5 5 = 1
def StgDesc.cord (d : StgDesc) : Bool := getField d.q0 6 6 = 1
def StgDesc.evt (d : StgDesc) : Bool := getField d.q0 7 7 = 1
def StgDesc.kw (d : StgDesc) : Nat := getField d.q0 10 8
def StgDesc.eng (d : StgDesc) : Nat := getField d.q0 14 12
def StgDesc.flow0 (d : StgDesc) : Nat := getField d.q0 43 32
def StgDesc.flown (d : StgDesc) : Nat := getField d.q0 55 44
def StgDesc.maddr (d : StgDesc) : Nat := d.q1.toNat
def StgDesc.bit0 (d : StgDesc) : Nat := getField d.q2 12 0
def StgDesc.len (d : StgDesc) : Nat := getField d.q2 29 16
def StgDesc.tr0 (d : StgDesc) : Nat := getField d.q2 35 32
def StgDesc.tc0 (d : StgDesc) : Nat := getField d.q2 39 36
def StgDesc.rows (d : StgDesc) : Nat := getField d.q2 43 40 + 1
def StgDesc.cols (d : StgDesc) : Nat := getField d.q2 47 44 + 1
def StgDesc.ws (d : StgDesc) : Nat := getField d.q2 63 48
def StgDesc.sstep (d : StgDesc) : Nat := d.q3.toNat
def StgDesc.width (d : StgDesc) : Nat := 2 ^ d.kw

/-- Tile `j` of the region in row-major order, for an engine on die `die` (R226). -/
def StgDesc.tile (d : StgDesc) (die j : Nat) : Nat :=
  32 * (16 * (die / 2) + d.tr0 + j / d.cols) + 16 * (die % 2) + d.tc0 + j % d.cols
/-- The tiles of the region. -/
def StgDesc.tiles (d : StgDesc) (die : Nat) : List Nat := (List.range (d.rows * d.cols)).map (d.tile die)
/-- The flows of a Cord-bound transfer. -/
def StgDesc.flows (d : StgDesc) : List Nat := (List.range d.flown).map (d.flow0 + ·)

/-- Segments a tile moves. -/
def StgDesc.segments (d : StgDesc) : Nat := 64 * d.len

/-! ## The flits of a bound transfer -/

/-- The transfer in progress that flow `f` of partition `p` is bound to, and its engine (R233). -/
def State.bound (s : State) (p f : Nat) : Option (Nat × Transfer) :=
  ((List.range 8).flatMap (fun e => (s.stg e).map (fun x => (e, x)))).find? (fun x =>
    decide (x.2.part = p) && x.2.desc.cord && x.2.desc.flows.contains f)

/-- The tile whose data a flow carries: where it ends for IN, where it starts for OUT. -/
def Transfer.tileOf (x : Transfer) (a : FlowPath) : Nat := if x.desc.dir = 0 then a.stop else a.start

/-- The next step in which flow `f` moves a flit of transfer `x`: while its tile has segments left, then, from the first slot of a run on, while
discarded ones are to be sent again (R233, R237). -/
def State.flitStep (s : State) (x : Transfer) (f : Nat) (a : FlowPath) : Option Nat :=
  let t := x.tileOf a
  let frame := s.frameLen x.part
  let slots := (s.firstEntries x.part f).map (·.2.1)
  let begin_ := x.desc.sstep + x.delta
  let n0 := max begin_ (SMap.get 0 x.from_ t)
  let own := decide (SMap.get 0 x.sent t < x.desc.segments)
  if !own && !x.resend.any (fun r => decide (r.1 = t)) then none
  else ((List.range (2 * frame + 1)).map (n0 + ·)).find? (fun n =>
    let i := runPos slots frame (n % frame)
    slots.contains (n % frame) && decide (begin_ + i ≤ n) && (own || decide (0 < SMap.get 0 x.left t) || decide (i = 0)))

/-- Whether the flow of path `a` can be supplied where it starts: the router takes step beats, and its port is open (R126, R133). -/
def State.canSupply (s : State) (p : Nat) (a : FlowPath) : Bool := s.takesBeats p a.start && !s.portShut a.start a.inPort

/-- Whether step number `n` of partition `p` waits for engine `e` to supply a flit, or to arm the tile that sends it (R145, R234). -/
def State.engineWaits (s : State) (p n e : Nat) : Bool :=
  (s.stg e).any (fun x =>
    decide (x.part = p) && x.desc.cord && x.desc.flows.any (fun f =>
      match s.flowPath p f with
      | some a =>
        match s.flitStep x f a with
        | some k => decide (k ≤ n) && s.canSupply p a
        | none => false
      | none => false))

/-- Whether the routers of partition `p` must still take a reserved flit, or wait for an engine's, before step number `n`
completes (R128, R145). -/
def State.cordWaits (s : State) (p n : Nat) : Bool :=
  s.links.any (fun l => decide (l.part = p) && decide (l.due ≤ n)) || (List.range 8).any (s.engineWaits p n)

end Sys2Proof.Machine
end

