-- ==== Sys2Proof/Machine/Net.lean ====
section
/-!
DEFINITION. Best-effort packets in the mesh: header fields (R117), routers and ports (R114), XY routing (R123), and the virtual channels with
their queues, credits, allocation and round robins (R121, R122), beat by beat (R115); a slot keeps best-effort flits from its output in a
step beat (R129). In a beat every router moves on, from the state before the beat.
-/
namespace Sys2Proof
open Machine

/-! ## Header fields (R117) -/

/-- Bits of a packet's header. -/
def Packet.h (k : Packet) (hi lo : Nat) : Nat := bitsOf k.header.toNat hi lo
def Packet.cls (k : Packet) : Nat := k.h 255 254
def Packet.remote (k : Packet) : Bool := k.h 253 253 = 1
def Packet.bcast (k : Packet) : Bool := k.h 252 252 = 1
def Packet.cmd (k : Packet) : Nat := k.h 247 240
def Packet.len (k : Packet) : Nat := k.h 239 232
def Packet.dest (k : Packet) : Nat := k.h 231 216
def Packet.tile (k : Packet) : Nat := k.h 225 216
def Packet.dport (k : Packet) : Nat := k.h 215 213
def Packet.sport (k : Packet) : Nat := k.h 212 210
def Packet.src (k : Packet) : Nat := k.h 209 200
def Packet.sfab (k : Packet) : Nat := k.h 199 184
def Packet.tag (k : Packet) : Nat := k.h 183 172
def Packet.part (k : Packet) : Nat := k.h 169 168
def Packet.addr (k : Packet) : Nat := k.h 127 64
def Packet.aux (k : Packet) : Nat := k.h 63 0

/-- Bit address and row of segment `g` from ADDR on (R118). -/
def segAt (addr g : Nat) : Nat × Nat :=
  ((bitsOf addr 12 0 + (bitsOf addr 18 13 + g) / 64) % 8192, (bitsOf addr 18 13 + g) % 64)
/-- Bit address and row of segment `g` of a packet to a T port (R118). -/
def Packet.seg (k : Packet) (g : Nat) : Nat × Nat := segAt k.addr g

end Sys2Proof

namespace Sys2Proof.Machine

/-! ## Routers (R114, R123) -/

/-- The router with the H port of each die (R114). -/
def hRouter (die : Nat) : Nat := [495, 496, 527, 528].getD die 495

end Sys2Proof.Machine

namespace Sys2Proof
open Machine

/-- Where a packet leaves the mesh: router and port (R123). -/
def Packet.exit (k : Packet) : Nat × Nat := if k.remote then (hRouter (tileDie k.src), 7) else (k.tile, k.dport)

/-- The fence domain of a packet's endpoint, where it has one. -/
def Packet.domain (k : Packet) : Option Nat := portDomain k.tile k.dport

/-- Whether a packet travels to or from domain `d`. -/
def Packet.touches (k : Packet) (d : Nat) : Bool :=
  decide (portDomain k.tile k.dport = some d) || decide (portDomain k.src k.sport = some d)

end Sys2Proof

namespace Sys2Proof.Machine

/-- Whether a router has a port (R114). -/
def portExists (t port : Nat) : Bool :=
  match port with
  | 0 => decide (0 < tileY t)
  | 1 => decide (tileX t < 31)
  | 2 => decide (tileY t < 31)
  | 3 => decide (0 < tileX t)
  | 4 => true
  | 5 => decide (tileY t = 0) || decide (tileY t = 31)
  | 6 => decide (tileX t = 0) || decide (tileX t = 31)
  | _ => decide (hRouter (tileDie t) = t)

/-! ## Virtual channels (R121, R122) -/

/-- The channel of a port of a router for a class. -/
def channel (t port cls : Nat) : Nat := 32 * t + 4 * port + cls

/-- The port by which a packet leaves router `t` (R123): east or west first, then north or south, then DPORT; a REMOTE packet goes to the
H port of the die on which it entered the mesh. -/
def xyPort (k : Packet) (t : Nat) : Nat :=
  let to_ := k.exit.1
  if tileX t < tileX to_ then 1
  else if tileX to_ < tileX t then 3
  else if tileY t < tileY to_ then 2
  else if tileY to_ < tileY t then 0
  else k.exit.2

/-- The flits of a packet. -/
def flitsOf (k : Packet) : List MeshFlit := (List.range (k.data.length + 1)).map (fun i => ⟨k, i⟩)

/-- Whether a flit is its packet's last. -/
def MeshFlit.tail (f : MeshFlit) : Bool := decide (f.idx = f.pkt.data.length)

/-- The queue of an input channel. -/
def Net.queue (n : Net) (c : Nat) : List MeshFlit := SMap.get [] n.queues c

/-- The packets of `a` that are left when those of `b` are taken out, one for one. -/
def packetsLeft (a b : List Packet) : List Packet := b.foldl List.erase a

/-- The channel at which a packet enters the mesh (R117, R123): its SRC and SPORT, or the H port of the destination tile's die for one that the
gateway puts in. -/
def Net.entry (n : Net) (k : Packet) : Nat :=
  if n.gated.contains k then channel (hRouter (tileDie k.tile)) 7 k.cls else channel k.src k.sport k.cls

/-- A discarded packet is forgotten. -/
def Net.forget (n : Net) (k : Packet) : Net :=
  { n with
    known := n.known.erase k, arrived := n.arrived.erase k, landed := n.landed.filter (fun f => decide (f.pkt ≠ k))
    gated := n.gated.erase k, late := n.late.erase k, replies := n.replies.filter (fun r => decide (r.pkt ≠ k)) }

/-- The net takes in the packets that have entered the mesh since, and forgets those that have left it (R123): the flits of a discarded packet
give back their credits and their output channels. -/
def Net.sync (n : Net) (mesh : List Packet) : Net :=
  let fresh := packetsLeft mesh n.known
  let gone := packetsLeft n.known mesh
  let keep (f : MeshFlit) : Bool := !gone.contains f.pkt
  let n1 : Net :=
    if gone = [] then n
    else
      let out (c : Nat) : Nat := channel (beyond (c / 32) (c / 4 % 8)) (facing (c / 4 % 8)) (c % 4)
      let lost (q : Nat) : Nat := ((n.queue q).filter (fun f => !keep f)).length
      { (gone.foldl Net.forget n) with
        entering := (n.entering.map (fun e => (e.1, e.2.filter keep))).filter (fun e => !e.2.isEmpty)
        queues := (n.queues.map (fun e => (e.1, e.2.filter keep))).filter (fun e => !e.2.isEmpty)
        credits := (n.credits.map (fun e => (e.1, e.2 + lost (out e.1)))).filter (fun e => decide (e.2 ≠ 4))
        owner := n.owner.filter (fun e => e.2.any (fun h => !gone.contains h.pkt)) }
  fresh.foldl (fun m k =>
    let c := m.entry k
    { m with known := m.known ++ [k], entering := SMap.put [] m.entering c (SMap.get [] m.entering c ++ flitsOf k) }) n1

/-- Whether output channel `o` leads to another router; an endpoint takes what it is given (R125). -/
def leadsOn (o : Nat) : Bool := decide (o / 4 % 8 < 4)

/-- Whether the flit at the head of input channel `c` may leave by output channel `o` (R122): a header by a free channel, any other flit by the
one its packet holds. -/
def Net.ready (n : Net) (c o : Nat) : Bool :=
  match (n.queue c).head? with
  | none => false
  | some f =>
    decide (c / 32 = o / 32) && decide (c % 4 = o % 4) && decide (xyPort f.pkt (c / 32) = o / 4 % 8) &&
    (if f.idx = 0 then (SMap.get none n.owner o).isNone else (SMap.get none n.owner o).any (fun h => decide (h.port = c / 4 % 8))) &&
    (!leadsOn o || decide (0 < SMap.get 4 n.credits o))

/-- The input port that has its turn at output channel `o`: round robin from the one after the last (R122). -/
def Net.pickIn (n : Net) (o : Nat) : Option Nat :=
  ((List.range 8).map (fun i => (SMap.get 0 n.nextIn o + i) % 8)).find? (fun i => n.ready (channel (o / 32) i (o % 4)) o)

/-- The class that has its turn at output `port` of router `t`, and its input: round robin over the classes with a flit ready and a credit
(R122). -/
def Net.pick (n : Net) (t port : Nat) : Option (Nat × Nat) :=
  ((List.range 4).map (fun i => (SMap.get 0 n.nextClass (8 * t + port) + i) % 4)).findSome? (fun cls =>
    (n.pickIn (channel t port cls)).map (fun i => (channel t i cls, channel t port cls)))

/-- The moves of a beat: input and output channel of each flit that moves. `shut t port` says that a slot keeps the output (R129). -/
def Net.moves (n : Net) (shut : Nat → Nat → Bool) : List (Nat × Nat) :=
  let routers := (n.queues.map (fun e => e.1 / 32)).eraseDups
  routers.flatMap (fun t => (List.range 8).filterMap (fun port => if shut t port then none else n.pick t port))

/-- One flit moves: it leaves its queue, whose credit can be used from the second beat after this one on (R121), and enters the next router's queue or, with
its last flit, has arrived. -/
def Net.move (n : Net) (m : Nat × Nat) : Net :=
  match (n.queue m.1).head? with
  | none => n
  | some f =>
    let t := m.2 / 32
    let port := m.2 / 4 % 8
    let inPort := m.1 / 4 % 8
    let cls := m.2 % 4
    let n1 : Net := { n with
      queues := SMap.put [] n.queues m.1 (n.queue m.1).tail
      returning := if inPort < 4 then n.returning ++ [(channel (beyond t inPort) (facing inPort) cls, 1)] else n.returning
      owner := SMap.put none n.owner m.2 (if f.tail then none else some ⟨inPort, f.pkt⟩)
      nextIn := if f.idx = 0 then SMap.put 0 n.nextIn m.2 ((inPort + 1) % 8) else n.nextIn
      nextClass := SMap.put 0 n.nextClass (8 * t + port) ((cls + 1) % 4) }
    if leadsOn m.2 then
      let q := channel (beyond t port) (facing port) cls
      { n1 with credits := SMap.put 4 n1.credits m.2 (SMap.get 4 n1.credits m.2 - 1), queues := SMap.put [] n1.queues q (n1.queue q ++ [f]) }
    else if f.tail then { n1 with arrived := n1.arrived ++ [f.pkt] }
    else n1

/-- A flit enters the mesh at a port whose queue has room. -/
def Net.enter (n : Net) (c : Nat) : Net :=
  match SMap.get [] n.entering c with
  | f :: fs =>
    if (n.queue c).length < 4 then
      { n with entering := SMap.put [] n.entering c fs, queues := SMap.put [] n.queues c (n.queue c ++ [f]) }
    else n
  | [] => n

/-- Credits on their way come nearer by a beat. -/
def Net.giveBack (n : Net) : Net :=
  let due := n.returning.filter (fun r => decide (r.2 ≤ 1))
  { n with
    returning := (n.returning.filter (fun r => decide (1 < r.2))).map (fun r => (r.1, r.2 - 1))
    credits := due.foldl (fun m r => SMap.put 4 m r.1 (SMap.get 4 m r.1 + 1)) n.credits }

/-- Whether nothing is under way. -/
def Net.still (n : Net) : Bool := n.entering.isEmpty && n.queues.isEmpty && n.returning.isEmpty

/-- A beat of every router (R115): at most one flit on each link. The flits move as the state before the beat lets them; then, at every port, a flit
of each class may enter (DESIGN CHOICE: the spec does not say how fast an endpoint feeds its router; log entry 47). -/
def Net.beat (n : Net) (shut : Nat → Nat → Bool) : Net :=
  let n1 := ((n.moves shut).foldl Net.move n.giveBack)
  (n.entering.map (·.1)).foldl Net.enter n1

/-- The flits that leave the mesh at a T port in the beat to come. -/
def Net.ejects (n : Net) (shut : Nat → Nat → Bool) : List MeshFlit :=
  ((n.moves shut).filter (fun m => decide (m.2 / 4 % 8 = 4))).filterMap (fun m => (n.queue m.1).head?)

/-- Whether a flit has still to enter. -/
def Net.waits (n : Net) (f : MeshFlit) : Bool := (SMap.get [] n.entering (n.entry f.pkt)).contains f

/-- T ports have read the data flits of their RDATAs that entered in a beat, `n` the net before it and `m` after it: `read` gives a row by tile, row
and bit address (R116). -/
def Net.hear (n m : Net) (read : Nat → Nat → Nat → W64) : Net :=
  let one (r : Reply) : Reply := { r with data := r.data.zipIdx.map (fun e =>
    let f : MeshFlit := ⟨r.pkt, e.2 + 1⟩
    if n.waits f && !m.waits f then
      BitVec.ofNat 256 ((List.range 4).foldl (fun v i =>
        let a := segAt r.addr (4 * e.2 + i)
        v + (read r.pkt.src a.2 a.1).toNat * 2 ^ (64 * i)) 0)
    else e.1) }
  if m.replies.isEmpty then m else { m with replies := m.replies.map one }

/-- Segment `i` of a data flit (R118). -/
def flitSeg (f : W256) (i : Nat) : W64 := BitVec.ofNat 64 (bitsOf f.toNat (64 * i + 63) (64 * i))

end Sys2Proof.Machine
end

