-- ==== Sys2Proof/Machine/Steps.lean ====
section
/-!
DEFINITION. Bursts, single steps and pace: the burst queues (R26-R30), the step of every PE of a partition (R15-R25, R37,
R39, R89, R96, R109-R113), the bursts of the ROM's instructions (R208), retention and the pace counters (R42, R43). The partition's
tiles step together (log entry 14).
-/
namespace Sys2Proof.Machine

/-- The outcome of a command: always a next state (log entry 1). -/
abbrev Res := Host.Outcome State Fault Refusal

/-! ## Nanowords (R210) -/

/-- Bits `hi` to `lo` of a burst's nanoword. -/
def Burst.nb (b : Burst) (hi lo : Nat) : Nat := bitsOf b.nano.toNat hi lo

/-- The field counters at step `j` (R27). -/
def Burst.addr (start : Nat) (inc : Int) (j : Nat) : Nat := (((start : Int) + j * inc) % 8192).toNat

/-- The address a counter select names at step `j` (ASEL, BSEL). -/
def Burst.sel (b : Burst) (code j : Nat) : Nat :=
  match code with
  | 0 => Burst.addr b.fa b.ia j
  | 1 => Burst.addr b.fb b.ib j
  | _ => Burst.addr b.fd b.id j

/-- The addresses of operands a and b, and of the write, at step `j`. -/
def Burst.aAddr (b : Burst) (j : Nat) : Nat := b.sel (b.nb 56 55) j
def Burst.bAddr (b : Burst) (j : Nat) : Nat := b.sel (b.nb 58 57) j
def Burst.dAddr (b : Burst) (j : Nat) : Nat := Burst.addr b.fd b.id j

/-- Whether step `j` is a conflicting step (R23). -/
def Burst.conflict (b : Burst) (j : Nat) : Bool :=
  b.nb 18 16 = 0 && b.nb 21 19 = 0 && pairConflicts (b.aAddr j) (b.bAddr j)

/-- The extra step numbers of a neighbour transfer (R112, R113). -/
def State.transferCost (s : State) (p : Nat) (b : Burst) : Nat :=
  match b.nb 31 29 with
  | 1 | 3 => s.get (Reg.MSH_COST_VCOST p)
  | 2 | 4 => s.get (Reg.MSH_COST_HCOST p)
  | _ => 0

/-- The conflicting steps among the first `n` of a burst. -/
def Burst.conflicts (b : Burst) : Nat → Nat
  | 0 => 0
  | n + 1 => b.conflicts n + bnat (b.conflict n)

/-- The step numbers a burst consumes (R23, R31, R113). -/
def State.burstSteps (s : State) (p : Nat) (b : Burst) : Nat :=
  b.count * (1 + s.transferCost p b) + b.conflicts b.count

/-- The step numbers that several bursts consume. -/
def State.allSteps (s : State) (p : Nat) (bs : List Burst) : Nat := (bs.map (s.burstSteps p)).sum

/-- A burst handed to the issue stage (R29, R171); SEQ_NEXTSTEP then holds the step number after its last (R170). -/
def State.hand (s : State) (p : Nat) (b : Burst) : State :=
  (s.setPart p { s.part p with issue := (s.part p).issue ++ [b] }).bump (Reg.SEQ_NEXTSTEP_STEP p) (s.burstSteps p b)

/-! ## One step of one PE -/

/-- What the step delivers to every PE besides its own state: the operand memory addresses and broadcast bit, and the
Flue return digit with its width. -/
structure StepEnv where
  b : Burst
  j : Nat
  k : Nat
  flue : Nat
  deriving DecidableEq, Repr

/-- An operand of R16. -/
def StepEnv.operand (v : StepEnv) (src addr jj : Nat) (m : BitVec 8192) (g : PeRegs) : Bool :=
  match src with
  | 0 => m.getLsbD addr
  | 1 => g.n
  | 2 => v.flue.testBit jj
  | 3 => v.b.bcast.getLsbD (v.j % 64)
  | 5 => true
  | _ => false

/-- Operands a and b of PE `jj` of its bundle, read before the step (R15, R16). -/
def StepEnv.a (v : StepEnv) (jj : Nat) (m : BitVec 8192) (g : PeRegs) : Bool := v.operand (v.b.nb 18 16) (v.b.aAddr v.j) jj m g
def StepEnv.bb (v : StepEnv) (jj : Nat) (m : BitVec 8192) (g : PeRegs) : Bool := v.operand (v.b.nb 21 19) (v.b.bAddr v.j) jj m g

/-- Whether the carry chain is active: enabled, flag select C and destination C (R37). -/
def StepEnv.chain (v : StepEnv) : Bool := v.b.nb 34 34 = 1 && v.b.nb 23 22 = 0 && v.b.nb 28 25 = 1

/-- The truth-table index of R15. -/
def ttIndex (a b f : Bool) : Nat := 4 * bnat a + 2 * bnat b + bnat f

/-- The carries along a bundle: `h` of PE `jj`, PE 0 taking the C of the head before the step (R37). -/
def StepEnv.chainH (v : StepEnv) (ms : List (BitVec 8192)) (rs : List PeRegs) : Nat → Bool
  | 0 =>
    (v.b.nb 15 8).testBit (ttIndex (v.a 0 (ms.getD 0 0) (rs.getD 0 PeRegs.reset)) (v.bb 0 (ms.getD 0 0) (rs.getD 0 PeRegs.reset))
      (rs.getD (v.k - 1) PeRegs.reset).c)
  | jj + 1 =>
    (v.b.nb 15 8).testBit (ttIndex (v.a (jj + 1) (ms.getD (jj + 1) 0) (rs.getD (jj + 1) PeRegs.reset))
      (v.bb (jj + 1) (ms.getD (jj + 1) 0) (rs.getD (jj + 1) PeRegs.reset)) (v.chainH ms rs jj))

/-- The flag f of PE `jj` (R15, R37). -/
def StepEnv.f (v : StepEnv) (ms : List (BitVec 8192)) (rs : List PeRegs) (jj : Nat) : Bool :=
  if v.chain then
    match jj with
    | 0 => (rs.getD (v.k - 1) PeRegs.reset).c
    | i + 1 => v.chainH ms rs i
  else flagOf (v.b.nb 23 22) (rs.getD jj PeRegs.reset)

/-- The multiplier bit that enters a bundle in a step: operand b of one PE after another from PE 0 on, as the bits of a digit lie across the bundle
(R36, R39, R63; log entry 15). -/
def StepEnv.multBit (v : StepEnv) (ms : List (BitVec 8192)) (rs : List PeRegs) : Bool :=
  let i := v.j % v.k
  v.bb i (ms.getD i 0) (rs.getD i PeRegs.reset)

/-- The multiplier cell of one PE under MAC: the sum and carry of S, T and Q·b (R39, R210; log entry 15). -/
def macCell (g : PeRegs) (b : Bool) : Bool × Bool :=
  let x := g.q && b
  ((g.s != g.t) != x, (g.s && g.t) || (x && (g.s != g.t)))

/-- Operand a as it enters G: under MAC and FLUSH, the partial-sum bit that leaves the bundle (R210). -/
def StepEnv.aG (v : StepEnv) (ms : List (BitVec 8192)) (rs : List PeRegs) (jj : Nat) : Bool :=
  let g0 := rs.getD 0 PeRegs.reset
  match v.b.nb 37 35 with
  | 2 => (macCell g0 (v.multBit ms rs)).1
  | 3 => (macCell g0 false).1
  | _ => v.a jj (ms.getD jj 0) (rs.getD jj PeRegs.reset)

/-- Q, S and T after the step in a PE with K = 1 (R210, log entry 15). -/
def StepEnv.cell (v : StepEnv) (ms : List (BitVec 8192)) (rs : List PeRegs) (jj : Nat) : Bool × Bool × Bool :=
  let g := rs.getD jj PeRegs.reset
  let up (b : Bool) : Bool := decide (jj + 1 < v.k) && (macCell (rs.getD (jj + 1) PeRegs.reset) b).1
  match v.b.nb 37 35 with
  | 1 => (v.a jj (ms.getD jj 0) g, g.s, g.t)
  | 2 => (g.q, up (v.multBit ms rs), (macCell g (v.multBit ms rs)).2)
  | 3 => (g.q, up false, (macCell g false).2)
  | 4 => (false, false, false)
  | _ => (g.q, g.s, g.t)

/-- The bits that a step of PE `jj` computes: m := G[i] and h := H[i] (R15, R18, R37). -/
def StepEnv.bits (v : StepEnv) (ms : List (BitVec 8192)) (rs : List PeRegs) (jj : Nat) : Bool × Bool :=
  let b := v.bb jj (ms.getD jj 0) (rs.getD jj PeRegs.reset)
  let f := v.f ms rs jj
  ((v.b.nb 7 0).testBit (ttIndex (v.aG ms rs jj) b f),
    (v.b.nb 15 8).testBit (ttIndex (v.a jj (ms.getD jj 0) (rs.getD jj PeRegs.reset)) b f))

/-- The memory of a PE with registers `g` after the step, `m` its memory when the write takes effect: bit `w` at FD where MWE is set and
K = 1 (R15, R20). -/
def StepEnv.memory (v : StepEnv) (m : BitVec 8192) (g : PeRegs) (w : Bool) : BitVec 8192 :=
  if v.b.nb 24 24 = 1 && g.k then putBit m (v.b.dAddr v.j) w else m

/-- The registers of a PE after the step: `h` goes to the flag destination, `cell` to Q, S and T, and `cap` is what a neighbour or broadcast
transfer captures into N (R15, R19, R20, R22). -/
def StepEnv.registers (v : StepEnv) (g : PeRegs) (h : Bool) (cell : Bool × Bool × Bool) (cap : Option Bool) : PeRegs :=
  let d := v.b.nb 28 25
  let g1 : PeRegs :=
    if g.k then
      { g with
        c := if d = 1 then h else g.c, f := if d = 2 then h else g.f, n := if d = 4 then h else g.n,
        q := cell.1, s := cell.2.1, t := cell.2.2,
        e := if 5 ≤ d ∧ d ≤ 9 then g.e ||| (if h then BitVec.twoPow 5 (d - 5) else 0)
             else if d = 10 ∧ h then 0 else g.e }
    else g
  { g1 with k := if d = 3 then h else g.k, n := cap.getD g1.n }

/-! ## Neighbour transfers (R109, R110) -/

/-- The neighbour position of PE `i` in mode `nmode`, `none` outside the grid without wrap. -/
def State.neighbour (s : State) (p nmode i : Nat) : Option Nat :=
  let r := i / 2048
  let c := i % 2048
  let v := s.flag (Reg.MSH_TOPO_WRAPV p)
  let h := s.flag (Reg.MSH_TOPO_WRAPH p)
  match nmode with
  | 1 => if 0 < r then some (i - 2048) else if v then some (2047 * 2048 + c) else none
  | 2 => if c < 2047 then some (i + 1) else if h then some (2048 * r) else none
  | 3 => if r < 2047 then some (i + 2048) else if v then some c else none
  | _ => if 0 < c then some (i - 1) else if h then some (2048 * r + 2047) else none

/-- The PEs whose operand a a broadcast combines for PE `i` (R110). -/
def broadcastPes (rowwise : Bool) (i : Nat) : List Nat :=
  let r := i / 2048
  let c := i % 2048
  if rowwise then (List.range 256).map (fun j => 2048 * r + c / 256 * 256 + j)
  else (List.range 256).map (fun j => 2048 * (r / 256 * 256 + j) + c)

/-- Operand a of PE `i` in the step. -/
def State.stepA (s : State) (v : StepEnv) (i : Nat) : Bool := v.a (i % v.k) (s.peMemory i) (s.pe i)

/-- What the step captures into N of PE `i`, if anything (R109, R110). -/
def State.capture (s : State) (p : Nat) (v : StepEnv) (i : Nat) : Option Bool :=
  match v.b.nb 31 29 with
  | 0 => none
  | 5 => some ((broadcastPes true i).any (s.stepA v))
  | 6 => some ((broadcastPes false i).any (s.stepA v))
  | m =>
    let edge : Option Bool := match v.b.nb 33 32 with
      | 0 => some false
      | 1 => some true
      | 2 => some (v.b.bcast.getLsbD (v.j % 64))
      | _ => none
    match s.neighbour p m i with
    | some q => if (s.serving p).contains (turfOfPe q) then some (s.stepA v q) else edge
    | none => edge

/-! ## The Flue under single steps (R89, R96) -/

/-- The mnemonic whose combination a Flue mode of a nanoword names (R210). -/
def fluMode (code : Nat) : Mn :=
  [Mn.rany, .rany, .rall, .rcnt, .rsumu, .rsums, .rmaxu, .rmaxs, .rminu, .rmins, .tmaxu, .tmaxs, .tminu, .tmins].getD code .rany

/-- Whether a mode takes its digits most significant first (R91). -/
def fluHighFirst (code : Nat) : Bool := decide (6 ≤ code)

/-- The slices of an input step: a bit for each PE in the one-bit modes, a digit for each bundle otherwise (R90, R91). -/
def State.slice (s : State) (v : StepEnv) (i : Nat) : Nat :=
  if v.b.nb 41 38 ≤ 3 then
    let D : Dispatch := ⟨0, 0, none, none, none, none, 0, 0, 0, Burst.addr v.b.fa v.b.ia v.j, 0, 0, 0, v.b.nb 45 42,
      v.b.nb 46 46 = 1, v.b.nb 51 47, 0, false, 0, ⟨0, 0⟩, ⟨0, 0⟩, 0, 0⟩
    bnat (flueInput D (s.peMemory i) (s.pe i))
  else natOfBits v.k (fun j => s.stepA v (i + j))

/-- The bundles, or PEs in the one-bit modes, that a stream of mode `mode` reduces over (R89, R91). -/
def State.streamHeads (s : State) (p mode k : Nat) : List Nat :=
  if mode ≤ 3 then s.pesOf p else (s.pesOf p).filter (fun i => i % k = 0)

/-- A stream after it has taken the slices of one more input step (R89, R91). -/
def State.takeSlice (s : State) (p : Nat) (v : StepEnv) (t : StepStream) : StepStream :=
  let f (i : Nat) : Nat :=
    let w := SMap.get 0 t.words i
    if fluHighFirst t.mode then w * 2 ^ v.k + s.slice v i else w + s.slice v i * 2 ^ (t.taken * v.k)
  { t with last := (s.part p).step, taken := t.taken + 1, words := SMap.update (fun _ => 0) t.words f (s.streamHeads p t.mode t.k) }

/-- The dispatch quantities of the open macro-instruction that began at `first`. -/
def State.macroOf (s : State) (p first : Nat) : Option Dispatch :=
  ((s.part p).opened.find? (fun o => decide (o.first = first))).map (·.disp)

/-- Whether a stream has taken its last slice: a one-bit or count stream has one (R89), a field stream one for each digit of x (R91). -/
def State.streamWhole (s : State) (p : Nat) (t : StepStream) : Bool :=
  decide (t.mode ≤ 3) || (s.macroOf p t.mfirst).any (fun D => decide (D.lx ≤ t.taken))

/-- The open streams after a step (R89): an input step in a one-bit or count mode is a stream of its own; in a field mode it
continues the stream of its macro-instruction. Newest first. -/
def State.streamsAfter (s : State) (p : Nat) (v : StepEnv) : List StepStream :=
  let mode := v.b.nb 41 38
  let old := (s.part p).streams
  let fresh : StepStream := ⟨v.b.mfirst, mode, v.k, (s.part p).step, 0, 0, [], false, false⟩
  if mode = 0 then old
  else match old with
    | t :: ts =>
      if t.mfirst = v.b.mfirst ∧ t.mode = mode ∧ 3 < mode ∧ s.streamWhole p t = false then s.takeSlice p v t :: ts
      else s.takeSlice p v fresh :: t :: ts
    | [] => [s.takeSlice p v fresh]

/-- The value of a stream over what it has taken (R92). -/
def State.streamValue (s : State) (p : Nat) (t : StepStream) : Int :=
  flueCombine (fluMode t.mode) (t.taken * t.k) ((s.streamHeads p t.mode t.k).map (fun i => SMap.get 0 t.words i))

/-- The digits that a stream returns (R92, R96). -/
def State.returnDigits (s : State) (p : Nat) (t : StepStream) : Nat :=
  let l := max t.taken (((s.macroOf p t.mfirst).map (·.lx)).getD 0)
  if t.mode ≤ 2 then 1 else if t.mode = 3 then cdiv 23 t.k else if t.mode ≤ 5 then l + cdiv 22 t.k else l

/-- The digit a stream returns to step number `n`, if any (R96): a one-bit result to every PE, another digit to the PEs of each
bundle. -/
def State.digitOf (s : State) (p n : Nat) (t : StepStream) : Option Nat :=
  let i := n - t.first - 48
  let v := s.streamValue p t
  if n < t.first + 48 ∨ s.returnDigits p t ≤ i then none
  else if t.mode ≤ 2 then some (allPes 32 (v = 1))
  else if fluHighFirst t.mode then
    (if i < t.taken then some (encodeInt v (t.taken * t.k) / 2 ^ ((t.taken - 1 - i) * t.k) % 2 ^ t.k) else none)
  else some (encodeInt v ((i + 1) * t.k) / 2 ^ (i * t.k))

/-- The digit delivered to step number `n`, 0 where no stream returns one to it (R96). -/
def State.returnDigit (s : State) (p n : Nat) : Nat :=
  (((s.part p).streams.filterMap (s.digitOf p n)).head?).getD 0

/-- Whether a stream is open at step number `n`: to its last return step, or to its last input step where no return form is asked for
(R104). -/
def State.streamOpenAt (s : State) (p n : Nat) (t : StepStream) : Bool :=
  !s.streamWhole p t ||
    ((s.macroOf p t.mfirst).any (fun D => s.returnForm p D) && decide (n < t.first + 48 + s.returnDigits p t))

/-- Whether no Flue stream of partition `p` is open at its next step number: none is, and the next step opens none (R104, R133). -/
def State.flueClosed (s : State) (p : Nat) : Bool :=
  let t := s.part p
  !t.streams.any (s.streamOpenAt p t.step) && (t.buffer.head?.map Burst.flueMode).getD 0 = 0

/-! ## The step of a partition -/

/-- A memory row of a tile written into its 64 PEs (R116). -/
def State.writeRow (s : State) (l : Landing) : State :=
  let base := 2048 * (64 * (l.tile / 32) + l.row) + 64 * (l.tile % 32)
  let f (i : Nat) : BitVec 8192 := putBit (s.peMemory i) l.bit (l.data.getLsbD (i - base))
  { s with peMem := SMap.update (fun _ => 0) s.peMem f ((List.range 64).map (base + ·)) }

/-- The first PE of a memory row of a tile (R116). -/
def Landing.base (l : Landing) : Nat := 2048 * (64 * (l.tile / 32) + l.row) + 64 * (l.tile % 32)

/-- Whether some PE of a memory row has K = 1, so that a step write reaches the row (R20, R25). A row is written as a whole or not at all: the
staging write of a row of which only some PEs are written is discarded whole (DEDUCED: R25 speaks of the row; log entry 42). -/
def State.rowActive (s : State) (l : Landing) : Bool := (List.range 64).any (fun j => (s.pe (l.base + j)).k)

/-- Whether a step that writes at bit address `a` writes memory row `l` (R25). -/
def State.rowWritten (s : State) (l : Landing) (a : Nat) : Bool := l.bit = a && s.rowActive l

/-- A staging write that lost to a step write at step number `n`: counted, flagged, a violation; the engine keeps the segment to resend it,
where a transfer is bound, and the port repeats it in the next step where none is (R25, R237; log entry 13). -/
def State.collide (s : State) (p n : Nat) (l : Landing) : State :=
  let t := turfOfTile l.tile
  let s1 := ((s.count (Reg.TRF_STGCOL_COUNT t) 1).turfError t (Reg.TRF_ERR_STGCOL t)).violation p 1 n false l.tile
  match l.src with
  | none => s1.setPart p { s1.part p with landing := (s1.part p).landing ++ [{ l with due := n + 1 }] }
  | some (e, slot, g) =>
    let s2 := s1.setStg e ((s1.stg e).map (fun x => if x.slot = slot then { x with lost := x.lost ++ [(l.tile, g)] } else x))
    (s2.set (Reg.STG_ERR_COLL e) 1)

/-- The staging rows of step number `n` and earlier land: those that meet a step write there collide, the others are written
(R25). A turf that takes no step takes none (R14, R131). -/
def State.land (s : State) (p n : Nat) (writes : Option Nat) : State :=
  let now := (s.part p).landing.filter (fun l => decide (l.due ≤ n) && (s.serving p).contains (turfOfTile l.tile))
  let s0 := s.setPart p { s.part p with landing := (s.part p).landing.filter (fun l => decide (n < l.due)) }
  let hit (l : Landing) : Bool := match writes with | some a => s.rowWritten l a | none => false
  let s1 := (now.filter (fun l => !hit l)).foldl (fun t l => t.writeRow l) s0
  (now.filter hit).foldl (fun t l => t.collide p n l) s1

/-- The registers are copied into the snapshot slot of the macro-instruction that begins at this step (R369). -/
def State.snapshot (s : State) (p : Nat) (b : Burst) : State :=
  let t := s.part p
  if t.step = b.mfirst then
    s.setPart p { t with opened := t.opened.map (fun o => if o.first = b.mfirst then { o with snap := s.pes, parity := slotParity s.pes } else o) }
  else s

/-- The environment of step `j` of burst `b`. -/
def State.stepEnv (s : State) (p : Nat) (b : Burst) : StepEnv :=
  ⟨b, (s.part p).taken, 2 ^ b.width, s.returnDigit p (s.part p).step⟩

/-- What the steps of ADD and SUB compute in a bundle of mixed K is open: bits `j` and k + j of a free function of the operands, the K pattern
and the digit (R51; log entry 8). -/
def mixedBits (v : StepEnv) (m : Mn) (D : Dispatch) (ms : List (BitVec 8192)) (rs : List PeRegs) (jj : Nat) : Bool × Bool :=
  let w := Config.freeFunction (256 + 16 * D.aop + 12) (operandsOf m D ms 0 ++ [flagMask v.k rs (·.k), flagMask v.k rs (·.c), v.j])
  (w.testBit jj, w.testBit (v.k + jj))

/-- The dispatch quantities of a burst of the ROM's ADD or SUB. -/
def State.romSum (s : State) (p : Nat) (b : Burst) : Option (Mn × Dispatch) :=
  if (b.aop = 0x020 ∨ b.aop = 0x021) ∧ s.patchedAop p b.aop = false then
    (s.macroOf p b.mfirst).map (fun D => (if b.aop = 0x020 then .add else .sub, D))
  else none

/-- The bits that the step computes in PE `i`. -/
def State.stepBits (s : State) (p : Nat) (v : StepEnv) (i : Nat) : Bool × Bool :=
  let ms := s.bundleMem v.k i
  let rs := s.bundleRegs v.k i
  match s.romSum p v.b with
  | some (m, D) => if sameK v.k rs then v.bits ms rs (i % v.k) else mixedBits v m D ms rs (i % v.k)
  | none => v.bits ms rs (i % v.k)

/-- Every PE of the partition carries out the step (R15): it reads as `s` stands, its captures are those of `r`, and its writes take effect in
the result. -/
def State.stepPes (t s r : State) (p : Nat) (v : StepEnv) : State :=
  let f (i : Nat) : BitVec 8192 := v.memory (t.peMemory i) (s.pe i) (s.stepBits p v i).1
  let g (i : Nat) : PeRegs :=
    v.registers (s.pe i) (s.stepBits p v i).2 (v.cell (s.bundleMem v.k i) (s.bundleRegs v.k i) (i % v.k)) (r.capture p v i)
  { t with
    peMem := SMap.update (fun _ => 0) t.peMem f (s.pesOf p)
    pes := SMap.update (fun _ => PeRegs.reset) t.pes g (s.pesOf p) }

/-- What a conflicting step reads: operand a in its first step number and operand b in its second, from `w` (R23, R113). -/
def State.readLater (s w : State) (p : Nat) (v : StepEnv) : State :=
  if v.b.conflict v.j then
    let a := v.b.bAddr v.j
    let f (i : Nat) : BitVec 8192 := putBit (s.peMemory i) a ((w.peMemory i).getLsbD a)
    { s with peMem := SMap.update (fun _ => 0) s.peMem f (s.pesOf p) }
  else s

/-- The buffers after a step: the burst leaves when its last step has been taken (R29). -/
def State.advanceBuffer (s : State) (p : Nat) (b : Burst) : State :=
  let t := s.part p
  let done := b.count ≤ t.taken + 1
  let buf := if done then t.buffer.tail else t.buffer
  (s.serving p).foldl (fun u w => u.set (Reg.TRF_STATE_BURSTS w) buf.length)
    (s.setPart p { t with buffer := buf, taken := if done then 0 else t.taken + 1 })

/-- The result of a stream on its way to the sequencer (R92, R95); one marked failed delivers nothing (R105). -/
def State.streamResult (s : State) (p : Nat) (f : StepStream) : FlueResult :=
  let D := s.macroOf p f.mfirst
  let v := s.streamValue p f
  let flc : Option Bool :=
    if f.mode ≤ 2 then some (decide (v = 1))
    else if 10 ≤ f.mode then some ((s.pesOf p).any (fun i => (s.pe i).k)) else none
  ⟨f.mfirst, f.last + 1, flc, (D.map (·.dst)).getD 0,
    if flc.isSome then [] else flueWords v (flueWidth (fluMode f.mode) (f.taken * f.k)), f.failed⟩

/-- Whether bursts of macro-instruction `first` have still to run. -/
def State.moreSteps (s : State) (p first : Nat) : Bool :=
  (s.part p).queued.any (fun c => decide (c.mfirst = first)) || (s.seq p).micro.any (fun m => decide (m.first = first))

/-- After a step of a macro-instruction: a stream that has taken its last slice sends its result, a tag's with the macro-instruction's last
step (R92, R95, R98); with that step its streams are forgotten. -/
def State.settleStreams (s : State) (p first : Nat) : State :=
  let t := s.part p
  let more := s.moreSteps p first
  let ready (f : StepStream) : Bool :=
    decide (f.mfirst = first) && !f.sent && (!more || (decide (f.mode < 10) && s.streamWhole p f))
  s.setPart p { t with
    results := t.results ++ ((t.streams.filter ready).map (s.streamResult p)).reverse
    streams := if more then t.streams.map (fun f => if ready f then { f with sent := true } else f)
      else t.streams.filter (fun f => decide (f.mfirst ≠ first)) }

/-- The Flue streams of the macro-instructions that `hit` takes are marked failed, and with them results not yet written: `dst` and FLC stay
(R105). -/
def State.failFlue (s : State) (p : Nat) (hit : Nat → Bool) : State :=
  let t := s.part p
  s.setPart p { t with
    streams := t.streams.map (fun f => if hit f.mfirst then { f with failed := true } else f)
    results := t.results.map (fun f => if hit f.first then { f with failed := true } else f) }

/-! ## Fence steps (R104, R133) -/

/-- Whether an open Flue stream of its partition keeps the fence step of turf `t` from being picked. -/
def State.streamsOpen (s : State) (t : Nat) : Bool :=
  s.flag (Reg.TRF_CFG_ASSIGNED t) && !s.flueClosed (s.get (Reg.TRF_CFG_PART t))

/-- The fence step: the partition's next step number once no Flue stream is open there (R133). -/
def State.pickStep (s : State) (d : Nat) : State :=
  if d < 64 ∧ s.streamsOpen d then s
  else s.setFence d { s.fence d with step := some (if d < 64 then (s.part (s.get (Reg.TRF_CFG_PART d))).step else 0) }

/-- The turfs of partition `p` whose fence waits for its Flue streams to close. -/
def State.fencesWaiting (s : State) (p : Nat) : List Nat :=
  (s.turfsOf p).filter (fun t => decide (s.phase t = 1) && (s.fence t).step.isNone)

/-- The fence steps that wait are picked as soon as no stream is open (R133). -/
def State.pickFences (s : State) (p : Nat) : State := (s.fencesWaiting p).foldl State.pickStep s

/-- Whether a burst would open a Flue stream while a fence of the partition waits for the open ones to close (R133). -/
def State.barsStream (s : State) (p : Nat) (b : Burst) : Bool :=
  let t := s.part p
  let goes := decide (3 < b.flueMode) &&
    ((t.draught ++ t.buffer).any (fun c => decide (c.mfirst = b.mfirst) && decide (c.flueMode = b.flueMode)) ||
      t.streams.any (fun f => decide (f.mfirst = b.mfirst) && decide (f.mode = b.flueMode) && !s.streamWhole p f))
  decide (b.flueMode ≠ 0) && !goes && !(s.fencesWaiting p).isEmpty

/-! ## What holds a step -/

/-- The last step number of the next step of partition `p` (R23, R113). -/
def State.horizon (s : State) (p : Nat) : Nat :=
  let t := s.part p
  match t.buffer with
  | b :: _ => t.step + bnat (b.conflict t.taken) + s.transferCost p b
  | [] => t.step

/-- Whether the partition can take its next step: a burst is buffered, no turf sleeps or is frozen by the debugger, no
recovery holds it, and no reserved flit is awaited at any of its step numbers (R128, R145). -/
def State.canStep (s : State) (p : Nat) : Bool :=
  !(s.part p).buffer.isEmpty && !s.stepsHeld p &&
  !s.cordWaits p (s.horizon p) && (s.serving p).all (fun t => decide (s.get (Reg.TRF_STATE_STATE t) = 1) && decide (bitAt (s.get Reg.DBG_TFRZ_FRZ) t = 0))

/-! ## The bursts of the ROM's instructions (R53, R91, R96, R99, R208; log entries 9 and 13) -/

/-- A nanoword that reads field x at FA and field y at FB and writes field d at FD, with its tables, sources, memory-write enable, flag
destination, carry-chain enable and Flue mode. -/
def romNano (g h srca srcb mwe fdst cce flm : Nat) : Nat :=
  g + h * 2 ^ 8 + srca * 2 ^ 16 + srcb * 2 ^ 19 + mwe * 2 ^ 24 + fdst * 2 ^ 25 + cce * 2 ^ 34 + flm * 2 ^ 38 + 6 * 2 ^ 52 + 2 ^ 57

/-- The source code of a field: MEM, or ZERO for Z (R16, R47). -/
def srcOf (a : Option Nat) : Nat := if a.isSome then 0 else 4

/-- A burst of the instruction with quantities `D` that began at step number `first`; nothing where the count is 0 (R28). Its trace tag is
printed for ADD alone, as 0 (R210, R433; log entry 9). -/
def romBurst (D : Dispatch) (first nano count fa fb fd : Nat) (ia id : Int) (rom : Bool) : List Burst :=
  if count = 0 then []
  else [⟨BitVec.ofNat 256 (nano + (if D.aop = 0x020 then 0 else Config.freeFunction 15 [D.aop, nano] % 2 ^ 16) * 2 ^ 128), count, fa % 8192, fb % 8192, fd % 8192, ia, 1, id, 0,
    D.kw, D.aop, first, rom⟩]

/-- Steps of the ROM whose nanowords the manual does not print, as bursts whose number it does not print either. -/
def romHidden (D : Dispatch) (first : Nat) : Nat → Nat → List Burst
  | 0, _ => []
  | fuel + 1, n =>
    if n = 0 then []
    else
      let c := 1 + Config.freeFunction 14 [D.aop, D.kw, D.lx, D.ly, D.ld, D.param.toNat, D.fmt.e, D.fmt.p, D.fmt2.e, D.fmt2.p, n] % min n 8192
      romBurst D first 0x240000 c 0 0 0 0 0 true ++ romHidden D first fuel (n - c)

/-- Idle steps (R99, R166). -/
def romIdle (D : Dispatch) (first n : Nat) : List Burst := romBurst D first 0x240000 n 0 0 0 0 0 false

/-- The Flue mode of an instruction (R210). -/
def Mn.fluCode (m : Mn) : Nat :=
  match m with
  | .rany => 1
  | .rall => 2
  | .rcnt => 3
  | .rsumu => 4
  | .rsums => 5
  | .rmaxu => 6
  | .rmaxs => 7
  | .rminu => 8
  | .rmins => 9
  | .tmaxu => 10
  | .tmaxs => 11
  | .tminu => 12
  | .tmins => 13
  | _ => 0

/-- The bursts of a one-bit or count instruction: its input step, and in a return form idle steps to the return lag and the return steps
(R90, R96, R99). -/
def romBits (m : Mn) (D : Dispatch) (first : Nat) : List Burst :=
  let input := romNano 0 0 4 4 0 0 0 m.fluCode + D.sel * 2 ^ 42 + bnat D.inv * 2 ^ 46 + D.emask * 2 ^ 47
  romBurst D first input 1 D.la 0 0 0 0 false ++
  (if m.returns D then
    romIdle D first 47 ++
    (if m = .rcnt then romBurst D first (romNano 0xCC 0 4 2 1 0 0 0) D.ld 0 0 (D.d.getD 0) 0 1 false
      else romBurst D first (romNano 0 0xCC 4 2 0 (D.aop % 8) 0 0) 1 0 0 0 0 0 false)
  else [])

/-- The bursts of a field reduction: L input steps, and in a return form the return steps from the return lag on, which overlap them
where L is above 48 (R91, R96, R99). -/
def romField (m : Mn) (D : Dispatch) (first : Nat) : List Burst :=
  let high := fluHighFirst m.fluCode
  let l := D.lx
  let x (i : Nat) : Nat := if high then D.x.getD 0 + (l - 1 - i) else D.x.getD 0 + i
  let d (i : Nat) : Nat := if high then D.d.getD 0 + (D.ld - 1 - i) else D.d.getD 0 + i
  let inc : Int := if high then -1 else 1
  let ins (i n : Nat) : List Burst := romBurst D first (romNano 0 0 (srcOf D.x) 4 0 0 0 m.fluCode) n (x i) 0 0 inc 0 false
  if D.d.isSome then
    ins 0 (min l 48) ++ romIdle D first (48 - l) ++
    romBurst D first (romNano 0xCC 0 (srcOf D.x) 2 1 0 0 m.fluCode) (l - 48) (x 48) 0 (d 0) inc inc false ++
    romBurst D first (romNano 0xCC 0 4 2 1 0 0 0) (D.ld - (l - 48)) 0 0 (d (l - 48)) 0 inc false
  else ins 0 l

/-- An idle burst: reads nothing, writes nothing, transfers nothing (R166, R210). -/
def idleBurst (count width aop mfirst : Nat) : Burst :=
  ⟨0x240000, count, 0, 0, 0, 0, 0, 0, 0, width, aop, mfirst, false⟩

/-- The bursts of an IDLE of `n` steps: of 8,192 steps, the last of the rest (R166). -/
def idleBursts (n width aop mfirst : Nat) : List Burst :=
  (List.range (cdiv n 8192)).map (fun i => idleBurst (min 8192 (n - 8192 * i)) width aop mfirst)

/-- The bursts of an instruction of the ROM. Where the manual gives each step its tables, reads and writes, these are the steps; the steps of
the others are hidden, and take effect together at the last. -/
def romBursts (m : Mn) (D : Dispatch) (first : Nat) : List Burst :=
  let x := D.x.getD 0
  let y := D.y.getD 0
  let d := D.d.getD 0
  let fn := natOfBits 8 (fun i => D.aop.testBit (i / 2) && decide (i / 2 < 4))
  match m with
  | .idle => idleBursts D.param.toNat D.kw D.aop first
  | .mov => romBurst D first (romNano 0xF0 0 (srcOf D.x) 4 1 1 0 0) D.lx x 0 d 1 1 false
  | .extu =>
    romBurst D first (romNano 0xF0 0 (srcOf D.x) 4 1 1 0 0) D.lx x 0 d 1 1 false ++
    romBurst D first (romNano 0 0 4 4 1 1 0 0) (D.ld - D.lx) 0 0 (d + D.lx) 0 1 false
  | .bool => romBurst D first (romNano fn 0 (srcOf D.x) (srcOf D.y) 1 1 0 0) D.lx x y d 1 1 false
  | .add => romBurst D first (romNano 0x96 0xE8 (srcOf D.x) (srcOf D.y) 1 1 1 0) D.lx x y d 1 1 false
  | .sub => romBurst D first (romNano 0x96 0x8E (srcOf D.x) (srcOf D.y) 1 1 1 0) D.lx x y d 1 1 false
  | .rany | .rall | .rcnt => romBits m D first
  | .rsumu | .rsums | .rmaxu | .rmaxs | .rminu | .rmins => romField m D first
  | .tmaxu | .tmaxs | .tminu | .tmins =>
    romBurst D first (romNano 0 0 (srcOf D.x) 4 0 0 0 m.fluCode) D.lx (D.x.getD 0 + (D.lx - 1)) 0 0 (-1) 0 false ++
    romHidden D first (stepCount m D) (stepCount m D - D.lx)
  | _ => romHidden D first (stepCount m D) (stepCount m D)

/-- The mnemonic of an open macro-instruction of the ROM, or the role that a patch gives it. -/
def State.macroMn (s : State) (p : Nat) (D : Dispatch) : Mn := roleOf D.aop (s.dispatchEntry p D.aop).toNat

/-- An instruction of the ROM hands its first burst to the issue stage as one macro-instruction (R171, R208); with more than one, its routine goes
on until it has handed the last. Bursts of a partition whose array service has stopped are discarded (R30). -/
def State.romIssue (s : State) (p : Nat) (m : Mn) (D : Dispatch) (size : Nat) (again : Bool) (upd : List (Spec × Nat)) : SeqRes :=
  let first := s.get (Reg.SEQ_NEXTSTEP_STEP p)
  match if (s.part p).stopped then [] else romBursts m D first with
  | [] => .done (s.specSteps p upd) none
  | b :: bs =>
    let s1 := (s.openMacro p D first (first + s.allSteps p (b :: bs))).hand p b
    if bs.isEmpty then .done (s1.specSteps p upd) none
    else .hold (s1.setMicro p ⟨D, 0, none, [], none, none, none, 0, 0, 0, first, size, again, bs, true, upd⟩)

/-- The meaning shared by the array instructions: the routine that a patch gives their AOP (R205), or the ROM's, with dispatch, bursts and
pointer updates (R165, R171, R172). -/
def arrayBody (p : Nat) (m : Mn) (i : SeqInstr) (s : State) : SeqRes :=
  if s.patchedAop p i.aop then newAopBody p i s
  else match s.dispatch p m i with
  | .error r => r
  | .ok D =>
    if s.noSteps p m D then .done (s.performEmpty p m D (i.arrayUpdates m D)) none
    else s.romIssue p m D i.size false (i.arrayUpdates m D)

/-! ## Hidden steps of the ROM (log entry 13) -/

/-- Whether bit address `a` belongs to a field. -/
def inField (f : Option Nat) (len a : Nat) : Bool := overlaps f len (some a) 1

/-- Whether an instruction writes bit address `a`: its destination or its work area. -/
def Dispatch.writesBit (D : Dispatch) (m : Mn) (a : Nat) : Bool :=
  inField D.d D.ld a || inField (some D.work) (workSize m D) a || inField (some (D.work + 4096)) (workSize m D) a

/-- Whether an instruction reads bit address `a` as a source. -/
def Dispatch.readsBit (D : Dispatch) (a : Nat) : Bool := inField D.x D.lx a || inField D.y D.ly a || inField D.z D.lx a

/-- One staging row lands during a hidden step: in a field that the instruction writes it may meet one of its step writes and collide;
otherwise it is written, and in a field of the instruction its effect there is open from then on. -/
def State.landHidden (s : State) (p n : Nat) (m : Mn) (D : Dispatch) (first : Nat) (l : Landing) : State :=
  let wr := D.writesBit m l.bit && s.rowActive l
  let rd := D.readsBit l.bit && decide (first < n)
  let mark (t : State) : State := t.setPart p { t.part p with touched := (t.part p).touched ++ [l.base] }
  if wr then
    if s.freeValue.getLsbD 0 then s.useFree.collide p n l else mark (s.useFree.writeRow l)
  else if rd then mark (s.writeRow l)
  else s.writeRow l

/-- The value that a hidden step's instruction takes from the Flue: that of its tag stream (R98). -/
def State.hiddenFlue (s : State) (p : Nat) (D : Dispatch) (first : Nat) : Nat :=
  match (s.part p).streams.find? (fun f => decide (f.mfirst = first)) with
  | some f => encodeInt (s.streamValue p f) (D.lx * 2 ^ D.kw)
  | none => 0

/-- What an instruction with hidden steps writes in the bundle of PE `i`: open where a staging row touched it. -/
def State.hiddenWrites (s : State) (p : Nat) (m : Mn) (D : Dispatch) (flue i : Nat) : BundleResult :=
  let k := 2 ^ D.kw
  if (s.part p).touched.contains (i - i % 64) then
    bundleOpen m D (s.bundleMem k i) (s.bundleRegs k i) flue [s.free, i - i % k]
  else s.writesAt m D flue i

/-- An instruction with hidden steps takes effect, at its last step. -/
def State.hiddenEffect (s : State) (p : Nat) (m : Mn) (D : Dispatch) (first : Nat) : State :=
  let k := 2 ^ D.kw
  let w (i : Nat) : BundleResult := s.hiddenWrites p m D (s.hiddenFlue p D first) i
  let s1 : State := { s with
    peMem := SMap.update (fun _ => 0) s.peMem (fun i => (w i).memory k (i % k) (s.peMemory i) (s.pe i)) (s.pesOf p)
    pes := SMap.update (fun _ => PeRegs.reset) s.pes (fun i => (w i).registers (i % k) (s.pe i)) (s.pesOf p) }
  if (s.part p).touched = [] then s1 else (s1.setPart p { s1.part p with touched := [] }).useFree

/-- One hidden step of partition `p`: the rows due land, and at the macro-instruction's last step it takes effect. -/
def State.stepHidden (s : State) (p : Nat) (b : Burst) : State :=
  match s.macroOf p b.mfirst with
  | none => s.takeSteps p 1 0
  | some D =>
    let m := s.macroMn p D
    let n := (s.part p).step
    let s1 := s.snapshot p b
    let now := (s1.part p).landing.filter (fun l => decide (l.due ≤ n))
    let s2 := now.foldl (fun t l => t.landHidden p n m D b.mfirst l)
      (s1.setPart p { s1.part p with landing := (s1.part p).landing.filter (fun l => decide (n < l.due)) })
    if (s2.part p).opened.any (fun o => decide (o.first = b.mfirst) && decide (o.next = n + 1)) then
      (s2.hiddenEffect p m D b.mfirst).takeSteps p 1 (conflicts m D)
    else s2.takeSteps p 1 0

/-! ## The mesh moves on (R115, R116, R121-R123) -/

/-- The instruction of the ROM with hidden steps that partition `p` has begun and not ended, its quantities and its first step number (log entry
13). -/
def State.hiddenNow (s : State) (p : Nat) : Option (Mn × Dispatch × Nat) :=
  let n := (s.part p).step
  ((s.part p).opened.find? (fun o => decide (o.first < n) && decide (n < o.next))).bind (fun o =>
    let m := s.macroMn p o.disp
    if !s.patchedAop p o.disp.aop && (romBursts m o.disp o.first).any (·.rom) then some (m, o.disp, o.first) else none)

/-- A turf in retention wakes for an access through its staging port (R116). -/
def State.wakeTurf (s : State) (t : Nat) : State :=
  if s.get (Reg.TRF_STATE_STATE t) = 2 then s.set (Reg.TRF_STATE_STATE t) 1 else s

/-- A memory row written through the staging port outside the steps (R116): the turf wakes; in a field that an instruction with hidden steps under
way reads or writes, what the instruction makes of it is open from then on (R148; log entry 13). -/
def State.putRow (s : State) (l : Landing) : State :=
  let u := turfOfTile l.tile
  let p := s.get (Reg.TRF_CFG_PART u)
  let t := (s.wakeTurf u).writeRow l
  match s.hiddenNow p with
  | some (m, D, _) =>
    if (s.serving p).contains u && (D.writesBit m l.bit || D.readsBit l.bit) then
      t.setPart p { t.part p with touched := (t.part p).touched ++ [l.base] }
    else t
  | none => t

/-- A memory row of a tile: 64 PEs at one bit address (R116). -/
def State.readRow (s : State) (tile row bit : Nat) : W64 :=
  let base := 2048 * (64 * (tile / 32) + row) + 64 * (tile % 32)
  BitVec.ofNat 64 (natOfBits 64 (fun m => (s.peMemory (base + m)).getLsbD bit))

/-- What the staging port reads in a memory row at step number `n`, the next or one that the next step takes: the data from before the
step, with the rows that staging wrote in earlier step numbers (R25); open where a hidden step may have written (log entry 13). -/
def State.readRowAt (s : State) (p n tile row bit : Nat) : W64 :=
  let l : Landing := ⟨tile, row, bit, 0, none, n⟩
  if (s.hiddenNow p).any (fun h => h.2.1.writesBit h.1 bit && s.rowActive l) then
    BitVec.ofNat 64 (Config.freeFunction 17 [s.free, tile, row, bit])
  else
    match ((s.part p).landing.filter (fun q => decide (q.due < n) && decide (q.tile = tile) && decide (q.row = row) &&
        decide (q.bit = bit))).getLast? with
    | some q => q.data
    | none => s.readRow tile row bit

/-- Whether a slot of partition `p` keeps output `port` of router `t` in the step beat of step number `n` (R126, R129): a router of a turf that
is fenced takes idle beats only (R115). -/
def State.slotKeeps (s : State) (p n t port : Nat) : Bool :=
  let e := s.cordEntry t (n % s.frameLen p)
  cordV e && decide (cordPart e = p) && decide (cordOut e = port) && s.slotServed p t (n % s.frameLen p)

/-- Whether an endpoint takes no packet (R133): none from Fenced on, and in Stop and Drain none that was sent after the request. -/
def State.endpointShut (s : State) (k : Packet) : Bool :=
  k.domain.any (fun d => decide (3 ≤ s.phase d) || (decide (1 ≤ s.phase d) && s.net.late.contains k))

/-- Whether a flit is one of data that a T port writes (R116, R119). -/
def MeshFlit.writes (f : MeshFlit) : Bool :=
  decide (f.pkt.dport = 4) && !f.pkt.remote && decide (0 < f.idx) &&
    (decide (f.pkt.cls = 0) && decide (f.pkt.cmd = 0x02) || decide (f.pkt.cls = 2) && decide (f.pkt.cmd = 0x40))

/-- The four rows of a data flit, as they meet PE memory in step number `n` (R116, R118). -/
def MeshFlit.rows (f : MeshFlit) (n : Nat) : List Landing :=
  (List.range 4).map (fun i =>
    let a := f.pkt.seg (4 * (f.idx - 1) + i)
    ⟨f.pkt.tile, a.2, a.1, flitSeg (f.pkt.data.getD (f.idx - 1) 0) i, none, n⟩)

/-- A row that a T port takes in the beat of a step number of a partition, or in an idle beat: it meets PE memory in that step where its tile takes
it (R25, R116), and at once elsewhere. -/
def State.takeRow (s : State) (step : Option (Nat × Nat)) (l : Landing) : State :=
  match step with
  | some (p, _) =>
    if (s.serving p).contains (turfOfTile l.tile) then s.setPart p { s.part p with landing := (s.part p).landing ++ [l] } else s.putRow l
  | none => s.putRow l

/-- What a T port reads in such a beat (R25, R116). -/
def State.rowSeen (s : State) (step : Option (Nat × Nat)) (tile row bit : Nat) : W64 :=
  let p := s.get (Reg.TRF_CFG_PART (turfOfTile tile))
  if (s.serving p).contains (turfOfTile tile) then
    s.readRowAt p (match step with | some (q, n) => if q = p then n else (s.part p).step | none => (s.part p).step) tile row bit
  else s.readRow tile row bit

/-- A beat of every router: the step beat of step number `n` of partition `p` where `step` is `(p, n)`, an idle beat otherwise (R115). T ports take
and send data flits in it (R116); `bad` names a packet with the number of its good data flits (R132). -/
def State.meshBeat (s : State) (step : Option (Nat × Nat)) (bad : Option (Packet × Nat)) : State :=
  let shut (t port : Nat) : Bool := step.any (fun a => s.slotKeeps a.1 a.2 t port)
  let fs := (s.net.ejects shut).filter (fun f =>
    f.writes && !s.endpointShut f.pkt && bad.all (fun b => decide (f.pkt ≠ b.1) || decide (f.idx ≤ b.2)))
  let n := s.net.hear (s.net.beat shut) (s.rowSeen step)
  fs.foldl (fun t f => (f.rows ((step.map (·.2)).getD 0)).foldl (State.takeRow · step) t) { s with net := { n with landed := n.landed ++ fs } }

/-- The beats of `b` step numbers of partition `p` from `n` on. The routers outside the partition take one idle beat for each (DESIGN CHOICE: the
spec gives only the least rate of idle beats; log entry 47). -/
def State.stepBeats (s : State) (p : Nat) : Nat → Nat → State
  | 0, _ => s
  | b + 1, n => if s.net.still then s else (s.meshBeat (some (p, n)) none).stepBeats p b (n + 1)

/-- The mesh has moved on by the step beats of `b` step numbers of partition `p` from `n` on (R115). -/
def State.beats (s : State) (p n b : Nat) : State :=
  State.stepBeats { s with net := s.net.sync s.mesh } p b n

/-- A packet has come to the port at which it enters the mesh: one other than a response whose endpoint has closed by then is not taken there
(R133). -/
def State.enter (s : State) (k : Packet) : State :=
  let late := !k.remote && decide (k.cls ≠ 1) && k.domain.any (fun d => decide (1 ≤ s.phase d))
  { s with mesh := s.mesh ++ [k], net := if late then { s.net with late := s.net.late ++ [k] } else s.net }

/-- Idle beats until packet `k` has left the mesh, at most `b`. -/
def State.carryOn (k : Packet) (bad : Option (Packet × Nat)) : Nat → State → State
  | 0, s => s
  | b + 1, s => if s.net.arrived.contains k || s.net.still then s else State.carryOn k bad b (s.meshBeat none bad)

/-- Packet `k` has been carried to its destination, in idle beats (R115, R123), and leaves the mesh. One that is not in the mesh enters it first.
Where it is poisoned, `good` of its data flits are good (R132). -/
def State.carry (s : State) (k : Packet) (good : Option Nat) : State :=
  let s0 := if s.mesh.contains k then s else s.enter k
  let s1 := State.carryOn k (good.map (fun g => (k, g))) (4096 * (s0.mesh.length + 1)) { s0 with net := s0.net.sync s0.mesh }
  { s1 with mesh := s1.mesh.erase k, net := { s1.net with known := s1.net.known.erase k, arrived := s1.net.arrived.erase k } }

/-- Packet `k` has been dealt with: nothing more is kept of it. -/
def State.settleFlits (s : State) (k : Packet) : State :=
  { s with net := { s.net with
      landed := s.net.landed.filter (fun f => decide (f.pkt ≠ k)), gated := s.net.gated.erase k, late := s.net.late.erase k
      replies := s.net.replies.filter (fun r => decide (r.pkt ≠ k)) } }

/-! ## The step of a partition -/

/-- One step of a partition (R15, R23, R113): operand a is read in its first step number `s`, operand b in `s + c`, and every write
takes effect in `s + c + x`; the staging rows of each number land there. -/
def State.stepSeen (s : State) (p : Nat) (b : Burst) : State :=
  let n := (s.part p).step
  let c := bnat (b.conflict (s.part p).taken)
  let x := s.transferCost p b
  let writes := if b.nb 24 24 = 1 then some (b.dAddr (s.part p).taken) else none
  let r := (s.snapshot p b).land p n (if c + x = 0 then writes else none)
  let w := r.land p (n + c) (if x = 0 then writes else none)
  let t := (w.land p (n + c + x - 1) (if x = 0 then writes else none)).land p (n + c + x) writes
  let v := r.stepEnv p b
  let t1 := t.stepPes (r.readLater w p v) r p v
  (t1.setPart p { t1.part p with streams := r.streamsAfter p v }).takeSteps p (1 + c + x) c

/-- A step of partition `p`: the mesh takes the step beats of its step numbers (R115), the step is carried out, and what follows from its end:
buffers, Flue results, fence steps. -/
def State.stepOnce (s : State) (p : Nat) (b : Burst) : State :=
  let s1 := s.beats p (s.part p).step (s.horizon p + 1 - (s.part p).step)
  let s2 := if b.rom then s1.stepHidden p b else s1.stepSeen p b
  ((s2.advanceBuffer p b).settleStreams p b.mfirst).pickFences p

/-! ## Meanings -/

/-- A traced burst at its issue: its entry goes into the ring of 4,096, which stops when full or overwrites its oldest entry (R433). -/
def State.traceBurst (s : State) (p : Nat) (b : Burst) (first : Nat) : State :=
  let trc := b.nb 143 128
  if s.flag Reg.DBG_TRCCTL_EN = false ∨ trc = 0 then s
  else
    let e : BitVec 128 := BitVec.ofNat 128 (first % 2 ^ 64 + trc * 2 ^ 64 + p * 2 ^ 80 + b.aop * 2 ^ 82)
    if s.dbg.trace.length < 4096 then
      ({ s with dbg := { s.dbg with trace := s.dbg.trace ++ [e] } } : State).set Reg.DBG_TRCCTL_LEVEL (s.dbg.trace.length + 1)
    else if s.flag Reg.DBG_TRCCTL_STOP then s
    else ({ s with dbg := { s.dbg with trace := s.dbg.trace.tail ++ [e] } } : State).set Reg.DBG_TRCCTL_WRAPPED 1

/-- The tile recorded for an event of turf `t`: one of its sixteen, which the manual leaves open (log entry 6). -/
def State.someTile (s : State) (t : Nat) : Nat :=
  let n := s.freeValue.toNat % 16
  128 * (t / 8) + 4 * (t % 8) + 32 * (n / 4) + n % 4

/-- A step that waits for staging engines: each counts the Hearth cycles in STG_WAIT, as many as a free value says (R145, R234, R245; log entry
19). -/
def State.countWait (s : State) (p : Nat) : State :=
  let es := (List.range 8).filter (s.engineWaits p (s.horizon p))
  if es.isEmpty || (s.part p).buffer.isEmpty then s else es.foldl (fun t e => (t.bump (Reg.STG_WAIT_CYCLES e) t.freeValue.toNat).useFree) s

/-- The confirmation point after a step: somewhere between where it stood and the step numbers completed, as the tiles and the latency leave it
(R366; log entry 13). -/
def State.advance (s : State) (p : Nat) : State :=
  let t := s.part p
  s.confirm p (t.confirmed + Config.freeFunction 21 [s.free, p, t.step] % (t.step - t.confirmed + 1))

/-- STEP: the partition takes the next step of its oldest buffered burst (R15), or waits. -/
def execStep (p : SeqId) (s : State) : Res :=
  if s.canStep p then
    match (s.part p).buffer with
    | b :: _ => .next ((s.stepOnce p b).advance p)
    | [] => .next s
  else .next (s.countWait p)

/-- RETENTION_ENTRY: a turf that has received no step for 100 µs enters retention (R42, R407). -/
def execRetentionEntry (t : TurfId) (s : State) : Res :=
  if s.get (Reg.TRF_STATE_STATE t) = 1 ∧ s.get (Reg.TRF_STATE_BURSTS t) = 0 then .next (s.set (Reg.TRF_STATE_STATE t) 2)
  else .next s

/-- RETENTION_WAKE: a burst or an access wakes a turf from retention (R42, R116, R407). -/
def execRetentionWake (t : TurfId) (s : State) : Res :=
  if s.get (Reg.TRF_STATE_STATE t) = 2 then .next (s.set (Reg.TRF_STATE_STATE t) 1) else .next s

/-- PACE_WINDOW: a whole busy window completes with `steps` steps (R43). -/
def execPaceWindow (t : TurfId) (steps : Nat) (s : State) : Res :=
  let s1 := (s.bump (Reg.TRF_PACE_BUSY_BUSY t) 1500).set (Reg.TRF_PACE_MIN_MINSTEPS t)
    (min (s.get (Reg.TRF_PACE_MIN_MINSTEPS t)) steps)
  let floor := s.get (Reg.TRF_PACE_FLOOR_FLOOR t)
  if floor ≠ 0 ∧ steps < floor then
    let p := s.get (Reg.TRF_CFG_PART t)
    let s2 := s1.turfError t (Reg.TRF_ERR_FLOOR t)
    .next ((s2.violation p 4 (s.part p).step false (s.someTile t)).useFree)
  else .next s1

/-- PACE_CLEAR: a write of 1 to TRF_PACE_CTL.CLR (R44). -/
def execPaceClear (t : TurfId) (s : State) : Res :=
  .next (((s.set (Reg.TRF_PACE_STEPS_STEPS t) 0).set (Reg.TRF_PACE_BUSY_BUSY t) 0).set (Reg.TRF_PACE_MIN_MINSTEPS t) 0xFFFF)

end Sys2Proof.Machine
end

