-- ==== Sys2Proof/Machine/ArrayFp.lean ====
section
/-!
DEFINITION. The meanings of the array's floating-point instructions (R65-R87): each is the array body of its mnemonic
at its turn.
-/
namespace Sys2Proof.Machine

/-- FADD: FADD writes x + y rounded once to the format. (R76) -/
def execFadd (p : SeqId) (s : State) : Res := .next (s.runInstr p .fadd (arrayBody p .fadd))

/-- FSUB: FSUB writes x − y rounded once to the format. (R76) -/
def execFsub (p : SeqId) (s : State) : Res := .next (s.runInstr p .fsub (arrayBody p .fsub))

/-- FMUL: FMUL writes x·y rounded once to the format. (R76) -/
def execFmul (p : SeqId) (s : State) : Res := .next (s.runInstr p .fmul (arrayBody p .fmul))

/-- FDIV: FDIV writes x / y rounded once to the format. (R76) -/
def execFdiv (p : SeqId) (s : State) : Res := .next (s.runInstr p .fdiv (arrayBody p .fdiv))

/-- FSQRT: FSQRT writes the square root of x rounded once. (R76) -/
def execFsqrt (p : SeqId) (s : State) : Res := .next (s.runInstr p .fsqrt (arrayBody p .fsqrt))

/-- FFMA: FFMA writes x·y + z rounded once. (R76) -/
def execFfma (p : SeqId) (s : State) : Res := .next (s.runInstr p .ffma (arrayBody p .ffma))

/-- FMULX: FMULX writes the exact product of x and y in format (e + 1, 2p). (R76) -/
def execFmulx (p : SeqId) (s : State) : Res := .next (s.runInstr p .fmulx (arrayBody p .fmulx))

/-- FCVT: FCVT converts x to the destination format. (R76) -/
def execFcvt (p : SeqId) (s : State) : Res := .next (s.runInstr p .fcvt (arrayBody p .fcvt))

/-- FTOL: FTOL writes x / 2^z, truncated, into an integer accumulator field. (R79) -/
def execFtol (p : SeqId) (s : State) : Res := .next (s.runInstr p .ftol (arrayBody p .ftol))

/-- LTOF: LTOF rounds an accumulator value times 2^z once to a floating-point format. (R80) -/
def execLtof (p : SeqId) (s : State) : Res := .next (s.runInstr p .ltof (arrayBody p .ltof))

/-- FCMP: FCMP compares x and y into N, C and F, with invalid raised only on a signalling NaN. (R77) -/
def execFcmp (p : SeqId) (s : State) : Res := .next (s.runInstr p .fcmp (arrayBody p .fcmp))

/-- FCMPS: FCMPS compares x and y into N, C and F, with invalid raised on any NaN. (R77) -/
def execFcmps (p : SeqId) (s : State) : Res := .next (s.runInstr p .fcmps (arrayBody p .fcmps))

/-- FCLS: FCLS sets flag f when the class of x is selected by the mask. (R78) -/
def execFcls (p : SeqId) (s : State) : Res := .next (s.runInstr p .fcls (arrayBody p .fcls))

/-- FNEG: FNEG writes x with its sign inverted. (R76) -/
def execFneg (p : SeqId) (s : State) : Res := .next (s.runInstr p .fneg (arrayBody p .fneg))

/-- FABS: FABS writes x with sign 0. (R76) -/
def execFabs (p : SeqId) (s : State) : Res := .next (s.runInstr p .fabs (arrayBody p .fabs))

/-- ECLR: ECLR clears all five E bits. (R76) -/
def execEclr (p : SeqId) (s : State) : Res := .next (s.runInstr p .eclr (arrayBody p .eclr))

end Sys2Proof.Machine
end

