-- ==== Sys2Proof/Machine/ArrayInt.lean ====
section
/-!
DEFINITION. The meanings of the array's integer instructions (R49-R64): each is the array body of its mnemonic at its
turn. What it writes into each bundle is `bundleResult` of Array.lean.
-/
namespace Sys2Proof.Machine

/-- MOV: MOV copies field x into field d. (R54) -/
def execMov (p : SeqId) (s : State) : Res := .next (s.runInstr p .mov (arrayBody p .mov))

/-- EXTU: EXTU writes x zero-extended into d. (R54) -/
def execExtu (p : SeqId) (s : State) : Res := .next (s.runInstr p .extu (arrayBody p .extu))

/-- EXTS: EXTS writes x sign-extended into d and leaves the sign in C. (R54) -/
def execExts (p : SeqId) (s : State) : Res := .next (s.runInstr p .exts (arrayBody p .exts))

/-- BOOL: BOOL writes the bitwise function fn of x and y into d. (R55) -/
def execBool (p : SeqId) (s : State) : Res := .next (s.runInstr p .bool (arrayBody p .bool))

/-- ADD: ADD writes x + y + c into d and leaves the carry out in the head's C. (R54) -/
def execAdd (p : SeqId) (s : State) : Res := .next (s.runInstr p .add (arrayBody p .add))

/-- SUB: SUB writes x − y − c into d and leaves the borrow out in the head's C. (R54) -/
def execSub (p : SeqId) (s : State) : Res := .next (s.runInstr p .sub (arrayBody p .sub))

/-- ADDV: ADDV adds as ADD and sets F on signed overflow. (R54) -/
def execAddv (p : SeqId) (s : State) : Res := .next (s.runInstr p .addv (arrayBody p .addv))

/-- SUBV: SUBV subtracts as SUB and sets F on signed overflow. (R54) -/
def execSubv (p : SeqId) (s : State) : Res := .next (s.runInstr p .subv (arrayBody p .subv))

/-- CMPU: CMPU compares x and y as unsigned values into N, C and F. (R54) -/
def execCmpu (p : SeqId) (s : State) : Res := .next (s.runInstr p .cmpu (arrayBody p .cmpu))

/-- CMPS: CMPS compares x and y as signed values into N, C and F. (R54) -/
def execCmps (p : SeqId) (s : State) : Res := .next (s.runInstr p .cmps (arrayBody p .cmps))

/-- SHL: SHL shifts x left by s into d. (R56) -/
def execShl (p : SeqId) (s : State) : Res := .next (s.runInstr p .shl (arrayBody p .shl))

/-- SHRU: SHRU shifts x right by s without sign into d, with a guard digit when r is not 0. (R56) -/
def execShru (p : SeqId) (s : State) : Res := .next (s.runInstr p .shru (arrayBody p .shru))

/-- SHRS: SHRS shifts x right by s with sign into d, with a guard digit when r is not 0. (R56) -/
def execShrs (p : SeqId) (s : State) : Res := .next (s.runInstr p .shrs (arrayBody p .shrs))

/-- MULU: MULU writes the exact unsigned product of x and y into d. (R57) -/
def execMulu (p : SeqId) (s : State) : Res := .next (s.runInstr p .mulu (arrayBody p .mulu))

/-- MULS: MULS writes the exact two's-complement product of x and y into d. (R57) -/
def execMuls (p : SeqId) (s : State) : Res := .next (s.runInstr p .muls (arrayBody p .muls))

/-- DIVU: DIVU writes the unsigned quotient and remainder of x by y into d. (R58) -/
def execDivu (p : SeqId) (s : State) : Res := .next (s.runInstr p .divu (arrayBody p .divu))

/-- DIVS: DIVS writes the truncated signed quotient and remainder of x by y into d. (R58) -/
def execDivs (p : SeqId) (s : State) : Res := .next (s.runInstr p .divs (arrayBody p .divs))

/-- FSET: FSET sets a PE flag to a constant. (R54) -/
def execFset (p : SeqId) (s : State) : Res := .next (s.runInstr p .fset (arrayBody p .fset))

/-- SPRD: SPRD copies the head's src flag into flag dst of every PE of the bundle. (R60) -/
def execSprd (p : SeqId) (s : State) : Res := .next (s.runInstr p .sprd (arrayBody p .sprd))

/-- IDLE: issues ceil(n / 8,192) idle bursts. (R166) -/
def execIdle (p : SeqId) (s : State) : Res := .next (s.runInstr p .idle (arrayBody p .idle))

end Sys2Proof.Machine
end

