-- ==== Sys2Proof/Machine/Mesh.lean ====
section
/-!
DEFINITION. The array mesh: packets (R117-R120), delivery at endpoints (R119, R123-R125), poisoned flits
(R132). A packet command is the arrival of that packet at its destination; a packet that no part of the module has sent enters at SRC and
SPORT then. The manual gives no map of the maintenance registers and of what ports other than T hold, so a location there reads what was last
written to it, and is free before (log entry 17).
-/
namespace Sys2Proof.Machine

/-- A 256-bit flit with bits `hi` to `lo` replaced. -/
def putBits (w : W256) (hi lo v : Nat) : W256 :=
  let m := (2 ^ (hi + 1 - lo) - 1) * 2 ^ lo
  (w &&& ~~~(BitVec.ofNat 256 m)) ||| (BitVec.ofNat 256 (v * 2 ^ lo) &&& BitVec.ofNat 256 m)

/-- A header from its fields. -/
def mkHeader (cls cmd len dest dport sport src sfab tag part addr aux : Nat) : W256 :=
  BitVec.ofNat 256 (cls * 2 ^ 254 + cmd * 2 ^ 240 + len * 2 ^ 232 + dest * 2 ^ 216 + dport * 2 ^ 213 + sport * 2 ^ 210 +
    src * 2 ^ 200 + sfab * 2 ^ 184 + tag * 2 ^ 172 + part * 2 ^ 168 + addr * 2 ^ 64 + aux)

/-- The response to `k`: back to SRC and SPORT with its TAG and PART (R119). -/
def State.response (s : State) (k : Packet) (cmd aux : Nat) (data : List W256) : Packet :=
  ⟨mkHeader 1 cmd data.length k.src k.sport k.dport k.tile (s.get Reg.FAB_STAT_ID) k.tag k.part 0 aux, data⟩

/-- A packet enters the mesh. The port that sends a Request or a Maintenance packet has kept room for the response (R125). -/
def State.inject (s : State) (k : Packet) : State :=
  let t := s.enter k
  if k.cls = 0 ∨ k.cls = 3 then { t with net := { t.net with rooms := t.net.rooms ++ [(k.src, k.sport, k.tag)] } } else t

/-- A packet that the gateway puts in, at the H port of the destination tile's die (R123, R353). -/
def State.injectAtGateway (s : State) (k : Packet) : State :=
  let t := s.inject k
  { t with net := { t.net with gated := t.net.gated ++ [k] } }

/-- A T port begins to send an RDATA of `n` data flits, whose rows it reads as each flit enters the mesh (R116, R119). -/
def State.injectRead (s : State) (k : Packet) (n : Nat) : State :=
  let r := s.response k 0x81 0 (List.replicate n 0)
  let t := s.inject r
  { t with net := { t.net with replies := t.net.replies ++ [⟨r, k.addr, List.replicate n 0⟩] } }

/-- The packet of the mesh that an RDATA is: the header tells (R117). -/
def State.identify (s : State) (k : Packet) : Packet :=
  match s.net.replies.find? (fun r => decide (r.pkt.header = k.header)) with
  | some r => r.pkt
  | none => k

/-- A packet with the data flits that its T port has read (R116). -/
def State.filled (s : State) (k : Packet) : Packet :=
  match s.net.replies.find? (fun r => decide (r.pkt = k)) with
  | some r => ⟨k.header, r.data⟩
  | none => k

/-- A response takes the room that its requester has kept (R125). -/
def State.consume (s : State) (k : Packet) : State := { s with net := { s.net with rooms := s.net.rooms.erase (k.tile, k.dport, k.tag) } }

/-- ERR with a code, where the class is answered: Requests and Maintenance (R119). -/
def State.answerErr (s : State) (k : Packet) (code : Nat) : State :=
  if k.cls = 0 ∨ k.cls = 3 then s.inject (s.response k 0x8F code []) else s

/-- The fabric's answer to a remote packet, on its way back to the source (R351, R355, R360). -/
def State.fabricReply (s : State) (k : Packet) (cmd code : Nat) : Packet :=
  ⟨putBits (mkHeader 1 cmd 0 k.sfab k.sport 7 (k.dest % 1024) (s.get Reg.FAB_STAT_ID) k.tag k.part 0 (code + k.src * 2 ^ 48)) 253 253 1, []⟩

/-- An answer of the fabric to a packet's source: into the mesh where the source is this module, else back over the fabric (R351, R355, R360). -/
def State.fabricAnswer (s : State) (k : Packet) (cmd code : Nat) : State :=
  if k.cls ≠ 0 ∧ k.cls ≠ 3 then s
  else if k.sfab = s.get Reg.FAB_STAT_ID then s.inject (s.response k cmd code [])
  else { s with fabric := { s.fabric with arrivals := s.fabric.arrivals ++ [⟨none, false, s.fabricReply k cmd code⟩] } }

/-- The requester of a response that has been discarded is answered with an ERR in its place (R134). -/
def State.answerLost (s : State) (k : Packet) (code : Nat) : State :=
  s.inject ⟨mkHeader 1 0x8F 0 k.dest k.dport k.sport k.src k.sfab k.tag k.part 0 code, []⟩

/-! ## Routers (R114, R123) -/

/-- The input port at which a packet reaches its destination router under XY routing (R123). -/
def State.inputPort (s : State) (k : Packet) : Nat :=
  let at_ := s.net.entry k / 32
  if tileY at_ < tileY k.tile then 0
  else if tileY k.tile < tileY at_ then 2
  else if tileX at_ < tileX k.tile then 3
  else if tileX k.tile < tileX at_ then 1
  else s.net.entry k / 4 % 8

/-- A bit of MSH_ERR set by hardware: the first is recorded in MSH_ERRTILE, and the mesh source is raised (R138, R323). -/
def State.meshErr (s : State) (kind tile port : Nat) : State :=
  let s1 := s.set ⟨Reg.MSH_ERR_DRAIL.off, kind, kind⟩ 1
  let s2 := if s1.flag Reg.MSH_ERRTILE_VALID then s1 else
    (((s1.set Reg.MSH_ERRTILE_VALID 1).set Reg.MSH_ERRTILE_KIND kind).set Reg.MSH_ERRTILE_PORT port).set Reg.MSH_ERRTILE_TILE tile
  s2.raise 0x0E1

/-! ## Delivery -/

/-- Whether two packets keep their order: of one class, from one port of a router to one destination port (R124). -/
def Net.sameWay (n : Net) (a b : Packet) : Bool := decide (n.entry a = n.entry b) && decide (a.exit = b.exit)

/-- Whether a packet must wait for one that entered before it (R124). -/
def State.behind (s : State) (k : Packet) : Bool := (s.mesh.takeWhile (fun q => decide (q ≠ k))).any (fun q => s.net.sameWay q k)

/-- Whether the endpoint of an arriving packet turns it away: one that has come to its entry port before, or comes to it now (R133). -/
def State.turnsAway (s : State) (k : Packet) : Bool :=
  s.endpointShut k || (!s.mesh.contains k && decide (k.cls ≠ 1) && k.domain.any (fun d => decide (1 ≤ s.phase d)))

/-- The arrival of a packet of class `cls` and command `cmd`, in its order (R124), after its way through the routers (R123): a remote one goes
to the fabric router, one for a port that does not exist or is fenced is turned away, any other reaches its endpoint (R119, R133). R133 says
what answers a new Request at a closed endpoint; a packet of another class is discarded there without an answer and without a count
(DEDUCED; log entry 43). -/
def State.arrive (s : State) (k : Packet) (cls cmd : Nat) (body : State → State) : State :=
  if k.cls ≠ cls ∨ k.cmd ≠ cmd ∨ s.behind k = true then s
  else
    let s1 := s.carry k none
    State.settleFlits (k := k) <|
      if k.remote then { s1 with fabric := { s1.fabric with arrivals := s1.fabric.arrivals ++ [⟨none, false, k⟩] } }
      else if !portExists k.tile k.dport then
        ((s1.count Reg.MSH_DROPS_COUNT 1).meshErr 2 k.tile (s.inputPort k)).answerErr k 0x02
      else if s.turnsAway k then (if k.cls = 0 then s1.answerErr k 0x01 else s1)
      else body s1

/-- The first `n` data flits of a packet written into its tile, but for those that its T port has taken in their beats (R116, R118, R120). -/
def State.writeFlits (s : State) (k : Packet) (n : Nat) : State :=
  ((flitsOf k).filter (fun f => decide (0 < f.idx) && decide (f.idx ≤ n) && !s.net.landed.contains f)).foldl
    (fun t f => (f.rows 0).foldl State.putRow t) s

/-- A flit of free values (log entry 17). -/
def freeFlit (n : Nat) : W256 := BitVec.ofNat 256 (Config.freeFunction 2 [n])

/-- The place of flit `i` of a location behind a port that is not T, or of a maintenance register (R119; log entry 17). -/
def maintKey (k : Packet) (i : Nat) : Nat := ((8 * k.tile + k.dport) * 2 ^ 64 + k.addr) * 256 + i

/-- The data flits of a packet are kept at its location. -/
def State.keepFlits (s : State) (k : Packet) : State :=
  { s with maint := (List.range k.data.length).foldl (fun m i => SMap.insert m (maintKey k i) (k.data.getD i 0)) s.maint }

/-- Flit `i` of a location: what was last written there, free before (log entry 17). -/
def State.keptFlit (s : State) (k : Packet) (i : Nat) : W256 :=
  if s.maint.any (fun e => decide (e.1 = maintKey k i)) then SMap.get 0 s.maint (maintKey k i) else freeFlit (256 * s.free + i)

/-- READ: at a T port, RDATA returns AUX[7:0] data flits, each read in the beat in which it is sent (R116, R119, R120). -/
def State.onRead (s : State) (k : Packet) : State :=
  s.arrive k 0 0x01 (fun t =>
    if k.dport = 4 then (if k.aux % 256 = 0 then t else t.wakeTurf (turfOfTile k.tile)).injectRead k (k.aux % 256)
    else t.useFree.inject (t.response k 0x81 0 ((List.range (k.aux % 256)).map (t.keptFlit k))))

/-- READ (R119). -/
def execRead (k : Packet) (s : State) : Res := .next (s.onRead k)

/-- The data of a packet reaches its endpoint: PE memory at a T port (R118), a location elsewhere (log entry 17). -/
def State.takeData (s : State) (k : Packet) : State := if k.dport = 4 then s.writeFlits k k.data.length else s.keepFlits k

/-- WRITE: the data is written; WACK answers (R119, R120). -/
def State.onWrite (s : State) (k : Packet) : State := s.arrive k 0 0x02 (fun t => (t.takeData k).inject (t.response k 0x82 0 []))

/-- WRITE (R119). -/
def execWrite (k : Packet) (s : State) : Res := .next (s.onWrite k)

/-- SDATA: the data is written; nothing answers (R119, R120). -/
def State.onSdata (s : State) (k : Packet) : State := s.arrive k 2 0x40 (fun t => t.takeData k)

/-- SDATA (R119). -/
def execSdata (k : Packet) (s : State) : Res := .next (s.onSdata k)

/-! ## Staging engines as requesters (R225, R231, R234) -/

/-- The engine whose transfer a packet's TAG names, and the transfer: TAG is 64 times the engine plus its queue slot (log entry 17). -/
def State.tagged (s : State) (k : Packet) : Option (Nat × Transfer) :=
  ((s.stg (k.tag / 64)).find? (fun x => decide (x.slot = k.tag % 64))).map (fun x => (k.tag / 64, x))

/-- A transfer of an engine replaced. -/
def State.putTransfer (s : State) (e : Nat) (x : Transfer) : State :=
  s.setStg e ((s.stg e).map (fun y => if y.slot = x.slot then x else y))

/-- A response at the X port of the engine that asked: the tile it comes from has answered its next packet of 128 data flits, with rows of
an OUT transfer where it is RDATA. An error, or a poisoned flit (`bad`), fails the transfer, and the rows that it did not bring are open (R132, R231,
R238). -/
def State.engineReturn (s : State) (k : Packet) (bad : Bool) : State :=
  match s.tagged k with
  | none => s
  | some (e, x) =>
    if (k.dport ≠ 5 ∧ k.dport ≠ 6) ∨ x.desc.cord = true ∨ x.desc.dir = 2 then s
    else
      let g := SMap.get 0 x.sent k.src
      let n := min 512 (x.desc.segments - g)
      let row (i : Nat) : W64 :=
        if k.cmd = 0x81 ∧ i / 4 < k.data.length then flitSeg (k.data.getD (i / 4) 0) (i % 4)
        else BitVec.ofNat 64 (Config.freeFunction 17 [s.free, k.src, g + i])
      let got := if x.desc.dir = 1 then (List.range n).foldl (fun m i => SMap.put 0 m (0x80000 * k.src + g + i) (row i)) x.got else x.got
      let err := decide (k.cmd = 0x8F)
      s.putTransfer e { x with sent := SMap.put 0 x.sent k.src (g + n), got := got, failed := x.failed || err || bad
                               poisoned := x.poisoned || bad || (err && decide (k.aux % 256 = 4)) }

/-- A tile of a Cord-bound OUT transfer has its arm order (R234). -/
def State.arm (s : State) (k : Packet) : State :=
  match s.tagged k with
  | some (e, x) => if k.dport = 4 ∧ x.unarmed.contains k.tile = true then s.putTransfer e { x with unarmed := x.unarmed.erase k.tile } else s
  | none => s

/-- A response at an H port that belongs to a remote request goes back to the fabric with the recorded fields, and the
entry is free again (R353). -/
def State.gatewayReturn (s : State) (k : Packet) : State :=
  if k.dport ≠ 7 then s
  else match SMap.get none s.fabric.entries k.tag with
  | none => s
  | some e =>
    let h := putBits (putBits (putBits (putBits (putBits k.header 253 253 1) 231 216 e.sfab) 215 213 e.sport) 183 172 e.tag) 63 48
      e.src
    { s with fabric := { s.fabric with
        entries := SMap.put none s.fabric.entries k.tag none
        arrivals := s.fabric.arrivals ++ [⟨none, false, ⟨h, k.data⟩⟩] } }

/-- A response reaches its requester (R119, R125). -/
def State.takeResponse (s : State) (k : Packet) : State := ((s.consume k).engineReturn k false).gatewayReturn k

/-- RDATA: delivers read data to its requester (R119, R125). -/
def State.onRdata (s : State) (k : Packet) : State := s.arrive (s.identify k) 1 0x81 (fun t => t.takeResponse (t.filled (s.identify k)))

/-- RDATA (R119). -/
def execRdata (k : Packet) (s : State) : Res := .next (s.onRdata k)

/-- WACK: tells its requester that the write is done (R119, R125). -/
def State.onWack (s : State) (k : Packet) : State := s.arrive k 1 0x82 (fun t => t.takeResponse k)

/-- WACK (R119). -/
def execWack (k : Packet) (s : State) : Res := .next (s.onWack k)

/-- ERR: delivers an error code to its requester (R119, R125). -/
def State.onErr (s : State) (k : Packet) : State := s.arrive k 1 0x8F (fun t => t.takeResponse k)

/-- ERR (R119). -/
def execErr (k : Packet) (s : State) : Res := .next (s.onErr k)

/-- PING: answered with WACK (R119). -/
def State.onPing (s : State) (k : Packet) : State := s.arrive k 3 0xC0 (fun t => t.inject (t.response k 0x82 0 []))

/-- PING (R119). -/
def execPing (k : Packet) (s : State) : Res := .next (s.onPing k)

/-- MREAD: reads a maintenance register and returns RDATA with one data flit (R119, log entry 17). -/
def State.onMread (s : State) (k : Packet) : State :=
  s.arrive k 3 0xC1 (fun t => t.useFree.inject (t.response k 0x81 0 [t.keptFlit k 0]))

/-- MREAD (R119). -/
def execMread (k : Packet) (s : State) : Res := .next (s.onMread k)

/-- MWRITE: writes a maintenance register, an arm order among them (R234), and returns WACK (R119, log entry 17). -/
def State.onMwrite (s : State) (k : Packet) : State :=
  s.arrive k 3 0xC2 (fun t => ((t.keepFlits k).arm k).inject (t.response k 0x82 0 []))

/-- MWRITE (R119). -/
def execMwrite (k : Packet) (s : State) : Res := .next (s.onMwrite k)

/-- The commands of each class (R119), with RCMD (R360). -/
def cmdDefined (cls cmd : Nat) : Bool :=
  match cls with
  | 0 => cmd = 0x01 || cmd = 0x02
  | 1 => cmd = 0x81 || cmd = 0x82 || cmd = 0x8F
  | 2 => cmd = 0x40
  | _ => cmd = 0xC0 || cmd = 0xC1 || cmd = 0xC2 || cmd = 0xC8

/-- BADCMD: a packet whose CMD is not defined for its class is discarded, counted and answered with ERR 0x03 (R119). -/
def State.onBadcmd (s : State) (k : Packet) : State :=
  s.arrive k k.cls k.cmd (fun t => ((t.count Reg.MSH_DROPS_COUNT 1).meshErr 3 k.tile (s.inputPort k)).answerErr k 0x03)

/-- BADCMD (R119). -/
def execBadcmd (k : Packet) (s : State) : Res := if cmdDefined k.cls k.cmd then .next s else .next (s.onBadcmd k)

/-! ## A requester's own packets (R119, R124, R231, R243) -/

/-- A packet reaches its destination as its command would say. -/
def State.deliver (s : State) (k : Packet) : State :=
  match k.cls, k.cmd with
  | 0, 0x01 => s.onRead k
  | 0, 0x02 => s.onWrite k
  | 1, 0x81 => s.onRdata k
  | 1, 0x82 => s.onWack k
  | 1, 0x8F => s.onErr k
  | 2, 0x40 => s.onSdata k
  | 3, 0xC0 => s.onPing k
  | 3, 0xC1 => s.onMread k
  | 3, 0xC2 => s.onMwrite k
  | 3, 0xC8 => s.arrive k 3 0xC8 id
  | _, _ => s.onBadcmd k

/-- The packets that go before `k` on its way have reached their destinations (R124), at most `n`. -/
def State.clearWay (k : Packet) : Nat → State → State
  | 0, s => s
  | n + 1, s =>
    match (s.mesh.takeWhile (fun q => decide (q ≠ k))).find? (fun q => s.net.sameWay q k) with
    | some q => State.clearWay k n (s.deliver q)
    | none => s

/-- A Request is sent, served and answered: the state once the requester has the response, and the response (R119, R125). -/
def State.ask (s : State) (k : Packet) : State × Packet :=
  let s1 := s.inject k
  let s2 := (s1.clearWay k s1.mesh.length).deliver k
  match s2.mesh.reverse.find? (fun r => decide (r.cls = 1) && decide (r.tag = k.tag) && decide (r.tile = k.src) && decide (r.dport = k.sport)) with
  | none => (s2, ⟨0, []⟩)
  | some r =>
    let s3 := (s2.clearWay r s2.mesh.length).carry r none
    ((s3.consume r).settleFlits r, s3.filled r)

/-- Where a requester puts its packets in: router and port, with its TAG and PART (R117). -/
structure Origin where
  router : Nat
  port : Nat
  tag : Nat
  part : Nat
  deriving DecidableEq, Repr

/-- The address fields of a packet that begins `g` rows after row `row` of bit address `bit` (R117, R118). -/
def rowAddr (bit row g : Nat) : Nat := (bit + (row + g) / 64) % 8192 + (row + g) % 64 * 8192

/-- A READ or WRITE of memory rows of a tile (R117, R119). -/
def State.rowPacket (s : State) (o : Origin) (cmd tile addr aux : Nat) (data : List W256) : Packet :=
  ⟨mkHeader 0 cmd data.length tile 4 o.port o.router (s.get Reg.FAB_STAT_ID) o.tag o.part addr aux, data⟩

/-- `rows` memory rows of a tile from `g` rows after row `row` of bit address `bit` on, read in READs of 128 data flits, the last for the rest; a
row that an answer does not bring is open (R118, R119, R231). -/
def State.fetchRows (o : Origin) (tile bit row : Nat) : Nat → Nat → Nat → State → State × List W64
  | 0, _, _, s => (s, [])
  | n + 1, rows, g, s =>
    let m := min 512 rows
    if m = 0 then (s, [])
    else
      let r := s.ask (s.rowPacket o 0x01 tile (rowAddr bit row g) (cdiv m 4) [])
      let got := (List.range m).map (fun i =>
        if i / 4 < r.2.data.length then flitSeg (r.2.data.getD (i / 4) 0) (i % 4)
        else BitVec.ofNat 64 (Config.freeFunction 19 [s.free, tile, g + i]))
      let rest := State.fetchRows o tile bit row n (rows - m) (g + m) r.1
      (rest.1, got ++ rest.2)

/-- A data flit of four segments (R118). -/
def segFlit (row : Nat → W64) : W256 := BitVec.ofNat 256 ((List.range 4).foldl (fun v i => v + (row i).toNat * 2 ^ (64 * i)) 0)

/-- Memory rows of a tile from `g` rows after row `row` of bit address `bit` on written in WRITEs of 128 data flits, the last for the rest. A data
flit has four rows: where the last brings fewer, the others are read before and written as they were (DESIGN CHOICE: the spec does not say how a
WRITE leaves rows of its last flit alone; log entry 22). -/
def State.storeRows (o : Origin) (tile bit row : Nat) : Nat → List W64 → Nat → State → State
  | 0, _, _, s => s
  | n + 1, rows, g, s =>
    if rows.isEmpty then s
    else
      let now := rows.take 512
      let odd := now.length % 4
      let r := if odd = 0 then (s, []) else State.fetchRows o tile bit row 1 (4 - odd) (g + now.length) s
      let all := now ++ r.2
      let flits := (List.range (all.length / 4)).map (fun f => segFlit (fun i => all.getD (4 * f + i) 0))
      State.storeRows o tile bit row n (rows.drop 512) (g + 512) (r.1.ask (r.1.rowPacket o 0x02 tile (rowAddr bit row g) 0 flits)).1

/-- The partition that owns the turf of a tile. -/
def State.partOfTile (s : State) (tile : Nat) : Option Nat :=
  if s.flag (Reg.TRF_CFG_ASSIGNED (turfOfTile tile)) then some (s.get (Reg.TRF_CFG_PART (turfOfTile tile))) else none

/-- The reserved flit on its way to a port whose content is that of the poisoned one (R132). -/
def State.poisonedLink (s : State) (k : Packet) (tile port : Nat) (header : Bool) : Option LinkFlit :=
  let f := if header then k.header else k.data.getD 0 0
  if k.cls = 2 then s.links.find? (fun l => decide (l.tile = tile) && decide (l.port = port) && decide (l.flit = f)) else none

/-- How many data flits of a poisoned packet are good: those that have left the mesh, and a free number of the rest, for which one the poisoned flit
is the command does not say; none where it is the header (R132; log entry 17). -/
def State.goodCount (s : State) (k : Packet) (header : Bool) : Nat :=
  let done := (s.net.landed.filter (fun f => decide (f.pkt = k))).length
  if header then done else done + s.freeValue.toNat % max 1 (k.data.length - done)

/-- The destination takes the first `n` data flits of a poisoned packet, which came before the poisoned one: it writes them, or the engine that asked
keeps them and its transfer fails (R132, R238). -/
def State.goodFlits (s : State) (k : Packet) (n : Nat) : State :=
  let head : Packet := ⟨k.header, k.data.take n⟩
  if k.cls = 1 then s.engineReturn head true
  else if (k.cls = 0 ∧ k.cmd = 0x02) ∨ (k.cls = 2 ∧ k.cmd = 0x40) then (if k.dport = 4 then s.writeFlits k n else s.keepFlits head)
  else s

/-- POISONED_FLIT: a router found a bad code (`crc` for a seam CRC) at `tile`; the flit and the rest of its packet are discarded at the
destination, in the packet's order (R124), a Request or Maintenance packet is answered with ERR 0x04, and a MESH fault is reported for the partition
in PART, or for that of the router when the header is poisoned (R132, R377); where the router's turf has none, the record that R365 asks for names PART
(DEDUCED; log entry 47). -/
def execPoisonedFlit (k0 : Packet) (tile : TileId) (port : Fin 8) (crc header : Bool) (s : State) : Res :=
  let k := s.identify k0
  let fault (p : Nat) (shared : Bool) : FaultInfo := ⟨3, Fin.ofNat 4 p, none, tile, shared⟩
  let report (t : State) : State :=
    t.detectAll [if header then fault ((t.partOfTile tile).getD k.part) true else fault k.part false]
  match s.poisonedLink k tile port header with
  | some l => .next (report (({ s with links := s.links.map (fun m => if m = l then { m with bad := true } else m) } : State).meshErr (bnat crc) tile port))
  | none =>
    if s.behind k then .next s
    else
      let n := s.goodCount k header
      let s1 := s.useFree.carry k (some n)
      let s2 := (if header || s.turnsAway k then s1 else s1.goodFlits (s1.filled k) n).meshErr (bnat crc) tile port
      .next ((report (s2.answerErr k 0x04)).settleFlits k)

end Sys2Proof.Machine
end

