-- ==== Sys2Proof/Machine/Fences.lean ====
section
/-!
DEFINITION. Fence and drain (R133-R136): the phases of a fence domain, who holds it, its timeout, its release, and the return
of a turf to its partition (R104).
-/
namespace Sys2Proof.Machine

/-- The fence domains that exist: turfs, HBM islands, the edge fabric, fabric ports (R133). -/
def isDomain (d : Nat) : Bool := decide (d ≤ 72) || (decide (80 ≤ d) && decide (d ≤ 87))

/-- Whether some agent holds the fence. -/
def Fence.held (f : Fence) : Bool := f.host || f.loader || f.wdraw || f.reset

/-- Whether a write of the host to REQ is ignored (R136). -/
def State.hostBarred (s : State) (d : Nat) : Bool := (s.fence d).reset || (s.fence d).loader || (s.fence d).wdraw

/-- REQ and OWNER as the registers show them (R136). -/
def State.showFence (s : State) (d : Nat) : State :=
  (s.set (Reg.MSH_FENCE_REQ d) (bnat (s.fence d).held)).set (Reg.MSH_FENCE_OWNER d) (bnat (s.fence d).reset)

/-- An agent takes hold of a fence; it starts in Stop where it was open (R133, R136). FORCED then clears, whichever agent it is: R138 speaks of
the next write of 1 to REQ, which REQ shows for any agent (DEDUCED; log entry 43). -/
def State.holdFence (s : State) (d : Nat) (f : Fence → Fence) : State :=
  let s1 := (s.setFence d (f (s.fence d))).showFence d
  if s.phase d ≠ 0 then s1
  else ((s1.set (Reg.MSH_FENCE_FORCED d) 0).set (Reg.MSH_FENCE_PHASE d) 1).pickStep d

/-- An agent lets go of a fence; when the last one does, the domain opens (R135, R136). A turf waits for its rejoin. -/
def State.releaseFence (s : State) (d : Nat) (f : Fence → Fence) : State :=
  let s1 := (s.setFence d (f (s.fence d))).showFence d
  if (s1.fence d).held then s1
  else
    let s2 := s1.set (Reg.MSH_FENCE_PHASE d) 0
    if d < 64 then s2
    else
      let s3 := s2.setFence d Fence.open
      if 64 ≤ d ∧ d < 72 ∧ s3.get (Reg.HBM_STAT_STATE (d - 64)) = 4 then s3.set (Reg.HBM_STAT_STATE (d - 64)) 2
      else if d = 72 ∧ s3.get Reg.EDG_STAT_STATE = 4 then s3.set Reg.EDG_STAT_STATE (2 + s3.get Reg.EDG_CTL_FREEZE) else s3

/-- FENCE_REQUEST: a write of 1 to MSH_FENCE.REQ starts the Stop phase (R133). -/
def execFenceRequest (d : Fin 88) (s : State) : Res :=
  if !isDomain d || s.hostBarred d || decide (s.phase d ≠ 0) then .next s
  else .next (s.holdFence d (fun f => { f with host := true }))

/-- FENCE_STOP_COMPLETE: the turf has completed step sf − 1, or another domain stops at once; the fence enters Drain (R133). -/
def execFenceStopComplete (d : Fin 88) (s : State) : Res :=
  if s.phase d ≠ 1 then .next s
  else
    let s1 := if (s.fence d).step.isNone then s.pickStep d else s
    if (s1.fence d).step.isNone then .next s1
    else
      let s2 := s1.set (Reg.MSH_FENCE_PHASE d) 2
      .next (if d.val < 64 then s2.set (Reg.TRF_STATE_BURSTS d) 0 else s2)

/-- Whether a reserved flit on its way belongs to a flow that starts or ends at domain `d`. -/
def State.linkTouches (s : State) (d : Nat) (l : LinkFlit) : Bool :=
  match s.flowPath l.part l.flow with
  | some a => decide (portDomain a.start a.inPort = some d) || decide (portDomain a.stop a.outPort = some d)
  | none => false

/-- Whether a packet of the domain is still in flight. -/
def State.inFlight (s : State) (d : Nat) : Bool :=
  s.mesh.any (fun k => k.touches d) || s.links.any (s.linkTouches d) || (decide (80 ≤ d) && !(s.port (d - 80)).queue.isEmpty)

/-- The edge fabric is fenced: state 4, or 5 for a block reset, which gates the clocks and makes the fabric's pins inert (R275, R286). -/
def State.edgeFenced (s : State) : State :=
  if (SMap.get none s.rst.targets 304).isSome then ({ s with edge := { s.edge with pins := 0, ev := 0, ek := 0 } } : State).edgeState 5
  else s.set Reg.EDG_STAT_STATE 4

/-- The domain is Fenced: the event is raised, a turf reads state 3, or 6 for the loader (R261), an active stack state 4; one that is off, in
training or failed still reads so (R133, R224, R245). -/
def State.enterFenced (s : State) (d : Nat) : State :=
  let s1 := s.set (Reg.MSH_FENCE_PHASE d) 3
  let s2 := if d < 64 then s1.set (Reg.TRF_STATE_STATE d) (if (s.fence d).loader then 6 else 3)
    else if d < 72 ∧ (s1.get (Reg.HBM_STAT_STATE (d - 64)) = 2 ∨ s1.get (Reg.HBM_STAT_STATE (d - 64)) = 3) then s1.set (Reg.HBM_STAT_STATE (d - 64)) 4
    else if d = 72 ∧ (s1.get Reg.EDG_STAT_STATE = 2 ∨ s1.get Reg.EDG_STAT_STATE = 3) then s1.edgeFenced else s1
  s2.raise (0x040 + d)

/-- FENCE_DRAIN_COMPLETE: no packet of the domain remains in flight and every credit is back, if not yet then after one more idle beat; the domain is
Fenced (R121, R133). -/
def execFenceDrainComplete (d : Fin 88) (s : State) : Res :=
  if s.phase d = 2 ∧ s.inFlight d = false then
    let t := if s.net.returning.isEmpty then s else s.meshBeat none none
    .next (if t.net.returning.isEmpty then t.enterFenced d else t)
  else .next s

/-- A turf whose bit of PWR_TURFOFF is set is off once its fence is Clamped and it is unassigned or withdrawn: its PE memory is lost, and
reads as memory that nothing has written (R408, log entry 3). -/
def State.switchOff (s : State) (t : Nat) : State :=
  if bitAt (s.get Reg.PWR_TURFOFF_OFF) t = 1 ∧ s.phase t = 4 ∧ (s.flag (Reg.TRF_CFG_ASSIGNED t) = false ∨ (s.fence t).wdraw = true) then
    { s with peMem := s.peMem.filter (fun e => decide (turfOfPe e.1 ≠ t)) }
  else s

/-- A bit of PWR_TURFOFF cleared: the turf is on again (R408). -/
def State.switchOn (s : State) (t : Nat) : State := s.set ⟨Reg.PWR_TURFOFF_OFF.off, t, t⟩ 0

/-- FENCE_CLAMP: the isolation clamps close (R133); a turf withdrawn by HST_WDRAW reads state 4 (R264). -/
def execFenceClamp (d : Fin 88) (s : State) : Res :=
  if s.phase d ≠ 3 then .next s
  else
    let s1 := s.set (Reg.MSH_FENCE_PHASE d) 4
    let s2 := if d.val < 64 ∧ (s.fence d).wdraw ∧ (s.fence d).loader = false then s1.set (Reg.TRF_STATE_STATE d) 4 else s1
    .next (if d.val < 64 then s2.switchOff d else s2)

/-- The queue of a fabric port that is forced into Fenced: its packets are discarded and counted, and the Requests among them are answered with ERR
0x01 (R134). -/
def State.discardQueue (s : State) (n : Nat) : State :=
  let heads := (s.port n).queue.filter (·.head)
  let t := (s.setPort n { s.port n with queue := [] }).count Reg.MSH_DROPS_COUNT heads.length
  (heads.filter (fun f => decide (f.vc / 2 = 0))).foldl (fun u f => u.fabricAnswer ⟨f.flit, []⟩ 0x8F 0x01) t

/-- The packets in flight to or from a domain are discarded and counted, those on reserved flows and in a port's queue with them; Requests made
to it are answered with ERR 0x01, those too whose response has been discarded (R134). -/
def State.discardDomain (s0 : State) (d : Nat) : State :=
  let s := if d < 80 then s0 else s0.discardQueue (d - 80)
  let mine := s.mesh.filter (fun k => k.touches d)
  let flows := ((s.links.filter (s.linkTouches d)).map (fun l => 4096 * l.part + l.flow)).eraseDups
  let s1 : State := { s with
    mesh := s.mesh.filter (fun k => !k.touches d), links := s.links.filter (fun l => !s.linkTouches d l)
    flows := s.flows.filter (fun e => !flows.contains e.1)
    net := { s.net with rooms := s.net.rooms.filter (fun r => decide (portDomain r.1 r.2.1 ≠ some d)) } }
  let s2 := s1.count Reg.MSH_DROPS_COUNT (mine.length + flows.length)
  let s3 := (mine.filter (fun k => decide (k.cls = 0) && decide (k.domain = some d))).foldl (fun t k => t.answerErr k 0x01) s2
  (mine.filter (fun k => decide (k.cls = 1) && decide (k.domain ≠ some d))).foldl (fun t k => t.answerLost k 0x01) s3

/-- Every open Flue stream of a turf's partition fails: its results are not written, and a FLUE fault is reported (R105,
R134). -/
def State.failStreams (s : State) (t : Nat) : State :=
  let p := s.get (Reg.TRF_CFG_PART t)
  let n := (s.part p).step
  let open_ := (s.part p).streams.filter (s.streamOpenAt p n)
  if s.flag (Reg.TRF_CFG_ASSIGNED t) && !open_.isEmpty then
    (s.failFlue p (fun f => open_.any (fun x => decide (x.mfirst = f)))).detect ⟨2, Fin.ofNat 4 p, some (BitVec.ofNat 64 n), 0, false⟩
  else s

/-- A fence is forced into Fenced (R134, R394); a turf that is still in Stop takes the partition's next step number as its fence step. -/
def State.forceFence (s : State) (d : Nat) : State :=
  let s1 := if d < 64 ∧ (s.fence d).step.isNone then
      let t := s.failStreams d
      t.setFence d { t.fence d with step := some (t.part (t.get (Reg.TRF_CFG_PART d))).step }
    else s
  let s2 := if d < 64 then s1.set (Reg.TRF_STATE_BURSTS d) 0 else s1
  ((s2.discardDomain d).set (Reg.MSH_FENCE_FORCED d) 1).enterFenced d

/-- FENCE_TIMEOUT: a fence of the host or the loader not Fenced within TMO µs is forced (R134). -/
def execFenceTimeout (d : Fin 88) (s : State) : Res :=
  if (s.phase d = 1 ∨ s.phase d = 2) ∧ (s.fence d).reset = false ∧ s.get Reg.MSH_FENCE_TMO_TMO ≠ 0 then .next (s.forceFence d)
  else .next s

/-- FENCE_RELEASE: a write of 0 to REQ abandons the fence or opens the clamps (R135). -/
def execFenceRelease (d : Fin 88) (s : State) : Res :=
  if !isDomain d || s.hostBarred d || decide (s.phase d = 0) then .next s
  else .next (s.releaseFence d (fun f => { f with host := false }))

/-- TURF_REJOIN: a returning turf joins its partition at the next step number with no open Flue stream (R104, R135), once no march test runs
on it (R382). -/
def execTurfRejoin (t : TurfId) (s : State) : Res :=
  if s.phase t = 0 ∧ (s.fence t).step.isSome ∧ s.streamsOpen t = false ∧ s.get (Reg.TRF_STATE_STATE t) ≠ 5 then
    let s1 := s.setFence t { s.fence t with step := none }
    if s.flag (Reg.TRF_CFG_ASSIGNED t) then
      .next ((s1.set (Reg.TRF_STATE_STATE t) 1).set (Reg.TRF_STEP_STEP t) (s.part (s.get (Reg.TRF_CFG_PART t))).step)
    else .next (s1.set (Reg.TRF_STATE_STATE t) 0)
  else .next s

end Sys2Proof.Machine
end

