-- ==== Sys2Proof/Machine/Hbm.lean ====
section
/-!
DEFINITION. HBM (R221-R224): the mapping of addresses to stacks, when a stack answers, self-refresh, power and training, and
data errors (R224, R364).
-/
namespace Sys2Proof.Machine

/-- The stack of an HBM address (R221). -/
def hbmStack (a : Nat) : Nat := 2 * (a / 0x800000000) + a / 4096 % 2

/-- Whether the `n` bytes at `a` touch stack `st` (R221). -/
def stackHit (a n st : Nat) : Bool :=
  let lo := max (a / 4096) (st / 2 * 0x800000)
  let hi := min ((a + n - 1) / 4096) (st / 2 * 0x800000 + 0x7FFFFF)
  decide (0 < n) && decide (lo ≤ hi) && (decide (lo < hi) || decide (lo % 2 = st % 2))

/-- Whether a stack answers: active or in self-refresh, and its fence open (R224, R245). -/
def State.stackUp (s : State) (st : Nat) : Bool :=
  (s.get (Reg.HBM_STAT_STATE st) = 2 || s.get (Reg.HBM_STAT_STATE st) = 3) && decide (s.phase (64 + st) = 0)

/-- Whether every stack that the `n` bytes at `a` touch answers (R224). -/
def State.hbmUp (s : State) (a n : Nat) : Bool := (List.range 8).all (fun st => !stackHit a n st || s.stackUp st)

/-- An access wakes the stacks it touches from self-refresh (R224). -/
def State.hbmTouch (s : State) (a n : Nat) : State :=
  s.each 8 (fun st t => if stackHit a n st && decide (t.get (Reg.HBM_STAT_STATE st) = 3) then t.set (Reg.HBM_STAT_STATE st) 2 else t)

/-- Bytes of HBM read. -/
def State.hbmRead (s : State) (a n : Nat) : List Byte := readBytes s.hbm a n

/-- Bytes of HBM written; the stacks wake (R223, R224). -/
def State.hbmWrite (s : State) (a : Nat) (bs : List Byte) : State :=
  { s.hbmTouch a bs.length with hbm := writeBytes (s.hbmTouch a bs.length).hbm a bs }

/-- `n` bytes at `a` cut at the boundaries of the aligned 32-byte blocks, each of which is read and written whole (R223): address and length of each
piece. -/
def blockSpans (a n : Nat) : List (Nat × Nat) :=
  (List.range (cdiv (a % 32 + n) 32)).map (fun b =>
    let lo := max a (a / 32 * 32 + 32 * b)
    (lo, min (a + n) (a / 32 * 32 + 32 * b + 32) - lo))

/-- Bytes at `a` cut so: address and bytes of each piece. -/
def blockPieces (a : Nat) (bs : List Byte) : List (Nat × List Byte) :=
  (blockSpans a bs.length).map (fun b => (b.1, (bs.drop (b.1 - a)).take b.2))

/-- The contents of a stack are lost: undefined, they read as memory that nothing has written (R224, log entry 3). -/
def State.loseStack (s : State) (st : Nat) : State := { s with hbm := s.hbm.filter (fun e => decide (hbmStack e.1 ≠ st)) }

/-- An HBM_ERR bit sets, which raises the stack's source (R245, R323). -/
def State.hbmErr (s : State) (st : Nat) (f : Field) : State := (s.set f 1).raise (0x0E2 + st)

/-- A data error in the block at an HBM address: counted, recorded and flagged at its stack (R224, R245). -/
def State.hbmErrorAt (s : State) (at_ : Nat) : State :=
  let st := hbmStack at_
  let s1 := s.count (Reg.HBM_DERRCNT_COUNT st) 1
  let s2 := if s1.flag (Reg.HBM_DERRADDR_VALID st) then s1
    else (s1.set (Reg.HBM_DERRADDR_VALID st) 1).set (Reg.HBM_DERRADDR_ADDR st) at_
  s2.hbmErr st (Reg.HBM_ERR_DATA st)

/-- A data error of a transfer at an address in its range: counted, recorded and flagged; the address is free (R224, R245, log
entry 6). -/
def State.hbmDataError (s : State) (a n : Nat) : State :=
  s.useFree.hbmErrorAt ((a + s.freeValue.toNat % max 1 n / 32 * 32) % 0x2000000000)

/-- An address of stack `st` that a free value selects (R221). -/
def State.someBlock (s : State) (st : Nat) : Nat :=
  let v := s.freeValue.toNat % 0x800000000
  0x800000000 * (st / 2) + 4096 * (v / 8192 * 2 + st % 2) + v % 4096 / 32 * 32

/-- What a stack reports of itself, which nothing the manual describes determines: its temperature, interface errors and the errors it has
corrected inside (R245; log entry 45). -/
def State.stackSense (s : State) (st : Nat) : State :=
  let v := s.freeValue.toNat
  let s1 := (s.useFree.set (Reg.HBM_STAT_TEMP st) (v % 256)).count (Reg.HBM_CORRCNT_COUNT st) (v / 256 % 2 ^ 16)
  if v / 2 ^ 24 % 2 = 1 then s1.hbmErr st (Reg.HBM_ERR_LINK st) else s1

/-- SELF_REFRESH_ENTRY: a stack with no access for SRIDLE µs enters self-refresh, unless SRDIS = 1 (R224). -/
def execSelfRefreshEntry (n : Fin 8) (s : State) : Res :=
  if s.get (Reg.HBM_STAT_STATE n) = 2 ∧ s.flag (Reg.HBM_CFG_SRDIS n) = false then .next (s.set (Reg.HBM_STAT_STATE n) 3) else .next s

/-- SELF_REFRESH_EXIT: an access wakes the stack (R224). -/
def execSelfRefreshExit (n : Fin 8) (s : State) : Res :=
  if s.get (Reg.HBM_STAT_STATE n) = 3 then .next (s.set (Reg.HBM_STAT_STATE n) 2) else .next s

/-- HBM_POWER_OFF: PWROFF switches a clamped stack off (R224). -/
def execHbmPowerOff (n : Fin 8) (s : State) : Res :=
  if s.flag (Reg.HBM_CFG_PWROFF n) = true ∧ s.phase (64 + n) = 4 then
    .next ((s.loseStack n).set (Reg.HBM_STAT_STATE n) 0)
  else .next s

/-- A stack has trained at a rate, coded 0 to 2 for 9.6, 8.0 and 6.4 Gb/s, which does not exceed HBM_CFG.RATE, its contents undefined; or it
has failed at every rate (R222, R224, R245). `failedSome` says that some rate failed. A stack still fenced reads state 4. -/
def State.stackTrained (s : State) (n : Nat) (rate : Option (Fin 3)) (failedSome : Bool) : State :=
  let top := s.get (Reg.HBM_CFG_RATE n) % 3
  let s1 := if failedSome || rate.isNone || rate.any (fun r => decide (top < r.val)) then s.hbmErr n (Reg.HBM_ERR_TRAIN n) else s
  match rate with
  | some r => ((s1.loseStack n).set (Reg.HBM_STAT_STATE n) (if 3 ≤ s1.phase (64 + n) then 4 else 2)).set (Reg.HBM_STAT_RATE n) r
  | none => (s1.loseStack n).set (Reg.HBM_STAT_STATE n) 5

/-- Whether a rate is one that HBM_CFG.RATE allows (R222). -/
def State.rateAllowed (s : State) (n : Nat) (rate : Option (Fin 3)) : Bool :=
  rate.all (fun r => decide (s.get (Reg.HBM_CFG_RATE n) % 3 ≤ r.val))

/-- HBM_RETRAIN_COMPLETE: a stack whose PWROFF was cleared has retrained, as R222 says; its contents are undefined (R224). -/
def execHbmRetrainComplete (r : Retrain) (s : State) : Res :=
  if s.get (Reg.HBM_STAT_STATE r.stack) = 1 ∧ s.flag (Reg.HBM_CFG_PWROFF r.stack) = false ∧ s.rateAllowed r.stack r.rate = true then
    .next (s.stackTrained r.stack r.rate r.failedSome)
  else .next s

end Sys2Proof.Machine
end

