-- ==== Sys2Proof/Machine/SeqControl.lean ====
section
/-!
DEFINITION. The sequencer's control instructions (R162-R164, R168-R176, R182), the host's START, STOP and CLRF (R183) and
interrupt entry (R176, R329). STGQ stands with the staging engines, FBAR with the FPU.
-/
namespace Sys2Proof.Machine

/-- NOP: does nothing (R168). -/
def execNop (p : SeqId) (s : State) : Res := .next (s.runInstr p .nop (fun _ t => .done t none))

/-- REP at its turn (R173-R175): it becomes active with its count, or REP 0 skips the next instruction. -/
def repBody (p : Nat) (i : SeqInstr) (s : State) : SeqRes := seqRes do
  let at_ := s.pc p
  let n ← if i.src then s.fetch p 8 (s.source p i.a 8 8) else .ok i.num
  must (decide (n < 2 ^ 32)) illegal 0
  must (!repBars (s.unitAt p (at_ + 4))) illegal 0
  let s1 := if i.src then s.specStep p i.a 8 else s
  if n = 0 then .ok (.done s1 (some (at_ + 4 + sizeAt (s.unitAt p) (at_ + 4))))
  else
    let s2 := (s1.set (Reg.SEQ_STATE_REPACT p) 1).set (Reg.SEQ_STATE_REPI p) (bnat i.flag)
    .ok (.hold (s2.set (Reg.SEQ_REPCNT_COUNT p) n))

/-- REP: repeats the next instruction a given number of times, as one unit or interruptibly (R173). -/
def execRep (p : SeqId) (s : State) : Res := .next (s.runInstr p .rep (repBody p))

/-- The condition of a branch (R169, R197). -/
def branchTaken (cond : Nat) (t : Sst) (flc : Bool) (cc : Nat) : Bool :=
  match cond with
  | 0x0 => true
  | 0x1 => flc
  | 0x2 => !flc
  | 0x3 => t.z
  | 0x4 => !t.z
  | 0x5 => !t.c
  | 0x6 => t.c
  | 0x7 => t.n != t.v
  | 0x8 => t.n == t.v
  | 0x9 => t.z || (t.n != t.v)
  | 0xA => !t.z && (t.n == t.v)
  | 0xB => t.v
  | 0xC => cc.testBit 0
  | 0xD => cc.testBit 1
  | 0xE => cc.testBit 0 || cc.testBit 1
  | _ => cc.testBit 3

/-- The target of a jump by `disp` from `at_`, inside the instruction memory or ADDR (R169). -/
def jumpTarget (at_ : Nat) (disp : Int) : Except SeqRes Nat :=
  let t := (at_ : Int) + disp
  if 0 ≤ t ∧ t < 0x100000 then .ok t.toNat else .error (.fault addrFault 0)

/-- What a branch waits for before it reads its condition: FLC (R95), SST (R192), or an idle FPU with no trap pending
(R201). -/
def State.branchReady (s : State) (p cond : Nat) : Bool :=
  if cond = 0 then true
  else if cond ≤ 2 then !s.flcBusy p
  else if cond ≤ 0xB then !s.sstBusy p
  else !s.fpuBusy p && !s.trapPending p

/-- B at its turn (R169). -/
def branchBody (p : Nat) (i : SeqInstr) (s : State) : SeqRes := seqRes do
  waitFor (s.branchReady p i.num)
  if branchTaken i.num (s.seq p).sst (s.flag (Reg.SEQ_STATE_FLC p)) (getField (s.seq p).fsr 27 24) then
    let t ← jumpTarget (s.execAt p) i.disp
    .ok (.done s (some t))
  else .ok (.done s none)

/-- B: jumps by disp21 when its condition holds, stalling on FLC under R95 (R169). -/
def execB (p : SeqId) (s : State) : Res := .next (s.runInstr p .b (branchBody p))

/-- CALL at its turn: the return address goes to P15 − 8 (R176). -/
def callBody (p : Nat) (i : SeqInstr) (s : State) : SeqRes := seqRes do
  let t ← jumpTarget (s.execAt p) i.disp
  must (decide (s.ptr p 15 % 8 = 0)) alignFault 0
  let sp := encodeInt ((s.ptr p 15 : Int) - 8) 64
  let h ← s.dest p 8 sp
  .ok (.done ((s.seqStore p h (leBytes 8 (s.execAt p + i.size))).setPtr p 15 sp) (some t))

/-- CALL: pushes the return address and jumps (R176). -/
def execCall (p : SeqId) (s : State) : Res := .next (s.runInstr p .call (callBody p))

/-- RET at its turn (R176). -/
def retBody (p : Nat) (_ : SeqInstr) (s : State) : SeqRes := seqRes do
  let sp := s.ptr p 15
  must (decide (sp % 8 = 0)) alignFault 0
  let v ← s.fetch p 8 (.bytes sp)
  must (decide (v < 0x100000)) addrFault 0
  .ok (.done (s.setPtr p 15 ((sp : Int) + 8)) (some v))

/-- RET: pops the return address and jumps to it (R176). -/
def execRet (p : SeqId) (s : State) : Res := .next (s.runInstr p .ret (retBody p))

/-- IRET at its turn: restores PC, SST, FLC and the REP state from the frame, and sets IEN (R176). -/
def iretBody (p : Nat) (_ : SeqInstr) (s : State) : SeqRes := seqRes do
  let sp := s.ptr p 15
  must (decide (sp % 8 = 0)) alignFault 0
  waitFor (!s.sstBusy p && !s.flcBusy p)
  let w0 ← s.fetch p 8 (.bytes sp)
  let w1 ← s.fetch p 8 (.bytes (sp + 8))
  let w2 ← s.fetch p 8 (.bytes (sp + 16))
  let _ ← s.fetch p 8 (.bytes (sp + 24))
  must (decide (w0 < 0x100000)) addrFault 0
  let s1 := (s.setSeq p { s.seq p with sst := Sst.ofBits w1 }).setFlc p (w1.testBit 4)
  let s2 := ((s1.set (Reg.SEQ_STATE_REPACT p) (bitAt w1 8)).set (Reg.SEQ_STATE_REPI p) (bitAt w1 9)).set (Reg.SEQ_REPCNT_COUNT p) w2
  .ok (.hold ((((s2.set (Reg.SEQ_IVEC_IEN p) 1).setPtr p 15 ((sp : Int) + 32)).setPc p w0).takeStop p))

/-- IRET: restores the interrupt frame and sets IEN (R176). -/
def execIret (p : SeqId) (s : State) : Res := .next (s.runInstr p .iret (iretBody p))

/-- WAIT at its turn (R327): a set flag is consumed; otherwise the sequencer waits, or, under a STEP, is halted again before its WAIT (R430, R431). -/
def waitBody (p : Nat) (i : SeqInstr) (s : State) : SeqRes :=
  if s.flag (waitFlag p i.num) then .done (s.setFlag p i.num false) none
  else if (s.seq p).haltReq then .hold (s.takeStop p)
  else .hold ((s.setSeq p { s.seq p with waiting := some i.num }).set (Reg.SEQ_STATE_STATE p) seqWaiting)

/-- WAIT: consumes a set wait flag, or waits in state Waiting until the flag is set (R327). -/
def execWait (p : SeqId) (s : State) : Res := .next (s.runInstr p .wait (waitBody p))

/-- WAIT_FLAG_SATISFIED: a waiting sequencer whose flag is set clears the flag and continues after its WAIT (R327). -/
def execWaitFlagSatisfied (p : SeqId) (s : State) : Res :=
  match (s.seq p).waiting with
  | none => .next s
  | some n =>
    if s.get (Reg.SEQ_STATE_STATE p) = seqWaiting ∧ s.flag (waitFlag p n) then
      let s1 := s.setFlag p n false
      let s2 := (s1.setSeq p { s1.seq p with waiting := none }).set (Reg.SEQ_STATE_STATE p) seqRunning
      .next ((s2.setPc p (s.pc p + 4)).takeStop p)
    else .next s

/-- SIG at its turn (R328, R373); SIG 255 reloads the watchdog (R405). -/
def sigBody (p : Nat) (i : SeqInstr) (s : State) : SeqRes :=
  let s1 := (s.raise (0x200 + i.num)).set (Reg.RST_RECSTAT_NORB p) 1
  .done (if i.num = 255 then s1.wdReload p else s1) none

/-- SIG: raises source 0x200 + n (R328). -/
def execSig (p : SeqId) (s : State) : Res := .next (s.runInstr p .sig (sigBody p))

/-- JOBS at its turn (R182). With a job open the new one takes its place, and no completion is posted (DESIGN CHOICE; log entry 47). -/
def jobsBody (p : Nat) (_ : SeqInstr) (s : State) : SeqRes :=
  let s1 := s.setReg (Reg.SEQ_JOBSTEP_STEP p).off (BitVec.ofNat 64 (s.get (Reg.SEQ_NEXTSTEP_STEP p)))
  let s2 := (s1.setReg (Reg.SEQ_VIOL_VALID p).off 0).setReg (Reg.SEQ_VIOLSTEP_STEP p).off 0
  .done (s2.setSeq p { s2.seq p with job := some ⟨0, 0, false⟩ }) none

/-- JOBS: opens a job, records its first step number and clears the violation record (R182). -/
def execJobs (p : SeqId) (s : State) : Res := .next (s.runInstr p .jobs (jobsBody p))

/-- The completion a JOBE posts (R182, R317, R321); with no job open it has the contract bit (DESIGN CHOICE; log entry 47). -/
def State.jobCompletion (s : State) (p token : Nat) : Completion :=
  let j := (s.seq p).job.getD ⟨0, 0, false⟩
  let bad := s.hiv2 && j.broken
  ⟨BitVec.ofNat 64 token, BitVec.ofNat 64 (s.get (Reg.SEQ_JOBSTEP_STEP p)), s.lastStep p, !j.broken, bad,
    if s.flag (Reg.SEQ_VIOL_VALID p) then s.get (Reg.SEQ_VIOL_KIND p) else 0, if bad then 0xF0 else 0, j.replays, j.rollbacks⟩

/-- JOBE at its turn: it waits for the job's bursts and for room in the completion ring, posts the completion, frees the
oldest mailbox slot and reloads the watchdog (R182, R320, R321, R405). -/
def jobeBody (p : Nat) (i : SeqInstr) (s : State) : SeqRes := seqRes do
  let token ← s.fetch p 8 (s.source p i.a 8 8)
  waitFor (s.part p).drained
  waitFor (!(s.ring p).ready || (!s.ringFull p && (s.ring p).held.isEmpty))
  let s0 := (s.confirm p (s.part p).step).wdReload p
  let s1 := if (s.ring p).ready then s0.writeCompletion p (s.jobCompletion p token) else s0
  let s2 := s1.setSeq p { s1.seq p with job := none }
  let s3 := s2.setRing p { s2.ring p with slots := (s2.ring p).slots.tail }
  .ok (.done ((s3.set (Reg.RST_RECSTAT_NORB p) 1).specStep p i.a 8) none)

/-- JOBE: waits for every burst of the job and then posts its completion with the contract bit (R182). -/
def execJobe (p : SeqId) (s : State) : Res := .next (s.runInstr p .jobe (jobeBody p))

/-! ## Pointers and lengths -/

/-- Descriptor `i` of sequencer `p` set. -/
def State.setPdesc (s : State) (p i v : Nat) : State := s.set (Reg.SEQ_PDESC_VALUE p i) v

/-- LDP at its turn (R162, R163). -/
def ldpBody (p : Nat) (i : SeqInstr) (s : State) : SeqRes := seqRes do
  let a := s.specAddr p i.a 8 false
  must (decide (a % 8 = 0)) alignFault 0
  let v ← s.fetch p 8 (.bytes a)
  let w ← s.fetch p 8 (.bytes (a + 8))
  must (decide (w < 2 ^ 61) && decide (bitsOf w 60 56 ≤ 24)) ptrdesc 0
  .ok (.done (((s.specStep p i.a 8).setPtr p i.num v).setPdesc p i.num w) none)

/-- LDP: loads a pointer's address and descriptor from 16 bytes of memory (R162). -/
def execLdp (p : SeqId) (s : State) : Res := .next (s.runInstr p .ldp (ldpBody p))

/-- STP at its turn: the values at the start of the instruction (R162). -/
def stpBody (p : Nat) (i : SeqInstr) (s : State) : SeqRes := seqRes do
  let a := s.specAddr p i.a 8 false
  must (decide (a % 8 = 0)) alignFault 0
  let h ← s.dest p 16 a
  .ok (.done ((s.seqStore p h (leBytes 8 (s.ptr p i.num) ++ leBytes 8 (s.pdesc p i.num))).specStep p i.a 8) none)

/-- STP: stores a pointer's address and descriptor to 16 bytes of memory (R162). -/
def execStp (p : SeqId) (s : State) : Res := .next (s.runInstr p .stp (stpBody p))

/-- PSET at its turn (R162). Where its own specifier updates the same pointer, the value written is the last, as R162 says for LDP (DEDUCED;
log entry 44). -/
def psetBody (p : Nat) (i : SeqInstr) (s : State) : SeqRes := seqRes do
  let v ← s.fetch p 8 (s.source p i.a 8 8)
  .ok (.done ((s.specStep p i.a 8).setPtr p i.num v) none)

/-- PSET: writes a pointer's address (R162). -/
def execPset (p : SeqId) (s : State) : Res := .next (s.runInstr p .pset (psetBody p))

/-- PADD at its turn: it adds to the address that its own specifier's update left (R161, R162). -/
def paddBody (p : Nat) (i : SeqInstr) (s : State) : SeqRes := seqRes do
  let v ← s.fetch p 8 (s.source p i.a 8 8)
  let s1 := s.specStep p i.a 8
  .ok (.done (s1.setPtr p i.num (s1.ptr p i.num + v)) none)

/-- PADD: adds to a pointer's address (R162). -/
def execPadd (p : SeqId) (s : State) : Res := .next (s.runInstr p .padd (paddBody p))

/-- SNUM at its turn (R170). -/
def snumBody (p : Nat) (i : SeqInstr) (s : State) : SeqRes := seqRes do
  let h ← s.dest p 8 (s.specAddr p i.d 8 false)
  let t := (s.seqStore p h (leBytes 8 (s.get (Reg.SEQ_NEXTSTEP_STEP p)))).specStep p i.d 8
  .ok (.done (t.setPart p { t.part p with shift := 0 }) none)

/-- SNUM: writes the step number at which the partition's next burst will begin (R170); a program that reads it anew binds to the count as it is, so
that descriptors which follow get no Δ of earlier replays (DEDUCED; log entry 19). -/
def execSnum (p : SeqId) (s : State) : Res := .next (s.runInstr p .snum (snumBody p))

/-- FLA and FLB set, or refused with SHAPE above 8,192 (R164). -/
def State.setLengths (s : State) (p a b : Nat) : Except SeqRes State :=
  if a ≤ 8192 ∧ b ≤ 8192 then .ok ((s.set (Reg.SEQ_LEN_FLA p) a).set (Reg.SEQ_LEN_FLB p) b)
  else .error (.fault dispatchFault 1)

/-- SETL at its turn (R164). -/
def setlBody (p : Nat) (i : SeqInstr) (s : State) : SeqRes := seqRes do
  let n (x : Spec) : Nat := match x with | .abs v => v | _ => 0
  let t ← s.setLengths p (n i.d) (n i.a)
  .ok (.done t none)

/-- SETL: writes FLA and FLB from immediates (R164). -/
def execSetl (p : SeqId) (s : State) : Res := .next (s.runInstr p .setl (setlBody p))

/-- SETLM at its turn: words of 8 bytes whatever SZ holds (R164). -/
def setlmBody (p : Nat) (i : SeqInstr) (s : State) : SeqRes := seqRes do
  let a ← s.fetch p 8 (s.source p i.a 8 i.sz)
  let b ← s.fetch p 8 (s.source p i.b 8 i.sz)
  let t ← s.setLengths p a b
  .ok (.done (t.specSteps p [(i.a, i.sz), (i.b, i.sz)]) none)

/-- SETLM: writes FLA and FLB from memory words, refusing values above 8,192 (R164). -/
def execSetlm (p : SeqId) (s : State) : Res := .next (s.runInstr p .setlm (setlmBody p))

/-- HALT: stops the sequencer with no fault recorded (R172). -/
def execHalt (p : SeqId) (s : State) : Res :=
  .next (s.runInstr p .halt (fun i t => .hold ((t.setPc p (t.execAt p + i.size)).stopIn p seqStopped)))

/-! ## Starting, stopping and interrupts -/

/-- A Stopped sequencer starts at SEQ_ENTRY (R183); one that boot disabled does not (R220). -/
def State.startSeq (s : State) (p : Nat) : State :=
  if s.get (Reg.SEQ_STATE_STATE p) = seqStopped ∧ (s.seq p).disabled = false ∧ s.inReset p = false then
    let s1 := ((s.set (Reg.SEQ_STATE_STATE p) seqRunning).set (Reg.SEQ_STATE_REPACT p) 0).set (Reg.SEQ_STATE_REPI p) 0
    let s2 := s1.setSeq p { s1.seq p with waiting := none, stopReq := false }
    s2.setPc p (4 * s.get (Reg.SEQ_ENTRY_ENTRY p))
  else s

/-- START: a write of SEQ_CTL.START moves a Stopped sequencer to Running at SEQ_ENTRY (R183). -/
def execStart (p : SeqId) (s : State) : Res := .next (s.startSeq p)

/-- STOP: a write of SEQ_CTL.STOP stops the sequencer at its next allowed boundary (R175). In a debug halt it has no effect, then or at the resume
(DESIGN CHOICE; log entry 47). -/
def execStop (p : SeqId) (s : State) : Res :=
  let st := s.get (Reg.SEQ_STATE_STATE p)
  if st = seqRunning ∨ st = seqWaiting then
    .next ((s.setSeq p { s.seq p with stopReq := true, waiting := none }).takeStop p)
  else .next s

/-- CLRF: a write of SEQ_CTL.CLRF returns a Faulted sequencer to Stopped, except after EXPANDER (R172), where SEQ_FAULT.VALID stays too (DESIGN CHOICE;
log entry 47). -/
def execClrf (p : SeqId) (s : State) : Res :=
  if s.get (Reg.SEQ_STATE_STATE p) = seqFaulted then
    if s.get (Reg.SEQ_FAULT_CODE p) = expanderFault then .next s
    else .next ((s.set (Reg.SEQ_FAULT_VALID p) 0).set (Reg.SEQ_STATE_STATE p) seqStopped)
  else .next (s.set (Reg.SEQ_FAULT_VALID p) 0)

/-- Whether an interrupt is requested (R329): a wait flag with its bit in EVT_SIEN is set, and the image that shows it has been
written where one is kept (R330). -/
def State.irqPending (s : State) (p : Nat) : Bool :=
  (List.range 8).any (fun j =>
    decide (s.get (Reg.EVT_SFLAG_FLAG p j) &&& s.get (Reg.EVT_SIEN_EN p j) ≠ 0)) &&
  !(s.flag (Reg.EVT_SMIR_EN p) && (s.seq p).mirrorDirty)

/-- Whether sequencer `p` is Running or Waiting at a boundary where an interrupt may be taken. A WAIT so interrupted has not ended: its own address is
framed, and it runs again after IRET (DESIGN CHOICE: R176 says the next instruction; log entry 47). -/
def State.interruptible (s : State) (p : Nat) : Bool :=
  let st := s.get (Reg.SEQ_STATE_STATE p)
  (decide (st = seqRunning) || decide (st = seqWaiting)) && s.atBoundary p && !s.issueHeld p &&
    (s.seq p).ckpt.isNone

/-- INTERRUPT_ENTRY: with IEN = 1, an interrupt is taken at a boundary; a pending trap comes first (R176, R203). -/
def execInterruptEntry (p : SeqId) (s : State) : Res :=
  if s.interruptible p && s.flag (Reg.SEQ_IVEC_IEN p) && s.irqPending p && !s.trapPending p then
    .next (s.enterHandler p 0)
  else .next s

end Sys2Proof.Machine
end

