-- ==== Sys2Proof/Machine/Staging.lean ====
section
/-!
DEFINITION. Staging engines (R225-R238), reserved flits (R126-R131, R145, R233) and checkpoints (R239). A best-effort
transfer moves in packets (R231), a Cord-bound one flit by flit in its slots (R233).
-/
namespace Sys2Proof.Machine

/-! ## STGQ (R225) -/

/-- STGQ at its turn: the descriptor is offered to engine ENG with the sequencer's own partition number; it stalls while that engine's
queue is full. A checkpoint descriptor also stops the issue (R239). -/
def stgqBody (p : Nat) (i : SeqInstr) (s : State) : SeqRes := seqRes do
  let a := s.specAddr p i.a 8 false
  must (decide (a % 8 = 0)) alignFault 0
  let q0 ← s.fetch p 8 (.bytes a)
  let q1 ← s.fetch p 8 (.bytes (a + 8))
  let q2 ← s.fetch p 8 (.bytes (a + 16))
  let q3 ← s.fetch p 8 (.bytes (a + 24))
  let d : StgDesc := ⟨setField (BitVec.ofNat 64 q0) 17 16 p, BitVec.ofNat 64 q1, BitVec.ofNat 64 q2, BitVec.ofNat 64 q3⟩
  waitFor ((s.seq p).offer.isNone && (List.range 8).any (fun e => (decide (d.eng = e) || decide (d.dir = 2)) && decide ((s.stg e).length < 64)))
  let c : Option Ckpt := if d.dir = 2 then some ⟨d, d.eng, false, false, false⟩ else none
  .ok (.done ((s.setSeq p { s.seq p with offer := some d, ckpt := c }).specStep p i.a 8) none)

/-- STGQ: reads a staging descriptor, writes the partition number into it and offers it to its engine (R225). -/
def execStgq (p : SeqId) (s : State) : Res := .next (s.runInstr p .stgq (stgqBody p))

/-! ## Acceptance (R227, R228) -/

/-- Bundles in a row of the region, and in the region (R230). -/
def StgDesc.perRow (d : StgDesc) : Nat := 64 * d.cols / d.width
def StgDesc.bundles (d : StgDesc) : Nat := 64 * d.rows * d.perRow

/-- Bytes of memory the transfer covers (R229, R230). -/
def StgDesc.extent (d : StgDesc) : Nat :=
  if d.word then d.ws * (if d.repl then 1 else d.bundles)
  else 512 * d.len * (if d.repl then 1 else d.rows * d.cols)

/-- FORMAT: a reserved field or code is not zero, or a combination that the table names (R226, R227). A field that R226 states
as 0 for the layout or binding counts as reserved there; a checkpoint ignores the fields R239 names (log entry 18). -/
def StgDesc.formatOk (d : StgDesc) : Bool :=
  decide (getField d.q0 11 11 = 0) && decide (getField d.q0 15 15 = 0) && decide (getField d.q0 31 18 = 0) &&
  decide (getField d.q0 63 56 = 0) && decide (getField d.q2 15 13 = 0) && decide (getField d.q2 31 30 = 0) &&
  decide (d.dir ≤ 2) && decide (d.mem ≤ 2) && decide (d.kw ≤ 5) && decide (d.len ≤ 8192) &&
  !(d.repl && decide (d.dir = 1)) && !(d.cord && decide (d.dir = 2)) && !(decide (d.dir = 2) && decide (d.mem ≠ 0)) &&
  (decide (d.dir = 2) || ((d.word || decide (d.ws = 0)) && (d.cord || decide (d.sstep = 0))))

/-- REGION: the region leaves the die, or holds a tile outside the partition's turfs in service (R227). -/
def State.regionOk (s : State) (p e : Nat) (d : StgDesc) : Bool :=
  decide (d.tr0 + d.rows ≤ 16) && decide (d.tc0 + d.cols ≤ 16) &&
  (d.tiles (e / 2)).all (fun t =>
    let f := turfOfTile t
    s.owns p f && (s.get (Reg.TRF_STATE_STATE f) = 1 || s.get (Reg.TRF_STATE_STATE f) = 2))

/-- WIDTH (R227). -/
def State.regionWidthOk (s : State) (e : Nat) (d : StgDesc) : Bool :=
  (d.tiles (e / 2)).all (fun t => decide (d.kw ≤ s.get (Reg.TRF_CFG_MAXW (turfOfTile t))))

/-- Whether `n` bytes at `a` lie in the space that a MEM code names (R221, R226, R243). -/
def memRangeOk (mem a n : Nat) : Bool :=
  match mem with
  | 0 => decide (a + n ≤ 0x2000000000)
  | 1 => decide (a + n ≤ 2 ^ 64)
  | _ => decide (a + n ≤ 0x800000) || (decide (0x1000000 ≤ a) && decide (a + n ≤ 0x2000000))

/-- The turfs of partition `p` on die `die`, in ascending order (R239). -/
def State.turfsOnDie (s : State) (p die : Nat) : List Nat := (s.turfsOf p).filter (fun t => decide (2 * (t / 32) + t % 8 / 4 = die))

/-- Bytes of a checkpoint part (R239). -/
def ckptSize (len turfs : Nat) : Nat := 0x201000 + 512 * len * 16 * turfs

/-- RANGE (R227). -/
def State.stgRangeOk (s : State) (p : Nat) (d : StgDesc) : Bool :=
  if d.dir = 2 then
    decide (d.maddr % 4096 = 0) &&
      (List.range 4).all (fun die => decide (d.maddr + ckptSize d.len (s.turfsOnDie p die).length ≤ 0x800000000))
  else memRangeOk d.mem d.maddr d.extent && (d.word || decide (d.maddr % 8 = 0))

/-- The X port of an engine (R114), and the router at which its best-effort packets for a tile enter the mesh: in the tile's column for
engine 0 of a die, in its row for engine 1 (R231). -/
def xPort (e : Nat) : Nat := if e % 2 = 0 then 5 else 6
def xRouter (e t : Nat) : Nat :=
  if e % 2 = 0 then 32 * (if e / 2 < 2 then 0 else 31) + tileX t else 32 * tileY t + (if e / 2 % 2 = 0 then 0 else 31)

/-- FLOWMAP (R227, R233). -/
def State.flowMapOk (s : State) (p e : Nat) (d : StgDesc) : Bool :=
  let tiles := d.tiles (e / 2)
  let paths := d.flows.map (s.flowPath p)
  decide (d.flown = tiles.length) &&
  d.flows.all (fun f => (s.bound p f).isNone && runsLong ((s.firstEntries p f).map (·.2.1)) (s.frameLen p)) &&
  paths.all (fun a => match a with
    | none => false
    | some a =>
      if d.dir = 0 then decide (a.inPort = xPort e) && decide (tileDie a.start = e / 2) && decide (a.outPort = 4)
      else decide (a.inPort = 4) && decide (a.outPort = xPort e) && decide (tileDie a.stop = e / 2)) &&
  tiles.all (fun t => paths.any (fun a => match a with
    | none => false
    | some a => decide ((if d.dir = 0 then a.stop else a.start) = t)))

/-- The refusal code of a descriptor at engine `e`, 0 where it is accepted (R227, R228). SSTEP stands on the fault-free step count (R142, R149). -/
def State.stgRefusal (s : State) (p e : Nat) (d : StgDesc) : Nat :=
  if !d.formatOk then 1
  else if d.dir = 2 then (if s.stgRangeOk p d then 0 else 4)
  else if d.len = 0 then 0
  else if !s.regionOk p e d then 2
  else if !s.regionWidthOk e d then 3
  else if !s.stgRangeOk p d then 4
  else if d.word && decide (8 * d.ws < d.len * d.width) then 5
  else if d.cord && !s.flowMapOk p e d then 6
  else if d.cord && decide (d.sstep + (s.part p).shift < (s.part p).step) then 7
  else 0

/-- The completion event of engine `e`. -/
def State.stgEvent (s : State) (e : Nat) : State := s.raise (0x0C0 + e)

/-- A refused descriptor (R227): it moves no data; a late binding is a contract violation (R147); a checkpoint ends. -/
def State.refuseStg (s : State) (p e code : Nat) : State :=
  let s1 := if s.flag (Reg.STG_REFUSE_VALID e) then s else
    ((s.set (Reg.STG_REFUSE_VALID e) 1).set (Reg.STG_REFUSE_PART e) p).set (Reg.STG_REFUSE_CODE e) code
  let s2 := s1.set (Reg.STG_ERR_REFUSE e) 1
  let s3 := if code = 7 then s2.violation p 3 (s2.part p).step true e else s2
  (s3.setSeq p { s3.seq p with ckpt := none }).stgEvent e

/-- A descriptor done: counted, with its event where EVT = 1 (R228, R235). -/
def State.stgDone (s : State) (e : Nat) (evt : Bool) : State :=
  let s1 := s.bump (Reg.STG_DONE_COUNT e) 1
  if evt then s1.stgEvent e else s1

/-! ## Layouts (R229, R230) -/

/-- Where digit `q` of the PE in row `g` and column `m` of region tile `j` stands in memory: byte offset and bit. -/
def StgDesc.place (d : StgDesc) (j q g m : Nat) : Nat × Nat :=
  if d.word then
    let r := 64 * (j / d.cols) + g
    let c := 64 * (j % d.cols) + m
    let b := if d.repl then 0 else r * d.perRow + c / d.width
    let t := q * d.width + c % d.width
    (d.ws * b + t / 8, t % 8)
  else (512 * d.len * (if d.repl then 0 else j) + 512 * q + 8 * g + m / 8, m % 8)

/-- Byte `n` of the memory side of an OUT transfer, from the digits of the region (R229, R230). -/
def StgDesc.byteOut (d : StgDesc) (cell : Nat → Nat → Nat → Nat → Bool) (n : Nat) : Byte :=
  BitVec.ofNat 8 (natOfBits 8 (fun i =>
    if d.word then
      let b := n / d.ws
      let t := 8 * (n % d.ws) + i
      let r := b / d.perRow
      let c := b % d.perRow * d.width + t % d.width
      decide (t < d.len * d.width) && cell (r / 64 * d.cols + c / 64) (t / d.width) (r % 64) (c % 64)
    else cell (n / (512 * d.len)) (n % (512 * d.len) / 512) (n % 512 / 8) (8 * (n % 8) + i)))

/-- Byte `n` of the memory side of an IN transfer; host memory is what the delivery brought. -/
def State.sourceByte (s : State) (d : StgDesc) (host : List Byte) (n : Nat) : Byte :=
  match d.mem with
  | 0 => SMap.get 0 s.hbm (d.maddr + n)
  | 1 => host.getD n 0
  | _ => SMap.get 0 s.hearth (d.maddr + n)

/-- Digit `q` of the PE in row `g`, column `m` of region tile `j` in the memory of an IN transfer. -/
def State.cellIn (s : State) (d : StgDesc) (host : List Byte) (j q g m : Nat) : Bool :=
  let a := d.place j q g m
  (s.sourceByte d host a.1).getLsbD a.2

/-- Bytes written to the space a MEM code names. -/
def State.memWrite (s : State) (mem a : Nat) (bs : List Byte) : State :=
  match mem with
  | 0 => s.hbmWrite a bs
  | 1 => s.send (.hostWrite a bs true)
  | _ => s.hearthWrite a bs

/-- Bytes written whole, or, by a transfer that failed, the 32-byte blocks that a free value selects (R223, log entry
19). -/
def State.memWriteSome (s : State) (mem a : Nat) (bs : List Byte) (whole : Bool) : State :=
  if whole then s.memWrite mem a bs
  else
    let n := s.free
    (blockPieces a bs).foldl (fun t b =>
      if Config.freeFunction 3 [n, b.1] % 2 = 1 ∧ (mem = 0 → t.hbmUp b.1 b.2.length) then t.memWrite mem b.1 b.2 else t) s.useFree

/-! ## Segments (R231) -/

/-- The memory row that segment `g` of tile `t` holds at the transfer's memory side. -/
def State.segmentIn (s : State) (e : Nat) (d : StgDesc) (host : List Byte) (t g : Nat) : W64 :=
  let j := ((d.tiles (e / 2)).findIdx? (fun u => decide (u = t))).getD 0
  BitVec.ofNat 64 (natOfBits 64 (fun m => s.cellIn d host j (g / 64) (g % 64) m))

/-- The address fields of a packet that starts at segment `g` (R117, R231). -/
def StgDesc.segAddr (d : StgDesc) (g : Nat) : Nat := (d.bit0 + g / 64) % 8192 + g % 64 * 8192

/-- A Request or Maintenance packet of engine `e` for queue slot `slot` of partition `p` to a T port (R117, R231; log entry 17). -/
def State.enginePacket (s : State) (e p slot cls cmd t addr aux : Nat) (data : List W256) : Packet :=
  ⟨mkHeader cls cmd data.length t 4 (xPort e) (xRouter e t) (s.get Reg.FAB_STAT_ID) (64 * e + slot) p addr aux, data⟩

/-- The best-effort packets for a tile: WRITE packets of 128 data flits, or READ requests for as many, the last of each tile for the rest
(R231); `host` is what host memory has delivered. -/
def State.tilePackets (s : State) (e p slot : Nat) (d : StgDesc) (host : List Byte) (t : Nat) : List Packet :=
  (List.range (cdiv d.segments 512)).map (fun b =>
    let g := 512 * b
    let n := min 128 ((d.segments - g) / 4)
    if d.dir = 0 then
      s.enginePacket e p slot 0 0x02 t (d.segAddr g) 0 ((List.range n).map (fun f => segFlit (fun i => s.segmentIn e d host t (g + 4 * f + i))))
    else s.enginePacket e p slot 0 0x01 t (d.segAddr g) n [])

/-- An arm order to a tile of a Cord-bound OUT transfer: a Maintenance write, whose register and content the manual does not print (R234; log entry
17). -/
def State.armOrder (s : State) (e p slot t : Nat) : Packet :=
  s.enginePacket e p slot 3 0xC2 t (Config.freeFunction 18 [t]) 0 [freeFlit s.free]

/-- What an engine sends at the acceptance of a descriptor: the arm orders of a Cord-bound OUT transfer (R234), the packets of a best-effort one
whose data is at hand (R231, R236). Host data comes with the completion, and its packets go then (log entry 19). -/
def State.firstPackets (s : State) (e p slot : Nat) (d : StgDesc) : List Packet :=
  if d.dir = 2 then []
  else if d.cord then (if d.dir = 1 then (d.tiles (e / 2)).map (s.armOrder e p slot) else [])
  else if d.dir = 0 ∧ (d.mem = 1 ∨ (d.mem = 0 ∧ s.hbmUp d.maddr d.extent = false)) then []
  else (d.tiles (e / 2)).flatMap (s.tilePackets e p slot d [])

/-- The lowest queue slot no accepted descriptor holds. -/
def freeSlot (l : List Transfer) : Nat := ((List.range 64).find? (fun n => !l.any (fun x => decide (x.slot = n)))).getD 0

/-- A descriptor enters its engine's queue (R225), and the engine begins (R231, R234, R236). A Cord-bound one is given the Δ by which the partition
runs behind the fault-free step count, on which its SSTEP stands (R142, R149, R150; log entry 19). -/
def State.acceptStg (s : State) (p e : Nat) (d : StgDesc) : State :=
  let slot := freeSlot (s.stg e)
  let out := s.firstPackets e p slot d
  let x : Transfer := ⟨slot, d, p, [], [], out.length, [], [], [], [], [], false, (s.part p).shift, 0,
    if d.cord && decide (d.dir = 1) then d.tiles (e / 2) else [], false⟩
  let s1 := out.foldl State.inject ((if d.dir = 0 ∧ d.mem = 0 then s.hbmTouch d.maddr d.extent else s).setStg e (s.stg e ++ [x]))
  let flows := d.flows.foldl (fun m f => SMap.put FlowRx.reset m (4096 * p + f) FlowRx.reset) s1.flows
  let s2 := if d.cord then ({ s1 with flows := flows } : State).useFree else s1
  if d.dir = 2 then s2.setSeq p { s2.seq p with ckpt := (s2.seq p).ckpt.map (fun c => { c with accepted := true, eng := e }) } else s2

/-- DESCRIPTOR_ACCEPT: a descriptor enters its engine's queue once there is room, and is checked at that moment (R225,
R227, R228); none does while a block reset of the engine is under way (R394). ENG of a checkpoint is ignored: any engine takes it (R239). -/
def execDescriptorAccept (e : Fin 8) (p : SeqId) (s : State) : Res :=
  match (s.seq p).offer with
  | none => .next s
  | some d =>
    if (d.eng ≠ e ∧ d.dir ≠ 2) ∨ 64 ≤ (s.stg e).length ∨ (SMap.get none s.rst.targets (272 + e)).isSome then .next s
    else
      let s1 := s.setSeq p { s.seq p with offer := none }
      let code := s1.stgRefusal p e d
      if code ≠ 0 then .next (s1.refuseStg p e code)
      else if d.dir ≠ 2 ∧ d.len = 0 then .next (s1.stgDone e d.evt)
      else .next (s1.acceptStg p e d)

/-! ## Completion (R235, R238) -/

/-- Whether every segment of a Cord-bound transfer has reached its end, in steps that the partition has consumed (R146, R235). -/
def State.cordDone (s : State) (e : Nat) (x : Transfer) : Bool :=
  (x.desc.tiles (e / 2)).all (fun t => decide (SMap.get 0 x.sent t = x.desc.segments)) && x.lost.isEmpty && x.resend.isEmpty &&
  decide (x.last ≤ (s.part x.part).step) &&
  !s.links.any (fun l => decide (l.part = x.part) && x.desc.flows.contains l.flow) &&
  !(s.part x.part).landing.any (fun l => match l.src with
    | some (f, slot, _) => decide (f = e) && decide (slot = x.slot)
    | none => false)

/-- Whether a packet is one that engine `e` sent for queue slot `slot`, or an answer to it. -/
def ofTransfer (e slot : Nat) (k : Packet) : Bool :=
  decide (k.tag = 64 * e + slot) &&
  (if k.cls = 1 then decide (k.dport = xPort e) && decide (tileDie k.tile = e / 2)
   else decide (k.sport = xPort e) && decide (tileDie k.src = e / 2))

/-- The packets of a transfer and their answers leave the mesh. -/
def State.dropPackets (s : State) (e slot : Nat) : State :=
  { s with
    mesh := s.mesh.filter (fun k => !ofTransfer e slot k)
    net := { s.net with rooms := s.net.rooms.filter (fun r => !(decide (r.2.2 = 64 * e + slot) && decide (r.2.1 = xPort e) && decide (tileDie r.1 = e / 2))) } }

/-- The packets of a transfer that are in the mesh, and the answers that they get, reach their ends. -/
def State.flush (e slot : Nat) : Nat → State → State
  | 0, s => s
  | n + 1, s =>
    match s.mesh.find? (ofTransfer e slot) with
    | none => s
    | some k => State.flush e slot n ((s.clearWay k s.mesh.length).deliver k)

/-- A transfer that failed loses packets that a free value selects (log entry 19). -/
def State.loseSome (s : State) (e slot : Nat) : State :=
  let n := s.free
  let cut := (((s.mesh.filter (ofTransfer e slot)).zipIdx).filter (fun k => decide (Config.freeFunction 3 [n, k.2] % 2 = 0))).map (·.1)
  { s.useFree with mesh := s.mesh.filter (fun k => !cut.contains k) }

/-- Whether an access of the transfer is turned away: a stack that does not answer (R224), a turf that is fenced (R133). -/
def State.stgBarred (s : State) (e : Nat) (x : Transfer) : Bool :=
  (decide (x.desc.mem = 0) && !s.hbmUp x.desc.maddr x.desc.extent) ||
  (x.desc.tiles (e / 2)).any (fun t => decide (3 ≤ s.phase (turfOfTile t)))

/-- The memory side of an OUT transfer written from what the tiles have supplied; what none has supplied is open. `ok` is false where it failed, and
which blocks it wrote is then free (R229, R230, R235; log entry 19). -/
def State.storeOut (s : State) (e : Nat) (x : Transfer) (ok : Bool) : State :=
  let d := x.desc
  let n := s.free
  let cell (j q g m : Nat) : Bool :=
    let t := d.tile (e / 2) j
    if d.cord || decide (64 * q + g < SMap.get 0 x.sent t) then (SMap.get 0 x.got (0x80000 * t + 64 * q + g)).getLsbD m
    else (Config.freeFunction 17 [n, t, 64 * q + g]).testBit m
  s.memWriteSome d.mem d.maddr ((List.range d.extent).map (d.byteOut cell)) ok

/-- Whether an accepted transfer, or a checkpoint, touches the 32-byte HBM block of `a` (R224). -/
def State.touchesHbm (s : State) (x : Transfer) (a : Nat) : Bool :=
  let hit (base n : Nat) : Bool := decide (0 < n) && decide (base / 32 ≤ a / 32) && decide (a / 32 ≤ (base + n - 1) / 32)
  if x.desc.dir = 2 then
    (List.range 4).any (fun die => let t := s.turfsOnDie x.part die
      !t.isEmpty && hit (0x800000000 * die + x.desc.maddr) (ckptSize x.desc.len t.length))
  else decide (x.desc.mem = 0) && hit x.desc.maddr x.desc.extent

/-- The partitions `own`, and every other with a transfer that touches the HBM block of `a` (R224). -/
def State.partsTouching (s : State) (own : List SeqId) (a : Nat) : List SeqId :=
  [(0 : SeqId), 1, 2, 3].filter (fun q => own.contains q ||
    (List.range 8).any (fun e => (s.stg e).any (fun x => decide (x.part = q.val) && s.touchesHbm x a)))

/-- A data error of HBM in a transfer of the partitions `own`: recorded at the stack and reported to every partition with a
transfer that touched the block (R224, R238, R364, R377). -/
def State.hbmFault (s : State) (own : List SeqId) (a n : Nat) : State :=
  let at_ := (a + s.freeValue.toNat % max 1 n / 32 * 32) % 0x2000000000
  let hit := s.partsTouching own at_
  (s.hbmDataError a n).detectAll (hit.map (fun q => ⟨0xA, q, none, hbmStack at_, decide (1 < hit.length)⟩))

/-- AER reports a poisoned TLP that a device read has received (R332). -/
def State.reportAer (s : State) (r : Delivery) : State := if r = .poisoned then s.send (.aer 4) else s

/-- The unit from which on a shared-scratch fault is one that no sequencer read (R370): staging engine `e` at 4 + e, DMA channel `c` at 12 + c, then the
collective engine and the host. -/
def readerUnit : Nat := 4

/-- The fault that a failed transfer reports for its partition (R238, R364): of the memory that gave the error, HBM, host, a scratchpad or the
shared scratch, or the PE memory of a tile of an OUT transfer, which one is free. A poisoned flit has been reported where it was found (R132). -/
def State.stgFault (s : State) (e : Nat) (x : Transfer) (d : Delivery) : State :=
  let p : SeqId := Fin.ofNat 4 x.part
  match d with
  | .ok => s
  | .hostError | .poisoned => s.detect ⟨0xB, p, none, e, false⟩
  | .dataError =>
    if x.desc.dir ≠ 0 then
      let tile := (x.desc.tiles (e / 2)).getD (s.freeValue.toNat % max 1 (x.desc.tiles (e / 2)).length) 0
      (s.useFree.turfError (turfOfTile tile) (Reg.TRF_ERR_PARITY (turfOfTile tile))).detect ⟨5, p, none, tile, false⟩
    else if x.desc.mem = 0 then s.hbmFault [p] x.desc.maddr x.desc.extent
    else if x.desc.mem = 1 then s.detect ⟨0xB, p, none, e, false⟩
    else s.detect ⟨if x.desc.maddr < 0x800000 then 6 else 8, p, none, if x.desc.maddr < 0x800000 then x.part else readerUnit + e, false⟩

/-- Host bytes filled up with open ones. -/
def State.padHost (s : State) (d : StgDesc) (bytes : List Byte) : List Byte :=
  bytes ++ (List.range (d.extent - bytes.length)).map (fun i => BitVec.ofNat 8 (Config.freeFunction 3 [s.free, i]))

/-- The end of a transfer: the packets that have waited for its data go, all reach their ends, what an OUT transfer has collected is written, and the
transfer leaves the queue, with success where every tile has answered for all its segments (R231, R235, R238). -/
def State.endTransfer (s : State) (e : Nat) (x : Transfer) (bytes : List Byte) (r : Delivery) : State :=
  let d := x.desc
  let ok := decide (r = .ok) && !x.failed && !s.stgBarred e x
  let late := !d.cord && decide (d.dir = 0) && decide (x.packets = 0) && (decide (d.mem ≠ 0) || s.hbmUp d.maddr d.extent)
  let host := if ok then bytes else s.padHost d bytes
  let s1 := if late then
      ((d.tiles (e / 2)).flatMap (s.tilePackets e x.part x.slot d host)).foldl State.inject (if d.mem = 0 then s.hbmTouch d.maddr d.extent else s)
    else s
  let s2 := if ok then s1 else s1.loseSome e x.slot
  let s3 := State.flush e x.slot (2 * s2.mesh.length + 1) s2
  let y := ((s3.stg e).find? (fun y => decide (y.slot = x.slot))).getD x
  let done := ok && !y.failed && (d.cord || (d.tiles (e / 2)).all (fun t => decide (SMap.get 0 y.sent t = d.segments)))
  let s4 := (if d.dir = 1 then s3.storeOut e y done else s3).dropPackets e x.slot
  let s5 := s4.setStg e ((s4.stg e).filter (fun z => decide (z.slot ≠ x.slot)))
  (if done then s5 else (s5.set (Reg.STG_ERR_FAIL e) 1).stgFault e x r).stgDone e d.evt

/-- TRANSFER_COMPLETE: a staging transfer completes at its last row write or its last memory byte, and raises its completion
event, with success or failed status (R235, R238). -/
def execTransferComplete (e : Fin 8) (slot : Nat) (bytes : List Byte) (d : Delivery) (s : State) : Res :=
  match (s.stg e).find? (fun x => decide (x.slot = slot) && decide (x.desc.dir ≠ 2)) with
  | none => .next s
  | some x =>
    let needs := decide (x.desc.dir = 0) && decide (x.desc.mem = 1) && !x.desc.cord && decide (d = .ok)
    let ok := decide (d = .ok) && !x.failed && !s.stgBarred e x
    if bitAt (s.get Reg.DBG_BFRZ_FRZ) e = 1 then .next s
    else if needs && decide (bytes.length < x.desc.extent) then .next s
    else if x.desc.cord && ok && !s.cordDone e x then .next s
    else .next ((s.endTransfer e x bytes d).reportAer d)

/-! ## Resending (R237) -/

/-- Segment `g` of tile `t` as the engine holds it for a resend: what host memory had delivered, else read anew. -/
def State.resendRow (s : State) (e : Nat) (x : Transfer) (t g : Nat) : W64 :=
  if x.desc.mem = 1 then SMap.get 0 x.got (0x80000 * t + g) else s.segmentIn e x.desc [] t g

/-- What is to be sent again when the job has ended goes best-effort: each discarded segment that no flit carries yet (R237). -/
def State.resendBest (s : State) (e : Nat) (x : Transfer) : State :=
  let mine (m : Nat × Nat) : Bool := x.resend.contains (m.1, m.2 / 4)
  let s1 := s.putTransfer e { x with resend := [], left := [], mask := x.mask.filter (fun m => !mine m) }
  (x.mask.filter mine).foldl (fun t m =>
    State.storeRows ⟨xRouter e m.1, xPort e, 64 * e + x.slot, x.part⟩ m.1 ((x.desc.bit0 + m.2 / 64) % 8192) (m.2 % 64) 1 [s.resendRow e x m.1 m.2] 0 t) s1

/-- STAGING_RESEND: while the job is open, the discarded segments of the tiles whose own packets have gone out are to be sent in the next runs of
their flow, in flits of four of which the endpoint writes the discarded ones; when the job has ended, what is left goes best-effort (R237; log
entry 19). -/
def execStagingResend (e : Fin 8) (slot : Nat) (s : State) : Res :=
  match (s.stg e).find? (fun x => decide (x.slot = slot)) with
  | none => .next s
  | some x =>
    let open_ := x.desc.cord && (s.seq x.part).job.isSome
    let go (l : Nat × Nat) : Bool := !open_ || decide (x.desc.segments ≤ SMap.get 0 x.sent l.1)
    let ls := x.lost.filter go
    let y := { x with
      lost := x.lost.filter (fun l => !go l), mask := x.mask ++ ls, resend := x.resend ++ (ls.map (fun l => (l.1, l.2 / 4))).eraseDups }
    if y.resend.isEmpty || (open_ && ls.isEmpty) then .next s
    else
      let s1 := ((s.putTransfer e y).count (Reg.STG_COLL_COUNT e) 1).set (Reg.STG_ERR_COLL e) 1
      .next (if open_ then s1 else s1.resendBest e y)

/-! ## Reserved flits (R128, R131, R233) -/

/-- A reserved flit is discarded in step number `n` (R131, R154). -/
def State.cordMiss (s : State) (p n tile port : Nat) : State :=
  ((s.count Reg.CRD_MISS_COUNT 1).meshErr 4 tile port).violation p 2 n false tile

/-- The header of the packet that a run carries, from segment `g` on (R118, R232, R233). -/
def State.flowHeader (s : State) (e : Nat) (x : Transfer) (a : FlowPath) (g len : Nat) : W256 :=
  let addr := if x.desc.dir = 0 then x.desc.segAddr g else x.slot + x.packets * 64
  mkHeader 2 0x40 len a.stop a.outPort a.inPort a.start (s.get Reg.FAB_STAT_ID) (64 * e + x.slot) x.part addr 0

/-- Segment `g` of tile `t` as the source of a bound transfer has it in step `n`. Host data is what the command brings; a stack that does not
answer gives none (R224), and what goes out is open. -/
def State.sourceRow (s : State) (e : Nat) (x : Transfer) (t n g i : Nat) (given : W256) : W64 :=
  if x.desc.dir = 1 then s.readRowAt x.part n t (g % 64) ((x.desc.bit0 + g / 64) % 8192)
  else if x.desc.mem = 1 then flitSeg given i
  else if x.desc.mem = 0 ∧ s.hbmUp x.desc.maddr x.desc.extent = false then BitVec.ofNat 64 (Config.freeFunction 17 [s.free, t, g])
  else s.segmentIn e x.desc [] t g

/-- How many of a list of numbers follow each other from the first on. -/
def streak : List Nat → Nat
  | a :: b :: l => if b = a + 1 then streak (b :: l) + 1 else 1
  | [_] => 1
  | [] => 0

/-- What the source of flow `f` supplies in step `n`, and the transfer after it: the header in the first slot of a run, then a
data flit of four segments (R118, R233), or of those to be sent again (R237). -/
def State.flowFlit (s : State) (e : Nat) (x : Transfer) (f : Nat) (a : FlowPath) (n : Nat) (given : W256) : W256 × Transfer :=
  let t := x.tileOf a
  let frame := s.frameLen x.part
  let slots := (s.firstEntries x.part f).map (·.2.1)
  let g := SMap.get 0 x.sent t
  let own := decide (g < x.desc.segments)
  let again := (x.resend.filter (fun r => decide (r.1 = t))).map (·.2)
  let x1 := { x with from_ := SMap.put 0 x.from_ t (n + 1) }
  if runPos slots frame (n % frame) = 0 then
    let room := runLen slots frame (n % frame) - 1
    let h := if own then (g, min room ((x.desc.segments - g) / 4)) else (4 * again.headD 0, min room (streak again))
    (s.flowHeader e x a h.1 h.2, { x1 with packets := x.packets + 1, left := SMap.put 0 x.left t h.2 })
  else if own then
    let row (i : Nat) : W64 := s.sourceRow e x t n (g + i) i given
    let held := if x.desc.dir = 0 ∧ x.desc.mem = 1 then
        (List.range 4).foldl (fun m i => SMap.put 0 m (0x80000 * t + g + i) (row i)) x.got
      else x.got
    let off := decide (x.desc.dir = 0) && decide (x.desc.mem = 0) && !s.hbmUp x.desc.maddr x.desc.extent
    (segFlit row, { x1 with
      sent := SMap.put 0 x.sent t (g + 4), left := SMap.put 0 x.left t (SMap.get 0 x.left t - 1), got := held, failed := x.failed || off })
  else
    (segFlit (fun i => s.resendRow e x t (4 * again.headD 0 + i)),
      { x1 with resend := x.resend.erase (t, again.headD 0), left := SMap.put 0 x.left t (SMap.get 0 x.left t - 1) })

/-- The flow's data has reached its end in step `n` (R146); a poisoned flit fails the transfer (R132, R238). -/
def State.reached (s : State) (p f n : Nat) (bad : Bool) : State :=
  match s.bound p f with
  | some (e, x) => s.putTransfer e { x with last := max x.last (n + 1), failed := x.failed || bad, poisoned := x.poisoned || bad }
  | none => s

/-- What a flow's end does with a flit (R118, R132): a header says how many data flits follow, and to a T port where they go; a data flit of a
packet that is not poisoned so far is taken by `body`. -/
def State.flowTakes (s : State) (l : LinkFlit) (head : FlowRx → Packet → FlowRx) (body : FlowRx → State → State) : State :=
  let key := 4096 * l.part + l.flow
  let r := SMap.get FlowRx.reset s.flows key
  let keep (v : FlowRx) : State :=
    ({ s with flows := SMap.put FlowRx.reset s.flows key v } : State).reached l.part l.flow l.due l.bad
  if r.left = 0 then keep { head r ⟨l.flit, []⟩ with bad := l.bad }
  else
    let s1 := keep { r with left := r.left - 1, seg := r.seg + 4, bad := r.bad || l.bad }
    if r.bad || l.bad then s1 else body r s1

/-- A flit leaves the mesh at a T port: a data flit's four rows land in its step (R116, R118, R128); of a flit that was sent again, those that had
been discarded (R237). -/
def State.exitT (s : State) (l : LinkFlit) : State :=
  s.flowTakes l (fun _ k => ⟨k.len, bitsOf k.addr 12 0, bitsOf k.addr 18 13, 0, false⟩) (fun r s1 =>
    let x := s.bound l.part l.flow
    let seg (y : Transfer) (i : Nat) : Nat := 64 * ((r.bit0 + 8192 - y.desc.bit0) % 8192) + r.row0 + r.seg + i
    let mine (y : Transfer) (m : Nat × Nat) : Bool := decide (m.1 = l.tile) && decide (m.2 / 4 = seg y 0 / 4)
    let row (i : Nat) : Landing :=
      ⟨l.tile, (r.row0 + r.seg + i) % 64, (r.bit0 + (r.row0 + r.seg + i) / 64) % 8192, flitSeg l.flit i,
        x.map (fun y => (y.1, y.2.slot, seg y.2 i)), l.due⟩
    let takes (i : Nat) : Bool := x.all (fun y => !y.2.mask.any (mine y.2) || y.2.mask.contains (l.tile, seg y.2 i))
    let rows := ((List.range 4).filter takes).map row
    let s2 := match x with
      | some y => s1.setStg y.1 ((s1.stg y.1).map (fun z => if z.slot = y.2.slot then { z with mask := z.mask.filter (fun m => !mine z m) } else z))
      | none => s1
    let t := s2.part l.part
    if t.step ≤ l.due then s2.setPart l.part { t with landing := t.landing ++ rows } else rows.foldl State.putRow s2)

/-- A flit leaves the mesh at an X port: the engine keeps its four segments (R231, R233). -/
def State.exitX (s : State) (l : LinkFlit) : State :=
  s.flowTakes l (fun r k => { r with left := k.len }) (fun r s1 =>
    match s1.bound l.part l.flow with
    | none => s1
    | some (e, x) =>
      let t := ((s.flowPath l.part l.flow).map x.tileOf).getD 0
      s1.putTransfer e { x with got := (List.range 4).foldl (fun m i => SMap.put 0 m (0x80000 * t + r.seg + i) (flitSeg l.flit i)) x.got })

/-- A reserved flit leaves its router by slot entry `en`: to the next router, which takes it in the next step, or out of the mesh where the
entry is LAST (R128); a closed endpoint discards it (R131). -/
def State.routeFlit (s : State) (en : Nat) (l : LinkFlit) : State :=
  if cordLast en then
    if s.portShut l.tile (cordOut en) then s.cordMiss l.part l.due l.tile l.port
    else if cordOut en = 4 then s.exitT l
    else s.exitX l
  else
    { s with links := s.links ++ [{ l with tile := beyond l.tile (cordOut en), port := facing (cordOut en), due := l.due + 1 }] }

/-- RESERVED_FLIT_ARRIVAL: at a mesh port, the flit that the router before it sent (or, where none is on its way, the one the command
brings) is taken in the slot of its step (R128), or discarded (R131), as it is at a router of a fenced or withdrawn turf on its way through, which takes
no step and so serves no slot (R126; R264 has such routers forward: DESIGN CHOICE, log entry 47); at a source port, the transfer bound to the flow supplies its
next flit, from a T port once its arm order has come (R145, R233, R234). -/
def execReservedFlitArrival (tile : TileId) (port : Fin 8) (p : SeqId) (flit : W256) (s : State) : Res :=
  let now := s.horizon p
  let frame := s.frameLen p
  if port.val < 4 then
    let l := (s.links.find? (fun l => decide (l.tile = tile.val) && decide (l.port = port.val) && decide (l.part = p.val))).getD
      ⟨tile, port, p, 0, now, flit, false⟩
    let s1 : State := { s with links := s.links.erase l }
    let en := s1.cordEntry tile (l.due % frame)
    if now < l.due then .next s
    else if !cordV en || decide (cordIn en ≠ port.val) || decide (cordPart en ≠ p.val) || !s.slotServed p tile (l.due % frame) then
      .next (s1.cordMiss p l.due tile port)
    else .next (s1.routeFlit en { l with flow := cordFlow en })
  else
    let due := (s.cordEntries.filter (fun c => decide (c.1 = tile.val) && cordFirst c.2.2 && decide (cordIn c.2.2 = port.val) &&
      decide (cordPart c.2.2 = p.val))).filterMap (fun c =>
        match s.bound p (cordFlow c.2.2), s.flowPath p (cordFlow c.2.2) with
        | some (e, x), some a =>
          if s.canSupply p a && !x.unarmed.contains tile.val then
            (s.flitStep x (cordFlow c.2.2) a).map (fun n => (n, cordFlow c.2.2, e, x, a))
          else none
        | _, _ => none)
    match due.find? (fun c => decide (c.1 ≤ now)) with
    | none => .next s
    | some (n, f, e, x, a) =>
      let s0 := if x.desc.dir = 0 ∧ x.desc.mem = 0 then s.hbmTouch x.desc.maddr x.desc.extent else s
      let r := s0.flowFlit e x f a n flit
      .next ((s0.putTransfer e r.2).useFree.routeFlit (s.cordEntry tile (n % frame)) ⟨tile, port, p, f, n, r.1, false⟩)

/-! ## Checkpoints (R239) -/

/-- The dies that hold a turf of partition `p`. -/
def State.diesOf (s : State) (p : Nat) : List Nat := (List.range 4).filter (fun d => !(s.turfsOnDie p d).isEmpty)

/-- The tiles of a turf in row-major order. -/
def tilesOfTurf (t : Nat) : List Nat := (List.range 16).map (fun j => 32 * (4 * (t / 8) + j / 4) + 4 * (t % 8) + j % 4)

/-- The engine that serves a tile for checkpoints: engine 0 of its die where x + y is even, engine 1 otherwise (R239); and where its packets enter the
mesh, with a TAG of its own (log entry 17). -/
def ckptEngine (t : Nat) : Nat := 2 * tileDie t + (tileX t % 16 + tileY t % 16) % 2
def ckptOrigin (p t : Nat) : Origin := ⟨xRouter (ckptEngine t) t, xPort (ckptEngine t), 512 + ckptEngine t, p⟩

/-- The sequencer state that a checkpoint holds (R156, R239). The PC is that after the STGQ, which has retired: a rollback resumes there, not at
the STGQ again (DEDUCED; log entry 44). -/
def State.saveSeq (s : State) (p : Nat) (d : StgDesc) : SavedSeq :=
  { step := (s.part p).step
    turfs := s.turfsOf p
    bit0 := d.bit0, len := d.len, pc := s.pc p
    ptrs := (List.range 16).map (fun i => (s.ptr p i, s.pdesc p i))
    fla := s.get (Reg.SEQ_LEN_FLA p), flb := s.get (Reg.SEQ_LEN_FLB p)
    sst := (s.seq p).sst, flc := s.get (Reg.SEQ_STATE_FLC p), fsr := (s.seq p).fsr
    rep := s.repActive p, repi := s.flag (Reg.SEQ_STATE_REPI p), repcnt := s.get (Reg.SEQ_REPCNT_COUNT p)
    ien := s.get (Reg.SEQ_IVEC_IEN p)
    header := []
    shift := (s.part p).shift }

/-- What a header holds, as numbers (R239). -/
def SavedSeq.content (v : SavedSeq) (p : Nat) : List Nat :=
  [p, v.step] ++ v.turfs ++ [64, v.bit0, v.len, v.pc] ++ v.ptrs.flatMap (fun a => [a.1, a.2]) ++
  [v.fla, v.flb, bnat v.sst.z, bnat v.sst.n, bnat v.sst.c, bnat v.sst.v, v.flc, v.fsr.toNat, bnat v.rep, bnat v.repi, v.repcnt, v.ien]

/-- The header of a checkpoint part: its first bytes, then the content in a layout that the manual does not give, then the CRC-32 of what
precedes it (R239, log entry 20). -/
def SavedSeq.bytes (v : SavedSeq) (p : Nat) : List Byte :=
  let c := v.content p
  let head := [0x5A, 0x43, 0x4B, 0x50] ++ (List.range 0xFF8).map (fun i => BitVec.ofNat 8 (Config.freeFunction 4 (i :: c)))
  head ++ leBytes 4 (Config.crc32 head).toNat

/-- One part of a checkpoint written from `base` on: header, scratchpad, and the planes of the partition's tiles on the die, which best-effort READs
bring (R231, R239). -/
def State.writePart (s : State) (header : List Byte) (p die base bit0 len : Nat) : State :=
  let s1 := s.hbmWrite base (header ++ s.hearthRead (0x200000 * p) 0x200000)
  ((s.turfsOnDie p die).flatMap tilesOfTurf).zipIdx.foldl (fun t x =>
    let r := State.fetchRows (ckptOrigin p x.1) x.1 bit0 0 (len + 1) (64 * len) 0 t
    r.1.hbmWrite (base + 0x201000 + 512 * len * x.2) (r.2.flatMap (fun w => leBytes 8 w.toNat))) s1

/-- Whether both engines of a die, which share the tiles of a checkpoint (R239), are free to work: under no block reset (R394), not frozen. -/
def State.dieEngines (s : State) (die : Nat) : Bool :=
  [2 * die, 2 * die + 1].all (fun e => (SMap.get none s.rst.targets (272 + e)).isNone && decide (bitAt (s.get Reg.DBG_BFRZ_FRZ) e = 0))

/-- CHECKPOINT: once every issued burst has completed, HBM_CKPT.VALID is cleared and every part is written; a stack that does not
answer fails the checkpoint (R239, R240). -/
def execCheckpoint (p : SeqId) (s : State) : Res :=
  match (s.seq p).ckpt with
  | none => .next s
  | some c =>
    let t := s.part p
    if !c.accepted || c.written || !t.drained || !t.results.isEmpty || !(s.seq p).outstanding.isEmpty || !(s.diesOf p).all s.dieEngines then
      .next s
    else
      let d := c.desc
      let base (die : Nat) : Nat := 0x800000000 * die + d.maddr
      let ok := (s.diesOf p).all (fun die => s.hbmUp (base die) (ckptSize d.len (s.turfsOnDie p die).length))
      let v0 := s.saveSeq p d
      let v : SavedSeq := { v0 with header := v0.bytes p }
      let s1 := s.set (Reg.HBM_CKPT_VALID p) 0
      let s2 := if ok then (s.diesOf p).foldl (fun u die => u.writePart v.header p die (base die) d.bit0 d.len) s1.useFree else s1
      let s3 : State := { s2 with saved := SMap.put none s2.saved p (if ok then some v else none) }
      .next (s3.setSeq p { s3.seq p with ckpt := some { c with written := true } })

/-- CHECKPOINT_COMPLETE: when every part is written, HBM_CKPT is set valid and the sequencer resumes; NORB and RST_SUBST.V clear
(R239, R373, R385). A failed one leaves VALID = 0 (R240). -/
def execCheckpointComplete (p : SeqId) (s : State) : Res :=
  match (s.seq p).ckpt with
  | none => .next s
  | some c =>
    if !c.written then .next s
    else
      let ok := (SMap.get none s.saved p).isSome
      let e := c.eng
      let s1 := if ok then
          (((s.set (Reg.HBM_CKPT_OFF p) c.desc.maddr).set (Reg.HBM_CKPT_VALID p) 1).set (Reg.RST_RECSTAT_NORB p) 0).set
            (Reg.RST_SUBST_V p) 0
        else s.set (Reg.STG_ERR_FAIL e) 1
      let s2 := s1.setStg e ((s1.stg e).filter (fun x => !(decide (x.part = p.val) && decide (x.desc.dir = 2))))
      .next ((s2.setSeq p { s2.seq p with ckpt := none }).stgDone e c.desc.evt)

end Sys2Proof.Machine
end

