-- ==== Sys2Proof/Machine/Dma.lean ====
section
/-!
DEFINITION. The DMA channels (R242-R244): address spaces, the checks of a descriptor, its movement, errors and abort. A
descriptor's data moves at its completion, to and from stream ports as they have data and room (R283), to and from PE memory in packets (log entry
22).
-/
namespace Sys2Proof.Machine

/-- A DMA descriptor (R242). -/
structure DmaDesc where
  src : Nat
  dst : Nat
  q2 : Nat
  next : Nat
  deriving DecidableEq, Repr

def DmaDesc.len (d : DmaDesc) : Nat := bitsOf d.q2 31 0
def DmaDesc.ssp (d : DmaDesc) : Nat := bitsOf d.q2 34 32
def DmaDesc.dsp (d : DmaDesc) : Nat := bitsOf d.q2 38 36
def DmaDesc.evt (d : DmaDesc) : Bool := bitAt d.q2 40 = 1
def DmaDesc.last (d : DmaDesc) : Bool := bitAt d.q2 41 = 1

/-- A descriptor from its 32 bytes. -/
def DmaDesc.ofBytes (bs : List Byte) : DmaDesc :=
  ⟨leNat (bs.take 8), leNat ((bs.drop 8).take 8), leNat ((bs.drop 16).take 8), leNat ((bs.drop 24).take 8)⟩

/-! ## Address spaces (R243) -/

/-- The memory row that a PE-plane address names: tile, row, bit address. -/
def planeRow (a : Nat) : Nat × Nat × Nat := (a / 0x400000, a % 512 / 8, a % 0x400000 / 512)

/-- The turfs that the `n` bytes at PE-plane address `a` touch. -/
def planeTurfs (a n : Nat) : List Nat :=
  (List.range 64).filter (fun t => (tilesOfTurf t).any (fun i => decide (i * 0x400000 < a + n) && decide (a < (i + 1) * 0x400000)))

/-- `n` bytes at PE-plane address `a` cut at the ends of tiles: address and rows of each piece. -/
def planePieces : Nat → Nat → Nat → List (Nat × Nat)
  | 0, _, _ => []
  | f + 1, a, n =>
    let m := min n (0x400000 - a % 0x400000)
    if n = 0 then [] else (a, m / 8) :: planePieces f (a + m) (n - m)

/-- The packets of channel `c` for a tile enter the mesh at the H port of its die, with a TAG of their own (R243; log entry 17). -/
def dmaOrigin (c tile : Nat) : Origin := ⟨hRouter (tileDie tile), 7, 1024 + c, 0⟩

/-- Bytes of PE planes read by best-effort READs of channel `c` (R243). -/
def State.planeFetch (s : State) (c a n : Nat) : State × List Byte :=
  (planePieces 1025 a n).foldl (fun t b =>
    let x := planeRow b.1
    let r := State.fetchRows (dmaOrigin c x.1) x.1 x.2.2 x.2.1 (b.2 + 1) b.2 0 t.1
    (r.1, t.2 ++ r.2.flatMap (fun w => leBytes 8 w.toNat))) (s, [])

/-- Bytes of PE planes written by best-effort WRITEs of channel `c` (R243). -/
def State.planeStore (s : State) (c a : Nat) (bs : List Byte) : State :=
  (planePieces 1025 a bs.length).foldl (fun t b =>
    let x := planeRow b.1
    let rows := (List.range b.2).map (fun i => BitVec.ofNat 64 (leNat ((bs.drop (b.1 - a + 8 * i)).take 8)))
    State.storeRows (dmaOrigin c x.1) x.1 x.2.2 x.2.1 (b.2 + 1) rows 0 t) s

/-- Bytes read from a space inside the machine by channel `c`; a stack leaves self-refresh (R224), a turf in retention wakes (R116). -/
def State.spaceFetch (s : State) (c space a n : Nat) : State × List Byte :=
  match space with
  | 1 => (s.hbmTouch a n, s.hbmRead a n)
  | 2 => (s, s.hearthRead a n)
  | 3 => s.planeFetch c a n
  | _ => (s, [])

/-- The buffer of a stream port (R283). -/
def State.stream (s : State) (n : Nat) : List Byte := SMap.get [] s.edge.ports n

/-- A stream port's buffer replaced; EDG_SPSTAT shows its fill (R283, R286). -/
def State.setStream (s : State) (n : Nat) (bs : List Byte) : State :=
  ({ s with edge := { s.edge with ports := SMap.put [] s.edge.ports n bs } } : State).set (Reg.EDG_SPSTAT_FILL n) bs.length

/-- Bytes written to a space by channel `c`. -/
def State.spaceWrite (s : State) (c space a : Nat) (bs : List Byte) : State :=
  match space with
  | 0 => s.send (.hostWrite a bs true)
  | 1 => s.hbmWrite a bs
  | 2 => s.hearthWrite a bs
  | 3 => s.planeStore c a bs
  | _ => s.setStream a (s.stream a ++ bs)

/-- Whether `n` bytes at `a` lie in a space; stream ports 0-7 are sources and 8-15 destinations (R243, R283). -/
def dmaRangeOk (space a n : Nat) (dst : Bool) : Bool :=
  match space with
  | 0 => decide (a + n ≤ 2 ^ 64)
  | 1 => decide (a + n ≤ 0x2000000000)
  | 2 => decide (a + n ≤ 0x800000) || (decide (0x1000000 ≤ a) && decide (a + n ≤ 0x2000000))
  | 3 => decide (a + n ≤ 0x100000000)
  | _ => if dst then decide (8 ≤ a) && decide (a ≤ 15) else decide (a ≤ 7)

/-- Alignment in a space (R243, R283). -/
def dmaAlignOk (space a n : Nat) : Bool :=
  match space with
  | 3 => decide (a % 8 = 0) && decide (n % 8 = 0)
  | 4 => decide (n % 32 = 0)
  | _ => true

/-- Whether an access of `n` bytes is answered with FENCED (R224, R244, R283). -/
def State.dmaFenced (s : State) (space a n : Nat) : Bool :=
  match space with
  | 1 => !s.hbmUp a n
  | 3 => (planeTurfs a n).any (fun t => s.turfShut t || decide (s.get (Reg.TRF_STATE_STATE t) = 5))
  | 4 => decide (s.phase 72 ≠ 0) || !(s.get Reg.EDG_STAT_STATE = 2 || s.get Reg.EDG_STAT_STATE = 3)
  | _ => false

/-- Error codes (R244). -/
def dmaSpace : Nat := 1
def dmaRange : Nat := 2
def dmaAlign : Nat := 3
def dmaHost : Nat := 4
def dmaData : Nat := 5
def dmaFencedCode : Nat := 6
def dmaFormat : Nat := 7

/-- The checks before data moves: reserved fields, spaces, alignment, ranges (R244); 0 where they pass. -/
def DmaDesc.check (d : DmaDesc) : Nat :=
  if bitAt d.q2 35 = 1 ∨ bitAt d.q2 39 = 1 ∨ d.q2 / 2 ^ 43 ≠ 0 then dmaFormat
  else if 5 ≤ d.ssp ∨ 5 ≤ d.dsp then dmaSpace
  else if !dmaAlignOk d.ssp d.src d.len || !dmaAlignOk d.dsp d.dst d.len then dmaAlign
  else if !dmaRangeOk d.ssp d.src d.len false || !dmaRangeOk d.dsp d.dst d.len true then dmaRange
  else 0

/-- The checks of the descriptor's own place in the chain's space; 0 where it can be read. -/
def State.chainCheck (s : State) (c : Nat) : Nat :=
  let space := s.get (Reg.DMA_HSP_SPACE c)
  let a := s.get (Reg.DMA_CUR_ADDR c)
  if 4 ≤ space then dmaSpace
  else if a % 8 ≠ 0 then dmaAlign
  else if !dmaRangeOk space a 32 false then dmaRange
  else if s.dmaFenced space a 32 then dmaFencedCode
  else 0

/-! ## Running a channel (R244) -/

/-- How many bytes of its descriptor channel `c` has moved (R283). -/
def State.moved (s : State) (c n : Nat) : State := { s with dma := SMap.put 0 s.dma c n }

/-- A channel stops with an error. -/
def State.dmaError (s : State) (c code : Nat) : State :=
  (((s.moved c 0).set (Reg.DMA_STAT_ERR c) code).set (Reg.DMA_STAT_STATE c) 2).raise (0x0D0 + c)

/-- A descriptor is done: its event, then the next one, or the chain's end. -/
def State.dmaNext (s : State) (c : Nat) (d : DmaDesc) : State :=
  let s1 := (s.moved c 0).bump (Reg.DMA_DONE_COUNT c) 1
  let s2 := if d.evt then s1.raise (0x0D0 + c) else s1
  if d.last then s2.set (Reg.DMA_STAT_STATE c) 0 else s2.setReg (Reg.DMA_CUR_ADDR c).off (BitVec.ofNat 64 d.next)

/-- Whether a descriptor has a stream port on a side. -/
def DmaDesc.streams (d : DmaDesc) : Bool := decide (d.ssp = 4) || decide (d.dsp = 4)

/-- Bytes `off` to `off + n` of a descriptor moved; `given` is what the host supplies of its data. -/
def State.dmaMove (s : State) (c : Nat) (d : DmaDesc) (given : List Byte) (off n : Nat) : State :=
  let r : State × List Byte :=
    if d.ssp = 0 then (s, (given.drop off).take n)
    else if d.ssp = 4 then (s.setStream d.src ((s.stream d.src).drop n), (s.stream d.src).take n)
    else s.spaceFetch c d.ssp (d.src + off) n
  r.1.spaceWrite c d.dsp (if d.dsp = 4 then d.dst else d.dst + off) r.2

/-- How many of `n` bytes a descriptor can move now: whole words that an inward port holds, whole words for which an outward port has room (R283). -/
def State.dmaRoom (s : State) (d : DmaDesc) (n : Nat) : Nat :=
  min (if d.ssp = 4 then min n ((s.stream d.src).length / 32 * 32) else n) (if d.dsp = 4 then (4096 - (s.stream d.dst).length) / 32 * 32 else n)

/-- The pieces in which a descriptor's bytes from `off` on move: the aligned 32-byte blocks of its destination, or words of a stream port; offset and
length of each (R223, R244, R283). -/
def DmaDesc.pieces (d : DmaDesc) (off : Nat) : List (Nat × Nat) :=
  let base := if d.dsp = 4 then 0 else d.dst
  (blockSpans (base + off) (d.len - off)).map (fun b => (b.1 - base, b.2))

/-- The pieces of a descriptor that `keep` selects, moved where neither side is fenced and there is room (R244). -/
def State.dmaBlocks (s : State) (c : Nat) (d : DmaDesc) (given : List Byte) (keep : Nat → Nat × Nat → Bool) : State :=
  (d.pieces (SMap.get 0 s.dma c)).zipIdx.foldl (fun t b =>
    if keep b.2 b.1 && !t.dmaFenced d.ssp (if d.ssp = 4 then d.src else d.src + b.1.1) b.1.2 &&
        !t.dmaFenced d.dsp (if d.dsp = 4 then d.dst else d.dst + b.1.1) b.1.2 && decide (t.dmaRoom d b.1.2 = b.1.2) then
      t.dmaMove c d given b.1.1 b.1.2
    else t) s

/-- What a descriptor that ends with an error has moved: a free selection of its pieces, of a stream the first of them (R244; log entry 22). -/
def State.dmaSome (s : State) (c : Nat) (d : DmaDesc) (given : List Byte) : State :=
  s.useFree.dmaBlocks c d given (fun i b =>
    (decide (d.ssp ≠ 0) || decide (b.1 + b.2 ≤ given.length)) &&
      (if d.streams then decide (i < s.freeValue.toNat) else decide (Config.freeFunction 5 [s.free, i] % 2 = 1)))

/-- The descriptor at DMA_CUR: what the command brings of it where the chain is in host memory, else what its space holds. -/
def State.dmaDesc (s : State) (c : Nat) (given : List Byte) : State × DmaDesc :=
  let space := s.get (Reg.DMA_HSP_SPACE c)
  let r := if space = 0 then (s, given.take 32) else s.spaceFetch c space (s.get (Reg.DMA_CUR_ADDR c)) 32
  (r.1, DmaDesc.ofBytes r.2)

/-- A data error in a descriptor's source (R364): of HBM, at the stack and to the partitions with a transfer that touched the block (R224); of PE
memory, to the tile's partition; of a scratchpad, to its sequencer's; of the shared scratch, which acts on no partition (R370). -/
def State.dmaDataFault (s : State) (c : Nat) (d : DmaDesc) : State :=
  match d.ssp with
  | 1 => s.hbmFault [] d.src d.len
  | 2 =>
    if d.src < 0x800000 then s.detect ⟨6, Fin.ofNat 4 (d.src / 0x200000), none, d.src / 0x200000, false⟩
    else s.detect ⟨8, 0, none, readerUnit + 8 + c, false⟩
  | 3 =>
    let tile := (d.src + s.freeValue.toNat % max 1 d.len) / 0x400000 % 1024
    let u := turfOfTile tile
    (s.useFree.turfError u (Reg.TRF_ERR_PARITY u)).detect ⟨5, Fin.ofNat 4 (s.get (Reg.TRF_CFG_PART u)), none, tile, false⟩
  | _ => s

/-- DMA_START: an accepted START clears ERR and runs the chain from DMA_HEAD (R244). -/
def execDmaStart (c : Fin 16) (s : State) : Res :=
  if s.get (Reg.DMA_STAT_STATE c) = 1 ∨ s.inReset (288 + c) = true then .next s
  else
    let s1 := ((s.moved c 0).set (Reg.DMA_STAT_ERR c) 0).set (Reg.DMA_STAT_STATE c) 1
    .next (s1.setReg (Reg.DMA_CUR_ADDR c).off (s.reg (Reg.DMA_HEAD_ADDR c).off))

/-- A running channel stops after the 32-byte block under way, which is completed (R244). `desc` brings the descriptor of a chain in host memory and
`bytes` what the host has supplied of its data, whose whole blocks have moved; of a source inside the machine, how many leading blocks have moved
is free (log entry 22); to and from a stream port words move whole, and those that have moved have. -/
def State.dmaStop (s : State) (c : Nat) (desc bytes : List Byte) : State :=
  let r := s.dmaDesc c desc
  let d := r.2
  let s1 :=
    if s.chainCheck c = 0 ∧ (s.get (Reg.DMA_HSP_SPACE c) = 0 → 32 ≤ desc.length) ∧ d.check = 0 then
      r.1.useFree.dmaBlocks c d bytes (fun i b =>
        !d.streams && (if d.ssp = 0 then decide (b.1 + b.2 ≤ bytes.length) else decide (i < s.freeValue.toNat)))
    else s
  (s1.moved c 0).set (Reg.DMA_STAT_STATE c) 3

/-- DMA_ABORT: stops a running channel with STATE 3 and no event (R244). -/
def execDmaAbort (x : DmaStop) (s : State) : Res :=
  if s.get (Reg.DMA_STAT_STATE x.chan) ≠ 1 then .next s else .next (s.dmaStop x.chan x.desc x.bytes)

/-- DMA_DESCRIPTOR_COMPLETE: the descriptor at DMA_CUR is checked and completes its movement, or ends the chain with an error (R244). `desc` brings
the descriptor of a chain in host memory, `bytes` what the host supplies. To or from a stream port as much moves as there is data and room for; the
rest waits (R283). -/
def execDmaDescriptorComplete (c : Fin 16) (desc bytes : List Byte) (r : Delivery) (s : State) : Res :=
  if s.get (Reg.DMA_STAT_STATE c) ≠ 1 ∨ bitAt (s.get Reg.DBG_BFRZ_FRZ) (8 + c) = 1 then .next s
  else if s.chainCheck c ≠ 0 then .next (s.dmaError c (s.chainCheck c))
  else if s.get (Reg.DMA_HSP_SPACE c) = 0 ∧ desc.length < 32 then (if r = .ok then .next s else .next ((s.dmaError c dmaHost).reportAer r))
  else
    let s0 := (s.dmaDesc c desc).1
    let d := (s.dmaDesc c desc).2
    let off := SMap.get 0 s.dma c
    if d.check ≠ 0 then .next (s0.dmaError c d.check)
    else if d.len = 0 then .next (s0.dmaNext c d)
    else if s.dmaFenced d.ssp d.src d.len || s.dmaFenced d.dsp d.dst d.len then .next ((s0.dmaSome c d bytes).dmaError c dmaFencedCode)
    else if d.streams && decide (s.get Reg.EDG_STAT_STATE = 3) then .next s
    else match r with
    | .ok =>
      if d.ssp = 0 ∧ bytes.length < d.len then .next s
      else
        let n := s0.dmaRoom d (d.len - off)
        if n = 0 then .next s
        else
          let s1 := s0.dmaMove c d bytes off n
          .next (if off + n = d.len then s1.dmaNext c d else s1.moved c (off + n))
    | .hostError => .next ((s0.dmaSome c d bytes).dmaError c dmaHost)
    | .poisoned => .next (((s0.dmaSome c d bytes).dmaError c dmaHost).send (.aer 4))
    | .dataError => .next (((s0.dmaSome c d bytes).dmaDataFault c d).dmaError c dmaData)

end Sys2Proof.Machine
end

