-- ==== Sys2Proof/Machine/Keys.lean ====
section
/-!
DEFINITION. Option bytes in effect (R399-R401, R422) and which keys authorise what (R412-R414).
-/
namespace Sys2Proof.Machine

/-! ## Option bytes -/

/-- Option byte `i` in effect. -/
def State.option (s : State) (i : Nat) : Nat := bitsOf (s.get (Reg.RST_OPT_BYTES (i / 4))) (8 * (i % 4) + 7) (8 * (i % 4))

def State.optPerstCold (s : State) : Bool := bitAt (s.option 0) 0 = 1
def State.optWdWarm (s : State) : Bool := bitAt (s.option 0) 1 = 1
def State.optMcWarm (s : State) : Bool := bitAt (s.option 0) 2 = 1
def State.optSlotB (s : State) : Bool := bitAt (s.option 1) 0 = 1
def State.optDirect (s : State) : Bool := bitAt (s.option 2) 0 = 1
def State.optRcmd (s : State) : Bool := bitAt (s.option 2) 1 = 1
/-- PWEN reads 0 on the L128K (R422). -/
def State.optPwen (s : State) : Bool := bitAt (s.option 16) 0 = 1 && !Config.keyed
def State.optRsten (s : State) : Bool := bitAt (s.option 16) 1 = 1
def State.optMaxLevel (s : State) : Nat := if bitsOf (s.option 17) 1 0 = 3 then 0 else bitsOf (s.option 17) 1 0
def State.optPwLevel (s : State) : Nat := if bitsOf (s.option 18) 1 0 = 3 then 0 else bitsOf (s.option 18) 1 0
def State.optFailLimit (s : State) : Nat := if s.option 19 = 0 then 1 else s.option 19
def State.optIdle (s : State) : Nat := s.option 20 + 256 * s.option 21
/-- PWHASH (R422). -/
def State.optPwHash (s : State) : Nat := leNat ((List.range 64).map (fun i => BitVec.ofNat 8 (s.option (32 + i))))

/-! ## Certificates (R413) -/

/-- A field of a certificate: `n` bytes at `a`. -/
def certNat (c : List Byte) (a n : Nat) : Nat := leNat ((c.drop a).take n)
def certPurpose (c : List Byte) : Nat := certNat c 6 2
def certKeyId (c : List Byte) : Nat := certNat c 8 8
def certIssuer (c : List Byte) : Nat := certNat c 0x10 1
def certLevel (c : List Byte) : Nat := certNat c 0x11 1
def certSerial (c : List Byte) : Nat := certNat c 0x18 8
def certKey (c : List Byte) : List Byte := (c.drop 0x20).take 132

/-- The bit of each purpose in PURPOSE. -/
def purposeFirmware : Nat := 0
def purposePatch : Nat := 1
def purposeImage : Nat := 2
def purposeFabric : Nat := 3
def purposeDebug : Nat := 4
def purposeOptions : Nat := 5
def purposeIdentity : Nat := 6

/-- The issuers permitted for a purpose (R414). -/
def issuerPermitted (issuer purpose : Nat) : Bool :=
  if issuer = 0 then decide (purpose ≤ 6)
  else decide (issuer = 1) && Config.keyed && decide (2 ≤ purpose) && decide (purpose ≤ 5)

/-- Whether a root is valid since the last release (R412). -/
def State.rootValid (s : State) (issuer : Nat) : Bool := if issuer = 0 then s.flag Reg.SEC_STAT_FROOT else s.flag Reg.SEC_STAT_CROOT

/-- Whether the signature over `body` verifies against a public key (R246, R413). -/
def verifies (key body sig : List Byte) : Bool := Config.ecdsaVerify key (Config.sha512 body) sig

/-- Whether a certificate is well formed and its issuing root signed it (R413, R414). -/
def State.certSigned (s : State) (c : List Byte) : Bool :=
  decide (c.length = 296) && decide (c.take 4 = [0x5A, 0x4B, 0x45, 0x59]) && decide (certNat c 4 2 = 1) &&
  decide (certPurpose c < 128) && decide (2 ≤ certKeyId c) && decide (certIssuer c ≤ 1) && decide (certNat c 0x12 6 = 0) &&
  s.rootValid (certIssuer c) && verifies (Config.rootKey (certIssuer c)) (c.take 0xA4) ((c.drop 0xA4).take 132)

/-- Whether a certificate authorises a purpose on this module (R414). -/
def State.certAllows (s : State) (c : List Byte) (purpose : Nat) : Bool :=
  decide (bitAt (certPurpose c) purpose = 1) && issuerPermitted (certIssuer c) purpose && s.rootValid (certIssuer c) &&
  !s.sec.revoked.contains (certKeyId c) && (decide (certSerial c = 0) || decide (certSerial c = Config.serial.toNat))

/-- The installed certificate with a KEYID, and its slot. -/
def State.installed (s : State) (id : Nat) : Option (Nat × List Byte) := s.sec.certs.find? (fun e => decide (certKeyId e.2 = id))

/-- The public key that KEYID `id` names, if it authorises the purpose (R412, R414). -/
def State.authorised (s : State) (id purpose : Nat) : Option (List Byte) :=
  if id ≤ 1 then
    if s.rootValid id && issuerPermitted id purpose then some (Config.rootKey id) else none
  else match s.installed id with
    | some (_, c) => if s.certAllows c purpose then some (certKey c) else none
    | none => none

/-- Whether bytes that end in KEYID and a signature are signed by a key authorised for the purpose (R246, R212, R417). -/
def State.signedBy (s : State) (bs : List Byte) (purpose : Nat) : Bool :=
  let n := bs.length - 140
  match s.authorised (leNat ((bs.drop n).take 8)) purpose with
  | none => false
  | some k => decide (140 ≤ bs.length) && verifies k (bs.take (n + 8)) (bs.drop (n + 8))

end Sys2Proof.Machine
end

