-- ==== Sys2Proof/Machine/Container.lean ====
section
/-!
DEFINITION. The container of a structure image (R246, R248, R266): header, directory, sections, and the checks that the load phase
makes on them. A code is 0 where a check passes, else the refusal code of R260 with the directory index of the section it names.
-/
namespace Sys2Proof.Machine

/-- The `n`-byte little-endian number at `a`, and the `n` bytes at `a`. -/
def natAt (bs : List Byte) (a n : Nat) : Nat := leNat ((bs.drop a).take n)
def bytesAt (bs : List Byte) (a n : Nat) : List Byte := (bs.drop a).take n
/-- Whether `n` bytes at `a` are zero. -/
def zeroAt (bs : List Byte) (a n : Nat) : Bool := (bytesAt bs a n).all (fun b => decide (b = 0))

/-- A refusal: the code and the directory index (R267). -/
abbrev Refuse := Nat × Nat

/-- The first check that fails, in order. -/
def firstFail : List (Bool × Nat × Nat) → Refuse
  | [] => (0, 0)
  | (bad, code, sect) :: cs => if bad then (code, sect) else firstFail cs

/-- The first refusal of a list. -/
def firstRefuse : List Refuse → Refuse
  | [] => (0, 0)
  | r :: rs => if r.1 = 0 then firstRefuse rs else r

/-! ## Header (R246) -/

def imgVersion (i : List Byte) : Nat := natAt i 4 2
def imgKind (i : List Byte) : Nat := natAt i 6 2
def imgTotal (i : List Byte) : Nat := natAt i 0x10 4
def imgNsect (i : List Byte) : Nat := natAt i 0x14 2
def imgTarget (i : List Byte) : Nat := natAt i 0x18 8

/-- Step 1 of R257: what the header says, against the length set. -/
def headerRefuse (i : List Byte) (len : Nat) : Refuse :=
  firstFail [
    (decide (i.length < 128), 0x04, 0),
    (decide (i.take 4 ≠ [0x5A, 0x53, 0x49, 0x46]), 0x06, 0),
    (decide (imgVersion i ≠ 2) && decide (imgVersion i ≠ 3), 0x07, 0),
    (decide (2 < imgKind i) || (decide (imgVersion i = 2) && decide (imgKind i ≠ 0)), 0x08, 0),
    (decide (63 < imgTarget i), 0x08, 0),
    (decide (imgKind i ≠ 1) && decide (imgTarget i ≠ 0), 0x06, 0),
    (decide (imgTotal i ≠ len), 0x05, 0)]

/-! ## Directory and sections -/

/-- A section with its directory entry (R246). -/
structure Section where
  idx : Nat
  type : Nat
  flags : Nat
  off : Nat
  len : Nat
  unit : Nat
  rsv : Nat
  body : List Byte
  deriving DecidableEq, Repr

/-- The sections of an image in directory order. -/
def sections (i : List Byte) : List Section :=
  (List.range (imgNsect i)).map (fun n =>
    let e := 128 + 16 * n
    ⟨n, natAt i e 2, natAt i (e + 2) 2, natAt i (e + 4) 4, natAt i (e + 8) 4, natAt i (e + 12) 2, natAt i (e + 14) 2,
      bytesAt i (natAt i (e + 4) 4) (natAt i (e + 8) 4)⟩)

/-- The section of a type, if the image carries one. -/
def sectionOf (i : List Byte) (type : Nat) : Option Section := (sections i).find? (fun x => decide (x.type = type))
/-- Its directory index. -/
def sectionIdx (i : List Byte) (type : Nat) : Nat := ((sectionOf i type).map (·.idx)).getD 0
/-- Whether an image carries an EDGE section. -/
def carriesEdge (i : List Byte) : Bool := (sections i).any (fun x => decide (x.type = 4))

/-- Sections by rising offset. -/
def insertByOff (x : Section) : List Section → List Section
  | [] => [x]
  | y :: ys => if x.off < y.off then x :: y :: ys else y :: insertByOff x ys
def sortByOff : List Section → List Section
  | [] => []
  | x :: xs => insertByOff x (sortByOff xs)

/-- Bounds, alignment and reserved fields of one entry (R246). -/
def entryBad (i : List Byte) (x : Section) : Bool :=
  decide (x.rsv ≠ 0) || decide (x.len = 0) || decide (x.off % 8 ≠ 0) || decide (x.off < 128 + 16 * imgNsect i) ||
  decide (imgTotal i < x.off + x.len + 140) || decide (1 < x.flags) || (decide (x.type ≠ 6) && decide (x.flags ≠ 0 ∨ x.unit ≠ 0))

/-- Overlap and filler, through the sections by rising offset. -/
def fillRefuse (i : List Byte) (prev : Nat) : List Section → Refuse
  | [] => if zeroAt i prev (imgTotal i - 140 - prev) then (0, 0) else (0x06, 0)
  | x :: xs =>
    if x.off < prev ∨ zeroAt i prev (x.off - prev) = false then (0x06, x.idx) else fillRefuse i (x.off + x.len) xs

/-- How often a kind of image may carry a type: 0 never, 1 exactly once, 2 at most once, 3 at most once for each engine (R248,
R266). -/
def allowance (version kind type : Nat) : Nat :=
  if version = 2 ∧ (type = 2 ∨ type = 6 ∨ type = 8) then 0
  else match type with
    | 1 => if kind = 2 then 0 else 1
    | 2 => if kind = 2 then 0 else 2
    | 3 => if kind = 0 then 2 else 0
    | 4 => if kind = 0 then 2 else if kind = 2 then 1 else 0
    | 5 => if kind = 1 then 0 else 2
    | 6 => if kind = 1 then 0 else 3
    | 7 => if kind = 0 then 2 else 0
    | 8 => if kind = 0 then 2 else 0
    | 9 => 2
    | _ => 0

/-- Whether a section may not stand, given those before it (R248). -/
def kindBad (i : List Byte) (x : Section) : Bool :=
  let a := allowance (imgVersion i) (imgKind i) x.type
  let before := ((sections i).take x.idx).filter (fun y => decide (y.type = x.type))
  decide (a = 0) || (if a = 3 then before.any (fun y => decide (y.unit = x.unit)) else !before.isEmpty)

/-- Whether a section that the kind requires is missing (R248). -/
def missing (i : List Byte) : Bool :=
  (List.range 10).any (fun t => decide (allowance (imgVersion i) (imgKind i) t = 1) && (sectionOf i t).isNone)

/-- Step 3 of R257: the whole image has arrived; directory, bounds, filler, kinds. -/
def fetchRefuse (i : List Byte) : Refuse :=
  let n := imgNsect i
  firstRefuse [
    firstFail [
      (decide (i.length < imgTotal i), 0x04, 0),
      (decide (n = 0 ∨ 32 < n) || decide (imgTotal i < 128 + 16 * n + 140), 0x06, 0),
      (!zeroAt i 0x16 2 || !zeroAt i 0x60 32, 0x06, 0),
      (decide (imgKind i = 0) && !zeroAt i 0x20 64, 0x06, 0)],
    firstFail ((sections i).map (fun x => (entryBad i x, 0x06, x.idx))),
    fillRefuse i (128 + 16 * n) (sortByOff (sections i)),
    firstFail ((sections i).map (fun x => (kindBad i x, 0x08, x.idx))),
    firstFail [(missing i, 0x08, 0)]]

/-! ## Measurement (R265) -/

/-- The bytes of a SHA-512 value. -/
def hashBytes (h : BitVec 512) : List Byte := leBytes 64 h.toNat

/-- HST_SIFHASH as bytes; word 0 holds bytes 0-3. -/
def State.sifHash (s : State) : List Byte := (List.range 16).flatMap (fun i => leBytes 4 (s.get (Reg.HST_SIFHASH_HASH i)))
/-- HST_SIFHASH set to bytes. -/
def State.setSifHash (s : State) (bs : List Byte) : State :=
  s.each 16 (fun i t => t.set (Reg.HST_SIFHASH_HASH i) (natAt bs (4 * i) 4))

/-- Step 5 of R257: the signature, then BASEHASH (R247). -/
def State.verifyRefuse (s : State) (i : List Byte) : Refuse :=
  firstFail [
    (!s.signedBy i purposeImage, 0x09, 0),
    (decide (imgKind i ≠ 0) && decide (bytesAt i 0x20 64 ≠ s.sifHash), 0x0A, 0)]

end Sys2Proof.Machine
end

