-- ==== Sys2Proof/Machine/PatchSet.lean ====
section
/-!
DEFINITION. Patch containers and the patch set (R212-R215, R251): the checks a commit makes and the stores it fills.
-/
namespace Sys2Proof.Machine

/-! ## The container (R212) -/

def patchMask (c : List Byte) : Nat := natAt c 6 2
def patchDisp (c : List Byte) : Nat := natAt c 0x10 2
def patchMatch (c : List Byte) : Nat := natAt c 0x12 2
def patchMicro (c : List Byte) : Nat := natAt c 0x14 2
def patchNano (c : List Byte) : Nat := natAt c 0x16 2

/-- Dispatch records: AOP, zero bytes, entry. -/
def dispRecords (c : List Byte) : List (Nat × Nat × W32) :=
  (List.range (patchDisp c)).map (fun i => (natAt c (0x20 + 8 * i) 2, natAt c (0x22 + 8 * i) 2, BitVec.ofNat 32 (natAt c (0x24 + 8 * i) 4)))
def matchStart (c : List Byte) : Nat := 0x20 + 8 * patchDisp c
def matchRecords (c : List Byte) : List W32 := (List.range (patchMatch c)).map (fun i => BitVec.ofNat 32 (natAt c (matchStart c + 4 * i) 4))
def microStart (c : List Byte) : Nat := matchStart c + 4 * patchMatch c
def microRecords (c : List Byte) : List W32 := (List.range (patchMicro c)).map (fun i => BitVec.ofNat 32 (natAt c (microStart c + 4 * i) 4))
def nanoStart (c : List Byte) : Nat := microStart c + 4 * patchMicro c
def nanoRecords (c : List Byte) : List W256 := (List.range (patchNano c)).map (fun i => BitVec.ofNat 256 (natAt c (nanoStart c + 32 * i) 32))
def patchLength (c : List Byte) : Nat := nanoStart c + 32 * patchNano c + 140

/-- PATCH_FORMAT (R212-R214). -/
def patchFormatBad (c : List Byte) : Bool :=
  decide (c.take 4 ≠ [0x5A, 0x4D, 0x43, 0x50]) || decide (1024 < patchDisp c) || decide (32 < patchMatch c) || decide (2048 < patchMicro c) ||
  decide (512 < patchNano c) || decide (16 ≤ patchMask c) || !zeroAt c 0x18 8 || decide (c.length ≠ patchLength c) ||
  (dispRecords c).any (fun r => decide (1023 < r.1) || decide (r.2.1 ≠ 0)) ||
  (matchRecords c).any (fun m => decide (bitsOf m.toNat 30 25 ≠ 0))

/-! ## Load checks (R204, R205, R209, R210) -/

/-- Whether a microaddress does not exist (R204). -/
def uaddrBad (u : Nat) : Bool := decide (0x4800 ≤ u)

/-- A dispatch entry (R205). -/
def entryCheck (e : Nat) : Bool :=
  decide (bitsOf e 30 27 ≤ 11) && decide (bitsOf e 26 23 ≤ 8) && decide (bitsOf e 20 15 = 0) && !uaddrBad (bitsOf e 14 0)

/-- A microword (R204, R206, R209). -/
def microCheck (w : Nat) : Bool :=
  if bitAt w 31 = 0 then decide (bitsOf w 28 16 < 0x1200)
  else
    let op := bitsOf w 30 28
    let sel := bitsOf w 27 24
    decide (op ≠ 7) && decide (bitsOf w 23 15 = 0) && !uaddrBad (bitsOf w 14 0) &&
    (if op = 0 then true else if op = 4 then decide (sel ≤ 9) else decide (sel = 0))

/-- A nanoword (R16, R19, R90, R108, R210). -/
def nanoCheck (n : W256) : Bool :=
  let f (hi lo : Nat) : Nat := bitsOf n.toNat hi lo
  decide (f 18 16 ≤ 5) && decide (f 21 19 ≤ 5) && decide (f 28 25 ≤ 0xA) && decide (f 31 29 ≤ 6) && decide (f 37 35 ≤ 4) &&
  decide (f 41 38 ≤ 0xD) && decide (f 45 42 ≤ 5) && decide (f 54 52 ≤ 6) && decide (f 56 55 ≤ 2) && decide (f 58 57 ≤ 2) &&
  decide (f 60 59 ≤ 2) && decide (f 63 61 = 0) && decide (f 255 144 = 0)

/-! ## Paths (R214) -/

/-- Where a path through patch memory stands: microaddress, continuations of the open loops, saved microaddress. -/
structure PathAt where
  u : Nat
  loops : List Nat
  saved : Option Nat
  deriving DecidableEq, Repr

/-- What follows one microword of a path: `none` where a third loop opens or a CALL nests. A repeated pass of a loop follows the body that
has been followed already. -/
def pathNext (w : Nat) (a : PathAt) : Option (List PathAt) :=
  let to_ := bitsOf w 14 0
  if bitAt w 31 = 0 then
    if bitAt w 30 = 1 then some []
    else if bitAt w 29 = 1 then
      match a.loops with
      | l :: ls => some [{ a with u := l, loops := ls }]
      | [] => some [{ a with u := a.u + 1 }]
    else some [{ a with u := a.u + 1 }]
  else match bitsOf w 30 28 with
    | 0 => if 2 ≤ a.loops.length then none else some [{ a with u := to_ }, { a with u := a.u + 1, loops := to_ :: a.loops }]
    | 1 => some [{ a with u := to_ }]
    | 5 => if a.saved.isSome then none else some [{ a with u := to_, saved := some (a.u + 1) }]
    | 6 => match a.saved with | some b => some [{ a with u := b, saved := none }] | none => some []
    | _ => some [{ a with u := to_ }, { a with u := a.u + 1 }]

/-- Whether every path from `a` reaches an end or a ROM microaddress without meeting a place twice (R214). -/
def pathEnds (micro : List W32) : Nat → List PathAt → PathAt → Bool
  | 0, _, _ => false
  | n + 1, seen, a =>
    if a.u < 0x4000 then true
    else if uaddrBad a.u || seen.contains a then false
    else match pathNext (micro.getD (a.u - 0x4000) 0).toNat a with
      | none => false
      | some l => l.all (pathEnds micro n (a :: seen))

/-- Places in which a path can stand: 2,048 microwords, at most two continuations, a saved address. -/
def pathBound : Nat := 2 ^ 11 * (2 ^ 15 + 1) ^ 2 * (2 ^ 15 + 1) + 1

/-- PATCH_CHECK (R214). -/
def patchCheckBad (c : List Byte) : Bool :=
  let ends (u : Nat) : Bool := pathEnds (microRecords c) pathBound [] ⟨u, [], none⟩
  (dispRecords c).any (fun r => !entryCheck r.2.2.toNat) || (microRecords c).any (fun w => !microCheck w.toNat) ||
  (nanoRecords c).any (fun n => !nanoCheck n) || (dispRecords c).any (fun r => !ends (bitsOf r.2.2.toNat 14 0)) ||
  (matchRecords c).any (fun m => m.getLsbD 31 && !ends (0x4000 + bitsOf m.toNat 10 0))

/-- PATCH_MATCH (R214). -/
def patchMatchBad (c : List Byte) : Bool :=
  let valid := (matchRecords c).filter (·.getLsbD 31)
  decide (¬ (valid.map (fun m => bitsOf m.toNat 24 11)).Nodup) || (matchRecords c).any (fun m => decide (patchMicro c ≤ bitsOf m.toNat 10 0))

/-! ## The patch reference (R251) -/

/-- The container an image's reference names: `none` where there is none to load or no source for it. -/
def State.patchSource (s : State) (i : List Byte) : Option (List Byte) :=
  match sectionOf i 7 with
  | none => none
  | some x =>
    match natAt x.body 0 4 with
    | 1 => (sectionOf i 8).map (·.body)
    | 2 => if natAt x.body 8 8 + natAt x.body 4 4 ≤ 0x14000000 then some (readBytes s.flash (natAt x.body 8 8) (natAt x.body 4 4)) else none
    | _ => none

/-- Whether the container of an image's reference is read from boot flash (R251). -/
def patchFromFlash (i : List Byte) : Bool := (sectionOf i 7).any (fun x => decide (natAt x.body 0 4 = 2))

/-- PATCH_SRC (R251, R254, R260; log entry 25); whether a read of boot flash fails is free. -/
def State.patchSrcBad (s : State) (i : List Byte) : Bool :=
  match sectionOf i 7 with
  | none => false
  | some x =>
    let src := natAt x.body 0 4
    decide (x.body.length ≠ 80) || decide (2 < src) || (decide (src ≠ 2) && !zeroAt x.body 4 12) || (decide (src = 0) && !zeroAt x.body 16 64) ||
    (decide (src ≠ 0) && (s.patchSource i).isNone) || (patchFromFlash i && s.freeValue.getLsbD 0)

/-- The checks of R214 in order, after those on the source of the container. -/
def State.patchRefuse (s : State) (i : List Byte) : Refuse :=
  let x := sectionIdx i 7
  if s.patchSrcBad i then (0x33, x)
  else match s.patchSource i with
    | none => (0, 0)
    | some c =>
      let busy := (List.range 4).any (fun q => decide (bitAt (patchMask c) q = 1) &&
        decide (s.get (Reg.SEQ_STATE_STATE q) ≠ 0) && decide (s.get (Reg.SEQ_STATE_STATE q) ≠ 3))
      let want := natAt (((sectionOf i 7).map (·.body)).getD []) 16 64
      firstFail [
        (busy, 0x2C, x),
        (decide ((Config.sha512 c).toNat ≠ want), 0x2D, x),
        (patchFormatBad c, 0x2E, x),
        (decide (natAt c 4 2 ≠ 2), 0x2F, x),
        (!s.signedBy c purposePatch, 0x30, x),
        (patchCheckBad c, 0x31, x),
        (patchMatchBad c, 0x32, x)]

/-! ## The patch set (R215) -/

/-- The stores of one sequencer as a container fills them. -/
def patchOf (c : List Byte) : Patch :=
  ⟨(dispRecords c).foldl (fun m r => SMap.insert m r.1 r.2.2) [], matchRecords c, microRecords c, nanoRecords c, Config.sha512 c,
    BitVec.ofNat 32 (natAt c 8 4), BitVec.ofNat 32 (natAt c 0xC 4)⟩

/-- A full image's patch set takes effect: the sequencers of SEQMASK, or all cleared where no patch is named (R215, R251). -/
def State.applyPatch (s : State) (i : List Byte) : State :=
  match s.patchSource i with
  | some c => s.each 4 (fun q t => if bitAt (patchMask c) q = 1 then t.setPatch q (patchOf c) else t)
  | none => s.each 4 (fun q t => t.setPatch q Patch.reset)

end Sys2Proof.Machine
end

