-- ==== Sys2Proof/Machine/EdgeLogic.lean ====
section
/-!
DEFINITION. The design in the edge fabric: function tables, carry chains, wide multiplexers, flip-flops (R269, R270), switch-box registers
(R271), global clocks (R272), block memories (R273, R274), what the fabric drives (R282-R285), and its stream ports (R283). How the frames
name all this is opaque (log entry 21).
-/
namespace Sys2Proof.Machine
open Sys2Proof.Config

/-! ## Pins (R281, R282) -/

/-- The bank record of pin `n` (R281). -/
def State.pinRecord (s : State) (n : Nat) : Nat := leNat ((s.edge.banks.drop (100 * (n / 24) + 4 + 4 * (n % 24))).take 4)

/-- The level that the module drives at pin `n`: its owner's, where it is an output and not inert; a bidirectional pin by DIR, and where the fabric
owns it by a design that the manual does not print (R279, R282, R290). -/
def State.pinDrive (s : State) (n : Nat) : Option Bool :=
  let r := s.pinRecord n
  let std := bitsOf r 3 0
  let st := s.get Reg.EDG_STAT_STATE
  if bitAt r 9 = 1 then
    if std = 2 ∨ std = 5 ∨ std = 7 ∨ (std = 3 ∧ s.kdl.pinDir.getLsbD n = true) then some (s.kdl.pinOut.getLsbD n) else none
  else if (std = 2 ∨ std = 5 ∨ std = 7) ∧ 2 ≤ st ∧ st ≤ 4 then some (s.edge.pins.getLsbD n)
  else none

/-- The level that the fabric and the Kindling engines see at pin `n`: what the module drives there, else what the outside does; an inert pin has its
receiver off (R261, R282). -/
def State.pinLevel (s : State) (n : Nat) : Bool :=
  decide (bitsOf (s.pinRecord n) 3 0 ≠ 0) && (s.pinDrive n).getD (s.edge.inputs.getLsbD n)

/-- The standard of pair `i` of D-PHY port `j`: ports 0 and 1 are those of bank 4, 2 and 3 those of bank 5 (R280). -/
def State.pairStd (s : State) (j i : Nat) : Nat := bitsOf (s.pinRecord (96 + 24 * (j / 2) + 10 * (j % 2) + 2 * i)) 3 0

/-- Whether D-PHY port `j` has its clock lane, on the first pair, and whether its data lane `k` % 4 is set up, with the lanes from 0 upward (R280). -/
def State.dphyUp (s : State) (j : Nat) : Bool := decide (s.pairStd j 0 = 8)
def State.laneUp (s : State) (k : Nat) : Bool :=
  s.dphyUp (k / 4) && (List.range (k % 4 + 1)).all (fun i => decide (s.pairStd (k / 4) (i + 1) = 9))

/-- Where lane `k` stands, the clock lane of port `j` at 16 + j: what it detects, and its byte or its periods. -/
def State.lane (s : State) (k : Nat) : Nat × Nat := SMap.get (0, 0) s.edge.lanes k

/-- What a lane detects next: from LP-11 the high-speed entry sequence or ULPS, after the entry high speed, and LP-11 again (R280; log entry 21). -/
def laneNext (mode free : Nat) : Nat :=
  match mode with
  | 0 => [0, 1, 3].getD (free % 3) 0
  | 1 => 1 + free % 2
  | 2 => if free % 2 = 0 then 2 else 0
  | _ => if free % 2 = 0 then 3 else 0

/-- One Hearth cycle of the D-PHY ports, whose clock lanes have at most one period in it: the divided clock has an edge every four, with which every
data lane in high speed has a new byte (R272, R280; log entry 21). -/
def State.laneCycle (s : State) (base : Nat) : SMap (Nat × Nat) :=
  let g (k i : Nat) : Nat := Config.freeFunction 11 [base, k, i]
  let clock (m : SMap (Nat × Nat)) (j : Nat) : SMap (Nat × Nat) :=
    let l := s.lane (16 + j)
    if s.dphyUp j then
      SMap.put (0, 0) m (16 + j) (laneNext l.1 (g (16 + j) 0), if l.1 = 2 ∧ g (16 + j) 1 % 2 = 1 then (l.2 + 1) % 4 else l.2) else m
  let clocks := (List.range 4).foldl clock s.edge.lanes
  let data (m : SMap (Nat × Nat)) (k : Nat) : SMap (Nat × Nat) :=
    let l := s.lane k
    let due := decide ((s.lane (16 + k / 4)).2 = 3) && decide ((SMap.get (0, 0) clocks (16 + k / 4)).2 = 0)
    if s.laneUp k then SMap.put (0, 0) m k (laneNext l.1 (g k 0), if due && decide (l.1 = 2) then g k 1 % 256 else l.2) else m
  (List.range 16).foldl data clocks

/-- What data lane `k` gives the fabric: its byte at 0 to 7, then whether it detects LP-11, the high-speed entry, ULPS (R280). -/
def State.laneBit (s : State) (k i : Nat) : Bool :=
  s.laneUp k && (if i < 8 then (s.lane k).2.testBit i else decide ((s.lane k).1 = [0, 1, 3].getD (i - 8) 4))

/-! ## Levels -/

/-- KEj is the OR of the last value that each channel wrote to it (R285, R289). -/
def State.keLine (s : State) (j : Nat) : Bool := s.kdl.chans.any (fun e => e.2.ke.getLsbD j)

/-- What the fabric sees at one moment besides its own state: the levels at the pins, what the D-PHY lanes deliver (their bytes and what they
detect, R280), and what a combinational loop settles to. What the module does not drive itself comes from outside and is free (log entry 21). -/
structure EdgeInputs where
  pins : Nat → Bool
  lanes : Nat → Nat → Bool
  loop : Bool

/-- Bit `n` of a function table (R269). -/
def tableBit (t : BitVec 64) (dual second : Bool) (i : Nat → Bool) : Bool :=
  let low := natOfBits 5 i
  if dual then t.getLsbD ((if second then 32 else 0) + low) else t.getLsbD (natOfBits 6 i)

/-- The carry into cell `c`: from cell to cell, never across a multiple of 64 (R269). A cell whose main output is 1 passes its carry on,
one whose main output is 0 gives its I5. -/
def carryIn (main gen : Nat → Bool) : Nat → Nat → Bool
  | 0, _ => false
  | n + 1, c => if c % 64 = 0 then false else if main (c - 1) then carryIn main gen n (c - 1) else gen (c - 1)

/-- The level of a net, through at most `n` drivers (R269-R271). A wide multiplexer takes the cluster that begins at a multiple of 4 and selects one of
16 nets, or four clusters from a multiple of 16 on and one of 64 (R270). -/
def State.edgeNet (s : State) (v : EdgeInputs) : Nat → Nat → Bool
  | 0, _ => v.loop
  | n + 1, net =>
    let cfg := s.edge.config
    let input (c i : Nat) : Bool := s.edgeNet v n ((edgeCell cfg c).inputs.getD i 0)
    let main (c : Nat) : Bool := tableBit (edgeCell cfg c).table (edgeCell cfg c).dual false (input c)
    match edgeDriver cfg net with
    | .const b => b
    | .pin k => v.pins k
    | .ke k => s.keLine k
    | .main c => main c
    | .second c => tableBit (edgeCell cfg c).table true true (input c)
    | .sum c => main c != carryIn main (fun d => input d 5) 64 c
    | .flop c b => SMap.get false s.edge.ffs (2 * c + bnat b)
    | .wide c four data sel =>
      decide (c % (if four then 16 else 4) = 0) &&
        s.edgeNet v n (data.getD (natOfBits (if four then 6 else 4) (fun i => s.edgeNet v n (sel.getD i 0))) 0)
    | .wire m => s.edgeNet v n m
    | .hop r => if (edgeHop cfg r).enabled then SMap.get false s.edge.hops r else s.edgeNet v n (edgeHop cfg r).net
    | .mem m b i => (SMap.get 0 s.edge.outs (2 * m + bnat b)).testBit i
    | .streamBit p i => (leNat ((SMap.get [] s.edge.ports p).take 32)).testBit i
    | .streamValid p => decide (32 ≤ (SMap.get [] s.edge.ports p).length)
    | .streamReady p => decide ((SMap.get [] s.edge.ports p).length + 32 ≤ 4096)
    | .lane k i => v.lanes k i

/-- The level of a net. -/
def State.edgeLevel (s : State) (v : EdgeInputs) (net : Nat) : Bool := s.edgeNet v edgeDepth net

/-! ## Flip-flops and switch-box registers at an edge -/

/-- The two flip-flops of a cell at an edge of the clocks `ns` (R269). -/
def State.flopNext (s : State) (v : EdgeInputs) (ns : List Nat) (i : Nat) : Bool :=
  let c := i / 2
  let second := decide (i % 2 = 1)
  let e := edgeCell s.edge.config c
  let now := SMap.get false s.edge.ffs i
  let clk := if second then e.clk.2 else e.clk.1
  let on := s.edgeLevel v (if second then e.enable.2 else e.enable.1)
  let input (j : Nat) : Bool := s.edgeLevel v (e.inputs.getD j 0)
  let main (d : Nat) : Bool :=
    let g := edgeCell s.edge.config d
    tableBit g.table g.dual false (fun j => s.edgeLevel v (g.inputs.getD j 0))
  let gen (d : Nat) : Bool := s.edgeLevel v ((edgeCell s.edge.config d).inputs.getD 5 0)
  if !(ns.contains clk && on) then now
  else if second then (if e.dual then tableBit e.table true true input else input 5)
  else if e.carry then main c != carryIn main gen 64 c
  else main c

/-- A switch-box register at an edge of the clocks `ns` (R271). -/
def State.hopNext (s : State) (v : EdgeInputs) (ns : List Nat) (r : Nat) : Bool :=
  let h := edgeHop s.edge.config r
  if h.enabled && ns.contains h.clk then s.edgeLevel v h.net else SMap.get false s.edge.hops r

/-! ## Block memories (R273, R274) -/

/-- The width of a shape's words. -/
def shapeWidth (shape : Nat) : Nat := [1, 2, 4, 9, 18, 36, 72].getD shape 1

/-- Where bit `i` of word `a` stands in a memory: shapes narrower than 9 leave every ninth bit out (DEDUCED, log entry 21). -/
def shapeBit (shape a i : Nat) : Nat :=
  let w := shapeWidth shape
  if w < 9 then (a * w + i) / 8 * 9 + (a * w + i) % 8 else a * w + i

/-- A bit of memory `m`. -/
def memBit (bram : SMap Byte) (m i : Nat) : Bool := (SMap.get 0 bram (4608 * m + i / 8)).getLsbD (i % 8)

/-- Word `a` of memory `m`. -/
def memWord (bram : SMap Byte) (m shape a : Nat) : Nat := natOfBits (shapeWidth shape) (fun i => memBit bram m (shapeBit shape a i))

/-- Word `a` of memory `m` written. -/
def memPut (bram : SMap Byte) (m shape a w : Nat) : SMap Byte :=
  (List.range (shapeWidth shape)).foldl (fun b i =>
    let k := 4608 * m + shapeBit shape a i / 8
    let old := SMap.get 0 b k
    let bit := shapeBit shape a i % 8
    SMap.put 0 b k (if w.testBit i then old ||| BitVec.twoPow 8 bit else old &&& ~~~(BitVec.twoPow 8 bit))) bram

/-- What a port does at an edge: nothing, a read, or a write of a word. In the shape of 72 bits port A only writes and port B only reads
(R273). -/
structure PortAct where
  on : Bool
  write : Bool
  addr : Nat
  word : Nat
  deriving DecidableEq, Repr

/-- The act of a port at an edge of the clocks `ns`. -/
def State.portAct (s : State) (v : EdgeInputs) (ns : List Nat) (shape : Nat) (portB : Bool) (q : EdgePort) : PortAct :=
  let bits (l : List Nat) : Nat := natOfBits l.length (fun i => s.edgeLevel v (l.getD i 0))
  let w := s.edgeLevel v q.write && !(decide (shape = 6) && portB)
  let on := ns.contains q.clk && s.edgeLevel v q.enable && !(decide (shape = 6) && !portB && !w)
  ⟨on, w, bits q.addr % (32768 / (if shapeWidth shape < 9 then shapeWidth shape else shapeWidth shape * 8 / 9)), bits q.data⟩

/-- A memory and its read outputs after an edge (R274). When the ports meet on one word: with one clock, A's write wins and a read returns the
old word; with two, which write stands and which word a read returns are free (`coin`). -/
def State.memEdge (s : State) (v : EdgeInputs) (ns : List Nat) (coin : Bool) (e : Edge) (m : Nat) : Edge :=
  let g := edgeMem s.edge.config m
  let a := s.portAct v ns g.shape false g.a
  let b := s.portAct v ns g.shape true g.b
  let old (x : PortAct) : Nat := memWord s.edge.bram m g.shape x.addr
  let meet := a.on && b.on && decide (a.addr = b.addr)
  let one := decide (g.a.clk = g.b.clk)
  let aWins := !meet || !(a.write && b.write) || one || coin
  let bWins := !meet || !(a.write && b.write) || (!one && !coin)
  let r1 := if a.on && a.write && aWins then memPut e.bram m g.shape a.addr a.word else e.bram
  let r2 := if b.on && b.write && bWins then memPut r1 m g.shape b.addr b.word else r1
  let seen (x y : PortAct) : Nat := if meet && y.write && !one && coin then y.word else old x
  let out (x y : PortAct) (q : EdgePort) (k : Nat) : Nat :=
    let now := SMap.get 0 s.edge.outs k
    if !x.on then now
    else if !x.write then seen x y
    else match q.mode with
      | 0 => x.word % 2 ^ shapeWidth g.shape
      | 1 => old x
      | _ => now
  { e with bram := r2, outs := SMap.put 0 (SMap.put 0 e.outs (2 * m) (out a b g.a (2 * m))) (2 * m + 1) (out b a g.b (2 * m + 1)) }

/-! ## Stream ports (R283) -/

/-- A stream port at an edge of its clock: an inward port takes a word when the fabric offers one and there is room, an outward port gives one
when there is one and the fabric is ready. -/
def State.streamEdge (s : State) (v : EdgeInputs) (ns : List Nat) (e : Edge) (p : Nat) : Edge :=
  let g := edgeStream s.edge.config p
  let held := SMap.get [] s.edge.ports p
  if !(ns.contains g.clk && s.edgeLevel v g.go) then e
  else if p < 8 then
    if held.length + 32 ≤ 4096 then
      let w := natOfBits 256 (fun i => s.edgeLevel v (g.data.getD i 0))
      { e with ports := SMap.put [] e.ports p (held ++ leBytes 32 w) }
    else e
  else if 32 ≤ held.length then { e with ports := SMap.put [] e.ports p (held.drop 32) }
  else e

/-! ## Edges and what the fabric drives -/

/-- A rising edge of the global clocks `ns` at one moment: every flip-flop, register, memory and stream port on them steps from the state
before the edge. -/
def State.edgeClock (s : State) (v : EdgeInputs) (ns : List Nat) : State :=
  let coin := s.freeValue.getLsbD 0
  let e1 := (List.range 512).foldl (fun e m => s.memEdge v ns coin e m) s.edge
  let e2 := (List.range 16).foldl (fun e p => s.streamEdge v ns e p) e1
  let e3 := { e2 with
    ffs := SMap.update (fun _ => false) s.edge.ffs (s.flopNext v ns) (List.range 262144)
    hops := SMap.update (fun _ => false) s.edge.hops (s.hopNext v ns) (List.range edgeHops) }
  (({ s with edge := e3 } : State).useFree).each 16 (fun p t =>
    t.set (Reg.EDG_SPSTAT_FILL p) (SMap.get [] t.edge.ports p).length)

/-- The levels that the fabric drives on pins, EV and EK lines. -/
def State.edgeDrive (s : State) (v : EdgeInputs) : State :=
  let cfg := s.edge.config
  { s with edge := { s.edge with
    pins := BitVec.ofNat 144 (natOfBits 144 (fun n => s.edgeLevel v (edgePinNet cfg n)))
    ev := BitVec.ofNat 32 (natOfBits 32 (fun n => s.edgeLevel v (edgeEvNet cfg n)))
    ek := BitVec.ofNat 32 (natOfBits 32 (fun n => s.edgeLevel v (edgeEkNet cfg n))) } }

/-- A 0-to-1 transition of EVi raises its event; it is lost while masked, and while the fabric is held, frozen or under block reset (R284). -/
def State.evRise (s : State) (i : Nat) : State :=
  let st := s.get Reg.EDG_STAT_STATE
  if bitAt (s.get Reg.EDG_EVMASK_EN) i = 1 ∧ s.flag Reg.EDG_CTL_FREEZE = false ∧ (st = 2 ∨ st = 4) ∧
      (SMap.get none s.rst.targets 304).isNone = true then s.raise (0x100 + i)
  else s

/-- A capture armed on one of the clocks `ns` counts an edge, and is taken at its last (R276). -/
def State.countCapture (s : State) (ns : List Nat) : State :=
  match s.edge.armed with
  | some (k, n) =>
    if ns.contains k then (if n ≤ 1 then s.takeCapture else { s with edge := { s.edge with armed := some (k, n - 1) } }) else s
  | none => s

/-- The bytes of CLOCK frame `n`. -/
def State.clockFrame (s : State) (n : Nat) : List Byte := readBytes s.edge.config (128 * (0x30000000 + n)) 128

/-- One Hearth cycle of the global clocks, from the state `o` before it: those of the Hearth clock that run count up to their divider, one from a pin has
an edge when the pin rises, one from a D-PHY port when the port's divided clock has one (R272). -/
def State.clockCycle (o s : State) : SMap Nat × List Nat :=
  let rises (k : Nat) : Bool :=
    if k ≤ 6 then !o.pinLevel (24 * (k - 1) + 22) && s.pinLevel (24 * (k - 1) + 22)
    else decide ((o.lane (16 + (k - 7))).2 = 3) && decide ((s.lane (16 + (k - 7))).2 = 0)
  let step (r : SMap Nat × List Nat) (n : Nat) : SMap Nat × List Nat :=
    let f := s.clockFrame n
    if bitAt (s.get Reg.EDG_STAT_CLKRUN) n = 0 then r
    else if clockSource f = 0 then
      let k := SMap.get 0 r.1 n + 1
      let due := decide (3 + clockDivider f % 148 ≤ k)
      (SMap.put 0 r.1 n (if due then 0 else k), if due then r.2 ++ [n] else r.2)
    else if rises (clockSource f) then (r.1, r.2 ++ [n])
    else r
  (List.range 8).foldl step (s.edge.phase, [])

/-- One Hearth cycle of a running fabric: what the outside drives, its clocks, the state on them, and what it drives; a capture counts its edges (R276),
and edge events follow the EV lines (R284). -/
def State.edgeCycle (s : State) : State :=
  let base := s.free
  let ins := BitVec.ofNat 144 (natOfBits 144 (fun n => decide (Config.freeFunction 10 [base, n] % 2 = 1)))
  let s0 : State := { s.useFree with edge := { s.edge with inputs := ins, lanes := s.laneCycle base, ekWas := s.edge.ek } }
  let c := s.clockCycle s0
  let s1 : State := { s0 with edge := { s0.edge with phase := c.1 } }
  let v : EdgeInputs := ⟨s1.pinLevel, s1.laneBit, Config.freeFunction 12 [base] % 2 = 1⟩
  let s2 := if c.2 = [] then s1 else (s1.edgeClock v c.2).countCapture c.2
  let was := s2.edge.ev
  let s3 := s2.edgeDrive v
  s3.each 32 (fun i t => if s3.edge.ev.getLsbD i && !was.getLsbD i then t.evRise i else t)

end Sys2Proof.Machine
end

