-- ==== Sys2Proof/Machine/Kindling.lean ====
section
/-!
DEFINITION. The Kindling engines (R287-R303): turns, the instructions (R291-R294, R298), queues (R295, R296), dividers (R297), edge
units (R298), starts, stops and freezes (R300-R303). A turn's command brings the levels that the synchroniser sampled for it
(R290); the three-cycle delay of an output is timing.
-/
namespace Sys2Proof.Machine

/-! ## Channels and engines -/

/-- Whether the stores of channel `c` are merged into its even neighbour's queue (R295). -/
def State.kMerged (s : State) (c : Nat) : Bool := c % 2 = 1 && s.get (Reg.KDL_CCFG_QST (c - 1)) = 4

/-- The depth of a merged queue, 0 for a code without one (R295, log entry 23). -/
def State.kDepth (s : State) (c : Nat) : Nat :=
  match s.get (Reg.KDL_CCFG_QST c) with
  | 1 => 4
  | 2 => 8
  | 4 => if c % 2 = 0 then 16 else 0
  | _ => 0

/-- TX and RX queue depths (R295). -/
def State.txDepth (s : State) (c : Nat) : Nat :=
  if s.kMerged c then 0
  else if s.get (Reg.KDL_CCFG_QST c) = 1 ∨ s.get (Reg.KDL_CCFG_QDIR c) = 0 then s.kDepth c else 0
def State.rxDepth (s : State) (c : Nat) : Nat :=
  if s.kMerged c then 0
  else if s.get (Reg.KDL_CCFG_QST c) = 1 ∨ s.get (Reg.KDL_CCFG_QDIR c) = 1 then s.kDepth c else 0

/-- Whether the TX queue is empty, and whether the RX queue has room for `n` words; a queue of depth 0 is empty and full
(R295). -/
def State.txEmpty (s : State) (c : Nat) : Bool := (s.kch c).tx.isEmpty
def State.rxRoom (s : State) (c n : Nat) : Bool := decide ((s.kch c).rx.length + n ≤ s.rxDepth c)

/-- Words enqueued on RX. -/
def State.rxPut (s : State) (c : Nat) (ws : List W32) : State := s.setKch c { s.kch c with rx := (s.kch c).rx ++ ws }

/-! ## Lines (R289) -/

/-- The level of a line index. -/
def lineAt (lines : BitVec 176) (i : Nat) : Bool := lines.getLsbD (i % 256)

/-- A command brings the levels that the outside drives on the pins; the fabric sees them too (R282, R290). -/
def State.see (s : State) (lines : BitVec 176) : State := { s with edge := { s.edge with inputs := BitVec.setWidth 144 lines } }

/-- The levels that an instruction reads: the pins, and the EK lines as the fabric drives them (R285, R289, R290). -/
def State.sampled (s : State) : BitVec 176 :=
  BitVec.ofNat 176 (natOfBits 176 (fun i => if i < 144 then s.pinLevel i else s.edge.ek.getLsbD (i - 144)))

/-- Whether Kindling channel `c` owns pin `n` (R281, R282). -/
def State.kOwns (s : State) (c n : Nat) : Bool :=
  decide (n < 144) && decide (bitAt (s.pinRecord n) 9 = 1) && decide (bitsOf (s.pinRecord n) 16 10 = c)

/-- A bit vector with bit `i` set to `v`. -/
def setBit {w : Nat} (x : BitVec w) (i : Nat) (v : Bool) : BitVec w :=
  if v then x ||| BitVec.twoPow w i else x &&& ~~~(BitVec.twoPow w i)

/-- An ordinary write by channel `c` to a line (R289). -/
def State.kWrite (s : State) (c i : Nat) (v : Bool) : State :=
  let n := i % 256
  if n < 144 then
    if s.kOwns c n then { s with kdl := { s.kdl with pinOut := setBit s.kdl.pinOut n v } } else s
  else if 176 ≤ n ∧ n < 208 then s.setKch c { s.kch c with ke := setBit (s.kch c).ke (n - 176) v }
  else s

/-- Lines `base` onwards written with the bits of `f`. -/
def State.kWrites (s : State) (c base n : Nat) (f : Nat → Bool) : State :=
  (List.range n).foldl (fun t i => t.kWrite c (base + i) (f i)) s

/-! ## Registers of a channel -/

/-- TXS with TXN := TXW (R291). -/
def State.setTxs (s : State) (c v : Nat) : State :=
  (s.set (Reg.KDL_CTXS_VALUE c) v).set (Reg.KDL_CSC_TXN c) (s.get (Reg.KDL_CSHF_TXW c))

/-- The TX head taken into TXS and LAST (R294). -/
def State.takeWord (s : State) (c : Nat) : State :=
  match (s.kch c).tx with
  | [] => s
  | w :: ws => ((s.setKch c { s.kch c with tx := ws }).set (Reg.KDL_CLAST_VALUE c) w.toNat).setTxs c w.toNat

/-- RXS enqueued and cleared (R294). -/
def State.giveWord (s : State) (c : Nat) : State :=
  ((s.rxPut c [BitVec.ofNat 32 (s.get (Reg.KDL_CRXS_VALUE c))]).set (Reg.KDL_CRXS_VALUE c) 0).set (Reg.KDL_CSC_RXN c) 0

/-! ## Instructions. `none` is a stall; the number is the next PC. -/

/-- The program word at a channel's PC. -/
def State.kWord (s : State) (c : Nat) : Nat := s.get (Reg.KDL_PMEM_WORD (c / 32) (s.get (Reg.KDL_CST_PC c)))

/-- The PC after this word. -/
def State.kNext (s : State) (c : Nat) : Nat := (s.get (Reg.KDL_CST_PC c) + 1) % 512

/-- What an instruction does at a channel's turn. -/
abbrev KOut := Option (State × Nat)

/-- NOP (R291). -/
def kNop (c _w : Nat) (_ : BitVec 176) (s : State) : KOut := some (s, s.kNext c)

/-- Whether a BR condition holds (R292). -/
def State.kTaken (s : State) (c w : Nat) (lines : BitVec 176) : Bool :=
  match bitsOf w 26 23 with
  | 0x0 => true
  | 0x1 => decide (s.get (Reg.KDL_CSC_CNT c) ≠ 0)
  | 0x2 => decide (s.get (Reg.KDL_CA_VALUE c) = s.get (Reg.KDL_CB_VALUE c))
  | 0x3 => decide (s.get (Reg.KDL_CA_VALUE c) ≠ s.get (Reg.KDL_CB_VALUE c))
  | 0x4 => lineAt lines (bitsOf w 22 15)
  | 0x5 => !lineAt lines (bitsOf w 22 15)
  | 0x6 => decide (s.get (Reg.KDL_CSC_TXN c) = 0)
  | 0x7 => decide (s.get (Reg.KDL_CSHF_RXW c) ≤ s.get (Reg.KDL_CSC_RXN c))
  | 0x8 => !s.txEmpty c
  | 0x9 => !s.rxRoom c 1
  | 0xA => s.flag (Reg.KDL_CST_STALE c)
  | _ => s.flag (Reg.KDL_CST_LATCHED c)

/-- BR (R292): condition 0x1 decrements CNT, condition 0xA clears STALE. -/
def kBr (c w : Nat) (lines : BitVec 176) (s : State) : KOut :=
  let s1 := match bitsOf w 26 23 with
    | 0x1 => s.set (Reg.KDL_CSC_CNT c) (s.get (Reg.KDL_CSC_CNT c) - 1)
    | 0xA => s.set (Reg.KDL_CST_STALE c) 0
    | _ => s
  some (s1, if s.kTaken c w lines then bitsOf w 8 0 else s.kNext c)

/-- WAIT (R291). -/
def kWait (c w : Nat) (lines : BitVec 176) (s : State) : KOut :=
  match bitsOf w 26 25 with
  | 0 => if lineAt lines (bitsOf w 7 0) = decide (bitAt w 24 = 1) then some (s, s.kNext c) else none
  | 1 => if s.flag (Reg.KDL_CST_LATCHED c) then some (s, s.kNext c) else none
  | _ => if s.flag (Reg.KDL_CST_TICK c) then some (s.set (Reg.KDL_CST_TICK c) 0, s.kNext c) else none

/-- SLEEP (R291). -/
def kSleep (c w : Nat) (_ : BitVec 176) (s : State) : KOut := some (s.set (Reg.KDL_CEDGE_SLP c) (bitsOf w 15 0), s.kNext c)

/-- Bit `i` that SHO takes: from bit 31 downward with TXMSB, else from bit 0 upward; 0 beyond TXN (R293). -/
def shoBit (txs txn : Nat) (msb : Bool) (i : Nat) : Bool := decide (i < txn) && txs.testBit (if msb then 31 - i else i)

/-- SHO (R293). -/
def kSho (c w : Nat) (_ : BitVec 176) (s : State) : KOut :=
  let l := 2 ^ bitsOf w 26 25
  let feed := bitAt w 24 = 1 ∧ s.get (Reg.KDL_CSC_TXN c) = 0
  if feed ∧ s.txEmpty c = true then none
  else
    let s1 := if feed then s.takeWord c else s
    let txs := s1.get (Reg.KDL_CTXS_VALUE c)
    let txn := s1.get (Reg.KDL_CSC_TXN c)
    let msb := s1.flag (Reg.KDL_CSHF_TXMSB c)
    let s2 := s1.kWrites c (bitsOf w 7 0) l (shoBit txs txn msb)
    let s3 := s2.set (Reg.KDL_CTXS_VALUE c) (if msb then txs * 2 ^ l % 2 ^ 32 else txs / 2 ^ l)
    some (s3.set (Reg.KDL_CSC_TXN c) (txn - l), s.kNext c)

/-- RXS after the bits of `n` lines from `base` on have entered (R293). -/
def shiftIn (lines : BitVec 176) (base rxs : Nat) (msb : Bool) : Nat → Nat
  | 0 => rxs
  | n + 1 =>
    let r := shiftIn lines base rxs msb n
    let v := bnat (lineAt lines (base + n))
    if msb then (2 * r + v) % 2 ^ 32 else r / 2 + v * 2 ^ 31

/-- SHI (R293). -/
def kShi (c w : Nat) (lines : BitVec 176) (s : State) : KOut :=
  let l := 2 ^ bitsOf w 26 25
  let rxn := s.get (Reg.KDL_CSC_RXN c)
  let flush := bitAt w 24 = 1 ∧ s.get (Reg.KDL_CSHF_RXW c) ≤ rxn + l
  if flush ∧ s.rxRoom c 1 = false then none
  else
    let rxs := shiftIn lines (bitsOf w 7 0) (s.get (Reg.KDL_CRXS_VALUE c)) (s.flag (Reg.KDL_CSHF_RXMSB c)) l
    let s1 := (s.set (Reg.KDL_CRXS_VALUE c) rxs).set (Reg.KDL_CSC_RXN c) (min 32 (rxn + l))
    some (if flush then s1.giveWord c else s1, s.kNext c)

/-- TAKE (R294). -/
def kTake (c w : Nat) (_ : BitVec 176) (s : State) : KOut :=
  if bitAt w 25 = 1 ∧ 0 < s.get (Reg.KDL_CSC_TXN c) then some (s, s.kNext c)
  else if s.txEmpty c then
    if bitAt w 26 = 1 then none
    else some ((s.setTxs c (s.get (Reg.KDL_CLAST_VALUE c))).set (Reg.KDL_CST_STALE c) 1, s.kNext c)
  else some (s.takeWord c, s.kNext c)

/-- GIVE (R294). -/
def kGive (c w : Nat) (_ : BitVec 176) (s : State) : KOut :=
  if bitAt w 25 = 1 ∧ s.get (Reg.KDL_CSC_RXN c) < s.get (Reg.KDL_CSHF_RXW c) then some (s, s.kNext c)
  else if s.rxRoom c 1 then some (s.giveWord c, s.kNext c)
  else if bitAt w 26 = 1 then none
  else
    let s1 := (s.set (Reg.KDL_CRXS_VALUE c) 0).set (Reg.KDL_CSC_RXN c) 0
    some ((s1.set (Reg.KDL_CST_STALE c) 1).count (Reg.KDL_CERR_DROPS c) 1, s.kNext c)

/-- The register that SRC of DRV and DIR, or DST of SMP, names (R291). -/
def kReg (c w : Nat) : Field := if bitAt w 26 = 0 then Reg.KDL_CA_VALUE c else Reg.KDL_CB_VALUE c

/-- DRV (R291). -/
def kDrv (c w : Nat) (_ : BitVec 176) (s : State) : KOut :=
  let v := s.get (kReg c w)
  some (s.kWrites c (bitsOf w 7 0) (bitsOf w 20 16 + 1) (fun i => v.testBit i), s.kNext c)

/-- SMP (R291). -/
def kSmp (c w : Nat) (lines : BitVec 176) (s : State) : KOut :=
  some (s.set (kReg c w) (natOfBits (bitsOf w 20 16 + 1) (fun i => lineAt lines (bitsOf w 7 0 + i))), s.kNext c)

/-- The direction of a bidirectional pin that channel `c` owns (R289, R290). -/
def State.kDirect (s : State) (c i : Nat) (v : Bool) : State :=
  let n := i % 256
  if s.kOwns c n && decide (bitsOf (s.pinRecord n) 3 0 = 3) then
    { s with kdl := { s.kdl with pinDir := setBit s.kdl.pinDir n v } }
  else s

/-- DIR (R291). -/
def kDir (c w : Nat) (_ : BitVec 176) (s : State) : KOut :=
  let v := s.get (kReg c w)
  some ((List.range (bitsOf w 20 16 + 1)).foldl (fun t i => t.kDirect c (bitsOf w 7 0 + i) (v.testBit i)) s, s.kNext c)

/-- LDI (R291). -/
def kLdi (c w : Nat) (_ : BitVec 176) (s : State) : KOut :=
  let v := bitsOf w 15 0
  let full (old : Nat) : Nat := if bitAt w 24 = 1 then old % 2 ^ 16 + v * 2 ^ 16 else v
  some (match bitsOf w 26 25 with
    | 0 => s.set (Reg.KDL_CA_VALUE c) (full (s.get (Reg.KDL_CA_VALUE c)))
    | 1 => s.set (Reg.KDL_CB_VALUE c) (full (s.get (Reg.KDL_CB_VALUE c)))
    | 2 => s.set (Reg.KDL_CSC_CNT c) v
    | _ => s.setTxs c (full (s.get (Reg.KDL_CTXS_VALUE c))), s.kNext c)

/-- The source of OPR (R291). -/
def State.kSource (s : State) (c code : Nat) : Nat :=
  match code with
  | 0 => s.get (Reg.KDL_CA_VALUE c)
  | 1 => s.get (Reg.KDL_CB_VALUE c)
  | 2 => s.get (Reg.KDL_CSC_CNT c)
  | 3 => s.get (Reg.KDL_CTXS_VALUE c)
  | 4 => s.get (Reg.KDL_CRXS_VALUE c)
  | 5 => s.get (Reg.KDL_CLAST_VALUE c)
  | 6 => s.get Reg.KDL_TIME_KTIME % 2 ^ 32
  | _ => s.get (Reg.KDL_CPARAM_PARAM c)

/-- The function of OPR, modulo 2^32 (R291). -/
def kFn (code v : Nat) : Nat :=
  match code with
  | 0 => v
  | 1 => 2 ^ 32 - 1 - v
  | 2 => bitrev 32 v
  | 3 => leNat (leBytes 4 v).reverse
  | 4 => (v + 1) % 2 ^ 32
  | _ => (v + 2 ^ 32 - 1) % 2 ^ 32

/-- OPR (R291). -/
def kOpr (c w : Nat) (_ : BitVec 176) (s : State) : KOut :=
  let v := kFn (bitsOf w 20 18) (s.kSource c (bitsOf w 23 21))
  some (match bitsOf w 26 24 with
    | 0 => s.set (Reg.KDL_CA_VALUE c) v
    | 1 => s.set (Reg.KDL_CB_VALUE c) v
    | 2 => s.set (Reg.KDL_CSC_CNT c) (v % 2 ^ 16)
    | 3 => s.setTxs c v
    | _ => (s.set (Reg.KDL_CRXS_VALUE c) v).set (Reg.KDL_CSC_RXN c) 0, s.kNext c)

/-- ARM (R298). -/
def kArm (c w : Nat) (_ : BitVec 176) (s : State) : KOut :=
  let s1 := (s.set (Reg.KDL_CEDGE_EDGE c) (bitsOf w 26 25)).set (Reg.KDL_CEDGE_LINE c) (bitsOf w 7 0)
  some (s1.set (Reg.KDL_CST_LATCHED c) 0, s.kNext c)

/-- STMP (R298). -/
def kStmp (c w : Nat) (_ : BitVec 176) (s : State) : KOut :=
  let t := if s.flag (Reg.KDL_CST_LATCHED c) then (s.kch c).latched.toNat else 2 ^ 64 - 1
  if s.rxRoom c 2 then some (s.rxPut c [BitVec.ofNat 32 t, BitVec.ofNat 32 (t / 2 ^ 32)], s.kNext c)
  else if bitAt w 26 = 1 then none
  else some ((s.set (Reg.KDL_CST_STALE c) 1).count (Reg.KDL_CERR_DROPS c) 2, s.kNext c)

/-- EVT (R291, R323). -/
def kEvt (c _w : Nat) (_ : BitVec 176) (s : State) : KOut := some (s.raise (0x120 + c), s.kNext c)

/-! ## Turns (R287, R288) -/

/-- Whether the next turn of a running engine is channel `c`'s. -/
def State.kTurn (s : State) (c : Nat) : Bool :=
  decide (s.get (Reg.KDL_ESTAT_STATE (c / 32)) = 1) && decide ((s.keng (c / 32)).turns.head? = some c)

/-- The turn passes to the next active channel. -/
def State.kPass (s : State) (c : Nat) : State :=
  match (s.keng (c / 32)).turns with
  | [] => s
  | t :: ts => s.setKeng (c / 32) { s.keng (c / 32) with turns := ts ++ [t] }

/-- Whether the word that channel `c` is to execute in its turn has wrong parity (R303). -/
def State.kFails (s : State) (c : Nat) : Bool :=
  s.kTurn c && decide (s.get (Reg.KDL_CEDGE_SLP c) = 0) && s.kdl.bad.contains (512 * (c / 32) + s.get (Reg.KDL_CST_PC c))

/-- A parity error in the program of engine `e`: it stops before the word, reads STATE 3, and its fault event is raised (R303). -/
def State.kParity (s : State) (e : Nat) : State :=
  ((s.set (Reg.KDL_ESTAT_STATE e) 3).set (Reg.KDL_EERR_PARITY e) 1).raise (0x1A0 + e)

/-- An instruction with operation code `op` executed in channel `c`'s turn. Where the turn is another's, the word another
instruction or the condition unmet, nothing happens (log entry 1); a word with wrong parity stops the engine (R303). -/
def State.kRun (s : State) (c op : Nat) (body : Nat → Nat → BitVec 176 → State → KOut) : State :=
  let w := s.kWord c
  if s.kFails c then s.kParity (c / 32)
  else if !s.kTurn c || decide (s.get (Reg.KDL_CEDGE_SLP c) ≠ 0) || decide (bitsOf w 31 27 ≠ op) then s
  else match body c w s.sampled s with
    | none => s
    | some (t, pc) => ((t.set (Reg.KDL_CST_PC c) pc).set (Reg.KDL_CST_STALL c) 0).kPass c

/-- KINDLING_NOP (R291). -/
def execKindlingNop (c : Fin 128) (s : State) : Res := .next (s.kRun c 0x00 kNop)
/-- BR (R292). -/
def execBr (c : Fin 128) (lines : BitVec 176) (s : State) : Res := .next ((s.see lines).kRun c 0x01 kBr)
/-- KINDLING_WAIT, once its condition is met (R291). -/
def execKindlingWait (c : Fin 128) (lines : BitVec 176) (s : State) : Res := .next ((s.see lines).kRun c 0x02 kWait)
/-- SLEEP (R291). -/
def execSleep (c : Fin 128) (s : State) : Res := .next (s.kRun c 0x03 kSleep)
/-- SHO (R293). -/
def execSho (c : Fin 128) (s : State) : Res := .next (s.kRun c 0x04 kSho)
/-- SHI (R293). -/
def execShi (c : Fin 128) (lines : BitVec 176) (s : State) : Res := .next ((s.see lines).kRun c 0x05 kShi)
/-- TAKE (R294). -/
def execTake (c : Fin 128) (s : State) : Res := .next (s.kRun c 0x06 kTake)
/-- GIVE (R294). -/
def execGive (c : Fin 128) (s : State) : Res := .next (s.kRun c 0x07 kGive)
/-- DRV (R291). -/
def execDrv (c : Fin 128) (s : State) : Res := .next (s.kRun c 0x08 kDrv)
/-- SMP (R291). -/
def execSmp (c : Fin 128) (lines : BitVec 176) (s : State) : Res := .next ((s.see lines).kRun c 0x09 kSmp)
/-- DIR (R291). -/
def execDir (c : Fin 128) (s : State) : Res := .next (s.kRun c 0x0A kDir)
/-- LDI (R291). -/
def execLdi (c : Fin 128) (s : State) : Res := .next (s.kRun c 0x0B kLdi)
/-- OPR (R291). -/
def execOpr (c : Fin 128) (s : State) : Res := .next (s.kRun c 0x0C kOpr)
/-- ARM (R298). -/
def execArm (c : Fin 128) (s : State) : Res := .next (s.kRun c 0x0D kArm)
/-- STMP (R298). -/
def execStmp (c : Fin 128) (s : State) : Res := .next (s.kRun c 0x0E kStmp)
/-- EVT (R291). -/
def execEvt (c : Fin 128) (s : State) : Res := .next (s.kRun c 0x0F kEvt)

/-- SLEEP_TURN: a channel spends one of its sleep turns (R288). -/
def execSleepTurn (c : Fin 128) (s : State) : Res :=
  let n := s.get (Reg.KDL_CEDGE_SLP c)
  if s.kTurn c && decide (n ≠ 0) then .next (((s.set (Reg.KDL_CEDGE_SLP c) (n - 1)).set (Reg.KDL_CST_STALL c) 0).kPass c)
  else .next s

/-- The instructions that can stall: WAIT, SHO, SHI, TAKE, GIVE, STMP (R288). -/
def kStalls (c w : Nat) (lines : BitVec 176) (s : State) : Bool :=
  match bitsOf w 31 27 with
  | 0x02 => (kWait c w lines s).isNone
  | 0x04 => (kSho c w lines s).isNone
  | 0x05 => (kShi c w lines s).isNone
  | 0x06 => (kTake c w lines s).isNone
  | 0x07 => (kGive c w lines s).isNone
  | 0x0E => (kStmp c w lines s).isNone
  | _ => false

/-- STALL_TURN: a WAIT or a blocking instruction finds its condition unmet and changes nothing (R288); KDL_CST.STALL shows the
turn. -/
def execStallTurn (c : Fin 128) (lines : BitVec 176) (s : State) : Res :=
  let s1 := s.see lines
  if s1.kFails c then .next (s1.kParity (c / 32))
  else if s1.kTurn c && decide (s1.get (Reg.KDL_CEDGE_SLP c) = 0) && kStalls c (s1.kWord c) s1.sampled s1 then
    .next ((s1.set (Reg.KDL_CST_STALL c) 1).kPass c)
  else .next s1

/-! ## Edges and ticks (R297, R298) -/

/-- A transition as it reaches the engines: on a pin, unless it is inert, the outside makes it, on an EK line the fabric, in its last Hearth cycle (R282,
R285). -/
def State.moveLine (s : State) (rising : Bool) (line : Nat) : State :=
  if line < 144 then { s with edge := { s.edge with inputs := setBit s.edge.inputs line rising } } else s
def State.lineMoved (s : State) (rising : Bool) (line : Nat) : Bool :=
  if line < 144 then decide (bitsOf (s.pinRecord line) 3 0 ≠ 0)
  else s.edge.ek.getLsbD (line - 144) == rising && s.edge.ekWas.getLsbD (line - 144) == !rising

/-- EDGE_LATCH: the first matching transition on the armed input, sampled in this engine cycle, latches the time of two cycles before (R298). -/
def execEdgeLatch (c : Fin 128) (rising : Bool) (line : Fin 176) (s : State) : Res :=
  let kind := s.get (Reg.KDL_CEDGE_EDGE c)
  let s1 := s.moveLine rising line
  if s.flag (Reg.KDL_CST_LATCHED c) = false ∧ s.get (Reg.KDL_CEDGE_LINE c) = line ∧ s.lineMoved rising line = true ∧
      (kind = 3 ∨ (kind = 1 ∧ rising = true) ∨ (kind = 2 ∧ rising = false)) then
    .next ((s1.setKch c { s1.kch c with latched := BitVec.ofNat 64 (s1.get Reg.KDL_TIME_KTIME) - 2 }).set (Reg.KDL_CST_LATCHED c) 1)
  else .next s1

/-- A tick falls: it is pending, or lost (R297). -/
def State.kTick (s : State) (c : Nat) : State :=
  if s.flag (Reg.KDL_CST_TICK c) then s.set (Reg.KDL_CERR_TICKLOST c) 1 else s.set (Reg.KDL_CST_TICK c) 1

/-- TICK: the divider's phase carries out of bit 31, in the first of the coming engine cycles in which it does (R297). -/
def execTick (c : Fin 128) (s : State) : Res :=
  let inc := s.get (Reg.KDL_CPACE_INC c)
  if s.get (Reg.KDL_ESTAT_STATE (c.val / 32)) = 1 ∧ inc ≠ 0 then
    let ph := (s.kch c).phase
    .next ((s.setKch c { s.kch c with phase := ph + inc * cdiv (2 ^ 32 - ph) inc - 2 ^ 32 }).kTick c)
  else .next s

/-- One engine cycle of a channel's divider. -/
def State.kDivide (s : State) (c : Nat) : State :=
  let v := (s.kch c).phase + s.get (Reg.KDL_CPACE_INC c)
  let s1 := s.setKch c { s.kch c with phase := v % 2 ^ 32 }
  if 2 ^ 32 ≤ v then s1.kTick c else s1

/-- One engine cycle passes: KTIME advances, and so do the dividers of running engines (R297, R298; log entry 2). -/
def State.engineCycle (s : State) : State :=
  (s.bump Reg.KDL_TIME_KTIME 1).each 128 (fun c t => if s.get (Reg.KDL_ESTAT_STATE (c / 32)) = 1 then t.kDivide c else t)

/-! ## Starts, stops, freezes (R299-R303) -/

/-- Whether a load holds the engines: from arm on they are stopped, but for a turf partial (R261). KIND is at byte 6 of the image (R246). -/
def State.enginesHeld (s : State) : Bool := s.loader.any (fun l => decide (leNat ((l.image.drop 6).take 2) ≠ 1))

/-- A start of engine `e`: a stopped one begins, a frozen one when FREEZE clears (R302); none while a load holds the engines, or in reset. -/
def State.kStart (s : State) (e : Nat) : State :=
  if s.enginesHeld || s.inReset (256 + e) then s
  else match s.get (Reg.KDL_ESTAT_STATE e) with
  | 0 => s.kBegin e
  | 2 => s.setKeng e { s.keng e with start := true }
  | _ => s

/-- Engine `e` stops at the end of its cycle (R300). -/
def State.kStop (s : State) (e : Nat) : State :=
  let s1 := s.setKeng e { s.keng e with resume := false, start := false }
  if s1.get (Reg.KDL_ESTAT_STATE e) = 1 then s1.set (Reg.KDL_ESTAT_STATE e) 0 else s1

/-- A channel after a clean stop: the last column of the channel table, PC unchanged; its lines hold (R282, R288, R300). -/
def State.kClean (s : State) (c : Nat) : State :=
  let s1 := (((s.set (Reg.KDL_CA_VALUE c) 0).set (Reg.KDL_CB_VALUE c) 0).set (Reg.KDL_CSC_CNT c) 0).set (Reg.KDL_CTXS_VALUE c) 0
  let s2 := (((s1.set (Reg.KDL_CSC_TXN c) 0).set (Reg.KDL_CRXS_VALUE c) 0).set (Reg.KDL_CSC_RXN c) 0).set (Reg.KDL_CST_STALE c) 0
  let s3 := ((s2.set (Reg.KDL_CLAST_VALUE c) 0).set (Reg.KDL_CEDGE_SLP c) 0).set (Reg.KDL_CST_TICK c) 0
  let s4 := ((s3.set (Reg.KDL_CEDGE_EDGE c) 0).set (Reg.KDL_CEDGE_LINE c) 0).set (Reg.KDL_CST_LATCHED c) 0
  s4.setKch c { KChan.reset with ke := (s4.kch c).ke }

/-- ENGINE_STOP (R300). -/
def execEngineStop (e : Fin 4) (s : State) : Res := .next (s.kStop e)
/-- CLEAN_STOP (R300). -/
def execCleanStop (e : Fin 4) (s : State) : Res := .next ((kChannels e).foldl (fun t c => t.kClean c) (s.kStop e))
/-- ENGINE_START (R302). -/
def execEngineStart (e : Fin 4) (s : State) : Res := .next (s.kStart e)
/-- GLOBAL_START (R302). -/
def execGlobalStart (mask : BitVec 4) (s : State) : Res :=
  .next (s.each 4 (fun e t => if mask.getLsbD e then t.kStart e else t))

/-- KINDLING_FREEZE (R303). -/
def execKindlingFreeze (e : Fin 4) (on : Bool) (s : State) : Res := .next (s.kFreeze e on)

/-- ALIGN: requested while no engine runs; otherwise ignored with AERR (R299). -/
def execAlign (s : State) : Res :=
  if (List.range 4).all (fun e => decide (s.get (Reg.KDL_ESTAT_STATE e) ≠ 1)) then
    .next { s with kdl := { s.kdl with align := true } }
  else .next (s.set Reg.KDL_TCTL_AERR 1)

/-- A program change of engine `e` (R301). -/
def State.kProgramChange (s : State) (e : Nat) : State :=
  (kChannels e).foldl (fun t c =>
    let t1 := t.setKch c { t.kch c with tx := [], rx := [], latched := 0 }
    let t2 := (t1.set (Reg.KDL_CST_PC c) (t.get (Reg.KDL_CCFG_ENTRY c))).set (Reg.KDL_CEDGE_SLP c) 0
    let t3 := (t2.set (Reg.KDL_CST_STALE c) 0).set (Reg.KDL_CST_TICK c) 0
    ((t3.set (Reg.KDL_CEDGE_EDGE c) 0).set (Reg.KDL_CEDGE_LINE c) 0).set (Reg.KDL_CST_LATCHED c) 0) s

/-- A block reset of engine `e` (R303): a clean stop, the block-reset column of the channel table, its pins at 0 and input; FREEZE, its registers' other
fields that no reset keeps, and its bit of DBG_BFRZ are cleared (R6, R305, R429). -/
def State.kBlockReset (s : State) (e : Nat) : State :=
  let s0 := (s.kStop e).resetRegs 1 (fun o => inBlock (0x3C00000 + 0x40 * e) 0x40 o || inBlock (0x3C01000 + 0x800 * e) 0x800 o)
  let s1 := (s0.set ⟨Reg.DBG_BFRZ_FRZ.off, 24 + e, 24 + e⟩ 0).setKeng e KEng.reset
  (kChannels e).foldl (fun t c =>
    let t4 := ((t.kClean c).setKch c KChan.reset).set (Reg.KDL_CST_PC c) (t.get (Reg.KDL_CCFG_ENTRY c))
    (List.range 144).foldl (fun u n =>
      if u.kOwns c n then
        { u with kdl := { u.kdl with pinOut := setBit u.kdl.pinOut n false, pinDir := setBit u.kdl.pinDir n false } }
      else u) t4) s1

/-! ## Host access to the queues (R296) -/

/-- TX_ENQUEUE: a host write to KDL_CTXQ. -/
def execTxEnqueue (c : Fin 128) (word : W32) (s : State) : Res :=
  if (s.kch c).tx.length < s.txDepth c then .next (s.setKch c { s.kch c with tx := (s.kch c).tx ++ [word] })
  else .next (s.set (Reg.KDL_CERR_TXOVF c) 1)

/-- The effect of a normal read of KDL_CRXQ: its head leaves the queue, or RXUNF sets (R296, R304). -/
def State.rxTake (s : State) (c : Nat) : State :=
  match (s.kch c).rx with
  | _ :: ws => s.setKch c { s.kch c with rx := ws }
  | [] => s.set (Reg.KDL_CERR_RXUNF c) 1

/-- What KDL_CRXQ reads as: the head of the queue, or 0. -/
def State.rxHead (s : State) (c : Nat) : W32 := (s.kch c).rx.headD 0

/-- RX_DEQUEUE: a normal read of KDL_CRXQ. -/
def execRxDequeue (c : Fin 128) (s : State) : Res := .next ((s.send (.readData (leBytes 4 (s.rxHead c).toNat))).rxTake c)

end Sys2Proof.Machine
end

