-- ==== Sys2Proof/Machine/Edge.lean ====
section
/-!
DEFINITION. The edge fabric (R268-R286): read-back captures (R276), freezes (R277), clock loss (R272), event lines (R284),
configuration parity (R364), its starts, stops and block reset (R259, R261, R275), and the cycles of a running fabric.
-/
namespace Sys2Proof.Machine

/-- A bit of EDG_ERR sets, which raises the edge fabric's source (R323). -/
def State.edgeErr (s : State) (f : Field) : State := (s.set f 1).raise 0x0EA

/-- An armed capture, or one that a freeze holds back, is aborted (R276). -/
def State.abortCapture (s : State) : State :=
  if s.edge.armed.isSome || s.edge.due then
    ({ s with edge := { s.edge with armed := none, due := false } } : State).edgeErr Reg.EDG_ERR_RBABORT
  else s

/-- READBACK_ARM: a write of GO = 1 arms a capture and clears DONE; EDGES = 0 aborts it (R276, R286). -/
def execReadbackArm (clk : Fin 8) (edges : BitVec 16) (s : State) : Res :=
  let s1 := ((s.set Reg.EDG_RBCTL_CLK clk).set Reg.EDG_RBCTL_EDGES edges.toNat).set Reg.EDG_RBCTL_DONE 0
  if edges = 0 then
    .next (({ s1 with edge := { s1.edge with armed := none, due := false } } : State).edgeErr Reg.EDG_ERR_RBABORT)
  else .next { s1 with edge := { s1.edge with armed := some (clk, edges.toNat), due := false } }

/-- The word of the read-back buffer that EDG_RBADDR names, and the address after its normal read, WORD carrying into FRAME (R276, R286). -/
def State.rbWord (s : State) : List Byte := readBytes s.edge.buffer (4 * (32 * s.get Reg.EDG_RBADDR_FRAME + s.get Reg.EDG_RBADDR_WORD)) 4
def State.rbNext (s : State) : State :=
  let a := 32 * s.get Reg.EDG_RBADDR_FRAME + s.get Reg.EDG_RBADDR_WORD + 1
  (s.set Reg.EDG_RBADDR_WORD a).set Reg.EDG_RBADDR_FRAME (a / 32)

/-- READBACK_DATA_READ: the word that EDG_RBADDR names, which then advances (R276, R286). -/
def execReadbackDataRead (s : State) : Res := .next ((s.send (.readData s.rbWord)).rbNext)

/-- EDGE_FREEZE (R277). -/
def execEdgeFreeze (on : Bool) (s : State) : Res := .next (s.freezeEdge on)

/-- Whether a global clock comes from a pin (R272). -/
def State.pinClock (s : State) (n : Nat) : Bool :=
  let k := Config.clockSource (s.clockFrame n)
  decide (1 ≤ k) && decide (k ≤ 6)

/-- CLKLOSS: a pin-sourced clock has had no edge for 1 µs; the flip-flops on it hold (R272). -/
def execClkloss (n : Fin 8) (s : State) : Res :=
  if s.edge.loaded = false ∨ s.pinClock n = false then .next s
  else .next ((({ s with edge := { s.edge with lost := setBit s.edge.lost n true } } : State).showClocks).edgeErr
    Reg.EDG_ERR_CLKLOSS)

/-- EDGE_EVENT: a 0-to-1 transition of EVi (R284). -/
def execEdgeEvent (i : Fin 32) (s : State) : Res := .next (s.evRise i)

/-- CONFIGURATION_MEMORY_PARITY: EDG_ERR.PARITY, and the fabric stops at its next block reset or apply (R364). -/
def execConfigurationMemoryParity (s : State) : Res :=
  .next (({ s with edge := { s.edge with parityBad := true } } : State).edgeErr Reg.EDG_ERR_PARITY)

/-! ## Starts and stops -/

/-- The part of the configuration memory from key `lo` on, `n` bytes. -/
def framesFrom (config : SMap Byte) (lo n : Nat) : SMap Byte :=
  (config.filter (fun e => decide (lo ≤ e.1) && decide (e.1 < lo + n))).map (fun e => (e.1 - lo, e.2))

/-- The initial values of the flip-flops: the INIT frames (R268). -/
def initFlops (config : SMap Byte) : SMap Bool :=
  (framesFrom config (128 * 0x10000000) 32768).flatMap (fun e =>
    ((List.range 8).filter e.2.getLsbD).map (fun b => (8 * e.1 + b, true)))

/-- The contents of the block memories: the BRAM frames, 36 for each (R268). -/
def initMems (config : SMap Byte) : SMap Byte := framesFrom config (128 * 0x20000000) (4608 * 512)

/-- A design at its start: flip-flops at `ffs`, no register or memory output holding anything yet, lines low. -/
def Edge.still (e : Edge) (ffs : SMap Bool) : Edge := { e with ffs := ffs, hops := [], outs := [], phase := [], pins := 0, ev := 0, ek := 0, ekWas := 0 }

/-- Every flip-flop takes its INIT bit (R275). -/
def State.edgeInit (s : State) : State := { s with edge := s.edge.still (initFlops s.edge.config) }

/-- The frames of an EDGE section stand in the configuration memory: flip-flops take their initial values and memories their contents while the
fabric is held (R257, R261). -/
def State.edgeConfigure (s : State) (config : SMap Byte) : State :=
  ({ s with edge := { s.edge with config := config, bram := initMems config } } : State).edgeInit

/-- The state of a fabric that holds a design: 5 under its block reset or 4 where domain 72 is fenced, else 3 where it is frozen, else 2 (R275, R277). -/
def State.edgeOn (s : State) : Nat :=
  if 3 ≤ s.phase 72 then (if (SMap.get none s.rst.targets 304).isSome then 5 else 4) else 2 + s.get Reg.EDG_CTL_FREEZE

/-- The edge fabric starts from its initial values, unless it is empty; where it is frozen or fenced it stands there (R259, R275, R277). -/
def State.edgeStart (s : State) : State :=
  if s.edge.loaded then ({ s with edge := { s.edge with lost := 0 } } : State).edgeInit.edgeState s.edgeOn
  else s.edgeState 0

/-- The fabric is held from arm (R261): flip-flops at 0, clocks gated, pins inert, a capture aborted. -/
def State.edgeHold (s : State) : State :=
  (({ s with edge := { s.edge.still [] with banks := [] } } : State).abortCapture).edgeState 1

/-- An empty fabric with inert pins and its flip-flops at 0 (R253, R262). -/
def State.edgeEmpty (s : State) : State :=
  ({ s with edge := { s.edge.still [] with loaded := false, config := [], parityBad := false, banks := [], bram := [] } } : State).edgeState 0

/-! ## Cycles (R269-R274; log entries 2 and 21) -/

/-- Whether the global clocks run: not gated by a hold, a freeze or a block reset. -/
def State.edgeRuns (s : State) : Bool :=
  let st := s.get Reg.EDG_STAT_STATE
  s.edge.loaded && (decide (st = 2) || (decide (st = 4) && !s.flag Reg.EDG_CTL_FREEZE))

/-- One engine cycle passes, two Hearth cycles: the Kindling engines' counters, and the edge fabric where it runs. No write to the Hearth memories
made before meets one made after (R179). -/
def State.idle (s : State) : State :=
  let t : State := { s.engineCycle with lastPort := none }
  if s.edgeRuns then t.edgeCycle.edgeCycle else { t with edge := { t.edge with ekWas := t.edge.ek } }

/-- Cycles until the armed capture has been taken, at most `n`. -/
def State.awaitCapture : Nat → State → State
  | 0, s => s
  | n + 1, s => if s.edge.armed.isSome then State.awaitCapture n s.idle else s

/-- READBACK_CAPTURE: the EDGES-th edge of the clock CLK that the capture was armed on comes, and with it the capture, in the cycles up to it; while the
clocks are gated there is none; behind a freeze the capture takes place after the clocks restart (R261, R276, R277; log entry 21). -/
def execReadbackCapture (clk : Fin 8) (s : State) : Res :=
  match s.edge.armed with
  | none => .next s
  | some (k, n) =>
    if k ≠ clk.val then .next s
    else if s.flag Reg.EDG_CTL_FREEZE then .next { s with edge := { s.edge with armed := none, due := true } }
    else if s.edgeRuns then .next (State.awaitCapture (75 * n + 75) s)
    else .next s

end Sys2Proof.Machine
end

