-- ==== Sys2Proof/Machine/Links.lean ====
section
/-!
DEFINITION. Fabric links (R336-R343, R442): port states, frames, retries, credits, the collectives on the tree (R357, R358). A frame's CRC-64 comes with the frame as good or bad;
idle frames are not recorded in `out` (log entry 26).
-/
namespace Sys2Proof.Machine

/-- FAB_PSTAT.STATE values (R340). -/
def portActive : Nat := 5
def portFailed : Nat := 6

/-- Whether a port carries traffic for the router: ACTIVE and not fenced (R343). -/
def State.portUp (s : State) (n : Nat) : Bool := s.get (Reg.FAB_PSTAT_STATE n) = portActive && decide (s.phase (80 + n) = 0)

/-- The event of port `n` (R362). -/
def State.portEvent (s : State) (n : Nat) : State := s.raise (0x1C0 + n)

/-- A bit of FAB_ERR sets (R362). -/
def State.fabErr (s : State) (f : Field) : State := (s.set f 1).raise 0x1C9

/-- A bit of FAB_PERR of port `n` sets (R362). -/
def State.portErr (s : State) (n : Nat) (f : Field) : State := (s.set f 1).portEvent n

/-- The ports that are ACTIVE. -/
def State.activePorts (s : State) : List Nat := (List.range 8).filter (fun n => decide (s.get (Reg.FAB_PSTAT_STATE n) = portActive))

/-- A link message on a port, and on every ACTIVE port (R345, R347). -/
def State.sendLink (s : State) (n : Nat) (m : LinkMsg) : State := s.send (.link n m)
def State.flood (s : State) (m : LinkMsg) : State := s.activePorts.foldl (fun t n => t.sendLink n m) s
/-- A link message passed on to every ACTIVE port but the one it came from (R347). -/
def State.passOn (s : State) (m : LinkMsg) (arrival : Option Nat) : State :=
  (s.activePorts.filter (fun n => decide (some n ≠ arrival))).foldl (fun t n => t.sendLink n m) s

/-! ## Static layout (R350, R361) -/

/-- Fields of a ROUTE section. -/
def routeDims (r : List Byte) : Nat := leNat ((r.drop 2).take 1)
def routeWrap (r : List Byte) (j : Nat) : Bool := bitAt (leNat ((r.drop 3).take 1)) j = 1
def routeSize (r : List Byte) (j : Nat) : Nat := leNat ((r.drop (8 + 2 * j)).take 2) + 1
def routeCoord (r : List Byte) (j : Nat) : Nat := leNat ((r.drop (16 + 2 * j)).take 2)
def routePort (r : List Byte) (n : Nat) : Nat := leNat ((r.drop (32 + 4 * n)).take 4)
def portUsed (r : List Byte) (n : Nat) : Bool := bitAt (routePort r n) 0 = 1
def portDim (r : List Byte) (n : Nat) : Nat := bitsOf (routePort r n) 2 1
def portNeg (r : List Byte) (n : Nat) : Bool := bitAt (routePort r n) 3 = 1
def portVmax (r : List Byte) (n : Nat) : Nat := bitsOf (routePort r n) 6 4

/-- Modules below dimension `j`: the weight of its coordinate in an ID (R350). -/
def routeWeight (r : List Byte) (j : Nat) : Nat := (List.range j).foldl (fun a l => a * routeSize r l) 1
/-- The module's own ID, and coordinate `j` of an ID. -/
def routeOwnId (r : List Byte) : Nat := (List.range 4).foldl (fun a j => a + routeCoord r j * routeWeight r j) 0
def coordOf (r : List Byte) (id j : Nat) : Nat := id / routeWeight r j % routeSize r j

/-- The used port of a dimension and direction. -/
def portOf (r : List Byte) (dim : Nat) (neg : Bool) : Option Nat :=
  (List.range 8).find? (fun n => portUsed r n && decide (portDim r n = dim) && decide (portNeg r n = neg))

/-- Whether a port is a wrap link (R350). -/
def wrapLink (r : List Byte) (n : Nat) : Bool :=
  let j := portDim r n
  portUsed r n && routeWrap r j && decide (routeCoord r j = if portNeg r n then 0 else routeSize r j - 1)

/-- The ID of the neighbour at a port; at the end of a dimension without wrap there is none (R341, R350). -/
def neighbourId (r : List Byte) (n : Nat) : Option Nat :=
  let j := portDim r n
  let size := routeSize r j
  let c := routeCoord r j
  let next := if portNeg r n then (c + size - 1) % size else (c + 1) % size
  if routeWrap r j = false ∧ c = (if portNeg r n then 0 else size - 1) then none
  else some (routeOwnId r + next * routeWeight r j - c * routeWeight r j)

/-- How a packet from coordinate `c` reaches coordinate `d` of a dimension: direction negative, hops (R350). -/
def ringWay (wrap : Bool) (size c d : Nat) : Bool × Nat :=
  let fwd := (d + size - c) % size
  if wrap then (if fwd ≤ size - fwd then (false, fwd) else (true, size - fwd))
  else (decide (d < c), if d < c then c - d else d - c)

/-! ## Sending (R337-R339) -/

/-- The virtual channel of a class and dateline bit (R339). -/
def vcOf (cls : Nat) (dl : Bool) : Nat := 2 * cls + bnat dl

/-- The flits of the queue that credits let go, at most `n`, in order within each virtual channel: sent, left, credits. -/
def takeFlits : Nat → List Nat → List TxFlit → List TxFlit × List TxFlit × List Nat
  | _, cr, [] => ([], [], cr)
  | 0, cr, q => ([], q, cr)
  | n + 1, cr, f :: q =>
    if cr.getD f.vc 0 = 0 then
      let r := takeFlits (n + 1) (cr.set f.vc 0) q
      (r.1, f :: r.2.1, r.2.2)
    else
      let r := takeFlits n (cr.set f.vc (cr.getD f.vc 0 - 1)) q
      (f :: r.1, r.2.1, r.2.2)

/-- The slot of a flit (R337). -/
def slotOf (f : TxFlit) : FrameSlot :=
  ⟨BitVec.ofNat 8 (16 * bnat f.tail + 8 * bnat f.head + 4 * (f.vc % 2) + f.vc / 2), f.flit⟩

/-- An idle slot, KIND 1 (R337). -/
def idleSlot : FrameSlot := ⟨0x20, 0⟩

/-- One frame of 15 slots sent from a port's queue, where credits and the replay buffer allow one (R338, R339). -/
def State.sendFrame (s : State) (n : Nat) : State :=
  let q := s.port n
  let r := takeFlits 15 q.credits q.queue
  if r.1.isEmpty || decide (128 ≤ q.unacked.length) || decide (s.get (Reg.FAB_PSTAT_STATE n) ≠ portActive) || decide (3 ≤ s.phase (80 + n)) then s
  else
    let f : Frame := ⟨r.1.map slotOf ++ List.replicate (15 - r.1.length) idleSlot, BitVec.ofNat 16 q.txSeq, BitVec.ofNat 16 (q.rxSeq + 65535), q.removed.map (min 31), true⟩
    (s.setPort n { q with
      txSeq := (q.txSeq + 1) % 65536, unacked := q.unacked ++ [f], credits := r.2.2, queue := r.2.1,
      removed := q.removed.map (· - 31) }).send (.frame n f)

/-- The port sends what it can; a frame holds 15 flits. -/
def State.pump (s : State) (n : Nat) : State :=
  (List.range ((s.port n).queue.length / 15 + 8)).foldl (fun t _ => t.sendFrame n) s

/-- A packet goes out on port `n`, dateline bit `dl` (R351). -/
def State.portSend (s : State) (n : Nat) (dl : Bool) (k : Packet) : State :=
  let vc := vcOf k.cls dl
  let flits := k.header :: k.data
  let tx := flits.zipIdx.map (fun e => (⟨vc, decide (e.2 = 0), decide (e.2 + 1 = flits.length), e.1⟩ : TxFlit))
  (s.setPort n { s.port n with queue := (s.port n).queue ++ tx }).pump n

/-! ## The tree (R347, R350) -/

/-- The ports to the module's children in the fabric tree (R347, R350). -/
def State.childPorts (s : State) : List Nat :=
  let r := s.fabric.route
  (List.range 8).filter (fun n =>
    decide (s.fabric.parent ≠ some n) &&
    if s.fabric.static then
      match neighbourId r n with
      | none => false
      | some m =>
        match (List.range (routeDims r)).find? (fun j => decide (coordOf r m j ≠ 0)) with
        | some j => portUsed r n && decide (j = portDim r n) &&
            decide ((ringWay (routeWrap r j) (routeSize r j) (coordOf r m j) 0).1 = !portNeg r n)
        | none => false
    else s.regs.any (fun e => decide (0x3840000 ≤ e.1) && decide (e.1 < 0x3880000) && e.2.getLsbD 31 &&
      decide (bitsOf e.2.toNat 30 28 = n)))

/-- The ports of the fabric tree. -/
def State.treePorts (s : State) : List Nat := (match s.fabric.parent with | some n => [n] | none => []) ++ s.childPorts

/-! ## Collectives (R106, R356-R358) -/

/-- Whether an operation reads its members as signed (SUMS, MAXS, MINS). -/
def collSigned (op : Nat) : Bool := decide (op = 4 ∨ op = 6 ∨ op = 8)
/-- The result width (R106, R356). -/
def collWidth (op r : Nat) : Nat := if op = 2 ∨ op = 3 ∨ op = 4 then r + 18 else r

/-- A member value as an integer, and a value of a partial as one. -/
def collInt (op w v : Nat) : Int := if collSigned op then signedOf v w else (v % 2 ^ w : Nat)

/-- Two values combined (R106, R356). -/
def collCombine (op : Nat) (a b : Int) : Int :=
  match op with
  | 0 => ((a.toNat ||| b.toNat : Nat) : Int)
  | 1 => ((a.toNat &&& b.toNat : Nat) : Int)
  | 2 | 3 | 4 => a + b
  | 5 | 6 => max a b
  | _ => min a b

/-- The context of an identifier. -/
def State.collCtx (s : State) (cid : W32) : Option CollCtx := s.fabric.coll.find? (fun c => decide (c.cid = cid))

/-- A context replaced, or added. -/
def State.putColl (s : State) (c : CollCtx) : State :=
  { s with fabric := { s.fabric with coll := s.fabric.coll.filter (fun x => decide (x.cid ≠ c.cid)) ++ [c] } }

/-- The Stream packets in which a partial, a result or a failure travels: the value at its result width in flits of 256 bits, at most 255 to a packet,
none with a failure; what else their headers hold the manual does not say (R357; log entry 26). -/
def collPackets (own : Nat) (up : Bool) (p : Partial) (code : Nat) : List Packet :=
  let n := if code = 0 then cdiv (collWidth p.op p.width) 256 else 0
  (List.range (max 1 (cdiv n 255))).map (fun i =>
    let m := min 255 (n - 255 * i)
    let h := Config.collHeader [bnat up, p.cid.toNat, p.op, p.width, p.nmem, p.count, code, i]
    ⟨putBits (putBits (putBits h 255 252 10) 239 232 m) 199 184 own,
     (List.range m).map (fun j => BitVec.ofNat 256 (p.value / 2 ^ (256 * (255 * i + j))))⟩)

/-- What a context has combined, as a partial. -/
def CollCtx.part (c : CollCtx) : Partial := ⟨c.cid, c.op, c.width, c.nmem, c.count, c.value⟩

/-- A message of a collective goes out on the ports `ns` that carry traffic (R357, R358). -/
def State.collTell (s : State) (ns : List Nat) (p : Partial) (code : Nat) : State :=
  ns.foldl (fun t n => if t.portUp n then (collPackets (t.get Reg.FAB_STAT_ID) false p code).foldl (fun u k => u.portSend n false k) t else t) s

/-- A collective's status at a member (R357): the status word, the event, and FAB_ERR.COLL where it failed. -/
def State.collStatus (s : State) (m : CollMember) (cid : W32) (code : Nat) : State :=
  let w := cid.toNat * 2 ^ 32 + code * 256 + (if code = 0 then 1 else 3)
  let s1 := match hearthAt m.part m.stat 8 with
    | some a => s.hearthWrite a (leBytes 8 w)
    | none => s
  let s2 := if code = 0 then s1 else s1.fabErr Reg.FAB_ERR_COLL
  s2.raise (0x1CA + m.part)

/-- A context leaves the engine. -/
def State.dropColl (s : State) (cid : W32) : State :=
  { s with fabric := { s.fabric with coll := s.fabric.coll.filter (fun x => decide (x.cid ≠ cid)) } }

/-- A collective fails: its local members learn the code, and over the tree every member that can be reached, away from the port the failure came
from (R358). -/
def State.collFail (s : State) (c : CollCtx) (code : Nat) (arrival : Option Nat) : State :=
  (c.members.foldl (fun t m => t.collStatus m c.cid code) (s.dropColl c.cid)).collTell (s.treePorts.filter (fun n => decide (some n ≠ arrival))) c.part code

/-- A result delivered: DST where RES asks for it, in the format of R94, then the status word (R357); passed on to the child ports. -/
def State.collDone (s : State) (c : CollCtx) (value : Nat) : State :=
  let w := collWidth c.op c.width
  let words := cdiv w 64
  let bytes := leBytes (8 * words) (encodeInt (collInt c.op w value) (64 * words))
  let one (t : State) (m : CollMember) : State :=
    let t1 := if m.res then (match hearthAt m.part m.dst (8 * words) with | some a => t.hearthWrite a bytes | none => t) else t
    t1.collStatus m c.cid 0
  (c.members.foldl one (s.dropColl c.cid)).collTell c.children { c.part with count := c.nmem, value := value } 0

/-- Whether the parent link lacks what the collective needs (R342). -/
def State.collUnsupported (s : State) (n : Nat) (c : CollCtx) : Bool :=
  let v := s.get (Reg.FAB_PSTAT_VER n)
  (decide (v < 2) && decide (c.op ≠ 0)) || (decide (v = 2) && decide (4096 < c.width))

/-- Whether a partial of the context is outstanding on port `n`: one of its headers waits there or has not been acknowledged (R357; log entry 26). -/
def State.collOutstanding (s : State) (n : Nat) (c : CollCtx) : Bool :=
  (s.port n).queue.any (fun f => f.head && c.sent.contains f.flit) ||
    (s.port n).unacked.any (fun f => f.slots.any (fun x => decide (bitsOf x.tag.toNat 7 5 = 0) && x.tag.getLsbD 3 && c.sent.contains x.flit))

/-- What a context does with what it has combined (R357, R358): the root completes it at NMEM members; any other module sends what has arrived as one
partial to its parent, unless one is outstanding. -/
def State.collAdvance (s : State) (c : CollCtx) : State :=
  if c.nmem < c.count then s.collFail c 0x02 none
  else match s.fabric.parent with
    | none => if c.count = c.nmem then s.collDone c c.value else s.putColl c
    | some n =>
      if !s.portUp n then s.collFail c 0x06 none
      else if s.collUnsupported n c then s.collFail c 0x05 none
      else if c.count = 0 ∨ s.collOutstanding n c = true then s.putColl c
      else
        let ks := collPackets (s.get Reg.FAB_STAT_ID) true c.part 0
        ks.foldl (fun t k => t.portSend n false k) (s.putColl { c with count := 0, value := 0, sent := ks.map (·.header) })

/-- Whether the engine works: enabled and not frozen (R356, R429). -/
def State.collRuns (s : State) : Bool := s.flag Reg.FAB_CTL_CEN && decide (bitAt (s.get Reg.DBG_BFRZ_FRZ) 29 = 0)

/-- What contexts have combined since goes up, now that what was outstanding may have been acknowledged (R357). -/
def State.collResume (s : State) : State :=
  if s.collRuns && s.fabric.parent.isSome then
    (s.fabric.coll.filter (fun c => decide (0 < c.count))).foldl (fun t c => match t.collCtx c.cid with | some x => t.collAdvance x | none => t) s
  else s

/-- Contexts whose tree link goes down fail with LINK (R358). -/
def State.collLinkDown (s : State) (n : Nat) : State :=
  (s.fabric.coll.filter (fun c => c.children.contains n || decide (s.fabric.parent = some n))).foldl (fun t c => t.collFail c 0x06 (some n)) s

/-! ## Link down (R343) -/

/-- The link of an ACTIVE port goes down: frames not acknowledged and what waits are lost, packets in part received discarded and counted,
tree routes through it invalid until the next epoch (R343, R349; log entry 26). -/
def State.linkDown (s : State) (n reason : Nat) : State :=
  if s.get (Reg.FAB_PSTAT_STATE n) ≠ portActive then s
  else
    let q := s.port n
    let lost := (q.rx.filter (fun e => !e.2.isEmpty)).length + (q.queue.filter (·.head)).length
    let s1 := (s.setPort n { Port.reset with cable := q.cable }).count Reg.FAB_DROPS_COUNT lost
    let s2 := (s1.set (Reg.FAB_PSTAT_STATE n) portFailed).set (Reg.FAB_PSTAT_REASON n) reason
    let drop (e : Nat × W64) : Nat × W64 :=
      if 0x3840000 ≤ e.1 ∧ e.1 < 0x3880000 ∧ bitsOf e.2.toNat 30 28 = n then (e.1, e.2 &&& 0x7FFFFFFF) else e
    let s3 : State := if s2.fabric.static then s2 else { s2 with regs := (s2.regs.map drop).filter (fun e => decide (e.2 ≠ resetValue e.1)) }
    (s3.collLinkDown n).portErr n (Reg.FAB_PERR_DOWN n)

/-- A port that is not enabled is DISABLED, its link taken down first (R340). -/
def State.disablePort (s : State) (n : Nat) : State :=
  if s.get (Reg.FAB_PSTAT_STATE n) = 0 then s else (s.linkDown n (s.get (Reg.FAB_PSTAT_REASON n))).set (Reg.FAB_PSTAT_STATE n) 0

/-- Whether a port is enabled (R340). -/
def State.portOn (s : State) (n : Nat) : Bool := s.flag Reg.FAB_CTL_EN && s.flag (Reg.FAB_PCTL_EN n)

/-! ## Training (R340-R342) -/

/-- A training failure: FAILED with a reason, FAB_PERR.TRAIN (R341). -/
def State.trainFail (s : State) (n reason : Nat) : State :=
  ((s.set (Reg.FAB_PSTAT_STATE n) portFailed).set (Reg.FAB_PSTAT_REASON n) reason).portErr n (Reg.FAB_PERR_TRAIN n)

/-- PORT_ENABLE (R340). -/
def execPortEnable (n : Fin 8) (s : State) : Res :=
  if s.get (Reg.FAB_PSTAT_STATE n) = 0 ∧ s.portOn n = true ∧ s.inReset (264 + n) = false then .next (s.set (Reg.FAB_PSTAT_STATE n) 1) else .next s

/-- PARTNER_DETECTED: with no cable the port goes no further than DETECT (R340, R442). -/
def execPartnerDetected (n : Fin 8) (s : State) : Res :=
  if s.get (Reg.FAB_PSTAT_STATE n) = 1 ∧ (s.port n).cable = true then .next (s.set (Reg.FAB_PSTAT_STATE n) 2) else .next s

/-- EQUALISATION_DONE: rate and lanes are chosen (R336, R340). -/
def execEqualisationDone (n : Fin 8) (rate112 : Bool) (lanes : Fin 3) (s : State) : Res :=
  if s.get (Reg.FAB_PSTAT_STATE n) = 2 then
    .next (((s.set (Reg.FAB_PSTAT_STATE n) 3).set (Reg.FAB_PSTAT_RATE n) (bnat rate112)).set (Reg.FAB_PSTAT_LANES n) lanes)
  else .next s

/-- The CAP message of port `n` (R341). -/
def State.ownCap (s : State) (n : Nat) : CapMsg :=
  let r := s.fabric.route
  ⟨1, s.get (Reg.FAB_PCTL_VMAX n), BitVec.ofNat 64 (s.get Reg.FAB_SERIAL_SERIAL), s.fabric.static, s.get Reg.FAB_STAT_ID, s.flag Reg.FAB_STAT_IDV, n,
    if s.fabric.static then portDim r n else 0, s.fabric.static && portNeg r n⟩

/-- FRAME_LOCK: CAP messages are exchanged (R340). -/
def execFrameLock (n : Fin 8) (s : State) : Res :=
  if s.get (Reg.FAB_PSTAT_STATE n) = 3 then .next ((s.set (Reg.FAB_PSTAT_STATE n) 4).sendLink n (.cap (s.ownCap n))) else .next s

/-- The reason for which a CAP message fails, 0 for none (R341). -/
def State.capReason (s : State) (n : Nat) (m : CapMsg) : Nat :=
  let r := s.fabric.route
  let v := min (s.get (Reg.FAB_PCTL_VMAX n)) m.vmax
  if v < max 1 m.vmin then 2
  else if m.serial.toNat = s.get Reg.FAB_SERIAL_SERIAL then 3
  else if m.static ≠ s.fabric.static then 4
  else if s.fabric.static = false then 0
  else if m.idValid = false ∨ neighbourId r n ≠ some m.id ∨ m.dim ≠ portDim r n ∨ m.dir = portNeg r n then 5
  else if wrapLink r n = true ∧ v = 1 then 6
  else 0

/-- The election key that stands lowest: false before true (an appointed candidate first), then the serial number (R345). -/
def State.ownKey (s : State) : Bool × Nat := (!s.flag Reg.FAB_CTL_APPOINT, s.get Reg.FAB_SERIAL_SERIAL)
def keyLess (a b : Bool × Nat) : Bool := (!a.1 && b.1) || (decide (a.1 = b.1) && decide (a.2 < b.2))
/-- The smallest key seen. -/
def State.bestKey (s : State) : Bool × Nat :=
  if s.fabric.keySeen then (!s.fabric.keyAppointed, s.fabric.keySerial.toNat) else s.ownKey

/-- The message that floods a key. -/
def keyMsg (k : Bool × Nat) : LinkMsg := .key (!k.1) (BitVec.ofNat 64 k.2)

/-- CAP: the checks of R341; an ACTIVE port starts with full credits, and in discovered mode learns the smallest key seen (R339, R345). -/
def execCap (n : Fin 8) (msg : CapMsg) (s : State) : Res :=
  if s.get (Reg.FAB_PSTAT_STATE n) ≠ 4 then .next s
  else
    let why := s.capReason n msg
    if why ≠ 0 then .next (s.trainFail n why)
    else
      let v := min (s.get (Reg.FAB_PCTL_VMAX n)) msg.vmax
      let s1 := (s.setPort n { Port.reset with cable := (s.port n).cable }).set (Reg.FAB_PSTAT_STATE n) portActive
      let s2 := ((s1.set (Reg.FAB_PSTAT_VER n) v).set (Reg.FAB_PPEER_SERIAL n) msg.serial.toNat).set (Reg.FAB_PPID_ID n) msg.id
      let s3 := (s2.set (Reg.FAB_PPID_VALID n) (bnat msg.idValid)).set (Reg.FAB_PPID_PORT n) msg.port
      let s4 := if v < 3 then s3.set (Reg.FAB_PSTAT_RATE n) 0 else s3
      let s5 := s4.portEvent n
      .next (if s.fabric.static then s5 else s5.sendLink n (keyMsg s.bestKey))

/-- TRAINING_TIMEOUT (R340). -/
def execTrainingTimeout (n : Fin 8) (s : State) : Res :=
  let st := s.get (Reg.FAB_PSTAT_STATE n)
  if 1 ≤ st ∧ st ≤ 4 then .next (s.trainFail n 1) else .next s

/-- FAILED_RETRY (R340). -/
def execFailedRetry (n : Fin 8) (s : State) : Res :=
  if s.get (Reg.FAB_PSTAT_STATE n) = portFailed then .next (s.set (Reg.FAB_PSTAT_STATE n) (bnat (s.portOn n))) else .next s

/-- LINK_DOWN: a lane has lost lock for 1 µs (R343). -/
def execLinkDown (n : Fin 8) (s : State) : Res := .next (s.linkDown n 8)

/-- CABLE_PRESENT_CHANGE: handled as a link change; without a cable a training port goes back to DETECT (R442). -/
def execCablePresentChange (n : Fin 8) (present : Bool) (s : State) : Res :=
  let s1 := s.linkDown n 8
  let s2 := s1.setPort n { s1.port n with cable := present }
  let st := s2.get (Reg.FAB_PSTAT_STATE n)
  .next (if 2 ≤ st ∧ st ≤ 4 then s2.set (Reg.FAB_PSTAT_STATE n) 1 else s2)

/-! ## Receiving (R337-R339) -/

/-- Flits of one virtual channel joined to what has arrived: a TAIL completes a packet, which goes to the router (R351). Each flit counts as removed
from the buffer as it arrives, so that a packet may be longer than the buffer (R339; log entry 26). -/
def State.takeSlot (s : State) (n : Nat) (x : FrameSlot) : State :=
  let t := x.tag.toNat
  if bitsOf t 7 5 ≠ 0 then s
  else
    let vc := vcOf (bitsOf t 1 0) (bitAt t 2 = 1)
    let q := s.port n
    let got := if bitAt t 3 = 1 then [x.flit] else SMap.get [] q.rx vc ++ [x.flit]
    let s1 := s.setPort n { q with
      rx := SMap.put [] q.rx vc (if bitAt t 4 = 1 then [] else got), removed := q.removed.set vc (q.removed.getD vc 0 + 1) }
    if bitAt t 4 = 1 then
      { s1 with fabric := { s1.fabric with
          arrivals := s1.fabric.arrivals ++ [⟨some n, bitAt t 2 = 1, ⟨got.headD 0, got.tail⟩⟩] } }
    else s1

/-- The frames that an ACK acknowledges leave the replay buffer (R338). -/
def ackFrames (ack : BitVec 16) (l : List Frame) : List Frame :=
  if l.any (fun f => decide (f.seq = ack)) then (l.dropWhile (fun f => decide (f.seq ≠ ack))).tail else l

/-- A frame is discarded; RETRY names the SEQ expected, once for each run of discarded frames and again for each bad CRC (R338). -/
def State.discardFrame (s : State) (n : Nat) (bad : Bool) : State :=
  let q := s.port n
  let s1 := s.setPort n { q with discarding := true }
  let s2 := if bad then s1.count (Reg.FAB_PCRC_COUNT n) 1 else s1
  if bad || !q.discarding then s2.sendLink n (.retry q.rxSeq) else s2

/-- Whether the queues of all ports hold no packet (R347). -/
def State.queuesEmpty (s : State) : Bool := (List.range 8).all (fun n => (s.port n).queue.isEmpty)

/-- The switch to the inactive route bank (R347): routes, tree, FAB_EPOCH; held packets go on; open collectives fail with LINK
(R358). -/
def State.switchEpoch (s : State) (value : Nat) : State :=
  let s1 := s.fabric.coll.foldl (fun t c => t.collFail c 0x06 none) s
  let keep := s1.regs.filter (fun e => !(decide (0x3840000 ≤ e.1) && decide (e.1 < 0x3880000)))
  let s2 : State := { s1 with regs := keep }
  let s3 := s1.fabric.bank.foldl (fun (t : State) (e : Nat × W32) => t.set (Reg.FAB_ROUTE_ENTRY e.1) e.2.toNat) s2
  let f := s3.fabric
  let s4 : State := { s3 with fabric := { f with
    parent := f.bankParent, bank := [], bankEpoch := none, bankParent := none, mapped := [], draining := none, ready := [],
    inbound := f.inbound ++ f.held, held := [] } }
  (s4.set Reg.FAB_EPOCH_EPOCH value).raise 0x1C8

/-- An epoch whose queues have drained takes effect (R347). -/
def State.tryEpoch (s : State) : State :=
  match s.fabric.draining with
  | some v => if s.queuesEmpty then s.switchEpoch v else s
  | none => s

/-- FRAME_RECEIVE: CRC, SEQ, ACK, credits, flits (R337-R339). -/
def execFrameReceive (n : Fin 8) (frame : Frame) (s : State) : Res :=
  if s.get (Reg.FAB_PSTAT_STATE n) ≠ portActive then .next s
  else if frame.crcGood = false ∨ frame.slots.any (fun x => decide (2 < bitsOf x.tag.toNat 7 5)) = true then .next (s.discardFrame n true)
  else if frame.seq.toNat ≠ (s.port n).rxSeq then .next (s.discardFrame n false)
  else
    let q := s.port n
    let credits := q.credits.zipIdx.map (fun c => min 96 (c.1 + frame.credit.getD c.2 0))
    let s1 := s.setPort n { q with
      rxSeq := (q.rxSeq + 1) % 65536, discarding := false, unacked := ackFrames frame.ack q.unacked, credits := credits }
    let s2 := frame.slots.foldl (fun t x => t.takeSlot n x) s1
    .next ((s2.pump n).collResume.tryEpoch)

/-- RETRY: the frames from the named SEQ on are sent again; eight that name the same SEQ take the link down (R338). -/
def execRetry (n : Fin 8) (seq : BitVec 16) (s : State) : Res :=
  if s.get (Reg.FAB_PSTAT_STATE n) ≠ portActive then .next s
  else
    let q := s.port n
    let times := if q.retrySeq = seq.toNat then q.retries + 1 else 1
    let s1 := (s.setPort n { q with retrySeq := seq.toNat, retries := times }).count (Reg.FAB_PRETRY_COUNT n) 1
    if 8 ≤ times then .next (s1.linkDown n 7)
    else .next ((q.unacked.dropWhile (fun f => decide (f.seq ≠ seq))).foldl (fun t f => t.send (.frame n f)) s1)

end Sys2Proof.Machine
end

