-- ==== Sys2Proof/Machine/Registers.lean ====
section
/-!
DEFINITION. Register accesses (R4-R9, R311, R334): writes under the access codes, shadow writes, reads with their RC effect, the MSI-X
table, and what a change of an RW field sets off. A field whose change is a command of its own is left to that command.
-/
namespace Sys2Proof.Machine

/-! ## What a changed field sets off -/

/-- The queues of channel `c` and of its neighbour in a merged pair are emptied (R295). -/
def State.emptyQueues (s : State) (c : Nat) (pair : Bool) : State :=
  let one (t : State) (n : Nat) : State := t.setKch n { t.kch n with tx := [], rx := [] }
  if pair then one (one s c) (c / 2 * 2 + (1 - c % 2)) else one s c

/-- What follows a change of the register at `off`, from the state `o` before it (R224, R245, R277, R295, R303, R330, R340, R408,
R411). -/
def State.afterWrite (o s : State) (off : Nat) : State :=
  if 0x3000000 ≤ off ∧ off < 0x3008000 ∧ off % 0x1000 = 0 then
    let n := (off - 0x3000000) / 0x1000
    let was := o.flag (Reg.HBM_CFG_PWROFF n)
    let now := s.flag (Reg.HBM_CFG_PWROFF n)
    let s1 := if s.get (Reg.HBM_CFG_RATE n) = 3 then s.set (Reg.HBM_CFG_RATE n) 0 else s
    if was && !now && decide (s.get (Reg.HBM_STAT_STATE n) = 0) then s1.set (Reg.HBM_STAT_STATE n) 1
    else if !was && now && decide (s.phase (64 + n) = 4) then (s1.loseStack n).set (Reg.HBM_STAT_STATE n) 0 else s1
  else if 0x3C01000 ≤ off ∧ off < 0x3C03000 ∧ off % 0x40 = 0 then
    let c := (off - 0x3C01000) / 0x40
    let q (t : State) (n : Nat) : Nat := t.get (Reg.KDL_CCFG_QST n)
    if q o c = q s c ∧ o.get (Reg.KDL_CCFG_QDIR c) = s.get (Reg.KDL_CCFG_QDIR c) then s
    else s.emptyQueues c (decide (q o c = 4) || decide (q s c = 4) || s.kMerged c)
  else if 0x3C00000 ≤ off ∧ off < 0x3C00100 ∧ off % 0x40 = 0 then
    let e := (off - 0x3C00000) / 0x40
    if o.flag (Reg.KDL_ECTL_FREEZE e) = s.flag (Reg.KDL_ECTL_FREEZE e) then s else s.kFreeze e (s.flag (Reg.KDL_ECTL_FREEZE e))
  else if off = Reg.EDG_CTL_FREEZE.off then
    if o.flag Reg.EDG_CTL_FREEZE = s.flag Reg.EDG_CTL_FREEZE then s else s.freezeEdge (s.flag Reg.EDG_CTL_FREEZE)
  else if off = Reg.FAB_CTL_EN.off then
    if s.flag Reg.FAB_CTL_EN = false then s.each 8 (fun n t => t.disablePort n)
    else if o.flag Reg.FAB_CTL_APPOINT ≠ s.flag Reg.FAB_CTL_APPOINT ∧ s.fabric.static = false ∧ keyLess s.ownKey o.bestKey = true then
      ({ s with fabric := { s.fabric with keySeen := false } } : State).flood (keyMsg s.ownKey)
    else s
  else if off = Reg.PWR_TWARN_LIMIT.off then
    s.set Reg.PWR_STAT_TWARN (bnat ((List.range 5).any (fun d => decide (s.get Reg.PWR_TWARN_LIMIT ≤ SMap.get 0 s.rst.temps d))))
  else if off = Reg.PWR_TURFOFF_OFF.off then s.each 64 (fun t u => u.switchOff t)
  else if 0x202100 ≤ off ∧ off < 0x202110 then
    let q := (off - 0x202100) / 4
    if s.flag (Reg.EVT_SMIR_EN q) then s.setSeq q { s.seq q with mirrorDirty := true } else s.mirrored q
  else s

/-! ## Writes (R4, R5, R7, R311) -/

/-- The bits of a 64-bit register that a write of `v` under `mask` leaves in one field (R7). -/
def fieldWrite (f : FieldRow) (old mask v : W64) : W64 :=
  let m := mask &&& fieldMask f.hi f.lo
  if f.cmt then old
  else match f.own, f.acc with
    | .row, _ => old
    | .rise, .rw => old &&& (v ||| ~~~m)
    | _, .rw => (old &&& ~~~m) ||| (v &&& m)
    | _, .w1c => old &&& ~~~(v &&& m)
    | _, .w1s => old ||| (v &&& m)
    | _, _ => old

/-- Whether source `i` is listed (R323, R334, R362, R410). -/
def listedSource (i : Nat) : Bool :=
  decide (i ≤ 0x097) || (decide (0x0A0 ≤ i) && decide (i ≤ 0x0C7)) ||
  (decide (0x0D0 ≤ i) && decide (i ≤ 0x0EA)) || (decide (0x100 ≤ i) && decide (i ≤ 0x1A3)) || (decide (0x1C0 ≤ i) && decide (i ≤ 0x1CD)) ||
  (decide (0x1D0 ≤ i) && decide (i ≤ 0x1D7)) || (decide (0x1E0 ≤ i) && decide (i ≤ 0x1E7)) || (decide (0x200 ≤ i) && decide (i ≤ 0x2FF))

/-- Whether a host write to a register is ignored whole: an unlisted event source (R334), a Kindling channel's configuration while its
engine runs, which sets CFGW (R301). -/
def barredSource (off : Nat) : Bool := decide (0x200000 ≤ off) && decide (off < 0x201000) && !listedSource ((off - 0x200000) / 4)
def State.barredChannel (s : State) (off : Nat) : Bool :=
  decide (0x3C01000 ≤ off) && decide (off < 0x3C03000) && decide (off % 0x40 < 0x10) &&
    decide (s.get (Reg.KDL_ESTAT_STATE ((off - 0x3C01000) / 0x800)) = 1)

/-- The bits of a register that lie in CMT fields. -/
def RegRow.cmtMask (r : RegRow) : W64 := r.fields.foldl (fun a f => if f.cmt then a ||| fieldMask f.hi f.lo else a) 0

/-- A write of `v` under `mask` to a register's CMT fields is held for the next commit; while the loader is not Idle it is ignored, with IGNW.
Where only some of the fields are written, the others go on holding what they held, or the value in effect (R9, R260). -/
def State.holdShadow (s : State) (off : Nat) (r : RegRow) (mask v : W64) : State :=
  let m := mask &&& r.cmtMask
  if m = 0 then s
  else if s.get Reg.HST_SIFSTAT_STATE ≠ 0 then s.set Reg.HST_SIFSTAT_IGNW 1
  else
    let old := SMap.get (s.reg off) s.shadow off
    { s with shadow := SMap.insert s.shadow off ((old &&& r.cmtMask &&& ~~~m) ||| (v &&& m)) }

/-- A write of `v` to the bits `mask` of the register at `off` (R7, R9). -/
def State.regWrite (s : State) (off : Nat) (r : RegRow) (mask v : W64) : State :=
  if barredSource off then s
  else if s.barredChannel off then s.set (Reg.KDL_EERR_CFGW ((off - 0x3C01000) / 0x800)) 1
  else
    let s1 := s.setReg off (r.fields.foldl (fun a f => fieldWrite f a mask v) (s.reg off))
    (State.afterWrite s s1 off).holdShadow off r mask v

/-- The MSI-X table in BAR0: the word of a byte offset (R313, R333). -/
def msixWord (off : Nat) : Option Nat := if 0x208000 ≤ off ∧ off < 0x209000 then some ((off - 0x208000) / 4) else none
/-- What an unwritten word of the table reads as: its vector is masked (log entry 11). -/
def msixDefault (k : Nat) : W32 := if k % 4 = 3 then 1 else 0

/-- A write of a word of the MSI-X table; a clear of the mask bit is a command of its own. -/
def State.msixWrite (s : State) (k v : Nat) : State :=
  let new : W32 := if k % 4 = 3 then BitVec.ofNat 32 v ||| (SMap.get (msixDefault k) s.ep.msix k &&& 1) else BitVec.ofNat 32 v
  { s with ep := { s.ep with msix := SMap.put (msixDefault k) s.ep.msix k new } }

/-- Whether the endpoint serves a word of BAR0: without Hearth firmware the HST, RST, PWR, SEC and NVM blocks only (R404), and while a reset of the
module is asserted those of the reset controller only (R390). A word not served is taken as one that is not listed (log entry 29). -/
def State.serves (s : State) (off : Nat) : Bool :=
  (!s.moduleReset || (decide (0x100000 ≤ off) && decide (off < 0x200000))) && (
  !s.flag Reg.RST_BOOT_FWFAIL || decide (off < 0x200000) || (decide (0x300000 ≤ off) && decide (off < 0x400000)))

/-- A 32-bit word of BAR0 written (R4, R5). -/
def State.wordWrite (s : State) (off v : Nat) : State :=
  if s.serves off = false then s
  else match msixWord off with
  | some k => s.msixWrite k v
  | none => match findWord off with
    | some (r, _, _, start, high) =>
      if high then s.regWrite start r (fieldMask 63 32) (BitVec.ofNat 64 (v * 2 ^ 32)) else s.regWrite start r (fieldMask 31 0) (BitVec.ofNat 64 v)
    | none => s

/-- Bytes written to BAR0: words covered whole are written in ascending order, parts of a word are discarded with PARTW (R311). -/
def State.barWrite (s : State) (off : Nat) (data : List Byte) : State :=
  let n := data.length
  (List.range (cdiv (off % 4 + n) 4)).foldl (fun t i =>
    let a := off / 4 * 4 + 4 * i
    if off ≤ a ∧ a + 4 ≤ off + n then t.wordWrite a (leNat ((data.drop (a - off)).take 4)) else t.set Reg.HST_ERR_PARTW 1) s

/-- Whether an access is one that BAR0 accepts (R311). -/
def barAccess (off len : Nat) : Bool := decide (0 < len) && decide (off % 64 + len ≤ 64) && decide (off + len ≤ 0x4000000)

/-! ## Configuration space (R306, R307, R309, R325, R331)

The manual leaves the layout to the PCI Express specification. Offset 0x1000_0000 + 0x1000 · f + k of a register access stands for configuration space
of function f; the model's own words at k hold what the manual names (log entry 11). -/

/-- The VFs in effect: none while VF Enable is clear or under HIV 2, at most four (R309, R317). -/
def State.vfs (s : State) : Nat := if s.ep.vfEnable && !s.hiv2 then min s.ep.numVfs 4 else 0

/-- The function that owns partition `p` (R309). -/
def State.ownerOf (s : State) (p : Nat) : Nat := if p < s.vfs then p + 1 else 0

/-- HST_OWN shows the owners (R309). -/
def State.showOwners (s : State) : State :=
  s.each 4 (fun p t => t.set ⟨Reg.HST_OWN_FN.off, 3 * p + 2, 3 * p⟩ (s.ownerOf p))

/-- The messages held for function `fn` are sent, but for masked vectors and while the function is in D3hot (R325). -/
def State.sendHeld (s : State) (fn : Nat) : State :=
  let go (m : Nat × Nat) : Bool := decide (m.1 = fn) && !s.ep.masked m.1 m.2 && !s.ep.d3hot.getLsbD m.1
  (s.ep.pba.filter go).foldl (fun t m => t.send (.msix m.1 m.2)) { s with ep := { s.ep with pba := s.ep.pba.filter (fun m => !go m) } }

/-- A write of configuration space: 0x100 the device state, 0 D0 and 3 D3hot; 0x104 the MSI-X function mask, bit 0; in the PF 0x108 VF Enable, bit 0, and
NumVFs from bit 16 on, which stands still while VFs are enabled; 0x10C PTM Enable, bit 0; 0x110 the size of BAR2 as a power of two (R306, R309, R312,
R325, R331; log entry 11). -/
def State.configWrite (s : State) (fn k v : Nat) : State :=
  if s.vfs < fn then s
  else match k with
    | 0x100 => ({ s with ep := { s.ep with d3hot := if v % 4 = 3 then setBit s.ep.d3hot fn true else if v % 4 = 0 then setBit s.ep.d3hot fn false else s.ep.d3hot } } :
        State).sendHeld fn
    | 0x104 => ({ s with ep := { s.ep with fnMask := setBit s.ep.fnMask fn (decide (v % 2 = 1)) } } : State).sendHeld fn
    | 0x108 =>
      if fn ≠ 0 then s
      else ({ s with ep := { s.ep with vfEnable := decide (v % 2 = 1), numVfs := if s.ep.vfEnable then s.ep.numVfs else v / 2 ^ 16 % 2 ^ 16 } } : State).showOwners
    | 0x10C =>
      if fn ≠ 0 then s
      else
        let on := decide (v % 2 = 1)
        ({ s with ep := { s.ep with ptmEnable := on, dialog := s.ep.dialog && on } } : State).set Reg.HST_PTMCTL_NOPTM (bnat (!on))
    | 0x110 => if fn = 0 ∧ 27 ≤ v ∧ v ≤ 38 then { s with ep := { s.ep with bar2 := v } } else s
    | _ => s

/-- A word of configuration space (R307). -/
def State.configWord (s : State) (fn k : Nat) : Nat :=
  match k with
  | 0x00 => Config.vendorId % 2 ^ 16 + (if fn = 0 then 0x5A40 else 0x5A41) * 2 ^ 16
  | 0x08 => s.get Reg.HST_ID_REV + 0x120000 * 2 ^ 8
  | 0x2C => Config.subsystemIds % 2 ^ 32
  | 0x100 => if s.ep.d3hot.getLsbD fn then 3 else 0
  | 0x104 => bnat (s.ep.fnMask.getLsbD fn)
  | 0x108 => if fn = 0 then bnat s.ep.vfEnable + s.ep.numVfs * 2 ^ 16 else 0
  | 0x10C => if fn = 0 then bnat s.ep.ptmEnable else 0
  | 0x110 => if fn = 0 then s.ep.bar2 else 0
  | _ => 0

/-- REGISTER_WRITE (R5, R7, R311). The debug master's writes act as the host's (R428). A CRC error on the spine fails the access (R137). -/
def execRegisterWrite (_dbg : Bool) (off : Nat) (data : List Byte) (s : State) : Res :=
  if 0x10000000 ≤ off then .next (s.configWrite ((off - 0x10000000) / 0x1000) (off % 0x1000) (leNat data))
  else if barAccess off data.length = false then .next s
  else if s.spineBad then .next { s with spineBad := false }
  else .next (s.barWrite off data)

/-- SHADOW_WRITE: a write of all CMT fields of a register (R9, R260). -/
def execShadowWrite (off : Nat) (value : W64) (s : State) : Res :=
  match findReg off with
  | none => .next s
  | some (r, _, _) => .next (s.holdShadow off r (BitVec.allOnes 64) value)

/-! ## Reads (R7, R311) -/

/-- A word of the PBA (R325). -/
def State.pbaWord (s : State) (j : Nat) : Nat := natOfBits 32 (fun b => s.ep.pba.contains (0, 32 * j + b))

/-- What a 32-bit word of BAR0 reads as. -/
def State.wordRead (s : State) (off : Nat) : Nat :=
  if s.serves off = false then 0
  else match msixWord off with
  | some k => (SMap.get (msixDefault k) s.ep.msix k).toNat
  | none =>
    if 0x209000 ≤ off ∧ off < 0x209020 then s.pbaWord ((off - 0x209000) / 4)
    else match findWord off with
      | some (_, _, _, start, high) => (s.reg start).toNat / (if high then 2 ^ 32 else 1) % 2 ^ 32
      | none => 0

/-- A byte of the store as it reads; the identity area's layout is not given (R419, log entry 30). -/
def State.nvmByte (s : State) (a : Nat) : Byte :=
  if 0x2000 ≤ a ∧ a < 0x10000 then BitVec.ofNat 8 (Config.freeFunction 9 [a]) else SMap.get 0 s.nvm a

/-- The word of the store that NVM_RDADDR names, and the address after its normal read (R435). -/
def State.rdWord (s : State) : List Byte := (List.range 4).map (fun i => s.nvmByte (s.get Reg.NVM_RDADDR_ADDR / 4 * 4 + i))
def State.rdNext (s : State) : State := s.set Reg.NVM_RDADDR_ADDR (s.get Reg.NVM_RDADDR_ADDR / 4 * 4 + 4)

/-- RST_RECLOG and RST_RECLVL show the queue. -/
def State.showRecLog (s : State) : State :=
  (s.setReg Reg.RST_RECLOG_ENTRY.off (s.recLog.headD 0)).set Reg.RST_RECLVL_LEVEL s.recLog.length

/-- The oldest record leaves the queue (R387). -/
def State.recNext (s : State) : State := ({ s with recLog := s.recLog.tail } : State).showRecLog

/-- The Kindling channel whose KDL_CRXQ stands at an offset. -/
def crxqAt (off : Nat) : Option Nat :=
  if 0x3C01000 ≤ off ∧ off < 0x3C03000 ∧ off % 0x40 = 0x2C then some ((off - 0x3C01000) / 0x40) else none

/-- A word of BAR0 as a peek reads it: registers whose read has an effect of its own show their next word (R428). -/
def State.peekWord (s : State) (off : Nat) : Nat :=
  if s.serves off = false then 0
  else match crxqAt off with
  | some c => (s.rxHead c).toNat
  | none =>
    if off = Reg.EDG_RBDATA_DATA.off then leNat s.rbWord
    else if off = Reg.NVM_RDDATA_DATA.off then leNat s.rdWord
    else s.wordRead off

/-- `n` bytes of words from `a` on. -/
def wordBytes (f : Nat → Nat) (a n : Nat) : List Byte :=
  (List.range n).map (fun i => BitVec.ofNat 8 (f ((a + i) / 4 * 4) / 2 ^ (8 * ((a + i) % 4))))

/-- Bytes of BAR0 as they read, without effect. -/
def State.barPeek (s : State) (off len : Nat) : List Byte := wordBytes s.peekWord off len

/-- The registers an access touches, each once. -/
def touched (off len : Nat) : List (RegRow × Nat) :=
  ((List.range (cdiv (off % 4 + len) 4)).filterMap (fun i =>
    (findWord (off / 4 * 4 + 4 * i)).map (fun w => (w.1, w.2.2.2.1)))).eraseDups

/-- Whether what a register reports comes from the physical device: the sensors and counters of an HBM stack (HBM_STAT, HBM_ERR, HBM_CORRCNT),
a bank's supply (EDG_BANKV) (R245, R278, R286). -/
def reportsDevice (off : Nat) : Bool :=
  (decide (0x3000000 ≤ off) && decide (off < 0x3008000) && [0x004, 0x008, 0x018].contains (off % 0x1000)) ||
  (decide (0x3D00060 ≤ off) && decide (off < 0x3D00078))

/-- Such a register is brought up to date, from a free value, when it is read (log entry 45). -/
def State.sense (s : State) (off : Nat) : State :=
  if reportsDevice off = false then s
  else if off < 0x3008000 then s.stackSense ((off - 0x3000000) / 0x1000)
  else s.useFree.set (Reg.EDG_BANKV_MV ((off - 0x3D00060) / 4)) (s.freeValue.toNat % 2 ^ 13)

/-- Every register that an access touches is brought up to date. -/
def State.senseAll (s : State) (off len : Nat) : State := (touched off len).foldl (fun t r => t.sense r.2) s

/-- The offset of the register in which the word at `a` lies, else its own. -/
def regStart (a : Nat) : Nat := match findWord a with | some w => w.2.2.2.1 | none => a

/-- The RC fields of a register return to their reset values (R7). -/
def State.readClear (s : State) (r : RegRow) (off : Nat) : State :=
  r.fields.foldl (fun t f =>
    if f.acc = .rc ∧ f.own = .none then t.set ⟨off, f.hi, f.lo⟩ f.reset else t) s

/-- The effects of a normal read of the register at `off`: a queue gives up its head, the read-back and store addresses advance, RC fields clear
(R7, R276, R296, R387, R428, R435). -/
def State.readEffect (s : State) (r : RegRow) (off : Nat) : State :=
  if s.serves off = false then s
  else match crxqAt off with
  | some c => s.rxTake c
  | none =>
    if off = Reg.EDG_RBDATA_DATA.off then s.rbNext
    else if off = Reg.NVM_RDDATA_DATA.off then s.rdNext
    else if off = Reg.RST_RECLOG_ENTRY.off then s.recNext
    else s.readClear r off

/-- The part of an access in the register at `start` read: brought up to date, its bytes, then the register's whole read effect, once (R311). -/
def State.readPart (off len : Nat) (r : State × List Byte) (start : Nat) : State × List Byte :=
  let t := if (findWord start).isSome then r.1.sense start else r.1
  let bs := ((List.range len).filter (fun i => decide (regStart ((off + i) / 4 * 4) = start))).flatMap (fun i => t.barPeek (off + i) 1)
  (match findWord start with | some w => t.readEffect w.1 start | none => t, r.2 ++ bs)

/-- A normal read of BAR0, register by register in ascending order (R311). -/
def State.barRead (s : State) (off len : Nat) : State :=
  let starts := ((List.range (cdiv (off % 4 + len) 4)).map (fun i => regStart (off / 4 * 4 + 4 * i))).eraseDups
  let r := starts.foldl (State.readPart off len) (s, [])
  r.1.send (.readData r.2)

/-- READ_CLEAR: a normal read of 1 to 64 bytes returns them; every register it touches has its whole read effect once (R7, R311). One that a CRC error
on the spine fails reads nothing and clears nothing; that it is answered with Completer Abort is the model's (R137; log entry 43). -/
def execReadClear (off len : Nat) (s : State) : Res :=
  if 0x10000000 ≤ off then .next (s.send (.readData (wordBytes (fun a => s.configWord ((a - 0x10000000) / 0x1000) (a % 0x1000)) off len)))
  else if barAccess off len = false then .next s
  else if s.spineBad then .next (({ s with spineBad := false } : State).send .completerAbort)
  else .next (s.barRead off len)

/-! ## OPTION records of an image (R252) -/

/-- Whether an offset lies in a block that an image of this kind may override (R252). -/
def optionBlock (kind target off : Nat) : Bool :=
  if kind = 1 then decide (0x2000000 + 0x4000 * target ≤ off) && decide (off < 0x2000000 + 0x4000 * (target + 1))
  else
    let edg := decide (0x3C00000 ≤ off) && decide (off < 0x3E00000)
    if kind = 2 then edg
    else edg || (decide (0x2000000 ≤ off) && decide (off < 0x2800100)) || (decide (0x2800260 ≤ off) && decide (off < 0x2840000)) ||
      (decide (0x3000000 ≤ off) && decide (off < 0x3010000)) || (decide (0x3020000 ≤ off) && decide (off < 0x3400000)) ||
      (decide (0x3800000 ≤ off) && decide (off < 0x3C00000)) || (decide (0x140000 ≤ off) && decide (off < 0x180000))

/-- The bits of a word that lie in RW fields without CMT. -/
def overridable (off : Nat) : Nat :=
  match findWord off with
  | some (r, _, _, _, high) =>
    let m := r.fields.foldl (fun a f => if f.acc = .rw ∧ f.cmt = false then a ||| fieldMask f.hi f.lo else a) (0 : W64)
    m.toNat / (if high then 2 ^ 32 else 1) % 2 ^ 32
  | none => 0

/-- One OPTION record takes effect: (old and not MASK) or (VALUE and MASK) (R252). -/
def State.optionWrite (s : State) (off mask value : Nat) : State :=
  match findWord off with
  | some (_, _, _, start, high) =>
    let k := if high then 2 ^ 32 else 1
    let m := BitVec.ofNat 64 (mask * k)
    State.afterWrite s (s.setReg start ((s.reg start &&& ~~~m) ||| (BitVec.ofNat 64 (value * k) &&& m))) start
  | none => s

end Sys2Proof.Machine
end

