-- ==== Sys2Proof/Machine/Route.lean ====
section
/-!
DEFINITION. The ROUTE section (R361), the route table of static mode (R350), and elections (R345).
-/
namespace Sys2Proof.Machine

/-! ## The table of static mode (R348, R350) -/

/-- Hops of the primary route to an ID, over all dimensions. -/
def routeHops (r : List Byte) (id : Nat) : Nat :=
  (List.range (routeDims r)).foldl (fun a j => a + (ringWay (routeWrap r j) (routeSize r j) (routeCoord r j) (coordOf r id j)).2) 0

/-- The HOPS field; the manual gives no value that does not fit (log entry 27). -/
def hopsField (n : Nat) : Nat := if n < 256 then n else Config.freeFunction 6 [n] % 256

/-- The route entry for an ID in static mode (R348, R350). -/
def staticEntry (r : List Byte) (id : Nat) : Nat :=
  if id = routeOwnId r then 2 ^ 23
  else
    match (List.range (routeDims r)).find? (fun j => decide (coordOf r id j ≠ routeCoord r j)) with
    | none => 0
    | some j =>
      let neg := (ringWay (routeWrap r j) (routeSize r j) (routeCoord r j) (coordOf r id j)).1
      let pri := match portOf r j neg with | some p => 2 ^ 31 + p * 2 ^ 28 | none => 0
      let alt := if routeWrap r j then (match portOf r j (!neg) with | some p => 2 ^ 27 + p * 2 ^ 24 | none => 0) else 0
      pri + alt + hopsField (routeHops r id)

/-- The number of modules of a static fabric. -/
def routeCount (r : List Byte) : Nat := (List.range 4).foldl (fun a j => a * routeSize r j) 1

/-- The route table cleared. -/
def State.clearRoutes (s : State) : State :=
  { s with regs := s.regs.filter (fun e => !(decide (0x3840000 ≤ e.1) && decide (e.1 < 0x3880000))) }

/-! ## Elections (R345) -/

/-- A new election: the module's own key is the smallest it knows, and it floods it. -/
def State.startElection (s : State) : State :=
  let s1 : State := { s with fabric := { s.fabric with keySeen := false, keyAppointed := false, keySerial := 0 } }
  (s1.set Reg.FAB_STAT_ROOT 0).flood (keyMsg s1.ownKey)

/-! ## The section (R361) -/

/-- ROUTE_FORMAT (R361). -/
def routeBad (r : List Byte) (sif2 : Bool) : Bool :=
  let mode := natAt r 0 1
  let idreq := natAt r 4 4
  let short := decide (1 < mode) || decide (1 < natAt r 1 1) || decide (16 ≤ natAt r 3 1) || decide (bitsOf idreq 30 16 ≠ 0) ||
    (if mode = 1 then decide (natAt r 1 1 ≠ 0) || decide (routeDims r = 0) || decide (4 < routeDims r) || decide (idreq ≠ 0)
      else decide (routeDims r ≠ 0))
  if sif2 then decide (r.length ≠ 8) || short || decide (mode ≠ 0)
  else
    let ports := List.range 8
    decide (r.length ≠ 64) || short || decide (65536 < routeCount r) ||
    (List.range 4).any (fun j => (decide (routeDims r ≤ j) && decide (routeSize r j ≠ 1)) || decide (routeSize r j ≤ routeCoord r j)) ||
    !zeroAt r 24 8 ||
    ports.any (fun n => decide (2 ^ 7 ≤ routePort r n) || decide (portVmax r n = 0) || decide (3 < portVmax r n) ||
      (decide (mode = 1) && portUsed r n && (decide (routeDims r ≤ portDim r n) ||
        decide (portOf r (portDim r n) (portNeg r n) ≠ some n))))

/-- The route table in its reset state, for a full image without the section: discovered mode, FAB_CTL.EN = 0 (R253, R344). -/
def State.resetRoute (s : State) : State :=
  let s1 : State := { s.clearRoutes with fabric := { s.fabric with static := false, parent := none, bank := [], bankEpoch := none, bankParent := none, mapped := [], draining := none, route := [] } }
  (s1.each 8 (fun n t => (t.disablePort n).set (Reg.FAB_PSTAT_WRAP n) 0)).set Reg.FAB_CTL_EN 0

/-- The ROUTE section takes effect (R361): ports, requested ID, EN; in static mode the table of R350 and the tree rooted at ID 0, in
discovered mode a cleared table and a new election. One that is identical to that in effect changes nothing. -/
def State.applyRoute (s : State) (r : List Byte) : State :=
  if r = s.fabric.route then s
  else
    let static := decide (natAt r 0 1 = 1)
    let s1 := ((s.set Reg.FAB_CTL_APPOINT (natAt r 1 1)).set Reg.FAB_IDREQ_VALID (bitAt (natAt r 4 4) 31)).set Reg.FAB_IDREQ_ID (natAt r 4 2)
    let s2 := if r.length < 64 then s1
      else s1.each 8 (fun n t => (t.set (Reg.FAB_PCTL_EN n) (bnat (portUsed r n))).set (Reg.FAB_PCTL_VMAX n) (portVmax r n))
    let s3 := s2.set Reg.FAB_CTL_EN 1
    let s4 := s3.each 8 (fun n t => (if t.portOn n then t else t.disablePort n).set (Reg.FAB_PSTAT_WRAP n) (bnat (static && wrapLink r n)))
    let f := s4.fabric
    let s5 : State := { s4.clearRoutes with fabric := { f with
      static := static, parent := none, bank := [], bankEpoch := none, bankParent := none, mapped := [], draining := none, route := r } }
    if static then
      let own := routeOwnId r
      let s6 := s5.each (routeCount r) (fun i t => t.set (Reg.FAB_ROUTE_ENTRY i) (staticEntry r i))
      let up := staticEntry r 0
      let s7 : State := { s6 with fabric := { s6.fabric with
        parent := if own ≠ 0 ∧ bitAt up 31 = 1 then some (bitsOf up 30 28) else none } }
      let changed := decide (s7.get Reg.FAB_STAT_ID ≠ own) || !s7.flag Reg.FAB_STAT_IDV
      let s8 := (((s7.set Reg.FAB_STAT_ID own).set Reg.FAB_STAT_IDV 1).set Reg.FAB_STAT_NOID 0).set Reg.FAB_STAT_ROOT (bnat (decide (own = 0)))
      let s9 := if own = 0 then s8.set Reg.FAB_ROOTSER_SERIAL (s8.get Reg.FAB_SERIAL_SERIAL) else s8
      if changed then s9.raise 0x1C8 else s9
    else s5.startElection

end Sys2Proof.Machine
end

