-- ==== Sys2Proof/Machine/Sections.lean ====
section
/-!
DEFINITION. The commit checks on EDGE, BANK and KINDLING sections (R268, R272, R279, R281, R291, R295, R304), and their contents put
into the machine (R257, R259).
-/
namespace Sys2Proof.Machine

/-! ## EDGE (R268) -/

/-- Frame records: address and payload. -/
def frameRecords (body : List Byte) : List (Nat × List Byte) :=
  (List.range (body.length / 132)).map (fun n => (natAt body (132 * n) 4, bytesAt body (132 * n + 4) 128))

/-- Frames of a type. -/
def frameCount (type : Nat) : Nat := [32768, 256, 18432, 8].getD type 0

/-- Whether a frame address is defined. -/
def frameOk (a : Nat) : Bool := decide (a % 2 ^ 28 < frameCount (a / 2 ^ 28))

/-- A pin record in a BANK section's bytes, and a bank's supply code (R281). -/
def pinOf (banks : List Byte) (n : Nat) : Nat := natAt banks (100 * (n / 24) + 4 + 4 * (n % 24)) 4
def vccoOf (banks : List Byte) (b : Nat) : Nat := natAt banks (100 * b) 4 % 8

/-- Whether the source of a clock is set up in the bank records (R272). -/
def clockOk (banks payload : List Byte) : Bool :=
  let n := Config.clockSource payload
  if n = 0 then true
  else if n ≤ 6 then
    let std := bitsOf (pinOf banks (24 * (n - 1) + 22)) 3 0
    decide (std = 1) || decide (std = 3)
  else
    let pin := 96 + 24 * ((n - 7) / 2) + 10 * ((n - 7) % 2)
    decide (n ≤ 10) && decide (bitsOf (pinOf banks pin) 3 0 = 8)

/-- EDGE_FORMAT: `banks` are the bank records as they would stand. -/
def edgeBad (body banks : List Byte) : Bool :=
  let rs := frameRecords body
  let as_ := rs.map (·.1)
  decide (body.length % 132 ≠ 0) || as_.any (fun a => !frameOk a) || decide (¬ as_.Nodup) ||
  decide ((as_.filter (fun a => decide (a / 2 ^ 28 = 0))).length ≠ 32768) ||
  decide ((as_.filter (fun a => decide (a / 2 ^ 28 = 3))).length ≠ 8) ||
  rs.any (fun r => decide (r.1 / 2 ^ 28 = 3) && !clockOk banks r.2)

/-- The configuration memory as an EDGE section leaves it; an omitted frame is zeros. -/
def edgeConfig (body : List Byte) : SMap Byte :=
  (frameRecords body).foldl (fun m r => writeBytes m (128 * r.1) r.2) []

/-! ## BANK (R279, R281) -/

/-- Whether a standard is an LVCMOS output, LVCMOS, differential, a D-PHY code. -/
def lvcmosOut (std : Nat) : Bool := decide (std = 2 ∨ std = 3)
def lvcmos (std : Nat) : Bool := decide (1 ≤ std) && decide (std ≤ 3)
def differential (std : Nat) : Bool := decide (4 ≤ std) && decide (std ≤ 9)
def dphy (std : Nat) : Bool := decide (std = 8 ∨ std = 9)

/-- BANK_FORMAT of a pin record (R281; log entry 25). -/
def pinFormatBad (banks : List Byte) (sif2 : Bool) (n : Nat) : Bool :=
  let r := pinOf banks n
  let std := bitsOf r 3 0
  decide (9 < std) || decide (2 ^ 17 ≤ r) || (decide (bitsOf r 5 4 ≠ 0) && !lvcmos std) ||
  (decide (bitsOf r 7 6 ≠ 0) && !lvcmosOut std) || (dphy std && decide (bitAt r 8 = 0)) ||
  (sif2 && decide (bitAt r 9 = 1)) ||
  (decide (n % 2 = 0) && (differential std || differential (bitsOf (pinOf banks (n + 1)) 3 0)) && decide (pinOf banks (n + 1) ≠ r))

/-- BANK_FORMAT of a section (R268, R281). -/
def bankFormatBad (banks : List Byte) (sif2 : Bool) : Bool :=
  decide (banks.length ≠ 600) || (List.range 6).any (fun b => decide (4 < natAt banks (100 * b) 4)) ||
  (List.range 144).any (pinFormatBad banks sif2)

/-- Whether a standard is permitted in bank `b` at supply code `v` (R279). -/
def stdOk (b v std drive : Nat) : Bool :=
  match std with
  | 0 => true
  | 1 => decide (v ≤ 4)
  | 2 | 3 => decide (v ≤ 4) && !(decide (v = 0) && decide (drive = 3))
  | 4 => decide (v = 2 ∨ v = 3)
  | 5 => decide (v = 3)
  | 6 | 7 => decide (v = 0)
  | _ => decide (v = 0) && decide (b = 4 ∨ b = 5)

/-- BANK_STD of a section (R268, R279). -/
def bankStdBad (banks : List Byte) (sif2 : Bool) : Bool :=
  (List.range 144).any (fun n =>
    let r := pinOf banks n
    !stdOk (n / 24) (vccoOf banks (n / 24)) (bitsOf r 3 0) (bitsOf r 7 6) || (sif2 && dphy (bitsOf r 3 0)))

/-! ## KINDLING (R291, R295, R304) -/

/-- The bits of an instruction word that its row gives fields, OP aside (R291). -/
def kindlingFields (op : Nat) : List (Nat × Nat) :=
  match op with
  | 0x01 => [(26, 15), (8, 0)]
  | 0x02 => [(26, 24), (7, 0)]
  | 0x03 => [(15, 0)]
  | 0x04 | 0x05 => [(26, 24), (7, 0)]
  | 0x06 | 0x07 => [(26, 25)]
  | 0x08 | 0x09 | 0x0A => [(26, 26), (20, 16), (7, 0)]
  | 0x0B => [(26, 24), (15, 0)]
  | 0x0C => [(26, 18)]
  | 0x0D => [(26, 25), (7, 0)]
  | 0x0E => [(26, 26)]
  | _ => []

/-- Whether a word uses a reserved operation or code (R291, R292). -/
def kindlingReserved (w : Nat) : Bool :=
  match bitsOf w 31 27 with
  | 0x01 => decide (0xC ≤ bitsOf w 26 23)
  | 0x02 => decide (bitsOf w 26 25 = 3)
  | 0x0B => decide (bitsOf w 26 24 = 5)
  | 0x0C => decide (4 < bitsOf w 26 24) || decide (5 < bitsOf w 20 18)
  | 0x0D => decide (bitsOf w 26 25 = 0)
  | op => decide (0x0F < op)

/-- Whether an instruction word is refused (R291). -/
def kindlingWordBad (w : Nat) : Bool :=
  kindlingReserved w ||
  decide (w % 2 ^ 27 ≠ (kindlingFields (bitsOf w 31 27)).foldl (fun a f => a + bitsOf w f.1 f.2 * 2 ^ f.2) 0)

/-- Register image `j` of channel record `n`. -/
def channelWord (body : List Byte) (n j : Nat) : Nat := natAt body (2048 + 16 * n + 4 * j) 4

/-- Whether channel record `n` is refused (R293, R295, R297, R304). -/
def channelBad (body : List Byte) (n : Nat) : Bool :=
  let qst (c : Nat) : Nat := bitsOf (channelWord body c 0) 26 24
  let cfg := channelWord body n 0
  let shf := channelWord body n 1
  let merged := decide (n % 2 = 1) && decide (qst (n - 1) = 4)
  decide (masked32 cfg [(31, 31), (26, 23), (8, 0)] ≠ cfg) || decide (masked32 shf [(29, 24), (21, 16), (1, 0)] ≠ shf) ||
  (if merged then decide (bitAt cfg 31 = 1) else !(decide (qst n = 1 ∨ qst n = 2) || (decide (qst n = 4) && decide (n % 2 = 0)))) ||
  decide (bitsOf shf 29 24 = 0 ∨ 32 < bitsOf shf 29 24) || decide (bitsOf shf 21 16 = 0 ∨ 32 < bitsOf shf 21 16) ||
  decide (channelWord body n 2 = 0)
where
  /-- The bits of `v` in the given fields. -/
  masked32 (v : Nat) (fs : List (Nat × Nat)) : Nat := fs.foldl (fun a f => a + bitsOf v f.1 f.2 * 2 ^ f.2) 0

/-- KDL_FORMAT of a section (R304). -/
def kindlingBad (x : Section) : Bool :=
  decide (x.body.length ≠ 2560) || decide (3 < x.unit) ||
  (List.range 512).any (fun n => kindlingWordBad (natAt x.body (4 * n) 4)) || (List.range 32).any (channelBad x.body)

/-- The program memory of an engine cleared. -/
def State.clearProgram (s : State) (e : Nat) : State :=
  { s with
    regs := s.regs.filter (fun r => !(decide ((Reg.KDL_PMEM_WORD e 0).off ≤ r.1) && decide (r.1 < (Reg.KDL_PMEM_WORD (e + 1) 0).off)))
    kdl := { s.kdl with bad := s.kdl.bad.filter (fun i => decide (i / 512 ≠ e)) } }

/-- Engine `e` is stopped for an apply, which ends a parity stop (R261, R301, R303). -/
def State.haltEngine (s : State) (e : Nat) : State :=
  let s1 := s.kStop e
  if s1.get (Reg.KDL_ESTAT_STATE e) = 3 then s1.set (Reg.KDL_ESTAT_STATE e) 0 else s1

/-- An engine's program, channel records and program change (R301, R304). -/
def State.putProgram (s : State) (e : Nat) (body : List Byte) : State :=
  let s1 := ((s.haltEngine e).clearProgram e).each 512 (fun n t => t.set (Reg.KDL_PMEM_WORD e n) (natAt body (4 * n) 4))
  let s2 := s1.each 32 (fun n t =>
    let c := 32 * e + n
    let t1 := t.setReg (Reg.KDL_CCFG_EN c).off (BitVec.ofNat 64 (channelWord body n 0))
    let t2 := t1.setReg (Reg.KDL_CSHF_TXW c).off (BitVec.ofNat 64 (channelWord body n 1))
    (t2.set (Reg.KDL_CPACE_INC c) (channelWord body n 2)).set (Reg.KDL_CPARAM_PARAM c) (channelWord body n 3))
  s2.kProgramChange e

/-- The checks on EDGE, BANK and KINDLING sections in the order of the refusal table; `old` are the bank records that stay in effect where
the image carries none (R253). -/
def sectionRefuse (i old : List Byte) : Refuse :=
  let sif2 := decide (imgVersion i = 2)
  let banks := match sectionOf i 5 with | some x => x.body | none => if imgKind i = 2 then old else []
  firstFail ([
    (match sectionOf i 4 with | some x => edgeBad x.body banks | none => false, 0x20, sectionIdx i 4),
    (match sectionOf i 5 with | some x => bankFormatBad x.body sif2 | none => false, 0x21, sectionIdx i 5),
    (match sectionOf i 5 with | some x => bankStdBad x.body sif2 | none => false, 0x22, sectionIdx i 5)] ++
    ((sections i).filter (fun x => decide (x.type = 6))).map (fun x => (kindlingBad x, 0x24, x.idx)))

end Sys2Proof.Machine
end

