-- ==== Sys2Proof/Machine/Structure.lean ====
section
/-!
DEFINITION. Turf assignment, topology and Cord tables: what an image or a bare commit would make of them, the commit checks on them
(R111, R126, R130, R249, R250, R260), and the costs of R112.
-/
namespace Sys2Proof.Machine

/-! ## Records put into the registers -/

/-- Bits of a turf record, a partition record and a Cord entry that hold fields (R44, R138, R140). -/
def turfMask : Nat := 0x83070000
def cordMask : Nat := 0xFF700FFF

/-- The low bits of a record that a mask selects. -/
def masked (v m : Nat) : W64 := BitVec.ofNat 64 v &&& BitVec.ofNat 64 m

/-- TRF_CFG of turf `t`. -/
def State.putTurf (s : State) (t v : Nat) : State := s.setReg (Reg.TRF_CFG_ASSIGNED t).off (masked v turfMask)

/-- The turf records of a TURF section (R249, R266): the turf and its record. -/
def turfRecords (i body : List Byte) : List (Nat × Nat) :=
  if imgKind i = 1 then [(imgTarget i, natAt body 0 4)]
  else (List.range 64).map (fun t =>
    (t, if 4 * t + 20 ≤ body.length then (if imgVersion i = 2 then natAt body (4 * t) 4 / 2 ^ 19 * 2 ^ 19 else natAt body (4 * t) 4) else 0))

/-- The partition records of a full image (R249). -/
def topoRecords (i body : List Byte) : List (Nat × Nat) :=
  if imgKind i = 0 then (List.range 4).map (fun p => (p, natAt body (body.length - 16 + 4 * p) 4)) else []

/-- The frame words and slot records of a CORD section: tile, slot, zero byte, entry (R250). -/
def frameWords (i body : List Byte) : List Nat := if imgKind i = 0 then (List.range 4).map (fun p => natAt body (4 * p) 4) else []
def slotRecords (i body : List Byte) : List (Nat × Nat × Nat × Nat) :=
  let a := if imgKind i = 0 then 16 else 0
  (List.range ((body.length - a) / 8)).map (fun n =>
    (natAt body (a + 8 * n) 2, natAt body (a + 8 * n + 2) 1, natAt body (a + 8 * n + 3) 1, natAt body (a + 8 * n + 4) 4))

/-- Whether a register is a Cord slot within an image's reach (R250). -/
def slotInReach (i : List Byte) (off : Nat) : Bool :=
  decide (0x2850000 ≤ off) && decide (off < 0x28D0000) &&
  (decide (imgKind i = 0) || decide (turfOfTile ((off - 0x2850000) / 0x200) = imgTarget i))

/-- The Cord tables as a CORD section leaves them; a full image without one, and a SIF 2 image, clear them (R250, R253, R266). -/
def State.putCord (s : State) (i : List Byte) : State :=
  let clear (t : State) : State := { t with regs := t.regs.filter (fun e => !slotInReach i e.1) }
  match sectionOf i 2 with
  | some x =>
    let s1 := ((frameWords i x.body).zipIdx).foldl (fun t e => t.set (Reg.CRD_FRAME_FRAME e.2) e.1) (clear s)
    (slotRecords i x.body).foldl (fun (t : State) r => t.setReg (Reg.CRD_SLOT_V r.1 r.2.1).off (masked r.2.2.2 cordMask)) s1
  | none => if imgKind i = 0 then (clear s).each 4 (fun p t => t.set (Reg.CRD_FRAME_FRAME p) 128) else s

/-- The Cord slots of some tiles have been written again, so that their parity is right (R141, R364). -/
def State.healSlots (s : State) (hit : Nat → Bool) : State := { s with cordBad := s.cordBad.filter (fun b => !hit b.1) }

/-! ## Costs (R112) -/

/-- The cost of an axis: wrap enabled, a turf on the package edge, two turfs across the die seam. -/
def axisCost (wrap edge seam : Bool) : Nat := if wrap && edge then 2 else if seam then 1 else 0

def State.vcost (s : State) (p : Nat) : Nat :=
  axisCost (s.flag (Reg.MSH_TOPO_WRAPV p)) ((List.range 8).any (fun j => s.owns p j || s.owns p (56 + j)))
    ((List.range 8).any (fun j => s.owns p (24 + j) && s.owns p (32 + j)))
def State.hcost (s : State) (p : Nat) : Nat :=
  axisCost (s.flag (Reg.MSH_TOPO_WRAPH p)) ((List.range 8).any (fun i => s.owns p (8 * i) || s.owns p (8 * i + 7)))
    ((List.range 8).any (fun i => s.owns p (8 * i + 3) && s.owns p (8 * i + 4)))

/-- MSH_COST of every partition, from the turfs assigned (R112). -/
def State.putCosts (s : State) : State :=
  s.each 4 (fun p t => (t.set (Reg.MSH_COST_VCOST p) (s.vcost p)).set (Reg.MSH_COST_HCOST p) (s.hcost p))

/-- The machine with an image's turf assignment, topology, Cord tables and costs. -/
def State.putStructure (s : State) (i : List Byte) : State :=
  let s1 := match sectionOf i 1 with
    | some x =>
      let t1 := (turfRecords i x.body).foldl (fun (t : State) (r : Nat × Nat) => t.putTurf r.1 r.2) s
      (topoRecords i x.body).foldl (fun (t : State) (r : Nat × Nat) => t.setReg (Reg.MSH_TOPO_WRAPV r.1).off (masked r.2 3)) t1
    | none => s
  if imgKind i = 2 then s
  else ((s1.putCord i).healSlots (fun t => decide (imgKind i = 0) || ((sectionOf i 2).isSome && decide (turfOfTile t = imgTarget i)))).putCosts

/-! ## Checks -/

/-- TURF_FORMAT of a section (R249, R260, R266). -/
def turfBad (i body : List Byte) : Bool :=
  let n := body.length
  let sizeBad := if imgKind i = 1 then decide (n ≠ 4)
    else if imgVersion i = 2 then decide (n % 4 ≠ 0) || decide (n < 20) || decide (272 < n) else decide (n ≠ 272)
  let count := if imgKind i = 1 then 1 else (n - 16) / 4
  sizeBad || (List.range count).any (fun t =>
      let v := natAt body (4 * t) 4
      decide (masked v turfMask ≠ BitVec.ofNat 64 v) || (decide (imgVersion i = 3) && decide (6 ≤ bitsOf v 18 16))) ||
    (topoRecords i body).any (fun r => decide (3 < r.2))

/-- NEWS_WRAP and NEWS_WIDTH of a partition (R111). -/
def State.wrapBad (s : State) (p : Nat) : Bool :=
  (s.flag (Reg.MSH_TOPO_WRAPV p) && (List.range 8).any (fun j => decide (s.owns p j ≠ s.owns p (56 + j)))) ||
  (s.flag (Reg.MSH_TOPO_WRAPH p) && (List.range 8).any (fun i => decide (s.owns p (8 * i) ≠ s.owns p (8 * i + 7))))
def State.widthBad (s : State) (p : Nat) : Bool :=
  (s.flag (Reg.MSH_TOPO_WRAPV p) || s.flag (Reg.MSH_TOPO_WRAPH p)) &&
  match (s.turfsOf p).map (fun t => s.get (Reg.TRF_CFG_MAXW t)) with
  | [] => false
  | w :: ws => ws.any (fun x => decide (x ≠ w))

/-- COST_CHANGE: the costs of `t` against those in effect in `s` (R260). -/
def State.costChange (s t : State) (p : Nat) : Bool :=
  (s.seq p).job.isSome && (decide (s.get (Reg.MSH_COST_VCOST p) ≠ t.get (Reg.MSH_COST_VCOST p)) ||
    decide (s.get (Reg.MSH_COST_HCOST p) ≠ t.get (Reg.MSH_COST_HCOST p)))

/-- Reserved slots of `t` that `s` does not hold alike, tile first. -/
def State.slotChanges (s t : State) : List (Nat × Nat × Nat) :=
  t.cordEntries.filter (fun e => decide (s.cordEntry e.1 e.2.1 ≠ e.2.2)) ++
  s.cordEntries.filter (fun e => decide (t.cordEntry e.1 e.2.1 ≠ e.2.2))

/-- The tiles whose Cord slots differ between `s` and `t`, reserved or not. -/
def State.slotTiles (s t : State) : List Nat :=
  ((s.regs ++ t.regs).filter (fun e => decide (0x2850000 ≤ e.1) && decide (e.1 < 0x28D0000) && decide (s.reg e.1 ≠ t.reg e.1))).map
    (fun e => (e.1 - 0x2850000) / 0x200)

/-- LIVE_TURF of a bare commit (R260). -/
def State.liveTurf (s t : State) : Bool :=
  let live (n : Nat) : Bool := s.get (Reg.TRF_STATE_STATE n) = 1 || s.get (Reg.TRF_STATE_STATE n) = 2
  let holdsLive (p : Nat) : Bool := (s.turfsOf p).any live
  (List.range 64).any (fun n => live n && decide (s.reg (Reg.TRF_CFG_ASSIGNED n).off ≠ t.reg (Reg.TRF_CFG_ASSIGNED n).off)) ||
  (s.slotTiles t).any (fun n => live (turfOfTile n)) ||
  (List.range 4).any (fun p => holdsLive p &&
    (decide (s.reg (Reg.MSH_TOPO_WRAPV p).off ≠ t.reg (Reg.MSH_TOPO_WRAPV p).off) || decide (s.frameLen p ≠ t.frameLen p)))

/-- CORD_FORMAT of a section (R250). -/
def cordFormatBad (i body : List Byte) : Bool :=
  let rs := slotRecords i body
  let a := if imgKind i = 0 then 16 else 0
  decide (body.length < a) || decide ((body.length - a) % 8 ≠ 0) ||
  rs.any (fun r => decide (1023 < r.1) || decide (127 < r.2.1) || decide (r.2.2.1 ≠ 0) ||
    decide (masked r.2.2.2 cordMask ≠ BitVec.ofNat 64 r.2.2.2) || (decide (imgKind i = 1) && decide (turfOfTile r.1 ≠ imgTarget i))) ||
  decide (¬ (rs.map (fun r => (r.1, r.2.1))).Nodup)

/-- The reserved slots that routers serve: those at indices below the frame (R126; log entry 24). -/
def State.cordServed (s : State) : List (Nat × Nat × Nat) :=
  s.cordEntries.filter (fun e => decide (e.2.1 < s.frameLen (cordPart e.2.2)))

/-- Whether an entry is the link of a flow that `e` is part of (R130). -/
def sameFlow (e f : Nat) : Bool := cordV f && decide (cordFlow f = cordFlow e) && decide (cordPart f = cordPart e)

/-- CORD_PORT, CORD_END and CORD_CONT of one entry (R130). -/
def cordPortBad (tile e : Nat) : Bool :=
  !portExists tile (cordIn e) || !portExists tile (cordOut e) || decide (cordIn e = cordOut e)
def cordEndBad (e : Nat) : Bool :=
  decide (cordFirst e ≠ decide (4 ≤ cordIn e)) || decide (cordLast e ≠ decide (4 ≤ cordOut e))
def State.cordContBad (s : State) (tile slot e : Nat) : Bool :=
  let frame := s.frameLen (cordPart e)
  let next := s.cordEntry (beyond tile (cordOut e)) ((slot + 1) % frame)
  let prev := s.cordEntry (beyond tile (cordIn e)) ((slot + frame - 1) % frame)
  (!cordLast e && !(sameFlow e next && !cordFirst next && decide (cordIn next = facing (cordOut e)))) ||
  (!cordFirst e && !(sameFlow e prev && !cordLast prev && decide (cordOut prev = facing (cordIn e))))

/-- Whether the flow from slot `i` of tile `t` onwards meets tile `from_` again within `n` routers (R130). -/
def State.cordRevisits (s : State) (from_ frame : Nat) : Nat → Nat → Nat → Bool
  | 0, _, _ => false
  | n + 1, t, i =>
    let e := s.cordEntry t i
    if !cordV e || cordLast e then false
    else
      let u := beyond t (cordOut e)
      decide (u = from_) || s.cordRevisits from_ frame n u ((i + 1) % frame)

/-- CORD_BUSY (R227, R260). -/
def State.cordBusy (s t : State) : Bool :=
  (s.slotChanges t).any (fun e => (List.range 8).any (fun n => (s.stg n).any (fun x =>
    x.desc.cord && decide (x.part = cordPart e.2.2) && x.desc.flows.contains (cordFlow e.2.2))))

/-- The checks on turfs and topology, in the order of the refusal table; `i` is the image, `t` the machine as it would stand. -/
def State.turfRefuse (s t : State) (i : List Byte) : Refuse :=
  let x := sectionIdx i 1
  firstFail [
    (match sectionOf i 1 with | some y => turfBad i y.body | none => false, 0x10, x),
    ((List.range 4).any t.wrapBad, 0x11, x),
    ((List.range 4).any t.widthBad, 0x12, x),
    ((List.range 4).any (s.costChange t), 0x13, x)]

/-- The checks on Cord tables, in the order of the refusal table. -/
def State.cordRefuse (s t : State) (i : List Byte) : Refuse :=
  let x := sectionIdx i 2
  let es := t.cordServed
  let words := match sectionOf i 2 with | some y => frameWords i y.body | none => []
  firstFail [
    (match sectionOf i 2 with | some y => cordFormatBad i y.body | none => false, 0x18, x),
    (words.any (fun w => decide (w = 0 ∨ 128 < w)) || (List.range 4).any (fun p => decide (t.frameLen p = 0 ∨ 128 < t.frameLen p)),
      0x19, x),
    (es.any (fun e => cordPortBad e.1 e.2.2), 0x1A, x),
    (es.any (fun e => cordEndBad e.2.2), 0x1B, x),
    (es.any (fun e => t.cordContBad e.1 e.2.1 e.2.2), 0x1C, x),
    (es.any (fun e => !t.owns (cordPart e.2.2) (turfOfTile e.1)), 0x1D, x),
    (es.any (fun e => t.cordRevisits e.1 (t.frameLen (cordPart e.2.2)) 1024 e.1 e.2.1), 0x1E, x),
    (s.cordBusy t, 0x1F, x)]

end Sys2Proof.Machine
end

