-- ==== Sys2Proof/Machine/Loader.lean ====
section
/-!
DEFINITION. The loader (R254-R266): loads, commits, bare commits, the application of an image, what a load holds from arm on, and the
withdrawal and return of turfs.
-/
namespace Sys2Proof.Machine

/-- A refusal is recorded in HST_SIFERR and raises the loader event (R257, R260). -/
def State.sifRefuse (s : State) (r : Refuse) : State :=
  (((s.set Reg.HST_SIFERR_VALID 1).set Reg.HST_SIFERR_SECT r.2).set Reg.HST_SIFERR_CODE r.1).raise 0x0E0

/-! ## Targets (R261, R262) -/

/-- Whether a turf is retired (R381, R387). -/
def State.retired (s : State) (t : Nat) : Bool := (tilesOfTurf t).any (fun k => s.flag (Reg.RST_RMAP_RET k))

/-- The turfs that an image holds. -/
def imgTurfs (i : List Byte) : List Nat :=
  match imgKind i with
  | 0 => List.range 64
  | 1 => [imgTarget i]
  | _ => []

/-- Whether an image holds the edge fabric, its pins and the Kindling engines. -/
def holdsEdge (i : List Byte) : Bool := decide (imgKind i ≠ 1)

/-- A target turf is fenced by the loader; one that takes part in no partition is fenced at once (R261). -/
def State.armTurf (s : State) (t : Nat) : State :=
  let s1 := s.holdFence t (fun f => { f with loader := true })
  if 3 ≤ s1.phase t then s1.set (Reg.TRF_STATE_STATE t) 6
  else if s.get (Reg.TRF_STATE_STATE t) = 0 then s1.enterFenced t
  else s1

/-- Arm (R257, R261): shadow writes are discarded, turfs fenced, the edge fabric held, the engines stopped. -/
def State.armLoad (s : State) (i : List Byte) (auto : Bool) : State :=
  let l : Loader := ⟨i, auto, (imgTurfs i).map (fun t => (t, s.get (Reg.TRF_STATE_STATE t))), s.get Reg.EDG_STAT_STATE, s.edge.banks, s.edge⟩
  let s1 := if s.shadow.isEmpty then s else ({ s with shadow := [] } : State).set Reg.HST_SIFSTAT_SHDISC 1
  let s2 := (imgTurfs i).foldl (fun t n => t.armTurf n) s1
  let s3 := if holdsEdge i then (s2.edgeHold).each 4 (fun e t => t.kStop e) else s2
  ({ s3 with loader := some l } : State).set Reg.HST_SIFSTAT_STATE 1

/-- A target turf leaves the loader's fence: one that no other agent holds waits for its rejoin where it is assigned, and otherwise is
unassigned again, under march test where it was (R259, R262). -/
def State.freeTurf (s : State) (t : Nat) : State :=
  let was := s.phase t
  let s1 := s.releaseFence t (fun f => { f with loader := false })
  if (s1.fence t).held then
    if was < 3 then s1
    else if (SMap.get none s.march t).isSome then s1.set (Reg.TRF_STATE_STATE t) 5
    else if (s1.fence t).wdraw then s1.set (Reg.TRF_STATE_STATE t) 4
    else s1.set (Reg.TRF_STATE_STATE t) 3
  else if s1.flag (Reg.TRF_CFG_ASSIGNED t) then s1
  else (s1.setFence t Fence.open).set (Reg.TRF_STATE_STATE t) (if (SMap.get none s.march t).isSome then 5 else 0)

/-- The edge fabric as it was before arm, but for what the hold has aborted and read-back has kept (R262). -/
def Edge.resumed (was now : Edge) : Edge :=
  { was with lost := now.lost, parityBad := now.parityBad, armed := none, due := false, buffer := now.buffer, ports := now.ports }

/-- A load ends without apply (R262). -/
def State.endLoad (s : State) (r : Refuse) : State :=
  match s.loader with
  | none => s
  | some l =>
    let s1 := ({ s with loader := none } : State).sifRefuse r
    let s2 := (s1.set Reg.HST_SIFPEND_TYPES 0).set Reg.HST_SIFSTAT_STATE 0
    let s3 := l.turfs.foldl (fun (t : State) (e : Nat × Nat) => t.freeTurf e.1) s2
    if holdsEdge l.image = false then s3
    else if carriesEdge l.image then (s3.edgeEmpty).set Reg.HST_SIFSTAT_EDGELOST 1
    else
      let t : State := { s3 with edge := l.design.resumed s3.edge }
      t.edgeState (if l.edge ≤ 1 then l.edge else t.edgeOn)

/-! ## The load phase (R255, R257) -/

/-- FULL_BUSY and TARGET_STATE (R260). -/
def State.targetRefuse (s : State) (i : List Byte) : Refuse :=
  firstFail [
    (decide (imgKind i = 0) && (List.range 4).any (fun q =>
      decide (s.get (Reg.SEQ_STATE_STATE q) ≠ seqStopped) && decide (s.get (Reg.SEQ_STATE_STATE q) ≠ seqFaulted)), 0x02, 0),
    (decide (imgKind i = 1) && (s.flag (Reg.MSH_FENCE_OWNER (imgTarget i)) || (SMap.get none s.march (imgTarget i)).isSome), 0x03, 0)]

/-- SIF_FETCH and SIF_SIZE of HST_SIFSRC, HST_SIFADDR and HST_SIFLEN (R255, R257). -/
def sourceRefuse (space a len : Nat) : Refuse :=
  firstFail [
    (decide (a % 8 ≠ 0) ||
      (match space with
       | 0 => decide (2 ^ 64 < a + len)
       | 1 => decide (0x2000000000 < a + len)
       | 2 => decide (0x14000000 < a + len)
       | _ => true), 0x04, 0),
    (decide (0x4000000 < len) || decide (len < 268), 0x05, 0)]

/-- The bytes that arrive from the source: `host` from host memory. Where a read fails, as many as `host` holds; of a fenced source none. -/
def State.sourceBytes (s : State) (space a len : Nat) (host : List Byte) (good : Bool) : List Byte :=
  let all := match space with
    | 0 => host.take len
    | 1 => if s.hbmUp a len then s.hbmRead a len else []
    | _ => readBytes s.flash a len
  if good then all else all.take (min host.length (len - 1))

/-- The header is checked and the targets are armed (R257 steps 1 and 2). -/
def State.beginLoad (s : State) (i : List Byte) (len : Nat) (auto : Bool) : State :=
  let r := firstRefuse [headerRefuse i len, s.targetRefuse i]
  if r.1 = 0 then s.armLoad i auto else s.sifRefuse r

/-- LOAD: checks the source and the header, and arms the targets (R255, R257); refused with BUSY outside Idle (R260). -/
def execLoad (auto : Bool) (image : List Byte) (readGood : Bool) (s : State) : Res :=
  let space := s.get Reg.HST_SIFSRC_SPACE
  let a := s.get Reg.HST_SIFADDR_ADDR
  let len := s.get Reg.HST_SIFLEN_LEN
  let r := sourceRefuse space a len
  if s.moduleReset then .next s
  else if s.get Reg.HST_SIFSTAT_STATE ≠ 0 then .next (s.sifRefuse (0x01, 0))
  else if r.1 ≠ 0 then .next (s.sifRefuse r)
  else .next (s.beginLoad (s.sourceBytes space a len image readGood) len auto)

/-! ## The commit phase (R258, R260) -/

/-- Records of an OPTION section: offset, mask, value, zero bytes (R252). -/
def optionRecords (body : List Byte) : List (Nat × Nat × Nat × Nat) :=
  (List.range (body.length / 16)).map (fun n => (natAt body (16 * n) 4, natAt body (16 * n + 4) 4, natAt body (16 * n + 8) 4, natAt body (16 * n + 12) 4))

/-- OPT_FORMAT and OPT_TARGET (R252). -/
def optionRefuse (i : List Byte) : Refuse :=
  match sectionOf i 9 with
  | none => (0, 0)
  | some x =>
    let rs := optionRecords x.body
    firstFail [
      (decide (x.body.length % 16 ≠ 0) || rs.any (fun r => decide (r.1 % 4 ≠ 0) || decide (r.2.2.2 ≠ 0)), 0x38, x.idx),
      (rs.any (fun r => !optionBlock (imgKind i) (imgTarget i) r.1 || decide (r.2.1 &&& overridable r.1 ≠ r.2.1)), 0x39, x.idx)]

/-- The commit checks in the order of the refusal table (R258). -/
def State.commitRefuse (s : State) (i old : List Byte) : Refuse :=
  let t := s.putStructure i
  firstRefuse [
    s.turfRefuse t i, s.cordRefuse t i, sectionRefuse i old,
    firstFail [(match sectionOf i 3 with | some x => routeBad x.body (decide (imgVersion i = 2)) | none => false, 0x28, sectionIdx i 3)],
    s.patchRefuse i, optionRefuse i]

/-- Committing: the checks are made; APPLY follows them, a failure ends the load (R258). -/
def State.commitLoad (s : State) : State :=
  match s.loader with
  | none => s
  | some l =>
    let r := s.commitRefuse l.image l.banks
    let s1 := if patchFromFlash l.image then s.useFree else s
    if r.1 = 0 then s1.set Reg.HST_SIFSTAT_STATE 3 else s1.endLoad r

/-- Loaded (R257 steps 3 to 6): directory and sections, the EDGE section into the configuration memory, signature, BASEHASH. -/
def State.finishLoad (s : State) : State :=
  match s.loader with
  | none => s
  | some l =>
    let r := firstRefuse [fetchRefuse l.image, s.verifyRefuse l.image]
    if r.1 ≠ 0 then s.endLoad r
    else
      let s1 : State := match sectionOf l.image 4 with
        | some x => s.edgeConfigure (edgeConfig x.body)
        | none => s
      let types := natOfBits 9 (fun t => (sectionOf l.image (t + 1)).isSome)
      let s2 := ((s1.set Reg.HST_SIFPEND_TYPES types).set Reg.HST_SIFSTAT_STATE 2).raise 0x0E0
      if l.auto then s2.commitLoad else s2

/-- LOADED (R257). -/
def execLoaded (s : State) : Res := if s.get Reg.HST_SIFSTAT_STATE = 1 then .next s.finishLoad else .next s

/-! ## Apply (R259) -/

/-- Whether every target turf is fenced. -/
def State.targetsHeld (s : State) (l : Loader) : Bool := l.turfs.all (fun e => decide (3 ≤ s.phase e.1))

/-- The program memories of the engines: those of the image's sections; in a full image the others are cleared (R253). -/
def State.applyPrograms (s : State) (i : List Byte) : State :=
  let xs := (sections i).filter (fun x => decide (x.type = 6))
  s.each 4 (fun e t =>
    match xs.find? (fun x => decide (x.unit = e)) with
    | some x => t.putProgram e x.body
    | none => if imgKind i = 0 then ((t.haltEngine e).clearProgram e).kProgramChange e else t)

/-- The bank records as an image leaves them (R253). -/
def imgBanks (i old : List Byte) : List Byte :=
  match sectionOf i 5 with
  | some x => x.body
  | none => if imgKind i = 2 then old else []

/-- The edge side of an apply: programs, bank settings, the release of the edge fabric (R259, R282). -/
def State.applyEdge (s : State) (i old : List Byte) : State :=
  if holdsEdge i = false then s
  else
    let s1 := s.applyPrograms i
    let s2 : State := { s1 with edge := { s1.edge with banks := imgBanks i old }, kdl := { s1.kdl with pinOut := 0, pinDir := 0 } }
    if carriesEdge i then ({ s2 with edge := { s2.edge with loaded := true, parityBad := false } } : State).edgeStart
    else ({ s2 with edge := { s2.edge.still [] with loaded := false, config := [], parityBad := false, bram := [] } } : State).edgeState 0

/-- The engines of the KINDLING sections with AUTOSTART start together (R259). -/
def State.autostart (s : State) (i : List Byte) : State :=
  s.each 4 (fun e t =>
    if (sections i).any (fun x => decide (x.type = 6 ∧ x.unit = e ∧ x.flags = 1)) then t.kStart e else t)

/-- The patch set and the route table of a full image (R215, R259, R361). -/
def State.applyFull (s : State) (i : List Byte) : State :=
  if imgKind i ≠ 0 then s
  else
    let s1 := s.applyPatch i
    match sectionOf i 3 with
    | some x => s1.applyRoute x.body
    | none => s1.resetRoute

/-- The OPTION records in order (R252). -/
def State.applyOptions (s : State) (i : List Byte) : State :=
  match sectionOf i 9 with
  | some x => (optionRecords x.body).foldl (fun (t : State) (r : Nat × Nat × Nat × Nat) => t.optionWrite r.1 r.2.1 r.2.2.1) s
  | none => s

/-- The measurement after an apply (R265). -/
def State.measure (s : State) (i : List Byte) : State :=
  let h := hashBytes (Config.sha512 i)
  s.setSifHash (if imgKind i = 0 then h else hashBytes (Config.sha512 (s.sifHash ++ h)))

/-- What the loader registers say of the image applied (R267). -/
def State.appliedImage (s : State) (i : List Byte) : State :=
  let s1 := (s.set Reg.HST_SIFSTAT_KIND (imgKind i)).set Reg.HST_SIFSTAT_DIRECT 0
  let s2 := if imgKind i = 0 then s1.set Reg.HST_SIFSTAT_VER (imgVersion i)
    else if imgKind i = 1 then s1.set Reg.HST_SIFSTAT_TARGET (imgTarget i) else s1
  let s3 := (s2.set Reg.HST_SIFID_ID (natAt i 8 4)).set Reg.HST_SIFREV_REV (natAt i 12 4)
  (s3.set Reg.HST_SIFPEND_TYPES 0).set Reg.HST_SIFSTAT_STATE 0

/-- The image takes effect (R259): the OPTION records after all else that they may override, then the starts. -/
def State.applyLoad (s : State) (l : Loader) : State :=
  let i := l.image
  let s1 := (({ s with loader := none } : State).putStructure i).applyFull i
  let s2 := s1.applyEdge i l.banks
  let s3 := l.turfs.foldl (fun (t : State) (e : Nat × Nat) =>
    let u := t.freeTurf e.1
    if u.flag (Reg.TRF_CFG_ASSIGNED e.1) then u.switchOn e.1 else u) s2
  (((s3.applyOptions i).autostart i).measure i).appliedImage i

/-- APPLY (R259): once every target turf is fenced. -/
def execApply (s : State) : Res :=
  match s.loader with
  | none => .next s
  | some l => if s.get Reg.HST_SIFSTAT_STATE = 3 ∧ s.targetsHeld l = true then .next (s.applyLoad l) else .next s

/-! ## Bare commits (R9, R260) -/

/-- The bits of a register that CMT fields hold. -/
def cmtMask (off : Nat) : W64 :=
  match findReg off with
  | some (r, _, _) => r.fields.foldl (fun a f => if f.cmt then a ||| fieldMask f.hi f.lo else a) (0 : W64)
  | none => 0

/-- The machine with the pending shadow writes in its registers, and the costs they give. -/
def State.putShadow (s : State) : State :=
  ((s.shadow.foldl (fun (t : State) (e : Nat × W64) =>
    t.setReg e.1 ((t.reg e.1 &&& ~~~(cmtMask e.1)) ||| (e.2 &&& cmtMask e.1))) s).healSlots (fun t =>
      s.shadow.any (fun e => decide (0x2850000 + 0x200 * t ≤ e.1) && decide (e.1 < 0x2850200 + 0x200 * t)))).putCosts

/-- The checks on a bare commit, in the order of the refusal table; the structure has no image. -/
def State.bareRefuse (s : State) : Refuse :=
  let t := s.putShadow
  firstRefuse [
    firstFail [
      (s.shadow.isEmpty, 0x0D, 0),
      (!s.optDirect, 0x0E, 0),
      ((List.range 64).any (fun n => decide (6 ≤ t.get (Reg.TRF_CFG_MAXW n))), 0x10, 0)],
    s.turfRefuse t [],
    firstFail [(s.liveTurf t, 0x14, 0)],
    s.cordRefuse t []]

/-- The turf assignments that a bare commit makes: a turf newly assigned joins its partition, one no longer assigned leaves it. -/
def State.bareTurfs (s o : State) : State :=
  s.each 64 (fun n t =>
    let was := o.flag (Reg.TRF_CFG_ASSIGNED n)
    let now := t.flag (Reg.TRF_CFG_ASSIGNED n)
    if !was && now then
      if t.phase n = 0 then t.setFence n { t.fence n with step := some (t.part (t.get (Reg.TRF_CFG_PART n))).step } else t
    else if was && !now && decide (t.phase n = 0) then (t.setFence n Fence.open).set (Reg.TRF_STATE_STATE n) 0
    else t)

/-- A bare commit (R260). -/
def State.bareCommit (s : State) : State :=
  let r := s.bareRefuse
  if r.1 ≠ 0 then s.sifRefuse r
  else
    let s1 : State := { s.putShadow with shadow := [] }
    let s2 := s1.each 8 (fun n t => if t.portOn n then t else t.disablePort n)
    (s2.bareTurfs s).set Reg.HST_SIFSTAT_DIRECT 1

/-- COMMIT: in Loaded the image is committed, in Idle the pending shadow writes; in Loading and Committing BUSY (R258, R260). -/
def execCommit (s : State) : Res :=
  match s.get Reg.HST_SIFSTAT_STATE with
  | 0 => .next s.bareCommit
  | 2 => .next s.commitLoad
  | _ => .next (s.sifRefuse (0x01, 0))

/-- BARE_COMMIT: COMMIT in Idle (R260). -/
def execBareCommit (s : State) : Res := if s.get Reg.HST_SIFSTAT_STATE = 0 then .next s.bareCommit else .next s

/-- ABORT: in Loading or Loaded the load ends with ABORTED (R260). -/
def execAbort (s : State) : Res :=
  if s.get Reg.HST_SIFSTAT_STATE = 1 ∨ s.get Reg.HST_SIFSTAT_STATE = 2 then .next (s.endLoad (0x0B, 0)) else .next s

/-! ## Withdrawal and return (R264) -/

/-- A turf's bit of HST_WDRAW. -/
def wdrawBit (t : Nat) : Field := ⟨Reg.HST_WDRAW_TURF.off, t, t⟩

/-- A turf is withdrawn (R264, R381): fenced, state 4 at Clamped. -/
def State.withdraw (s : State) (t : Nat) : State :=
  let s1 := (s.set (wdrawBit t) 1).holdFence t (fun f => { f with wdraw := true })
  if s1.phase t = 4 ∧ s1.get (Reg.TRF_STATE_STATE t) = 3 then s1.set (Reg.TRF_STATE_STATE t) 4 else s1

/-- WITHDRAWAL (R264). -/
def execWithdrawal (t : TurfId) (s : State) : Res := .next (s.withdraw t)

/-- RETURN: the turf's fence is opened where no other agent holds it; ignored for a retired turf (R264, R381). A turf that was off is
switched on (R408). -/
def execReturn (t : TurfId) (s : State) : Res :=
  if s.flag (wdrawBit t) = false ∨ s.retired t = true then .next s
  else
    let s1 := ((s.set (wdrawBit t) 0).switchOn t).releaseFence t (fun f => { f with wdraw := false })
    if (s1.fence t).held ∨ s1.flag (Reg.TRF_CFG_ASSIGNED t) then .next s1
    else .next ((s1.setFence t Fence.open).set (Reg.TRF_STATE_STATE t) 0)

end Sys2Proof.Machine
end

