-- ==== Sys2Proof/Machine/Rings.lean ====
section
/-!
DEFINITION. Job rings and the interface version (R309, R316-R322).
-/
namespace Sys2Proof.Machine

/-! ## Ownership and interface version (R309, R316, R317) -/

/-- HIV_OFFER (R316): CHOSEN follows OFFER while every ring is disabled; otherwise the write is ignored with HIVW. -/
def execHivOffer (value : BitVec 8) (s : State) : Res :=
  if (List.range 4).any (fun p => s.flag (Reg.HST_RCTL_EN p)) then .next (s.set Reg.HST_ERR_HIVW 1)
  else
    let chosen := if 2 ≤ value.toNat then min value.toNat 3 else 0
    .next (((s.set Reg.HST_HIV_OFFER value.toNat).set Reg.HST_HIV_CHOSEN chosen).showOwners)

/-! ## Ring setup (R318) -/

/-- A bit of HST_RERR sets, which raises the ring's source (R323). -/
def State.ringErr (s : State) (p : Nat) (f : Field) : State := (s.set f 1).raise (0x0B8 + p)

/-- The checks of an enable: SIZE, ALIGN, MBOX (R318). -/
def State.ringSizeBad (s : State) (p : Nat) : Bool := decide (s.get (Reg.HST_RCTL_RSIZE p) < 4) || decide (16 < s.get (Reg.HST_RCTL_RSIZE p))
def State.ringAlignBad (s : State) (p : Nat) : Bool :=
  decide (s.get (Reg.HST_RBASE_ADDR p) % 4096 ≠ 0) || decide (s.get (Reg.HST_CBASE_ADDR p) % 4096 ≠ 0)
def State.ringMboxBad (s : State) (p : Nat) : Bool :=
  let n := s.get (Reg.HST_RMBOX_MBN p)
  decide (n = 0) || decide (0x200000 < 64 * s.get (Reg.HST_RMBOX_MBADDR p) + 64 * n)

/-- Every check that fails sets its bit. -/
def State.ringErrs (s : State) (p : Nat) : State :=
  let s1 := if s.ringSizeBad p then s.ringErr p (Reg.HST_RERR_SIZE p) else s
  let s2 := if s.ringAlignBad p then s1.ringErr p (Reg.HST_RERR_ALIGN p) else s1
  if s.ringMboxBad p then s2.ringErr p (Reg.HST_RERR_MBOX p) else s2

/-- The ring is enabled: its setup is taken, its indices start anew (R318). An entry of the ring before that no slot was free for is
dropped; occupied slots stay occupied (log entry 28). -/
def State.openRing (s : State) (p : Nat) : State :=
  let r := s.ring p
  let s1 := s.setRing p { r with
    ready := true, rsize := s.get (Reg.HST_RCTL_RSIZE p), rbase := s.get (Reg.HST_RBASE_ADDR p), cbase := s.get (Reg.HST_CBASE_ADDR p)
    mbn := s.get (Reg.HST_RMBOX_MBN p), mbaddr := 64 * s.get (Reg.HST_RMBOX_MBADDR p), tail := 0, fetched := 0, entry := none, delivered := 0 }
  let s2 := ((s1.set (Reg.HST_RHEAD_HEAD p) 0).set (Reg.HST_CTAIL_TAIL p) 0).set (Reg.HST_CTAIL_PHASE p) 1
  s2.set (Reg.HST_RCTL_EN p) 1

/-- RING_ENABLE (R316, R318). -/
def execRingEnable (p : SeqId) (s : State) : Res :=
  if s.flag (Reg.HST_RCTL_EN p) = true ∨ s.get Reg.HST_HIV_CHOSEN = 0 ∨ s.moduleReset = true then .next s
  else if s.ringSizeBad p || s.ringAlignBad p || s.ringMboxBad p then .next (s.ringErrs p)
  else .next (s.openRing p)

/-- RING_DISABLE: the fetch stops after any entry in progress; indices are kept (R318). -/
def execRingDisable (p : SeqId) (s : State) : Res := .next (s.set (Reg.HST_RCTL_EN p) 0)

/-! ## Submission (R319, R320) -/

/-- DOORBELL (R320). -/
def execDoorbell (p : SeqId) (value : W32) (s : State) : Res :=
  let v := value.toNat % 65536
  if s.flag (Reg.HST_RCTL_EN p) = false then .next s
  else if 2 ^ (s.ring p).rsize ≤ v then .next (s.ringErr p (Reg.HST_RERR_DBRANGE p))
  else .next (s.setRing p { s.ring p with tail := v })

/-- Fields of a submission entry (R319). -/
def entryToken (e : List Byte) : W64 := BitVec.ofNat 64 (leNat (e.take 8))
def entryAddr (e : List Byte) : Nat := leNat ((e.drop 8).take 4)
def entryFlags (e : List Byte) : Nat := leNat ((e.drop 12).take 4)

/-- The next entry has been consumed: HEAD advances (R320). -/
def State.advanceHead (s : State) (p : Nat) : State := s.set (Reg.HST_RHEAD_HEAD p) ((s.ring p).fetched % 2 ^ (s.ring p).rsize)

/-- ENTRY_FETCH: the next entry offered arrives; a malformed one is completed at once with BADENTRY, and is not delivered (R320). Its
last step number is free: no job of its own issued a step (log entry 28). No bytes at all stand for a poisoned TLP, which AER reports; the entry stays to
be fetched (R332; log entry 28). -/
def execEntryFetch (p : SeqId) (entry : List Byte) (s : State) : Res :=
  let r := s.ring p
  if s.flag (Reg.HST_RCTL_EN p) = false ∨ r.entry.isSome ∨ r.launch.isSome ∨ r.fetched = r.tail ∨ (entry.length ≠ 64 ∧ entry ≠ []) ∨
      s.get (Reg.SEQ_STATE_STATE p) = seqFaulted then .next s
  else if entry = [] then .next (s.send (.aer 4))
  else
    let s1 := s.setRing p { r with fetched := (r.fetched + 1) % 2 ^ r.rsize }
    if 2 ≤ entryFlags entry ∨ entryAddr entry % 4 ≠ 0 then
      .next (((s1.useFree).advanceHead p).postHeld p ⟨entryToken entry, 0, s.freeValue, true, true, 0, 0xF1, 0, 0⟩)
    else .next (s1.setRing p { s1.ring p with entry := some entry })

/-- MAILBOX_DELIVERY: the entry goes into slot k mod MBN, HEAD advances, the job-arrival source is raised (R320). -/
def execMailboxDelivery (p : SeqId) (s : State) : Res :=
  let r := s.ring p
  match r.entry with
  | none => .next s
  | some e =>
    if r.mbn ≤ r.slots.length ∨ s.get (Reg.SEQ_STATE_STATE p) = seqFaulted then .next s
    else
      let s1 := s.hearthWrite (0x200000 * p + r.mbaddr + 64 * (r.delivered % r.mbn)) e
      let s2 := s1.setRing p { s1.ring p with
        entry := none, delivered := r.delivered + 1, slots := r.slots ++ [entryToken e]
        launch := if bitAt (entryFlags e) 0 = 1 then some (entryAddr e) else r.launch }
      .next ((s2.advanceHead p).raise (0x0B4 + p))

/-- LAUNCH: once the sequencer is Stopped, SEQ_ENTRY is written and it starts (R320). -/
def execLaunch (p : SeqId) (s : State) : Res :=
  match (s.ring p).launch with
  | none => .next s
  | some a =>
    if s.get (Reg.SEQ_STATE_STATE p) ≠ seqStopped then .next s
    else .next (((s.setRing p { s.ring p with launch := none }).set (Reg.SEQ_ENTRY_ENTRY p) (a / 4)).startSeq p)

/-! ## Completion (R321, R322) -/

/-- COMPLETION_WRITE: the oldest completion held is written once the ring has room (R321). -/
def execCompletionWrite (p : SeqId) (s : State) : Res :=
  match (s.ring p).held with
  | [] => .next s
  | c :: cs =>
    if s.ringFull p then .next s else .next ((s.setRing p { s.ring p with held := cs }).writeCompletion p c)

/-- COMPLETION_HEAD_WRITE (R322). -/
def execCompletionHeadWrite (p : SeqId) (value : W32) (s : State) : Res := .next (s.set (Reg.HST_CHEAD_HEAD p) (value.toNat % 65536))

/-- A ring reset (R310, R388): its registers and its state, held completions with it. -/
def State.resetRing (s : State) (p : Nat) : State :=
  let base := 0x1000 + 0x40 * p
  ({ s with regs := s.regs.filter (fun e => !(decide (base ≤ e.1) && decide (e.1 < base + 0x40))) } : State).setRing p Ring.reset

end Sys2Proof.Machine
end

