-- ==== Sys2Proof/Machine/Reset.lean ====
section
/-!
DEFINITION. The reset controller (R388-R395): the Ash log (R398), assertions, the idle request, and what each reach clears. A reset takes
its target's state at the clearing; a module reset also at its assertion, which forces every unit into reset (R390).
-/
namespace Sys2Proof.Machine

/-! ## The Ash log (R398) -/

/-- Whether nothing has been recorded since the log was cleared. -/
def State.ashEmpty (s : State) : Bool := (List.range 16).all (fun c => decide (s.get (Reg.RST_ASHCNT_COUNT c) = 0))
/-- The index of the next cause record; the first one goes to index 0 (log entry 29). -/
def State.ashNext (s : State) : Nat := if s.ashEmpty then 0 else (s.get Reg.RST_ASHHEAD_NEWEST + 1) % 32

/-- A cause record (R398). -/
def causeRecord (time src reach target detail : Nat) (noclk aband : Bool) : Nat :=
  detail % 2 ^ 64 + target % 256 * 2 ^ 64 + bnat aband * 2 ^ 74 + bnat noclk * 2 ^ 76 + reach % 8 * 2 ^ 77 + src % 256 * 2 ^ 80 +
    time % 2 ^ 40 * 2 ^ 88

/-- A pending reset whose cause record has been overwritten. -/
def Pending.lose (i : Nat) (x : Pending) : Pending := if x.record = some i then { x with record := none } else x

/-- An assertion is recorded (R389, R390, R398). How far ASHTIME has run since the last record is free (log entry 2). -/
def State.ashAppend (s : State) (src reach target detail : Nat) (aband : Bool) : State :=
  let i := s.ashNext
  let time := s.get Reg.RST_ASHTIME_MS + s.freeValue.toNat
  let v := causeRecord time src reach target detail (!s.rst.refclk) aband
  let r := s.rst
  let s1 : State := { s.useFree with
    rst := { r with module := r.module.map (Pending.lose i), targets := r.targets.map (fun e => (e.1, e.2.map (Pending.lose i))) } }
  let s2 := (s1.set Reg.RST_ASHTIME_MS time).count (Reg.RST_ASHCNT_COUNT src) 1
  let s3 := (s2.each 4 (fun j t => t.set (Reg.RST_ASHREC_RECORD i j) (v / 2 ^ (32 * j)))).set Reg.RST_ASHHEAD_NEWEST i
  if i = 0 ∧ s.ashEmpty = false then s3.set Reg.RST_ASHHEAD_WRAPPED 1 else s3

/-- The TIMEOUT flag of a cause record. -/
def State.ashTimeout (s : State) (record : Option Nat) : State :=
  match record with
  | some i => s.set ⟨(Reg.RST_ASHREC_RECORD i 2).off, 11, 11⟩ 1
  | none => s

/-! ## A partition (R388, R392, R393) -/

/-- The staging descriptors of engine `e` that `mine` takes end with failed status and their events (R393, R395); a checkpoint among them leaves
VALID = 0 (R240). -/
def State.failOn (t : State) (e : Nat) (mine : Transfer → Bool) : State :=
  ((t.stg e).filter mine).foldl (fun (v : State) (x : Transfer) =>
      let u := v.dropPackets e x.slot
      let u1 := (u.setStg e ((u.stg e).filter (fun y => decide (y.slot ≠ x.slot)))).set (Reg.STG_ERR_FAIL e) 1
      let u2 := if x.desc.dir = 2 then
          let v := u1.setSeq x.part { u1.seq x.part with ckpt := none }
          ({ v with saved := SMap.put none v.saved x.part none } : State).set (Reg.HBM_CKPT_VALID x.part) 0
        else u1
      u2.stgDone e x.desc.evt) t

/-- The staging descriptors of a partition end (R393), and every descriptor of an engine (R395). -/
def State.failTransfers (s : State) (p : Nat) : State := s.each 8 (fun e t => t.failOn e (fun x => decide (x.part = p)))
def State.failEngine (s : State) (e : Nat) : State := s.failOn e (fun _ => true)

/-- A turf after the reset of its partition: it joins at step number 0 where no other agent holds its fence (R264, R393). -/
def State.rejoinReset (s : State) (t : Nat) : State :=
  let s1 := (s.setFence t { s.fence t with reset := false }).showFence t
  let f := s1.fence t
  if f.held = false ∧ SMap.get none s1.march t = none then
    ((s1.setFence t Fence.open).set (Reg.MSH_FENCE_PHASE t) 0).set (Reg.TRF_STATE_STATE t) 1
  else s1.set (Reg.TRF_STATE_STATE t)
    (if (SMap.get none s1.march t).isSome then 5 else if f.loader then 6 else if f.wdraw && decide (s1.phase t = 4) then 4 else 3)

/-- The clearing of a partition (R388, R393). PE memory, instruction memory, scratchpad, ring and HBM_CKPT are kept (R375). -/
def State.clearPartition (s : State) (p : Nat) : State :=
  let turfs := s.turfsOf p
  let s1 := (s.failJob p 0).failTransfers p
  let q := s1.seq p
  let flags := (List.range 8).any (fun j => decide (s1.get (Reg.EVT_SFLAG_FLAG p j) ≠ 0))
  let s2 := (s1.setPart p Part.reset).setSeq p
    { Seq.reset with disabled := q.disabled, checked := q.checked, mirrorDirty := q.mirrorDirty || flags }
  let s3 : State := { s2 with
    links := s2.links.filter (fun l => decide (l.part ≠ p)), flows := s2.flows.filter (fun e => decide (e.1 / 4096 ≠ p))
    pes := s2.pes.filter (fun e => !turfs.contains (turfOfPe e.1)) }
  let s4 := s3.resetRegs 2 (fun o => inBlock (0x1000000 + 0x100000 * p) 0x100000 o ||
    inBlock (Reg.EVT_SFLAG_FLAG p 0).off 32 o || turfs.any (fun t => inBlock (0x2000000 + 0x4000 * t) 0x4000 o))
  let s5 := (s4.setPc p (4 * s4.get (Reg.SEQ_ENTRY_ENTRY p))).endHalt p
  let s6 := (s5.setRecov p none).set (Reg.RST_RECSTAT_STATE p) 0
  turfs.foldl (fun t n => t.rejoinReset n) s6

/-! ## Blocks (R395) -/

/-- A fabric port: its link goes down and its registers reset, but for FAB_PCTL (R343, R395). -/
def State.clearPort (s : State) (n : Nat) : State :=
  let s1 := s.linkDown n (s.get (Reg.FAB_PSTAT_REASON n))
  let s2 := s1.setPort n { Port.reset with cable := (s1.port n).cable }
  let base := (Reg.FAB_PCTL_EN n).off
  (s2.resetRegs 1 (fun o => inBlock base 0x40 o && decide (o ≠ base))).releaseFence (80 + n) (fun f => { f with reset := false })

/-- The edge fabric: a load that holds it ends with RESET, a capture is aborted, its flip-flops take their INIT bits, its memories keep their
contents, its stream ports are empty; with
a parity error it stays stopped, and an empty one stays empty (R263, R275, R276, R364). -/
def State.clearEdge (s : State) : State :=
  let s1 := match s.loader with
    | some l => if holdsEdge l.image then s.endLoad (0x0C, 0) else s
    | none => s
  let st := s1.get Reg.EDG_STAT_STATE
  let s2 := (s1.resetRegs 1 (inBlock 0x3D00000 0x100000)).abortCapture
  let s3 := (({ s2 with edge := { s2.edge with ports := [], lost := 0 } } : State).edgeInit).releaseFence 72 (fun f => { f with reset := false })
  if s3.edge.loaded && (s3.edge.parityBad || decide (st = 1)) then s3.edgeState 1 else s3.edgeStart

/-- The clearing of a block. -/
def State.clearBlock (s : State) (b : Nat) : State :=
  if b ≤ 0x03 then s.kBlockReset b
  else if 0x08 ≤ b ∧ b ≤ 0x0F then s.clearPort (b - 8)
  else if 0x10 ≤ b ∧ b ≤ 0x17 then
    let e := b - 0x10
    (s.failEngine e).resetRegs 1 (inBlock (0x3010000 + 0x1000 * e) 0x1000)
  else if 0x20 ≤ b ∧ b ≤ 0x2F then (s.moved (b - 0x20) 0).resetRegs 1 (inBlock (0x3400000 + 0x40 * (b - 0x20)) 0x40)
  else if b = 0x30 then s.clearEdge
  else s

/-- Whether a block code names a block (R395). -/
def isBlock (b : Nat) : Bool :=
  decide (b ≤ 3) || (decide (8 ≤ b) && decide (b ≤ 0x17)) || (decide (0x20 ≤ b) && decide (b ≤ 0x30))

/-! ## The module (R388) -/

/-- A STORE cut by a reset leaves its bank torn, with bytes that nothing states, and the previous bank in effect (R420, log entry 30). -/
def State.cutStore (s : State) : State :=
  match s.sec.store with
  | none => s
  | some j =>
    let bs := (List.range j.bytes.length).map (fun i => BitVec.ofNat 8 (Config.freeFunction 8 [s.free, i]))
    { s.useFree with nvm := writeBytes s.nvm j.off bs, sec := { s.sec with store := none, torn := j.off :: s.sec.torn.filter (· ≠ j.off) } }

/-- A sequencer across a warm reset: which ROM addresses have failed a check since the last cold reset, and whether it is disabled (R219). -/
def Seq.warm (q : Seq) : Seq := { Seq.reset with checked := q.checked, disabled := q.disabled }

/-- The clearing of a warm (3) or cold (4) reset (R388). What it makes undefined reads as memory that nothing has written (log entry 3). The option
bytes in effect stand until the release applies those of the store (R400, R401). -/
def State.clearModule (s0 : State) (reach : Nat) : State :=
  let cold := decide (4 ≤ reach)
  let s := s0.cutStore.resetRegs reach (fun o => !inBlock 0x100100 0x100 o)
  let s1 : State := { s with
    shadow := [], peMem := [], pes := [], parts := [], imem := [], hearth := [], patches := []
    seqs := if cold then [] else (s.seqs.map (fun e => (e.1, e.2.warm))).filter (fun e => decide (e.2 ≠ Seq.reset))
    hbm := if cold then [] else s.hbm, saved := if cold then [] else s.saved
    mesh := [], net := Net.reset, maint := [], cordBad := [], links := [], flows := [], fences := [], staging := [], dma := [], edge := Edge.reset, kdl := Kindling.reset
    ports := (s.ports.map (fun e => (e.1, { Port.reset with cable := e.2.cable }))).filter (fun e => decide (e.2 ≠ Port.reset))
    fabric := Fabric.reset, detected := [], recovery := [], recLog := if cold then [] else s.recLog
    softRepair := if cold then [] else s.softRepair, march := [], loader := none
    sec := { Sec.reset with torn := s.sec.torn }, dbg := Debug.reset, rings := [], ep := Endpoint.reset }
  s1.each 8 (fun n t => if t.get (Reg.HBM_STAT_STATE n) = 4 then t.set (Reg.HBM_STAT_STATE n) 2 else t)

/-! ## The idle request (R394) -/

/-- The target code of a partition or block in the controller. -/
def targetKey : ResetTarget → Option Nat
  | .module => none
  | .part p => some p
  | .block b => some (256 + b)

/-- The fence domains of a target. -/
def State.targetDomains (s : State) (key : Nat) : List Nat :=
  if key < 4 then s.turfsOf key
  else if 264 ≤ key ∧ key ≤ 271 then [80 + (key - 264)]
  else if key = 304 then [72]
  else []

/-- A recovery of the partition is abandoned, unless it is the reset itself (R376). -/
def State.abandonRecovery (s : State) (p : Nat) : State :=
  match s.recov p with
  | some r => if r.action = 3 then s else (s.setRecov p none).set (Reg.RST_RECSTAT_STATE p) 0
  | none => s

/-- The idle request begins: fences with OWNER = 1, the sequencer stops at its next boundary, an engine or channel stops (R394). -/
def State.beginIdle (s : State) (key : Nat) : State :=
  let s1 :=
    if key < 4 then
      let t := (s.set ⟨Reg.RST_STAT_PARTRST.off, key, key⟩ 1).abandonRecovery key
      let st := t.get (Reg.SEQ_STATE_STATE key)
      if st = seqRunning ∨ st = seqWaiting then (t.setSeq key { t.seq key with stopReq := true, waiting := none }).takeStop key else t
    else if key ≤ 259 then s.kStop (key - 256)
    else if 288 ≤ key ∧ key ≤ 303 ∧ s.get (Reg.DMA_STAT_STATE (key - 288)) = 1 then s.dmaStop (key - 288) [] []
    else s
  let s2 := (s1.targetDomains key).foldl (fun t d => t.holdFence d (fun f => { f with reset := true })) s1
  if key = 304 ∧ s2.get Reg.EDG_STAT_STATE = 4 then s2.edgeFenced else s2

/-- The traffic of a partition in flight is discarded (R394). -/
def State.dropTraffic (s : State) (key : Nat) : State :=
  if key < 4 then
    let t := s.part key
    let s1 := s.setPart key { t with issue := [], draught := [], buffer := [], taken := 0, landing := [] }
    { s1 with links := s1.links.filter (fun l => decide (l.part ≠ key)) }
  else s

/-- A target whose reset is asserted while REFCLK is absent is held in reset: no sequence begins, but nothing in it goes on (R390; log entry 29). -/
def State.holdTarget (s : State) (key : Nat) : State :=
  if key < 4 then
    let t := (s.set ⟨Reg.RST_STAT_PARTRST.off, key, key⟩ 1).dropTraffic key
    let u := t.setSeq key { t.seq key with micro := none, waiting := none }
    if u.get (Reg.SEQ_STATE_STATE key) = seqFaulted then u else u.set (Reg.SEQ_STATE_STATE key) seqStopped
  else if key ≤ 259 then s.kStop (key - 256)
  else if 264 ≤ key ∧ key ≤ 271 then s.linkDown (key - 264) (s.get (Reg.FAB_PSTAT_REASON (key - 264)))
  else if 288 ≤ key ∧ key ≤ 303 ∧ s.get (Reg.DMA_STAT_STATE (key - 288)) = 1 then s.set (Reg.DMA_STAT_STATE (key - 288)) 3
  else if key = 304 then ({ s with edge := { s.edge with pins := 0, ev := 0, ek := 0, ekWas := 0 } } : State).edgeState 5
  else s

/-- Whether a packet that `mine` takes has begun and not ended entering the mesh. -/
def Net.injecting (n : Net) (mine : Packet → Bool) : Bool :=
  n.entering.any (fun e => e.2.head?.any (fun f => decide (f.idx ≠ 0) && mine f.pkt))

/-- Whether a staging engine's packet is in progress: on its way into the mesh, or in a run of a flow (R394). -/
def State.engineSends (s : State) (e : Nat) : Bool :=
  s.net.injecting (fun k => decide (k.sport = xPort e) && decide (tileDie k.src = e / 2)) ||
    (s.stg e).any (fun x => decide (x.desc.dir = 0) && x.left.any (fun l => decide (l.2 ≠ 0)))

/-- Idle beats until no packet that `mine` takes is on its way into the mesh, at most `n`. -/
def State.letIn (mine : Packet → Bool) : Nat → State → State
  | 0, s => s
  | n + 1, s => if s.net.injecting mine then State.letIn mine n (s.meshBeat none none) else s

/-- The packets of a target in progress leave their engine (R394). -/
def State.finishPackets (s : State) (key : Nat) : State :=
  let mine (k : Packet) : Bool :=
    (decide (k.sport = 5) || decide (k.sport = 6)) && (if key < 4 then decide (k.part = key)
      else decide (272 ≤ key) && decide (k.sport = xPort (key - 272)) && decide (tileDie k.src = (key - 272) / 2))
  State.letIn mine 4096 s

/-- Whether a target is idle (R394). -/
def State.targetIdle (s : State) (key : Nat) : Bool :=
  (s.targetDomains key).all (fun d => decide (3 ≤ s.phase d)) &&
  (if key < 4 then
    let st := s.get (Reg.SEQ_STATE_STATE key)
    decide (st ≠ seqRunning) && decide (st ≠ seqWaiting) && (s.seq key).micro.isNone && (s.part key).drained &&
      !s.links.any (fun l => decide (l.part = key)) &&
      !s.net.injecting (fun k => (decide (k.sport = 5) || decide (k.sport = 6)) && decide (k.part = key))
  else if key ≤ 259 then decide (s.get (Reg.KDL_ESTAT_STATE (key - 256)) ≠ 1)
  else if 288 ≤ key ∧ key ≤ 303 then decide (s.get (Reg.DMA_STAT_STATE (key - 288)) ≠ 1)
  else if 272 ≤ key ∧ key ≤ 279 then !s.engineSends (key - 272)
  else true)

/-- A pending target reset replaced. -/
def State.setTarget (s : State) (key : Nat) (x : Option Pending) : State :=
  { s with rst := { s.rst with targets := SMap.put none s.rst.targets key x } }

/-! ## Assertions (R389-R391) -/

/-- The larger of two asserted reaches with its source; the earlier on a tie. -/
def widest (old : Option (Nat × Nat)) (reach src : Nat) : Nat × Nat :=
  match old with
  | some x => if x.1 < reach then (reach, src) else x
  | none => (reach, src)

/-- A warm (3) or cold (4) assertion: it covers every partition and block and abandons their sequences (R391). A boot not yet complete keeps
its reach. -/
def State.assertModule (s : State) (src reach detail : Nat) : State :=
  let i := s.ashNext
  let s1 := s.ashAppend src reach 0 detail (!s.rst.targets.isEmpty)
  let old := match s1.rst.module with | some x => some (x.reach, x.src) | none => s1.rst.boot
  let w := widest old reach src
  ({ s1 with rst := { s1.rst with module := some ⟨w.1, w.2, true, some i⟩, targets := [], boot := none } } : State).clearModule w.1

/-- A partition (2) or block (1) assertion on the target `key` (R391); covered by a module reset where one is asserted. The idle request
begins while REFCLK is present; without it the target is held (R390). -/
def State.assertTarget (s : State) (src reach key detail : Nat) : State :=
  let i := s.ashNext
  let s1 := s.ashAppend src reach (key % 256) detail false
  if s1.rst.module.isSome then s1
  else if (SMap.get none s1.rst.targets key).isSome then s1
  else
    let s2 := s1.setTarget key (some ⟨reach, src, false, some i⟩)
    if s2.rst.refclk then s2.beginIdle key else s2.holdTarget key

/-- A reset requested with a reach and a target as RST_CTL codes them; other values are ignored (R389, R395, R411). -/
def State.requestReset (s : State) (src reach target : Nat) : State :=
  match reach with
  | 1 => if isBlock target then s.assertTarget src 1 (256 + target) 0 else s
  | 2 => if target < 4 then s.assertTarget src 2 target 0 else s
  | 3 => s.assertModule src 3 0
  | 4 => s.assertModule src 4 0
  | _ => s

end Sys2Proof.Machine
end

