-- ==== Sys2Proof/Machine/Store.lean ====
section
/-!
DEFINITION. The non-volatile store (R399-R401, R419-R422): its areas and banks, the option bytes, the keys, the soft repair records, the
commands STORE and SVNBURN, and attestation (R417, R418). The offsets are byte addresses of the store.
-/
namespace Sys2Proof.Machine

/-! ## Banks (R399, R400, R419) -/

/-- `n` bytes of the store at `a`. -/
def State.nvmBytes (s : State) (a n : Nat) : List Byte := readBytes s.nvm a n

/-- The two banks of an area and their size; the option copies are the banks of area 0 (R419). -/
def areaBanks (area : Nat) : Nat × Nat × Nat :=
  match area with
  | 0 => (0x0, 0x1000, 264)
  | 1 | 2 => (0x10000, 0x18000, 0x8000)
  | 3 => (0x20000, 0x24000, 0x4000)
  | 4 => (0x28000, 0x29000, 0x1000)
  | _ => (0x100000, 0x480000, 0x380000)

/-- The offset of bank `b` of an area. -/
def bankAt (area b : Nat) : Nat := if b = 0 then (areaBanks area).1 else (areaBanks area).2.1

/-- Whether the area codes of a header and of an area agree; the two key codes name one area (log entry 30). -/
def sameArea (a b : Nat) : Bool := decide (a = b) || (decide (a = 1 ∨ a = 2) && decide (b = 1 ∨ b = 2))

/-- Whether a 32-byte header is that of a bank of the area (R419). -/
def headerOk (area : Nat) (h : List Byte) : Bool :=
  decide (h.take 4 = [0x5A, 0x4E, 0x56, 0x42]) && sameArea (leNat ((h.drop 4).take 1)) area && ((h.drop 5).take 3).all (fun b => decide (b = 0)) &&
  ((h.drop 20).take 8).all (fun b => decide (b = 0)) && decide (leNat ((h.drop 28).take 4) = (Config.crc32 (h.take 28)).toNat)

/-- SEQ and LEN of a bank's header. -/
def headSeq (h : List Byte) : Nat := leNat ((h.drop 8).take 4)
def headLen (h : List Byte) : Nat := leNat ((h.drop 12).take 4)

/-- The SEQ of a bank, where the bank is valid (R399, R419, R420). -/
def State.bankSeq (s : State) (area b : Nat) : Option Nat :=
  let off := bankAt area b
  if s.sec.torn.contains off then none
  else if area = 0 then
    let bs := s.nvmBytes off 264
    if leNat (bs.drop 260) = (Config.crc32 (bs.take 260)).toNat then some (leNat ((bs.drop 256).take 4)) else none
  else
    let h := s.nvmBytes off 32
    let n := headLen h
    if headerOk area h && decide (n ≤ (areaBanks area).2.2 - 32) &&
        decide (leNat ((h.drop 16).take 4) = (Config.crc32 (s.nvmBytes (off + 32) n)).toNat)
    then some (headSeq h) else none

/-- Which of two banks with their SEQs is in effect (R400). -/
def chooseBank (a b : Option Nat) : Option (Nat × Nat) :=
  match a, b with
  | some x, some y =>
    let d := (y + 2 ^ 32 - x) % 2 ^ 32
    if 1 ≤ d ∧ d ≤ 2 ^ 31 - 1 then some (1, y) else some (0, x)
  | some x, none => some (0, x)
  | none, some y => some (1, y)
  | none, none => none

/-- The bank in effect of an area, with its SEQ. -/
def State.bankIn (s : State) (area : Nat) : Option (Nat × Nat) := chooseBank (s.bankSeq area 0) (s.bankSeq area 1)

/-- The content bytes of the bank in effect. -/
def State.areaContent (s : State) (area : Nat) : List Byte :=
  match s.bankIn area with
  | some (b, _) => s.nvmBytes (bankAt area b + 32) (headLen (s.nvmBytes (bankAt area b) 32))
  | none => []

/-- NVM_AREA shows the banks in effect; both key codes show the key area (R435, log entry 30). -/
def State.showAreas (s : State) : State :=
  s.each 6 (fun a t =>
    match (if a = 0 then (if s.get Reg.RST_OPTSTAT_COPY = 2 then none else some (s.get Reg.RST_OPTSTAT_COPY, s.get Reg.RST_OPTSEQ_SEQ))
      else s.bankIn a) with
    | some (b, q) => ((t.set (Reg.NVM_AREA_BANK a) b).set (Reg.NVM_AREA_VALID a) 1).set (Reg.NVM_AREA_SEQ a) q
    | none => ((t.set (Reg.NVM_AREA_BANK a) 0).set (Reg.NVM_AREA_VALID a) 0).set (Reg.NVM_AREA_SEQ a) 0)

/-! ## Option bytes at a release (R400, R422) -/

/-- The option bytes take effect; PWEN reads 0 on the L128K (R422). -/
def State.applyOptionBytes (s : State) (bs : List Byte) : State :=
  let byte (i : Nat) : Byte := let b := bs.getD i 0; if i = 16 ∧ Config.keyed = true then b &&& 0xFE else b
  s.each 64 (fun i t => t.set (Reg.RST_OPT_BYTES i) (leNat ((List.range 4).map (fun j => byte (4 * i + j)))))

/-- Both copies are read and one of them, or the safe defaults, applied (R400). The safe default of every byte is 0 (R401, R422). -/
def State.loadOptions (s : State) : State :=
  let s1 := (s.set Reg.RST_OPTSTAT_BAD0 (bnat (s.bankSeq 0 0).isNone)).set Reg.RST_OPTSTAT_BAD1 (bnat (s.bankSeq 0 1).isNone)
  match s.bankIn 0 with
  | some (c, q) => ((s1.set Reg.RST_OPTSTAT_COPY c).set Reg.RST_OPTSEQ_SEQ q).applyOptionBytes (s.nvmBytes (bankAt 0 c) 256)
  | none => ((s1.set Reg.RST_OPTSTAT_COPY 2).set Reg.RST_OPTSEQ_SEQ 0).applyOptionBytes []

/-! ## Keys (R412, R413, R421, R435) -/

/-- The key area's content: 32 slots of 296 bytes, an empty one all zero, then 64 KEYIDs of 8 bytes, 0 for none (log entry 30). -/
def keyContent (certs : SMap (List Byte)) (revoked : List Nat) : List Byte :=
  (List.range 32).flatMap (fun i => (SMap.get [] certs i ++ leBytes 296 0).take 296) ++
    (List.range 64).flatMap (fun i => leBytes 8 (revoked.getD i 0))

/-- The certificates and revoked KEYIDs of a key area's content. -/
def contentCerts (c : List Byte) : SMap (List Byte) :=
  (List.range 32).filterMap (fun i =>
    let x := (c.drop (296 * i)).take 296
    if x.length = 296 ∧ x.any (fun b => decide (b ≠ 0)) then some (i, x) else none)
def contentRevoked (c : List Byte) : List Nat :=
  ((List.range 64).map (fun i => leNat ((c.drop (9472 + 8 * i)).take 8))).filter (fun k => decide (k ≠ 0))

/-- SEC_KEY shows the installed certificates (R435). -/
def State.showKeys (s : State) : State :=
  s.each 32 (fun i t =>
    let c := SMap.get [] s.sec.certs i
    let v := !c.isEmpty
    let n (x : Nat) : Nat := if v then x else 0
    ((((t.setReg (Reg.SEC_KEY_KEYID i).off (BitVec.ofNat 64 (n (certKeyId c)))).set (Reg.SEC_KEYW2_V i) (bnat v)).set (Reg.SEC_KEYW2_DBGLEVEL i)
      (n (certLevel c))).set (Reg.SEC_KEYW2_ISSUER i) (n (certIssuer c))).set (Reg.SEC_KEYW2_PURPOSE i) (n (certPurpose c)))

/-- The roots are checked and the certificates installed at a release (R412). -/
def State.loadKeys (s : State) : State :=
  let ok (i : Nat) : Bool := decide (Config.sha512 (Config.rootKey i) = Config.rootKeyHash i)
  let s1 := (s.set Reg.SEC_STAT_FROOT (bnat (ok 0))).set Reg.SEC_STAT_CROOT (bnat (Config.keyed && ok 1))
  let c := s1.areaContent 1
  ({ s1 with sec := { s1.sec with certs := contentCerts c, revoked := contentRevoked c } } : State).showKeys

/-! ## Soft repairs (R380) -/

/-- A soft repair record. -/
def softRecord (seq : Nat) (retire : Bool) (tile col : Nat) : W64 :=
  BitVec.ofNat 64 (seq % 2 ^ 32 * 2 ^ 32 + 2 ^ 31 + bnat retire * 2 ^ 30 + tile * 2 ^ 16 + col)
def softSeq (r : W64) : Nat := getField r 63 32
def softRetire (r : W64) : Bool := getField r 30 30 = 1
def softTile (r : W64) : Nat := getField r 25 16
def softCol (r : W64) : Nat := getField r 5 0

/-- Whether a later record of the list speaks of the same tile, or of the same turf. -/
def softReplaced (r : W64) (later : List W64) : Bool :=
  later.any (fun x => softRetire x == softRetire r &&
    (if softRetire r then decide (turfOfTile (softTile x) = turfOfTile (softTile r)) else decide (softTile x = softTile r)))

/-- The latest record of each tile and of each turf, in order. -/
def latestSoft : List W64 → List W64
  | [] => []
  | r :: rs => if softReplaced r rs then latestSoft rs else r :: latestSoft rs

/-- Records in ascending SEQ order. -/
def insertSoft (r : W64) : List W64 → List W64
  | [] => [r]
  | x :: xs => if softSeq x ≤ softSeq r then x :: insertSoft r xs else r :: x :: xs
def sortSoft (rs : List W64) : List W64 := rs.foldl (fun a r => insertSoft r a) []

/-! ## STORE (R401, R420, R421) -/

/-- The STORE outcome codes (R420). -/
def storeBusy : Nat := 1
def storeArea : Nat := 2
def storeLen : Nat := 3
def storeSrc : Nat := 4
def storeSig : Nat := 5
def storeKeyfull : Nat := 6
def storeRevoked : Nat := 7
def storeWritefail : Nat := 8

/-- Whether a level code falls or stays; 3 is treated as 0 (R422). -/
def levelOk (old new : Nat) : Bool := decide ((if new = 3 then 0 else new) ≤ (if old = 3 then 0 else old))

/-- Whether a guarded option byte keeps its value or tightens (R421, R422); byte 2 tightens in no way that the manual states. -/
def optionTightens (old new : List Byte) : Bool :=
  let o (i : Nat) : Nat := (old.getD i 0).toNat
  let n (i : Nat) : Nat := (new.getD i 0).toNat
  let lim (v : Nat) : Nat := if v = 0 then 1 else v
  let idleO := o 20 + 256 * o 21
  let idleN := n 20 + 256 * n 21
  decide (n 2 = o 2) && decide (n 16 &&& (o 16 ||| 0xFC) = n 16) && decide (n 16 / 4 = o 16 / 4) &&
  decide (n 17 / 4 = o 17 / 4) && levelOk (o 17 % 4) (n 17 % 4) && decide (n 18 / 4 = o 18 / 4) && levelOk (o 18 % 4) (n 18 % 4) &&
  decide (lim (n 19) ≤ lim (o 19)) && (decide (idleN = idleO) || (decide (idleN ≠ 0) && (decide (idleO = 0) || decide (idleN < idleO)))) &&
  ((List.range 64).all (fun i => decide (n (32 + i) = o (32 + i))) || (decide (o 16 % 2 = 1) && decide (n 16 % 2 = 0)))

/-- The option bytes in effect. -/
def State.optionBytes (s : State) : List Byte := (List.range 64).flatMap (fun i => leBytes 4 (s.get (Reg.RST_OPT_BYTES i)))

/-- Whether a signed option source is authorised: serial, bytes and KEYID under an OPTIONS key (R421). -/
def State.optionSigned (s : State) (src : List Byte) : Bool :=
  match s.authorised (leNat ((src.drop 256).take 8)) purposeOptions with
  | some k => verifies k (leBytes 8 Config.serial.toNat ++ src.take 264) (src.drop 264)
  | none => false

/-- Whether a revoke record is well formed and signed by the issuer of the installed key (R421). -/
def State.revokeOk (s : State) (c : List Byte) : Bool :=
  match s.installed (certKeyId c) with
  | some (_, k) => decide (certPurpose c = 0) && (certKey c).all (fun b => decide (b = 0)) && decide (certIssuer c = certIssuer k) && s.certSigned c
  | none => false

/-- The key area after an add or a revoke, or the code that refuses it. -/
def State.keyChange (s : State) (area : Nat) (c : List Byte) : Except Nat (SMap (List Byte) × List Nat) :=
  let id := certKeyId c
  if area = 1 then
    if id ≤ 1 ∨ s.sec.revoked.contains id = true then .error storeRevoked
    else if !s.certSigned c || decide (bitAt (certPurpose c) purposeIdentity = 1) ||
        !(List.range 6).all (fun k => decide (bitAt (certPurpose c) k = 0) || issuerPermitted (certIssuer c) k) then .error storeSig
    else match s.installed id with
      | some (n, _) => .ok (SMap.put [] s.sec.certs n c, s.sec.revoked)
      | none => match (List.range 32).find? (fun n => (SMap.get [] s.sec.certs n).isEmpty) with
        | some n => .ok (SMap.put [] s.sec.certs n c, s.sec.revoked)
        | none => .error storeKeyfull
  else
    if id ≤ 1 ∨ s.sec.revoked.contains id = true then .error storeRevoked
    else if !s.revokeOk c then .error storeSig
    else if 64 ≤ s.sec.revoked.length then .error storeKeyfull
    else match s.installed id with
      | some (n, _) => .ok (SMap.put [] s.sec.certs n [], s.sec.revoked ++ [id])
      | none => .error storeSig

/-- The backup domain as the Ash copy holds it: counters, head, time, records, PWR_STAT, the thermal hold and FAB_RCNT; the manual does not lay
it out (R398, R419, log entry 30). -/
def State.backupImage (s : State) : List Byte :=
  (List.range 16).flatMap (fun c => leBytes 2 (s.get (Reg.RST_ASHCNT_COUNT c))) ++ leBytes 4 (s.reg Reg.RST_ASHHEAD_NEWEST.off).toNat ++
    leBytes 8 (s.get Reg.RST_ASHTIME_MS) ++
    (List.range 32).flatMap (fun i => (List.range 4).flatMap (fun j => leBytes 4 (s.get (Reg.RST_ASHREC_RECORD i j)))) ++
    leBytes 4 (s.reg Reg.PWR_STAT_REFLOSS.off).toNat ++ leBytes 4 (bnat s.rst.hold) ++ leBytes 8 (s.reg Reg.FAB_RCNT_COUNT.off).toNat

/-- The content a STORE writes, with the certificate it adds or revokes; or the code that refuses it (R420, R421). Checks come in the order AREA,
LEN, SRC, then the content (log entry 30). -/
def State.storeContent (s : State) (area : Nat) : Except Nat (List Byte × List Byte) :=
  let n := s.get Reg.NVM_LEN_LEN
  let a := s.get Reg.NVM_SRC_ADDR
  let src := s.hearthRead a n
  let inside := decide (0x1000000 ≤ a) && decide (a + n ≤ 0x2000000)
  match area with
  | 0 =>
    if n ≠ 256 ∧ n ≠ 396 then .error storeLen
    else if !inside then .error storeSrc
    else if n = 256 then (if optionTightens s.optionBytes src then .ok (src, []) else .error storeSig)
    else if s.optionSigned src then .ok (src.take 256, []) else .error storeSig
  | 1 | 2 =>
    if n ≠ 296 then .error storeLen
    else if !inside then .error storeSrc
    else match s.keyChange area src with
      | .ok k => .ok (keyContent k.1 k.2, src)
      | .error c => .error c
  | 3 => .ok ((latestSoft s.softRepair).flatMap (fun r => leBytes 8 r.toNat), [])
  | 4 => .ok (s.backupImage, [])
  | 5 => if 0x380000 - 32 < n then .error storeLen else if !inside then .error storeSrc else .ok (src, [])
  | _ => .error storeArea

/-- The bytes of a new bank: header and content, or an option copy (R399, R419). -/
def bankBytes (area seq : Nat) (content : List Byte) : List Byte :=
  if area = 0 then
    let b := content ++ leBytes 4 seq
    b ++ leBytes 4 (Config.crc32 b).toNat
  else
    let h := [0x5A, 0x4E, 0x56, 0x42] ++ leBytes 4 area ++ leBytes 4 seq ++ leBytes 4 content.length ++
      leBytes 4 (Config.crc32 content).toNat ++ leBytes 8 0
    h ++ leBytes 4 (Config.crc32 h).toNat ++ content

/-- A STORE ends (R420): DONE, the code, and its event. -/
def State.endStore (s : State) (code : Nat) : State :=
  (((s.set Reg.NVM_STAT_BUSY 0).set Reg.NVM_STAT_DONE 1).set Reg.NVM_STAT_CODE code).raise (if code = 0 then 0x1E5 else 0x1E6)

/-- The bank a STORE writes and its SEQ (R401, R420): the option copy not in effect since the release, else the bank not in effect; bank 0 and
SEQ 1 where none is. -/
def State.storeBank (s : State) (area : Nat) : Nat × Nat :=
  if area = 0 then
    if s.get Reg.RST_OPTSTAT_COPY = 2 then (0, 1) else (1 - s.get Reg.RST_OPTSTAT_COPY, (s.get Reg.RST_OPTSEQ_SEQ + 1) % 2 ^ 32)
  else match s.bankIn area with
    | some (b, q) => (1 - b, (q + 1) % 2 ^ 32)
    | none => (0, 1)

/-- STORE (R420): the bank not in effect is chosen and its bytes are taken; a refused STORE ends at once. The signature engine's wait costs
time only (R416). -/
def execStore (area : BitVec 3) (s : State) : Res :=
  if s.moduleReset then .next s
  else if s.sec.store.isSome then .next (s.set Reg.NVM_STAT_CODE storeBusy)
  else
    match s.storeContent area.toNat with
    | .error c => .next (s.endStore c)
    | .ok (content, cert) =>
      let b := s.storeBank area.toNat
      let j : StoreJob := ⟨area.toNat, bankAt area.toNat b.1, bankBytes area.toNat b.2 content, cert⟩
      .next (({ s with sec := { s.sec with store := some j } } : State).set Reg.NVM_STAT_BUSY 1)

/-- What a successful STORE puts into effect (R380, R421, R426). -/
def State.storeEffect (s : State) (j : StoreJob) : State :=
  match j.area with
  | 0 => (s.set Reg.DBG_STAT_LOCKED 0).set Reg.DBG_STAT_FAILS 0
  | 1 | 2 =>
    let c := j.bytes.drop 32
    ({ s with sec := { s.sec with certs := contentCerts c, revoked := contentRevoked c } } : State).showKeys
  | _ => s

/-- STORE_COMPLETE: the bank is read back; where it matches it is in effect, option bytes from the next release on; otherwise it is torn
(R401, R420). -/
def execStoreComplete (good : Bool) (s : State) : Res :=
  match s.sec.store with
  | none => .next s
  | some j =>
    let rest := s.sec.torn.filter (fun o => decide (o ≠ j.off))
    if good then
      let s1 : State := { s with nvm := writeBytes s.nvm j.off j.bytes, sec := { s.sec with store := none, torn := rest } }
      .next (((s1.storeEffect j).showAreas).endStore 0)
    else .next ((s.cutStore.showAreas).endStore storeWritefail)

/-- STORE_READ_DATA: the word at NVM_RDADDR, which then advances by 4 (R435). -/
def execStoreReadData (s : State) : Res := .next ((s.send (.readData s.rdWord)).rdNext)

/-- SVNBURN: the fused minimum becomes the SVN of the firmware in effect (R417). -/
def execSvnburn (s : State) : Res := if s.moduleReset then .next s else .next (s.set Reg.SEC_SVN_MIN (s.get Reg.SEC_SVN_CUR))

/-! ## Attestation (R416, R418) -/

/-- SEC_STAT.ENGBUSY shows whether a request of the signature engine is under way: a report, or a remote command (R416). -/
def State.showEngine (s : State) : State := s.set Reg.SEC_STAT_ENGBUSY (bnat (s.sec.report.isSome || s.fabric.rcmd.isSome))

/-- The report without its signature, with the measurements of this cycle (R418). -/
def State.reportBody (s : State) : List Byte :=
  let flags := bnat Config.keyed + 2 * s.get Reg.HST_SIFSTAT_DIRECT + 4 * s.get Reg.DBG_STAT_OPEN + 8 * s.get Reg.DBG_STAT_FULLSEEN +
    16 * bnat (s.get Reg.RST_OPTSTAT_COPY = 2) + 32 * bnat (decide (s.get Reg.RST_BOOT_HBMFAIL ≠ 0))
  [0x5A, 0x41, 0x54, 0x52] ++ leBytes 2 1 ++ leBytes 2 flags ++ leBytes 8 Config.serial.toNat ++
    (List.range 16).flatMap (fun i => leBytes 4 (s.get (Reg.SEC_NONCE_NONCE i))) ++ hashBytes s.sec.fwHash ++ s.sifHash ++
    (List.range 4).flatMap (fun p => hashBytes (s.patch p).hash) ++ hashBytes (Config.sha512 s.optionBytes) ++
    leBytes 4 (s.get Reg.SEC_SVN_CUR) ++ leBytes 4 (s.get Reg.SEC_SVN_MIN) ++ leBytes 8 (s.get Reg.RST_ASHTIME_MS)

/-- ATTESTATION: a GO written while a report is in progress is ignored (R418). -/
def execAttestation (s : State) : Res :=
  if s.sec.report.isSome then .next s
  else
    let s1 : State := { s with sec := { s.sec with report := some s.reportBody } }
    .next (((s1.set Reg.SEC_ATTCTL_DONE 0).set Reg.SEC_ATTCTL_BUSY 1).showEngine)

/-- ATTESTATION_DONE: the signed report is in SEC_ATTREP and DONE is set (R418, R434). -/
def execAttestationDone (s : State) : Res :=
  match s.sec.report with
  | none => .next s
  | some b =>
    let r := b ++ Config.identitySign (Config.sha512 b)
    let s1 : State := { s with sec := { s.sec with report := none } }
    let s2 := s1.each 169 (fun i t => t.set (Reg.SEC_ATTREP_REPORT i) (leNat ((r.drop (4 * i)).take 4)))
    .next ((((s2.set Reg.SEC_ATTCTL_DONE 1).set Reg.SEC_ATTCTL_BUSY 0).showEngine).raise 0x1E7)

end Sys2Proof.Machine
end

