-- ==== Sys2Proof/Machine/Boot.lean ====
section
/-!
DEFINITION. Boot (R254, R400-R404, R417, R220, R222, R379-R383): the ledger of a cold or warm release as one command, the training of the
stacks, and READY.
-/
namespace Sys2Proof.Machine

/-! ## Repairs (R379-R381) -/

/-- A fuse repair record; the first record of a tile applies (R379). -/
def State.applyFuse (s : State) (r : W32) : State :=
  let t := bitsOf r.toNat 25 16
  if r.getLsbD 31 = false ∨ s.flag (Reg.RST_RMAP_V t) = true then s
  else ((s.set (Reg.RST_RMAP_V t) 1).set (Reg.RST_RMAP_SRC t) 0).set (Reg.RST_RMAP_COL t) (bitsOf r.toNat 5 0)

/-- A turf is retired: its tiles show it, and its HST_WDRAW bit is set (R381). -/
def State.retireTurf (s : State) (t : Nat) : State :=
  ((tilesOfTurf t).foldl (fun u k => u.set (Reg.RST_RMAP_RET k) 1) s).withdraw t

/-- A soft repair record takes effect at boot; a fuse repair at another column stands, with CONFLICT (R380). -/
def State.applySoft (s : State) (r : W64) : State :=
  let t := softTile r
  if softRetire r then s.retireTurf (turfOfTile t)
  else if s.flag (Reg.RST_RMAP_V t) && decide (s.get (Reg.RST_RMAP_SRC t) = 0) then
    (if s.get (Reg.RST_RMAP_COL t) = softCol r then s else s.set (Reg.RST_RMAP_CONFLICT t) 1)
  else ((s.set (Reg.RST_RMAP_V t) 1).set (Reg.RST_RMAP_SRC t) 1).set (Reg.RST_RMAP_COL t) (softCol r)

/-- The records of the repair area's content that are valid. -/
def contentSoft (c : List Byte) : List W64 :=
  ((List.range (c.length / 8)).map (fun i => BitVec.ofNat 64 (leNat ((c.drop (8 * i)).take 8)))).filter (fun r => r.getLsbD 31)

/-- Soft repairs in ascending SEQ order (R380): those of the store at a cold release; at a warm one the working records, which the repair map
has kept. -/
def State.loadRepairs (s : State) (cold : Bool) : State :=
  let s1 : State := if cold then { s with softRepair := sortSoft (contentSoft (s.areaContent 3)) } else s
  s1.softRepair.foldl (fun (t : State) (r : W64) => t.applySoft r) s1

/-! ## Firmware (R404, R417) -/

/-- A firmware container in boot flash. -/
def State.firmware (s : State) (base : Nat) : List Byte :=
  readBytes s.flash base (156 + min (leNat (readBytes s.flash (base + 8) 4)) (0x400000 - 156))
/-- SVN of a container. -/
def fwSvn (c : List Byte) : Nat := natAt c 4 4

/-- Whether a firmware slot verifies (R417). -/
def State.fwOk (s : State) (base : Nat) : Bool :=
  let c := s.firmware base
  decide (c.take 4 = [0x5A, 0x46, 0x57, 0x49]) && zeroAt c 12 4 && decide (natAt c 8 4 ≤ 0x400000 - 156) && s.signedBy c purposeFirmware &&
  decide (s.get Reg.SEC_SVN_MIN ≤ fwSvn c)

/-- The firmware of slot A, else of slot B, else FWFAIL (R404). -/
def State.loadFirmware (s : State) : State :=
  let use (slot base : Nat) : State :=
    let c := s.firmware base
    let s1 : State := { s with sec := { s.sec with fwHash := Config.sha512 c } }
    ((s1.set Reg.SEC_SVN_CUR (fwSvn c)).set Reg.RST_BOOT_FWSLOT slot).set Reg.SEC_STAT_FWSLOT slot
  if s.fwOk 0x100000 then use 0 0x100000
  else if s.fwOk 0x500000 then use 1 0x500000
  else s.set Reg.RST_BOOT_FWFAIL 1

/-! ## Sweep and march (R219, R220, R383) -/

/-- Sequencer `p` starts disabled (R219, R220). -/
def State.disableSeq (s : State) (p : Nat) : State :=
  (s.setSeq p { s.seq p with disabled := true }).set Reg.RST_SEQDIS_DIS (s.get Reg.RST_SEQDIS_DIS ||| 2 ^ p)

/-- The ROM sweep found a parity error in a store of sequencer `p`: the machine check that R219 takes as the second one, which the Ash log holds
as PARITY, and the sequencer starts disabled (R217, R219, R220). Which word failed is free (log entry 46). -/
def State.sweepError (s : State) (p : Nat) : State :=
  let v := s.freeValue.toNat
  let store := v % 2
  let addr := v / 2 % (if store = 0 then 0x4000 else 0x1000)
  ((s.useFree.ashAppend 9 0 p (store * 2 ^ 60 + p * 2 ^ 56 + addr) false).raise (0x0A4 + p)).disableSeq p

/-- The ROM sweep found an error in some sequencers. -/
def State.romSweep (s : State) (bad : BitVec 4) : State := s.each 4 (fun p t => if bad.getLsbD p then t.sweepError p else t)

/-- The place of a tile in its turf, row-major. -/
def tileInTurf (k : Nat) : Nat := 4 * (k / 32 % 4) + k % 4

/-- What a march found in tile `k`, as RST_MTMAP shows it (R387). -/
def State.marchTile (s : State) (k : Nat) (m : MarchTile) : State :=
  let t := turfOfTile k
  let j := tileInTurf k
  let s1 := (s.set (Reg.RST_MTMAPLO_LO t j) m.cols.toNat).set (Reg.RST_MTMAPHI_HI t j) (m.cols.toNat / 2 ^ 32)
  ((s1.set (Reg.RST_MTMAPC_COUNT t j) (min m.count 0xFFFF)).set (Reg.RST_MTMAPC_PAR t j) (bnat m.par)).set (Reg.RST_MTMAPC_SPARE t j) (bnat m.spare)

/-- Whether the findings of a tile are a failing cell. -/
def marchFailed (m : MarchTile) : Bool := decide (m.cols ≠ 0) || m.spare || m.par

/-- The end of a march of turf `t` with the findings of its tiles: RST_MTMAP, RST_MTST and its event (R382, R386). -/
def State.marchResult (s : State) (t mode : Nat) (psave : Bool) (found : List (Nat × MarchTile)) : State :=
  let mine := found.filter (fun e => decide (turfOfTile e.1 = t))
  let s1 := (tilesOfTurf t).foldl (fun u k => u.marchTile k ⟨0, false, false, 0⟩) s
  let s2 := mine.foldl (fun (u : State) (e : Nat × MarchTile) => u.marchTile e.1 e.2) s1
  let s3 := (s2.set (Reg.RST_MTST_BUSY t) 0).set (Reg.RST_MTST_DONE t) 1
  ((s3.set (Reg.RST_MTST_FAIL t) (bnat (mine.any (fun e => marchFailed e.2)))).set (Reg.RST_MTST_PSAVE t) (bnat psave)).set (Reg.RST_MTST_MODE t) mode

/-- The start-up march of all turfs (R402): PE memory is all 0 after it. -/
def State.startMarch (s : State) (found : List (Nat × MarchTile)) : State :=
  (({ s with peMem := [] } : State).each 64 (fun t u => u.marchResult t 0 false found)).raise 0x1D5

/-! ## The boot image (R254) -/

/-- One slot of boot flash is loaded and committed with AUTO = 1; the code that refuses it, 0 where it is applied. -/
def State.bootSlot (s : State) (base : Nat) : State × Nat :=
  let len := natAt (readBytes s.flash base 20) 16 4
  let r := sourceRefuse 2 base len
  if r.1 ≠ 0 then (s.sifRefuse r, r.1)
  else
    let s1 := s.beginLoad (readBytes s.flash base len) len true
    let s2 := s1.finishLoad
    match s1.loader, s2.loader with
    | some _, some l => (s2.applyLoad l, 0)
    | _, _ => (s2, s2.get Reg.HST_SIFERR_CODE)

/-- The slot that the option bytes name first, then the other; with both refused every part of the structure is in the state of R253 (R254).
HST_SIFBOOT records both. -/
def State.bootImage (s : State) : State :=
  let base (b : Nat) : Nat := if b = 0 then 0x8000000 else 0x10000000
  let code (b : Nat) : Field := if b = 0 then Reg.HST_SIFBOOT_CODEA else Reg.HST_SIFBOOT_CODEB
  let one := bnat s.optSlotB
  let a := s.bootSlot (base one)
  if a.2 = 0 then a.1.set Reg.HST_SIFBOOT_SLOT one
  else
    let b := (a.1.set (code one) a.2).bootSlot (base (1 - one))
    if b.2 = 0 then b.1.set Reg.HST_SIFBOOT_SLOT (1 - one) else (b.1.resetRoute.set (code (1 - one)) b.2).set Reg.HST_SIFBOOT_SLOT 2

/-! ## The ledgers (R402, R403) -/

/-- The part of the ledger that both kinds of boot share, up to the firmware. -/
def State.bootHead (s : State) (cold : Bool) : State :=
  let s1 := s.loadOptions.loadKeys.showAreas
  let s2 := if s1.sec.torn.isEmpty then s1 else s1.set Reg.NVM_STAT_TORN 1
  let s3 := if cold then s2.each 1024 (fun i t => t.applyFuse (Config.fuseRepair i)) else s2
  let s4 := if cold then s3.each 8 (fun n t => t.set (Reg.HBM_STAT_STATE n) 1) else s3
  s4.loadFirmware.loadRepairs cold

/-- The sequence is complete: RST_STAT records it (R411), PWR_STAT.TRIPPED whether a cold one came from the trip (R397). -/
def State.bootDone (s : State) (reach src : Nat) : State :=
  let s1 := (({ s with rst := { s.rst with boot := none } } : State).set Reg.RST_STAT_LASTREACH reach).set Reg.RST_STAT_LASTSRC src
  if reach = 4 then s1.set Reg.PWR_STAT_TRIPPED (bnat (src = 0x0A)) else s1

/-- The ledger after the firmware: the sweep, at a cold boot the march, and the image. Without firmware they take place too, and READY stays 0
(R254, R402-R404). -/
def State.bootTail (s : State) (cold : Bool) (info : BootInfo) : State :=
  let s1 := s.romSweep info.sweepFail
  (if cold then s1.startMarch info.march else s1).bootImage

/-- COLD_BOOT: the cold ledger, up to the training of the stacks (R402). -/
def execColdBoot (info : BootInfo) (s : State) : Res :=
  match s.rst.boot with
  | some (4, src) => .next (((s.bootHead true).bootTail true info).bootDone 4 src)
  | _ => .next s

/-- WARM_BOOT: the ledger without fuse sensing, training and march (R403). -/
def execWarmBoot (info : BootInfo) (s : State) : Res :=
  match s.rst.boot with
  | some (3, src) => .next (((s.bootHead false).bootTail false info).bootDone 3 src)
  | _ => .next s

/-- HBM_TRAINING_COMPLETE: a stack becomes active at a rate, coded 0 to 2 for 9.6, 8.0 and 6.4 Gb/s, which does not exceed HBM_CFG.RATE; or it
fails (R222, R245, R404). -/
def execHbmTrainingComplete (n : Fin 8) (rate : Option (Fin 3)) (failedSome : Bool) (s : State) : Res :=
  if s.get (Reg.HBM_STAT_STATE n) ≠ 1 ∨ s.rateAllowed n rate = false then .next s
  else
    let s1 := s.stackTrained n rate failedSome
    .next (if rate.isSome then s1 else s1.set Reg.RST_BOOT_HBMFAIL (s1.get Reg.RST_BOOT_HBMFAIL ||| 2 ^ n.val))

/-- READY: image, march and sweep are done and every stack is active or failed (R404); never without firmware. -/
def execReady (ms : BitVec 16) (s : State) : Res :=
  if s.rst.boot.isNone && s.rst.module.isNone && !s.flag Reg.RST_BOOT_FWFAIL && (List.range 8).all (fun n => decide (s.get (Reg.HBM_STAT_STATE n) ≠ 1))
  then .next ((s.set Reg.RST_BOOT_READY 1).set Reg.RST_BOOT_MS ms.toNat)
  else .next s

end Sys2Proof.Machine
end

