-- ==== Sys2Proof/Machine/Discovery.lean ====
section
/-!
DEFINITION. What the root makes of the modules it has discovered (R346, R347): fabric IDs in three passes and the tree; and the route table that a
module computes from a parent map (R348, R349).
-/
namespace Sys2Proof.Machine

/-! ## Order -/

/-- An element put before the first one with a larger key, and a list in ascending order of its keys. -/
def insertKey {α : Type} (key : α → Nat) (x : α) : List α → List α
  | [] => [x]
  | y :: l => if key x < key y then x :: y :: l else y :: insertKey key x l
def sortKey {α : Type} (key : α → Nat) (l : List α) : List α := l.foldl (fun a x => insertKey key x a) []

/-! ## Hops from the root -/

/-- Whether a link of module `p` leads to the module `serial`. -/
def fabJoins (p : FabModule) (serial : W64) : Bool := p.links.any (fun l => l.any (fun e => decide (e.1 = serial)))

/-- The modules in breadth-first order from those at `h` hops, `now`: each with its hops. -/
def modulesBy : Nat → Nat → List FabModule → List FabModule → List (FabModule × Nat)
  | 0, _, _, _ => []
  | f + 1, h, now, rest =>
    if now.isEmpty then []
    else
      let near (m : FabModule) : Bool := now.any (fun p => fabJoins p m.serial)
      now.map (fun m => (m, h)) ++ modulesBy f (h + 1) (rest.filter near) (rest.filter (fun m => !near m))

/-- The modules that can be reached from `root`, with their hops. -/
def modulesFrom (root : FabModule) (others : List FabModule) : List (FabModule × Nat) := modulesBy (others.length + 1) 0 [root] others

/-! ## IDs (R346) -/

/-- The IDs of the map, by serial number. -/
abbrev FabIds := List (W64 × BitVec 16)

/-- The ID of a module in the map. -/
def idIn (ids : FabIds) (serial : W64) : Option (BitVec 16) := (ids.find? (fun e => decide (e.1 = serial))).map (·.2)

/-- The first pass: a module keeps the ID it holds, unless one with a smaller serial number holds it too. -/
def keptIds (ms : List FabModule) : FabIds :=
  ms.filterMap (fun m => m.held.bind (fun i =>
    if ms.any (fun x => decide (x.held = some i) && decide (x.serial.toNat < m.serial.toNat)) then none else some (m.serial, i)))

/-- The second pass: a module without an ID receives the one it requests, if that is free. One that has kept its ID keeps it (DEDUCED, log entry
26). -/
def requestedIds (ms : List FabModule) (ids : FabIds) : FabIds :=
  (sortKey (fun m => m.serial.toNat) ms).foldl (fun a m =>
    match m.request with
    | some i => if (idIn a m.serial).isSome || a.any (fun e => decide (e.2 = i)) then a else a ++ [(m.serial, i)]
    | none => a) ids

/-- The lowest free ID. -/
def freeId (ids : FabIds) : Option (BitVec 16) := ((List.range 65536).find? (fun i => !ids.any (fun e => decide (e.2.toNat = i)))).map (BitVec.ofNat 16)

/-- The third pass: every other module receives the lowest free ID; one that finds none has no ID. -/
def otherIds (ms : List (FabModule × Nat)) (ids : FabIds) : FabIds :=
  (sortKey (fun m => m.2 * 2 ^ 64 + m.1.serial.toNat) ms).foldl (fun a m =>
    if (idIn a m.1.serial).isSome then a else match freeId a with | some i => a ++ [(m.1.serial, i)] | none => a) ids

/-- The IDs that the root assigns. -/
def assignIds (ms : List (FabModule × Nat)) : FabIds := otherIds ms (requestedIds (ms.map (·.1)) (keptIds (ms.map (·.1))))

/-! ## The tree (R347) -/

/-- The links from a module one hop nearer to the root, each with its parent's (ID, port) as one number. -/
def candidates (ms : List (FabModule × Nat)) (ids : FabIds) (m : FabModule × Nat) : List (Nat × TreeEdge) :=
  ms.flatMap (fun p =>
    if p.2 + 1 ≠ m.2 then []
    else match idIn ids p.1.serial with
      | none => []
      | some i => p.1.links.zipIdx.filterMap (fun l => l.1.bind (fun e =>
          if e.1 = m.1.serial then some (8 * i.toNat + l.2, ⟨m.1.serial, p.1.serial, e.2, BitVec.ofNat 3 l.2⟩) else none)))

/-- The tree link of each module that has an ID: among candidate parents that with the lowest (ID, port). -/
def treeEdges (ms : List (FabModule × Nat)) (ids : FabIds) : List TreeEdge :=
  ms.filterMap (fun m => if (idIn ids m.1.serial).isNone then none else ((sortKey (·.1) (candidates ms ids m)).head?).map (·.2))

/-! ## Routes (R348, R349) -/

/-- A module and its ancestors up to the root. -/
def ancestors (edges : List TreeEdge) : Nat → W64 → List W64
  | 0, x => [x]
  | f + 1, x => x :: (match edges.find? (fun e => decide (e.child = x)) with | some e => ancestors edges f e.parent | none => [])

/-- The port towards a module and the hops to it: up to the lowest common ancestor, then down. -/
def treeRoute (edges : List TreeEdge) (own x : W64) : Option (Nat × Nat) :=
  let up := ancestors edges edges.length own
  let down := ancestors edges edges.length x
  match up.findIdx? (fun a => down.contains a) with
  | none => none
  | some i =>
    let j := (down.findIdx? (fun a => decide (a = up.getD i 0))).getD 0
    let port := if i = 0 then (edges.find? (fun e => decide (e.child = down.getD (j - 1) 0))).map (·.parentPort.toNat)
      else (edges.find? (fun e => decide (e.child = own))).map (·.childPort.toNat)
    port.map (fun p => (p, i + j))

/-- The route entry for a module of the map. -/
def treeEntry (edges : List TreeEdge) (own x : W64) : Nat :=
  if x = own then 2 ^ 23
  else match treeRoute edges own x with
    | some r => 2 ^ 31 + r.1 * 2 ^ 28 + hopsField r.2
    | none => 0

/-- The route table of a map. -/
def treeTable (ids : FabIds) (edges : List TreeEdge) (own : W64) : SMap W32 :=
  ids.foldl (fun m e => SMap.put 0 m e.2.toNat (BitVec.ofNat 32 (treeEntry edges own e.1))) []

/-! ## What the root knows -/

/-- This module's own record, from its registers. -/
def State.ownModule (s : State) : FabModule :=
  ⟨BitVec.ofNat 64 (s.get Reg.FAB_SERIAL_SERIAL),
   if s.flag Reg.FAB_STAT_IDV then some (BitVec.ofNat 16 (s.get Reg.FAB_STAT_ID)) else none,
   if s.flag Reg.FAB_IDREQ_VALID then some (BitVec.ofNat 16 (s.get Reg.FAB_IDREQ_ID)) else none,
   (List.range 8).map (fun n =>
     if s.get (Reg.FAB_PSTAT_STATE n) = portActive then
       some (BitVec.ofNat 64 (s.get (Reg.FAB_PPEER_SERIAL n)), BitVec.ofNat 3 (s.get (Reg.FAB_PPID_PORT n))) else none)⟩

/-- The modules that the root has discovered, itself and what link messages have told it of the others, which is free (R337; log entry 26). -/
def State.fabModules (s : State) : List (FabModule × Nat) :=
  let own := s.ownModule
  modulesFrom own ((Config.topology s.free).filter (fun m => decide (m.serial ≠ own.serial)))

end Sys2Proof.Machine
end

