-- ==== Sys2Proof/Machine/Network.lean ====
section
/-!
DEFINITION. The fabric between modules: elections and epochs (R345-R347), forwarding (R351), the gateway (R353), broadcasts (R354).
What link messages contain is the links' own; a command brings what a message delivers (log entry 26).
-/
namespace Sys2Proof.Machine

/-! ## Elections (R345) -/

/-- Whether the module takes part in discovery. -/
def State.discovers (s : State) : Bool := s.flag Reg.FAB_CTL_EN && !s.fabric.static

/-- KEY_FLOOD: a smaller key is remembered and flooded; a root that meets one stands down (R345). -/
def execKeyFlood (n : Fin 8) (appointed : Bool) (serial : W64) (s : State) : Res :=
  let k := (!appointed, serial.toNat)
  if s.discovers && s.get (Reg.FAB_PSTAT_STATE n) = portActive && keyLess k s.bestKey then
    let s1 : State := { s with fabric := { s.fabric with keySeen := true, keyAppointed := appointed, keySerial := serial } }
    .next ((s1.set Reg.FAB_STAT_ROOT 0).flood (keyMsg k))
  else .next s

/-- HEARTBEAT: the root floods one, and every module passes it on (R345). -/
def execHeartbeat (s : State) : Res := if s.discovers then .next (s.flood .heartbeat) else .next s

/-- ELECTION_TIMEOUT: a module that hears no heartbeat for 10 ms starts a new election (R345). -/
def execElectionTimeout (s : State) : Res :=
  if s.discovers && !s.flag Reg.FAB_STAT_ROOT then .next s.startElection else .next s

/-! ## Epochs (R346, R347) -/

/-- The root floods EPOCH once every module of the map has reported READY (R347). -/
def State.allReady (s : State) : State :=
  match s.fabric.bankEpoch with
  | some v =>
    if s.flag Reg.FAB_STAT_ROOT && s.fabric.mapped.all s.fabric.ready.contains && s.fabric.draining.isNone then
      let s1 := s.flood (.epoch v)
      ({ s1 with fabric := { s1.fabric with draining := some v } } : State).tryEpoch
    else s
  | none => s

/-- A map taken: the module has the ID that the map gives it, computes its inactive bank, and reports READY towards the root; one that finds no ID sets
NOID and takes no part in routing (R346, R347, R349). -/
def State.takeMap (s : State) (epoch : W32) (root : W64) (ids : FabIds) (edges : List TreeEdge) : State :=
  let own := BitVec.ofNat 64 (s.get Reg.FAB_SERIAL_SERIAL)
  let up := (edges.find? (fun e => decide (e.child = own))).map (·.childPort.toNat)
  let mapped := (ids.filter (fun e => decide (e.1 = root) || edges.any (fun x => decide (x.child = e.1)))).map (·.1)
  let put (t : State) (bank : SMap W32) : State :=
    { t with fabric := { t.fabric with bank := bank, bankEpoch := some epoch.toNat, bankParent := up, mapped := mapped, ready := [] } }
  let s1 := s.set Reg.FAB_ROOTSER_SERIAL root.toNat
  match idIn ids own with
  | none => put ((s1.clearRoutes.set Reg.FAB_STAT_NOID 1).set Reg.FAB_STAT_IDV 0) []
  | some i =>
    let s2 := put (((s1.set Reg.FAB_STAT_NOID 0).set Reg.FAB_STAT_IDV 1).set Reg.FAB_STAT_ID i.toNat) (treeTable ids edges own)
    let s3 := if s.flag Reg.FAB_STAT_IDV && decide (s.get Reg.FAB_STAT_ID = i.toNat) then s2 else s2.raise 0x1C8
    match up with
    | some n => s3.sendLink n (.ready own)
    | none => ({ s3 with fabric := { s3.fabric with ready := [own] } } : State).allReady

/-- PARENT_MAP: a map not yet taken is passed on to the other ports and taken (R346, R347). -/
def execParentMap (epoch : W32) (root : W64) (ids : FabIds) (edges : List TreeEdge) (arrival : Option (Fin 8)) (s : State) : Res :=
  if !s.discovers || decide (s.fabric.bankEpoch = some epoch.toNat) || decide (s.get Reg.FAB_EPOCH_EPOCH = epoch.toNat) then .next s
  else .next ((s.passOn (.parentMap epoch root ids edges) (arrival.map (·.val))).takeMap epoch root ids edges)

/-- ROOT_DECLARE: the module's own key has stayed the smallest for 1 ms, and it is root (R345): it assigns the IDs, builds the tree and floods the map of
a new epoch, whose number, another than that in effect, is free (R346, R347; log entry 26). -/
def execRootDeclare (s : State) : Res :=
  if s.discovers && !keyLess s.bestKey s.ownKey then
    let own := BitVec.ofNat 64 (s.get Reg.FAB_SERIAL_SERIAL)
    let s1 := (s.useFree.set Reg.FAB_STAT_ROOT 1).set Reg.FAB_ROOTSER_SERIAL own.toNat
    let ms := s.fabModules
    let ids := assignIds ms
    let edges := treeEdges ms ids
    let epoch := BitVec.ofNat 32 (s.get Reg.FAB_EPOCH_EPOCH + 1 + s.freeValue.toNat % (2 ^ 32 - 1))
    .next ((s1.passOn (.parentMap epoch own ids edges) none).takeMap epoch own ids edges)
  else .next s

/-- EPOCH: passed on; the module switches once its port queues hold no packet of the old epoch (R347). -/
def execEpoch (value : W32) (s : State) : Res :=
  if s.discovers && decide (s.fabric.bankEpoch = some value.toNat) && s.fabric.draining.isNone then
    let s1 := s.flood (.epoch value.toNat)
    .next (({ s1 with fabric := { s1.fabric with draining := some value.toNat } } : State).tryEpoch)
  else .next s

/-- EPOCH_DRAIN_TIMEOUT: what is left is discarded and counted, EPOCHDROP is set, and the switch takes place (R347). -/
def execEpochDrainTimeout (s : State) : Res :=
  match s.fabric.draining with
  | none => .next s
  | some v =>
    let s1 := s.each 8 (fun n t =>
      (t.setPort n { t.port n with queue := [] }).count Reg.FAB_DROPS_COUNT ((t.port n).queue.filter (·.head)).length)
    .next ((s1.fabErr Reg.FAB_ERR_EPOCHDROP).switchEpoch v)

/-- READY_REPORT: passed on towards the root; at the root, once every module of the map has reported, EPOCH is flooded (R347). -/
def execReadyReport (serial : W64) (s : State) : Res :=
  match s.fabric.bankEpoch with
  | none => .next s
  | some _ =>
    match s.fabric.bankParent with
    | some n => .next (s.sendLink n (.ready serial))
    | none =>
      let l := if s.fabric.ready.contains serial then s.fabric.ready else s.fabric.ready ++ [serial]
      .next (({ s with fabric := { s.fabric with ready := l } } : State).allReady)

/-! ## Forwarding (R351) -/

/-- An ERR of the fabric. -/
def State.fabricErr (s : State) (k : Packet) (code : Nat) : State := s.fabricAnswer k 0x8F code

/-- A packet without a usable route (R351). -/
def State.noRoute (s : State) (k : Packet) : State :=
  ((s.count Reg.FAB_DROPS_COUNT 1).fabErr Reg.FAB_ERR_NOROUTE).fabricErr k 0x10

/-- A packet goes out on port `p`, unless its link lacks a feature: then it is discarded and counted (R342, R351, R363). -/
def State.sendVersioned (s : State) (p : Nat) (dl : Bool) (k : Packet) : State :=
  let v := s.get (Reg.FAB_PSTAT_VER p)
  if k.cls = 3 ∧ k.cmd = 0xC8 ∧ v < 3 then ((s.count Reg.FAB_DROPS_COUNT 1).portErr p (Reg.FAB_PERR_VERSION p)).fabricErr k 0x16
  else s.portSend p (dl && decide (2 ≤ v)) k

/-- A packet leaves by the route of its destination: to the gateway, the primary or the alternate port (R351). -/
def State.forward (s : State) (arrival : Option Nat) (dl : Bool) (k : Packet) : State :=
  let s1 : State := { s with fabric := { s.fabric with arrivals := s.fabric.arrivals.erase ⟨arrival, dl, k⟩ } }
  let e := s.get (Reg.FAB_ROUTE_ENTRY k.dest)
  if bitAt e 23 = 1 then { s1 with fabric := { s1.fabric with inbound := s1.fabric.inbound ++ [k] } }
  else
    let r := s.fabric.route
    let next := bitsOf e 30 28
    let turn := match arrival with
      | none => true
      | some a => s.fabric.static && decide (portDim r a ≠ portDim r next)
    let alt := decide (k.h 251 251 = 1) && !turn
    let p := if alt then bitsOf e 26 24 else next
    let usable := s.portUp p && (if alt then bitAt e 27 = 1 else bitAt e 31 = 1)
    let other := bitAt e 27 = 1 && s.portUp (bitsOf e 26 24)
    if !usable && !other then s1.noRoute k
    else
      let q := if usable then p else bitsOf e 26 24
      let out : Packet := ⟨putBits k.header 251 251 (bnat (alt || !usable)), k.data⟩
      s1.sendVersioned q ((dl && !turn) || (s.fabric.static && wrapLink r q)) out

/-- FABRIC_FORWARD (R351). A packet from this module's mesh waits while an epoch's queues drain (R347). -/
def execFabricForward (arrival : Option (Fin 8)) (dl : Bool) (k : Packet) (s : State) : Res :=
  if !k.remote || k.bcast || (arrival.isNone && s.fabric.draining.isSome) then .next s
  else .next (s.forward (arrival.map (·.val)) dl k)

/-! ## The gateway (R353) -/

/-- The gateway's first free entry. -/
def State.freeEntry (s : State) : Option Nat := (List.range 1024).find? (fun i => (SMap.get none s.fabric.entries i).isNone)

/-- The header with which a remote packet enters the mesh. -/
def deliveredHeader (k : Packet) : W256 :=
  let tile := bitsOf k.aux 57 48
  putBits (putBits (putBits k.header 253 251 0) 231 216 tile) 63 48 0

/-- GATEWAY_DELIVERY: DEST from AUX, REMOTE and ALT cleared, entering the mesh at the H port of the tile's die. A Request or Maintenance
packet takes one of 1,024 entries, or is held while they are full (R351, R353). RCMD has a command of its own. -/
def execGatewayDelivery (k : Packet) (s : State) : Res :=
  if !k.remote || (decide (k.cls = 3) && decide (k.cmd = 0xC8)) then .next s
  else
    let f := s.fabric
    let s1 : State := { s with fabric := { f with inbound := f.inbound.erase k, held := f.held.erase k } }
    let h := deliveredHeader k
    if k.cls = 1 ∨ k.cls = 2 then .next (s1.injectAtGateway ⟨h, k.data⟩)
    else match s1.freeEntry with
      | none => .next { s1 with fabric := { s1.fabric with held := s1.fabric.held ++ [k] } }
      | some i =>
        let s2 : State := { s1 with fabric := { s1.fabric with
          entries := SMap.put none s1.fabric.entries i (some ⟨k.src, k.sport, k.sfab, k.tag⟩) } }
        let at_ := hRouter (tileDie (bitsOf k.aux 57 48))
        .next (s2.injectAtGateway ⟨putBits (putBits (putBits h 209 200 at_) 212 210 7) 183 172 i, k.data⟩)

/-- GATEWAY_TIMEOUT: the requester is answered with ERR LINKLOSS and the entry is free; a response after that is discarded (R353). -/
def execGatewayTimeout (i : Fin 1024) (s : State) : Res :=
  match SMap.get none s.fabric.entries i with
  | none => .next s
  | some e =>
    let own := s.get Reg.FAB_STAT_ID
    let h := putBits (mkHeader 1 0x8F 0 e.sfab e.sport 7 (hRouter 0) own e.tag 0 0 (0x11 + e.src * 2 ^ 48)) 253 253 1
    .next { s with fabric := { s.fabric with
      entries := SMap.put none s.fabric.entries i none, arrivals := s.fabric.arrivals ++ [⟨none, false, ⟨h, []⟩⟩] } }

/-! ## Broadcasts (R354) -/

/-- The dateline bit with which a broadcast goes out on a port: set on a wrap link, kept within one dimension (R350, R351). -/
def State.treeDl (s : State) (arrival : Option Nat) (dl : Bool) (n : Nat) : Bool :=
  let r := s.fabric.route
  s.fabric.static && (wrapLink r n || (dl && arrival.any (fun a => decide (portDim r a = portDim r n))))

/-- BROADCAST: copied along the tree away from the port it came from, and delivered at every module but its source; one of this module's gateway waits
while an epoch's queues drain (R347); a Request or Response is discarded with ERR BADCMD (R354). -/
def execBroadcast (arrival : Option (Fin 8)) (k : Packet) (s : State) : Res :=
  let from_ := arrival.map (·.val)
  if !k.remote || !k.bcast || (from_.isNone && s.fabric.draining.isSome) then .next s
  else
    let mine (a : FabArrival) : Bool := decide (a.port = from_) && decide (a.pkt = k)
    let dl := s.fabric.arrivals.any (fun a => mine a && a.dl)
    let s1 : State := { s with fabric := { s.fabric with arrivals := s.fabric.arrivals.filter (fun a => !mine a) } }
    if k.cls = 0 ∨ k.cls = 1 then .next ((s1.count Reg.FAB_DROPS_COUNT 1).fabricErr k 0x03)
    else
      let s2 := s1.treePorts.foldl (fun t n =>
        if from_ = some n ∨ t.portUp n = false then t else t.sendVersioned n (s.treeDl from_ dl n) k) s1
      .next (if from_.isSome then { s2 with fabric := { s2.fabric with inbound := s2.fabric.inbound ++ [k] } } else s2)

end Sys2Proof.Machine
end

