-- ==== Sys2Proof/Machine/Collective.lean ====
section
/-!
DEFINITION. Fabric collectives by command (R106, R107, R356-R358): descriptors in the shared scratch, partials and results that arrive.
-/
namespace Sys2Proof.Machine

/-- A value of `count` members joins a context. -/
def collJoin (c : CollCtx) (count value : Nat) : CollCtx :=
  let w := collWidth c.op c.width
  if c.count = 0 then { c with count := count, value := encodeInt (collInt c.op w value) w }
  else { c with
    count := c.count + count,
    value := encodeInt (collCombine c.op (collInt c.op w c.value) (collInt c.op w value)) w }

/-! ## Submission (R356) -/

/-- FORMAT (R358): a reserved field, or OP, r or an address out of range. -/
def collFormatBad (q0 q1 q2 q3 q4 q5 q6 : Nat) : Bool :=
  let op := bitsOf q0 35 32
  let nmem := bitsOf q0 54 36
  let r := bitsOf q1 16 0
  let words := cdiv (collWidth op r) 64
  let inRange (a n : Nat) : Bool := decide (a % 8 = 0) && decide (a + n ≤ 0x200000)
  decide (2 ^ 55 ≤ q0) || decide (8 < op) || decide (nmem = 0) || decide (262144 < nmem) || decide (2 ^ 17 ≤ q1) || decide (r = 0) ||
  decide (65536 < r) || (decide (op = 2) && decide (r ≠ 23)) || decide (2 ^ 21 ≤ q2) || !inRange q2 (8 * cdiv r 64) ||
  decide (bitsOf q3 62 21 ≠ 0) || (decide (bitAt q3 63 = 1) && !inRange (bitsOf q3 20 0) (8 * words)) ||
  decide (2 ^ 21 ≤ q4) || !inRange q4 8 || decide (q5 ≠ 0) || decide (q6 ≠ 0)

/-- The context of an identifier, or a new one. -/
def State.collOr (s : State) (cid : W32) (op r nmem : Nat) : CollCtx := (s.collCtx cid).getD ⟨cid, op, r, nmem, 0, 0, [], [], []⟩

/-- What joins a context: an engine without a free context, or one whose members disagree, fails the collective (R357, R358). -/
def State.collEnter (s : State) (c : CollCtx) (op r nmem count value : Nat) : State :=
  if (s.collCtx c.cid).isNone ∧ 64 ≤ s.fabric.coll.length then (s.fabErr Reg.FAB_ERR_COLL).collFail c 0x04 none
  else if c.op ≠ op ∨ c.width ≠ r ∨ c.nmem ≠ nmem then s.collFail c 0x01 none
  else s.collAdvance (collJoin c count value)

/-- COLLECTIVE_SUBMIT: the engine takes a descriptor whose GO is set and combines the member's value (R356, R357). -/
def execCollectiveSubmit (p : SeqId) (slot : Fin 16) (s : State) : Res :=
  let at_ := 0x1FFF000 + 0x400 * p.val + 64 * slot.val
  let q (i : Nat) : Nat := leNat (s.hearthRead (at_ + 8 * i) 8)
  if s.collRuns = false ∨ bitAt (q 7) 0 = 0 then .next s
  else
    let s1 := s.hearthWrite (at_ + 56) (leBytes 8 0)
    let cid := BitVec.ofNat 32 (q 0)
    let op := bitsOf (q 0) 35 32
    let nmem := bitsOf (q 0) 54 36
    let r := bitsOf (q 1) 16 0
    let m : CollMember := ⟨p, bitAt (q 3) 63 = 1, bitsOf (q 3) 20 0, bitsOf (q 4) 20 0⟩
    let c := s1.collOr cid op r nmem
    let c1 := { c with members := c.members ++ [m] }
    if collFormatBad (q 0) (q 1) (q 2) (q 3) (q 4) (q 5) (q 6) then .next (s1.collFail c1 0x07 none)
    else
      let raw := match hearthAt p (q 2) (8 * cdiv r 64) with | some a => leNat (s1.hearthRead a (8 * cdiv r 64)) % 2 ^ r | none => 0
      .next (s1.collEnter c1 op r nmem 1 (encodeInt (collInt op r raw) (collWidth op r)))

/-- The packets of a collective's message, where they have arrived, are taken (R357). -/
def State.takeColl (s : State) (n : Nat) (up : Bool) (p : Partial) (code : Nat) : State :=
  let ks := collPackets (s.get (Reg.FAB_PPID_ID n)) up p code
  { s with fabric := { s.fabric with arrivals := s.fabric.arrivals.filter (fun a => !(decide (a.port = some n) && ks.contains a.pkt)) } }

/-- COLLECTIVE_PARTIAL: a partial from a child port is combined, and goes up with what else has arrived (R357). -/
def execCollectivePartial (n : Fin 8) (part : Partial) (s : State) : Res :=
  if s.collRuns = false then .next s
  else
    let s1 := s.takeColl n true part 0
    let c := s1.collOr part.cid part.op part.width part.nmem
    let c1 := { c with children := if c.children.contains n.val then c.children else c.children ++ [n.val] }
    .next (s1.collEnter c1 part.op part.width part.nmem part.count part.value)

/-- COLLECTIVE_RESULT: the result reaches every member of a module that holds the context; a failure goes on over the tree, from a module without one
too (R357, R358). -/
def execCollectiveResult (part : Partial) (res : CollEnd) (s : State) : Res :=
  if s.collRuns = false then .next s
  else
    let from_ := res.port.map (·.val)
    let s1 := match from_ with | some n => s.takeColl n false part res.code | none => s
    match s1.collCtx part.cid with
    | none => if res.code = 0 then .next s1 else .next (s1.collTell (s1.treePorts.filter (fun n => decide (some n ≠ from_))) part res.code)
    | some c => if res.code = 0 then .next (s1.collDone c part.value) else .next (s1.collFail c res.code from_)

/-- COLLECTIVE_TIMEOUT: NMEM not reached within FAB_CTMO ms, a time that a freeze holds (R358, R429). -/
def execCollectiveTimeout (cid : W32) (s : State) : Res :=
  if bitAt (s.get Reg.DBG_BFRZ_FRZ) 29 = 1 then .next s
  else match s.collCtx cid with
    | none => .next s
    | some c => .next (s.collFail c 0x03 none)

end Sys2Proof.Machine
end

