-- ==== Sys2Proof/Machine/Flags.lean ====
section
/-!
DEFINITION. Results and flags of the scalar units: the integer instructions and SST (R186-R189), FSR (R194), the FPU's
results and condition codes (R196-R198).
-/
namespace Sys2Proof.Machine

/-! ## Integer (R186, R187) -/

/-- Whether an integer is outside the signed range of `w` bits. -/
def signedOverflow (v : Int) (w : Nat) : Bool := decide (v < -(2 ^ (w - 1) : Nat)) || decide ((2 ^ (w - 1) : Nat) ≤ v)

/-- SST of a result: Z and N from `d`, C and V as given. -/
def sstOf (w d : Nat) (c v : Bool) : Sst := ⟨decide (d = 0), d.testBit (w - 1), c, v⟩

/-- Addition with carry in (R186). -/
def addSst (w a b c : Nat) : Nat × Sst :=
  let d := (a + b + c) % 2 ^ w
  (d, sstOf w d (decide (2 ^ w ≤ a + b + c)) (signedOverflow (signedOf a w + signedOf b w + c) w))

/-- Subtraction with borrow in; C means no borrow (R186). -/
def subSst (w a b c : Nat) : Nat × Sst :=
  let d := (a + 2 * 2 ^ w - b - c) % 2 ^ w
  (d, sstOf w d (decide (b + c ≤ a)) (signedOverflow (signedOf a w - signedOf b w - c) w))

/-- Shifts (R187). -/
def shlSst (w a n : Nat) : Nat × Sst :=
  let d := if w ≤ n then 0 else a * 2 ^ n % 2 ^ w
  (d, sstOf w d (decide (1 ≤ n) && decide (n ≤ w) && a.testBit (w - n)) false)
def shrSst (w a n : Nat) : Nat × Sst :=
  let d := if w ≤ n then 0 else a / 2 ^ n
  (d, sstOf w d (decide (1 ≤ n) && decide (n ≤ w) && a.testBit (n - 1)) false)
def sarSst (w a n : Nat) : Nat × Sst :=
  let d := encodeInt (signedOf a w / (2 ^ min n w : Nat)) w
  (d, sstOf w d (if n = 0 then false else if n ≤ w then a.testBit (n - 1) else a.testBit (w - 1)) false)

/-- The result of an integer instruction on `a` and `b` at width `w`, and SST after it; MOV leaves SST as it is (R186). -/
def aluResult (m : Mn) (w a b : Nat) (t : Sst) : Nat × Sst :=
  match m with
  | .sAdd => addSst w a b 0
  | .adc => addSst w a b (bnat t.c)
  | .sSub => subSst w a b 0
  | .cmp => subSst w a b 0
  | .sbc => subSst w a b (1 - bnat t.c)
  | .and => (a &&& b, sstOf w (a &&& b) false false)
  | .or => (a ||| b, sstOf w (a ||| b) false false)
  | .xor => (a ^^^ b, sstOf w (a ^^^ b) false false)
  | .sShl => shlSst w a b
  | .shr => shrSst w a b
  | .sar => sarSst w a b
  | _ => (b, t)

/-- MULW (R188): the 128-bit product and SST. -/
def mulwResult (w a b : Nat) (signed : Bool) : Nat × Sst :=
  let x : Int := if signed then signedOf a w else a
  let y : Int := if signed then signedOf b w else b
  let r := encodeInt (x * y) 128
  let high := r / 2 ^ 64
  let ext := if signed && r.testBit 63 then 2 ^ 64 - 1 else 0
  (r, ⟨decide (r = 0), r.testBit 127, decide (high ≠ ext), decide (high ≠ ext)⟩)

/-- DIVU and DIVS (R58, R59, R189): quotient, remainder and SST; division by zero gives the quotient of all ones and the
dividend. -/
def divResult64 (w a b : Nat) (signed : Bool) : Nat × Nat × Sst :=
  let r := divide w signed a b
  let wide (v : Nat) : Nat := if signed then encodeInt (signedOf v w) 64 else v
  (wide r.1, wide r.2.1,
    ⟨decide (r.1 = 0), r.1.testBit (w - 1), decide (b = 0), signed && decide (a = 2 ^ (w - 1)) && decide (b = 2 ^ w - 1)⟩)

/-! ## FSR (R194, R195) -/

/-- The bits of FSR that FSTW writes. -/
def fsrWritten : Nat := 0x0F1F1F1F
/-- The reserved bits of FSR. -/
def fsrReserved : Nat := 2 ^ 64 - 1 - 0x8F1F1F1F

/-- Whether FSTW takes a word (R195). -/
def fsrLegal (v : Nat) : Bool := decide (v &&& fsrReserved = 0) && decide (v % 8 ≤ 4)

/-- FSR after a write of its low word that is no FSTW: reserved bits and PEND stay, and RM where its code is reserved (R194; log entry
33). -/
def fsrPut (old : W64) (v : Nat) : W64 :=
  let w := setField (BitVec.ofNat 64 (v &&& fsrWritten)) 31 31 (getField old 31 31)
  if v % 8 ≤ 4 then w else setField w 2 0 (getField old 2 0)

/-- FSR after FLG takes `exc` (R196). -/
def fsrFlags (fsr : W64) (exc : BitVec 5) : W64 := fsr ||| (exc.setWidth 64 <<< 16)

/-! ## The FPU (R193-R198) -/

/-- The format, rounding mode and flush option of a scalar FP instruction (R193, R198). -/
def fpFormat (i : SeqInstr) : Format :=
  if i.short then (if i.pr then .b32 else .b64)
  else if i.sz = 4 ∨ i.sz = 1 then .b32 else .b64
def fpRounding (i : SeqInstr) (fsr : W64) : Nat :=
  if i.short ∨ i.md % 8 = 7 then getField fsr 2 0 else i.md % 8
def fpFlush (i : SeqInstr) (fsr : W64) : Bool :=
  if i.short ∨ bitsOf i.md 4 3 = 0 then decide (getField fsr 3 3 = 1) else decide (bitsOf i.md 4 3 = 2)

/-- CC of a comparison: EQ, LT, GT, UN in bits 0 to 3 (R194, R197). -/
def ccOf (o : Option Ordering) : BitVec 4 :=
  match o with
  | some .eq => 1
  | some .lt => 2
  | some .gt => 4
  | none => 8

/-- The result and exceptions of a scalar FP instruction other than FCMP and FCVT (R196). -/
def fpuResult (m : Mn) (f : Format) (rm : Nat) (fz : Bool) (x y z : Nat) : Nat × BitVec 5 :=
  match m with
  | .sFadd => fpAdd f rm fz x y
  | .sFsub => fpSub f rm fz x y
  | .sFmul => fpMul f rm fz x y
  | .sFdiv => fpDiv f rm fz x y
  | .sFsqrt => fpSqrt f rm fz x
  | _ => fpFma f rm fz x y z

/-- Bytes of the source and of the destination of FCVT (R198). -/
def fcvtBytes (kind sz : Nat) : Nat × Nat :=
  let fp := if sz = 1 ∨ sz = 4 then 4 else 8
  let it := if sz ≤ 2 then 4 else 8
  match kind with
  | 0 => (fp, 12 - fp)
  | 1 | 2 => (fp, it)
  | _ => (it, fp)

/-- FCVT (R198): the destination's encoding and the exceptions. -/
def fcvtResult (kind sz rm : Nat) (fz : Bool) (x : Nat) : Nat × BitVec 5 :=
  let f := if sz = 1 ∨ sz = 4 then Format.b32 else Format.b64
  let g := if sz = 1 ∨ sz = 4 then Format.b64 else Format.b32
  let w := if sz ≤ 2 then 32 else 64
  match kind with
  | 0 => fpCvt f g rm fz x
  | 1 =>
    let r := fpToRange f rm fz x 0 (-(2 ^ (w - 1) : Nat)) ((2 ^ (w - 1) : Nat) - 1)
    (encodeInt r.1 w, r.2)
  | 2 =>
    let r := fpToRange f rm fz x 0 0 ((2 ^ w : Nat) - 1)
    (encodeInt r.1 w, r.2)
  | 3 => fpOfInt f rm fz (signedOf x w) 0
  | _ => fpOfInt f rm fz x 0

end Sys2Proof.Machine
end

