-- ==== Sys2Proof/Machine/Microcode.lean ====
section
/-!
DEFINITION. Microroutines (R204-R213): fetch of microwords and nanowords, step microwords and the control operations. The
microroutines of the ROM's own instructions are not printed (log entries 9 and 13); these meanings run the routine of an AOP that a patch
defines, redefines or redirects, word by word.
-/
namespace Sys2Proof.Machine

/-! ## Fetch (R204, R213) -/

/-- The microaddress that is fetched for `u`: a valid match register redirects a ROM address into patch memory, where the routine goes on
(R213). -/
def State.fetchAddr (s : State) (p u : Nat) : Nat :=
  if u < 0x4000 then
    match (s.patch p).hits.find? (fun h => h.getLsbD 31 && decide (bitsOf h.toNat 24 11 = u)) with
    | some h => 0x4000 + bitsOf h.toNat 10 0
    | none => u
  else u

/-- The microword stored at microaddress `u` (R204). -/
def State.microword (s : State) (p u : Nat) : Nat :=
  if u < 0x4000 then (Config.microRom u).toNat else ((s.patch p).micro.getD (u - 0x4000) 0).toNat

/-- The nanoword at nano address `n` (R204). -/
def State.nanoword (s : State) (p n : Nat) : W256 :=
  if n < 0x1000 then Config.nanoRom n else (s.patch p).nano.getD (n - 0x1000) 0

/-! ## Dispatch quantities of a routine (R206-R209) -/

/-- Completed passes of the outermost open loop (R207). -/
def Micro.i0 (u : Micro) : Nat := (u.loops.getLast?.map (·.passes)).getD 0

/-- A count source (R207). Le and Lm of FCVT take the wider exponent and the destination's precision (R84). -/
def Micro.count (u : Micro) (m : Mn) (sel : Nat) : Nat :=
  let D := u.disp
  let k := 2 ^ D.kw
  let r := D.param.toNat % k
  match sel with
  | 0x0 => 1
  | 0x1 => D.lx
  | 0x2 => D.ly
  | 0x3 => D.ld
  | 0x4 => D.lx - 1
  | 0x5 => D.ly * k
  | 0x6 => D.lx * k
  | 0x7 => k
  | 0x8 => k - r
  | 0x9 => r
  | 0xA => cdiv (max D.fmt.e D.fmt2.e + 2) k
  | 0xB => (fpCounts D.fmt2 k).lm
  | 0xC => (fpCounts D.fmt k).ls
  | 0xD => accLen m D
  | 0xE => u.i0
  | _ => min (D.param.toNat - 8192 * u.i0) 8192

/-- Start and increment of a field counter (R208): a start of `none` is the field Z. -/
def Micro.counter (u : Micro) (m : Mn) (code : Nat) (cur : Option Nat) (inc : Int) : Option Nat × Int :=
  let D := u.disp
  let wn := workSize m D
  let back (a : Option Nat) (n : Nat) : Option Nat := a.map (fun x => (x + 8192 + n - 1) % 8192)
  match code with
  | 0x0 => (cur, inc)
  | 0x1 => (cur, 0)
  | 0x2 => (D.x, 1)
  | 0x3 => (back D.x D.lx, -1)
  | 0x4 => (D.y, 1)
  | 0x5 => (back D.y D.ly, -1)
  | 0x6 => (D.d, 1)
  | 0x7 => (back D.d D.ld, -1)
  | 0x8 => (some (D.work % 8192), 1)
  | 0x9 => (some ((D.work + 8192 + wn - 1) % 8192), -1)
  | 0xA => (some ((D.work + 4096) % 8192), 1)
  | 0xB => (some ((D.work + 4096 + 8192 + wn - 1) % 8192), -1)
  | 0xC => (D.x, 0)
  | 0xD => (D.y, 0)
  | 0xE => (D.d, 0)
  | _ => (D.d.map (fun a => (a + u.i0) % 8192), 1)

/-- Whether an instruction of R170 is the signed form, where it has one (R62, R209). -/
def Mn.signedForm (m : Mn) : Option Bool :=
  match m with
  | .exts | .shrs | .muls | .divs | .cmps | .rsums | .rmaxs | .rmins | .tmaxs | .tmins => some true
  | .extu | .shru | .mulu | .divu | .cmpu | .rsumu | .rmaxu | .rminu | .tmaxu | .tminu => some false
  | _ => none

/-- A parameter bit (R209); `ret` says whether the Flue return form is requested. The manual does not say what [S] is for an instruction without a
signed form, so that bit is free (log entry 8). -/
def Micro.param (u : Micro) (ret : Bool) (sel : Nat) : Bool :=
  let D := u.disp
  match sel with
  | 0x0 => ((aopMn D.aop).bind Mn.signedForm).getD (Config.freeFunction 0 [D.aop] % 2 = 1)
  | 0x1 => bitAt D.aop 0 = 1
  | 0x2 => ret
  | 0x3 => decide (0 < D.kw)
  | 0x4 => decide (D.param.toNat % 2 ^ D.kw ≠ 0)
  | 0x5 => decide (D.lx * 2 ^ D.kw ≤ D.param.toNat)
  | 0x6 => D.fz
  | 0x7 => decide (bitsOf D.aop 3 2 ≠ 0)
  | 0x8 => decide (bitsOf D.aop 1 0 ≠ 0)
  | 0x9 => decide (bitsOf D.aop 3 2 ≠ bitsOf D.aop 1 0)
  | _ => false

/-! ## Bursts of a step microword (R208, R210) -/

/-- A counter as a burst carries it. -/
def startOf (a : Option Nat) : Nat := a.getD 0

/-- A nanoword whose reads of the field Z are reads of zero, and whose write to no field is none (R47). -/
def zeroed (n : W256) (fa fb fd : Option Nat) : W256 :=
  let pick (code : Nat) : Bool := (match code with | 0 => fa | 1 => fb | _ => fd).isNone
  let w := n.toNat
  let a := decide (bitsOf w 18 16 = 0) && pick (bitsOf w 56 55)
  let b := decide (bitsOf w 21 19 = 0) && pick (bitsOf w 58 57)
  let clr := fd.isNone && decide (bitsOf w 24 24 = 1)
  BitVec.ofNat 256 (w + (if a then 4 * 2 ^ 16 else 0) + (if b then 4 * 2 ^ 19 else 0) - (if clr then 2 ^ 24 else 0))

/-- The broadcast word of a burst (BCS, R210). -/
def broadcastWord (n : W256) (param : W64) : W64 :=
  match bitsOf n.toNat 60 59 with
  | 0 => BitVec.ofNat 64 (bitsOf n.toNat 127 64)
  | 1 => param
  | _ => if param.getLsbD 63 then BitVec.allOnes 64 else 0

/-- The bursts of `count` steps from the counters given, at most 8,192 steps each (R208). -/
def stepBursts (n : W256) (u : Micro) (count : Nat) (fa fb fd : Option Nat × Int) : List Burst :=
  let nano := zeroed n fa.1 fb.1 fd.1
  let kws := bitsOf n.toNat 54 52
  (List.range (cdiv count 8192)).map (fun i =>
    let at_ (c : Option Nat × Int) : Nat := Burst.addr (startOf c.1) c.2 (8192 * i)
    ⟨nano, min 8192 (count - 8192 * i), at_ fa, at_ fb, at_ fd, fa.2, fb.2, fd.2, broadcastWord n u.disp.param,
      if kws = 6 then u.disp.kw else kws, u.disp.aop, u.first, false⟩)

/-- A counter after a burst of `count` steps. -/
def counterAfter (c : Option Nat × Int) (count : Nat) : Option Nat := c.1.map (fun a => Burst.addr a c.2 count)

/-! ## Sequencing (R209) -/

/-- The microroutine ends: the instruction retires with its pointer updates (R171); with no step issued it opened nothing. -/
def State.endMicro (s : State) (p : Nat) (u : Micro) : State :=
  let s1 := s.setSeq p { s.seq p with micro := none }
  let t := s1.part p
  let s2 := s1.setPart p { t with opened := t.opened.filter (fun o => decide (o.first < o.next)) }
  if u.again then s2.boundary p
  else
    let s3 := s2.specSteps p u.upd
    s3.retire p (s3.execAt p) u.size none

/-- The routine after its present microword: it ends where that word ends it, or goes on with `u` (R209). -/
def State.goOn (s : State) (p : Nat) (u : Micro) : State := if u.ends && u.todo.isEmpty then s.endMicro p u else s.setMicro p u

/-- The routine after a step microword: the last word of a loop's body repeats it or leaves it, the last word of the routine ends it
(R209). -/
def Micro.after (u : Micro) (w : Nat) : Micro :=
  if bitAt w 30 = 1 then { u with ends := true }
  else if bitAt w 29 = 1 then
    match u.loops with
    | l :: ls =>
      if l.left ≤ 1 then { u with uaddr := l.target, loops := ls }
      else { u with uaddr := l.body, loops := { l with left := l.left - 1, passes := l.passes + 1 } :: ls }
    | [] => { u with uaddr := u.uaddr + 1 }
  else { u with uaddr := u.uaddr + 1 }

/-- A step microword (R208): its bursts, the first handed now and the others as the issue stage takes them, and what follows. Once array service has
stopped they are discarded (R30). -/
def State.stepWord (s : State) (p w : Nat) (u : Micro) : State :=
  let m := s.macroMn p u.disp
  let count := u.count m (bitsOf w 15 12)
  let fa := u.counter m (bitsOf w 11 8) u.fa u.ia
  let fb := u.counter m (bitsOf w 7 4) u.fb u.ib
  let fd := u.counter m (bitsOf w 3 0) u.fd u.id
  if count = 0 then s.goOn p (u.after w)
  else
    let v : Micro := { u.after w with
      fa := counterAfter fa count, fb := counterAfter fb count, fd := counterAfter fd count,
      ia := fa.2, ib := fb.2, id := fd.2 }
    match if (s.part p).stopped then [] else stepBursts (s.nanoword p (bitsOf w 28 16)) u count fa fb fd with
    | [] => s.goOn p v
    | b :: bs =>
      let t := s.part p
      let next := s.get (Reg.SEQ_NEXTSTEP_STEP p) + s.allSteps p (b :: bs)
      let s1 := s.setPart p { t with opened := t.opened.map (fun o => if o.first = u.first then { o with next := next } else o) }
      (s1.hand p b).goOn p { v with todo := bs }

/-- Runs the microword whose turn it is if `pick` takes it. The routine waits until the issue stage has taken its last burst (R29). -/
def State.runMicro (s : State) (p : Nat) (pick : Nat → Bool) (body : Nat → Micro → State) : State :=
  match (s.seq p).micro with
  | some u =>
    let a := s.fetchAddr p u.uaddr
    let w := s.microword p a
    if s.get (Reg.SEQ_STATE_STATE p) = seqRunning ∧ (u.again || !s.issueHeld p) = true ∧ s.stepsHeld p = false ∧ (s.part p).issue.isEmpty = true ∧
        u.todo.isEmpty = true ∧ u.ends = false ∧ pick w = true then
      body w { u with uaddr := a }
    else s
  | none => s

/-- Whether a microword is the control operation `op`. -/
def isControl (op w : Nat) : Bool := bitAt w 31 = 1 && bitsOf w 30 28 = op
/-- The target of a control microword. -/
def microTarget (w : Nat) : Nat := bitsOf w 14 0

/-! ## Meanings -/

/-- The issue stage takes the next burst of the microroutine under way; with its last one a routine of the ROM ends (R29, R171). -/
def State.refill (s : State) (p : Nat) : State :=
  match (s.seq p).micro with
  | some u =>
    match u.todo with
    | c :: cs => (s.hand p c).goOn p { u with todo := cs }
    | [] => s
  | none => s

/-- BURST_ISSUE: the burst of the issue stage enters the Draught if every tile has a free buffer entry (R29), the hold of R368 lets it, and no
report has stopped the issue (R366, R371, R372). -/
def execBurstIssue (p : SeqId) (s : State) : Res :=
  let t := s.part p
  match t.issue with
  | [] => .next s
  | b :: bs =>
    if t.draught.length + t.buffer.length < 64 ∧ s.stepsHeld p = false then
      let earlier := t.opened.filter (fun o => decide (o.first < b.mfirst))
      let hold := match t.opened.find? (fun o => decide (o.first = b.mfirst)) with
        | some o => holdUntil earlier (s.macroMn p o.disp) o.disp
        | none => 0
      if t.step < hold ∨ s.barsStream p b then .next s
      else
        let first := s.get (Reg.SEQ_NEXTSTEP_STEP p) - s.allSteps p (b :: bs)
        let s1 := (s.setPart p { t with issue := bs, draught := t.draught ++ [b] }).confirm p hold
        .next (((s1.closeRollback p).traceBurst p b first).refill p)
    else .next s

/-- A burst wider than a turf's maximum is refused (R30): the turfs that refuse it record it, later bursts are
discarded, and the sequencer faults with EXPANDER at its next instruction boundary. -/
def State.refuseWidth (s : State) (p : Nat) (b : Burst) : State :=
  let bad := (s.turfsOf p).filter (fun t => decide (s.get (Reg.TRF_CFG_MAXW t) < b.width))
  let s1 := bad.foldl (fun u t =>
    let u1 := u.turfError t (Reg.TRF_ERR_WIDTH t)
    if u.flag (Reg.TRF_ERR_WIDTH t) || decide (u.reg (Reg.TRF_WIDTHERR_WIDTH t).off ≠ 0) then u1
    else ((u1.set (Reg.TRF_WIDTHERR_WIDTH t) b.width).set (Reg.TRF_WIDTHERR_TILE t) (u.someTile t)).useFree) s
  let s2 := s1.setPart p { s1.part p with issue := [], draught := [], stopped := true }
  let s3 := s2.setSeq p { s2.seq p with expander := some b.aop }
  match (s3.seq p).micro with
  | some u => s3.goOn p { u with todo := [] }
  | none => s3.boundary p

/-- BURST_ARRIVAL: the step expanders receive the oldest burst of the Draught and check its width (R30). -/
def execBurstArrival (p : SeqId) (s : State) : Res :=
  let t := s.part p
  match t.draught with
  | [] => .next s
  | b :: bs =>
    if (s.turfsOf p).any (fun u => decide (s.get (Reg.TRF_CFG_MAXW u) < b.width)) then .next (s.refuseWidth p b)
    else
      let s1 := s.setPart p { t with draught := bs, buffer := t.buffer ++ [b] }
      .next ((s.serving p).foldl (fun u w => u.set (Reg.TRF_STATE_BURSTS w) (t.buffer.length + 1)) s1)

/-- STEP_MICROWORD: issues one burst of its count, split into bursts of at most 8,192 steps (R208). -/
def execStepMicroword (p : SeqId) (s : State) : Res :=
  .next (s.runMicro p (fun w => bitAt w 31 = 0) (s.stepWord p))

/-- LOOP: opens a loop level with a count from SEL (R209). -/
def execLoop (p : SeqId) (s : State) : Res :=
  .next (s.runMicro p (isControl 0) (fun w u =>
    let n := u.count (s.macroMn p u.disp) (bitsOf w 27 24)
    if n = 0 then s.setMicro p { u with uaddr := microTarget w }
    else s.setMicro p { u with uaddr := u.uaddr + 1, loops := ⟨n, u.uaddr + 1, microTarget w, 0⟩ :: u.loops }))

/-- JUMP: continues at TARGET (R209). -/
def execJump (p : SeqId) (s : State) : Res :=
  .next (s.runMicro p (isControl 1) (fun w u => s.setMicro p { u with uaddr := microTarget w }))

/-- A branch of the microroutine. -/
def State.microBranch (s : State) (p w : Nat) (u : Micro) (taken : Bool) : State :=
  s.setMicro p { u with uaddr := if taken then microTarget w else u.uaddr + 1 }

/-- BFT: branches when FLC is 1, stalling on FLC (R209). -/
def execBft (p : SeqId) (s : State) : Res :=
  .next (s.runMicro p (isControl 2) (fun w u =>
    if s.flcBusy p then s else s.microBranch p w u (s.flag (Reg.SEQ_STATE_FLC p))))

/-- BFF: branches when FLC is 0, stalling on FLC (R209). -/
def execBff (p : SeqId) (s : State) : Res :=
  .next (s.runMicro p (isControl 3) (fun w u =>
    if s.flcBusy p then s else s.microBranch p w u (!s.flag (Reg.SEQ_STATE_FLC p))))

/-- BPT: branches on a dispatch parameter bit (R209). -/
def execBpt (p : SeqId) (s : State) : Res :=
  .next (s.runMicro p (isControl 4) (fun w u => s.microBranch p w u (u.param (s.returnForm p u.disp) (bitsOf w 27 24))))

/-- MICRO_CALL: saves the next microaddress and continues at TARGET (R209). -/
def execMicroCall (p : SeqId) (s : State) : Res :=
  .next (s.runMicro p (isControl 5) (fun w u => s.setMicro p { u with saved := some (u.uaddr + 1), uaddr := microTarget w }))

/-- MICRO_RET: returns to the saved microaddress, or ends the microroutine (R209). -/
def execMicroRet (p : SeqId) (s : State) : Res :=
  .next (s.runMicro p (isControl 6) (fun _ u =>
    match u.saved with
    | some a => s.setMicro p { u with saved := none, uaddr := a }
    | none => s.endMicro p u))

/-- NEW_AOP: an array instruction whose AOP is defined only by a loaded patch dispatches its microroutine (R216). -/
def execNewAop (p : SeqId) (s : State) : Res := .next (s.runInstr p .newAop (newAopBody p))

end Sys2Proof.Machine
end

