-- ==== Sys2Proof/Machine/Sources.lean ====
section
/-!
DEFINITION. The reset sources (R389, R390), the idle request and the release (R392, R394), temperature (R396, R397), watchdogs (R405, R406),
the function-level reset (R310), and the commands of the RST and PWR blocks.
-/
namespace Sys2Proof.Machine

/-! ## Levels (R389, R390) -/

/-- A level source is asserted (`on`) or released. -/
def State.setLevel (s : State) (src : Nat) (on : Bool) : State :=
  let rest := s.rst.levels.filter (fun x => decide (x ≠ src))
  { s with rst := { s.rst with levels := if on then rest ++ [src] else rest } }

/-- Whether a level source is asserted. -/
def State.level (s : State) (src : Nat) : Bool := s.rst.levels.contains src

/-- AUX is lost: the backup domain starts anew, fuses stay (R398, R426; log entry 29). -/
def State.loseAux (s : State) : State :=
  let s1 := s.resetRegs 5 (fun o => inBlock 0x100000 0x80000 o || decide (o = Reg.FAB_RCNT_COUNT.off) || decide (o = Reg.DBG_STAT_FAILS.off))
  { s1 with rst := { s1.rst with hold := false, module := s1.rst.module.map (fun x => { x with record := none }) } }

/-- POWERON: 48 V or AUX lies below its threshold, or 1 ms has passed with both good (R389, R437). `aux` says that AUX was lost. -/
def execPoweron (asserted aux : Bool) (s : State) : Res :=
  if asserted then
    let s1 := if aux then s.loseAux else s
    if s.level 1 && !aux then .next s else .next ((s1.setLevel 1 true).assertModule 1 4 0)
  else .next (s.setLevel 1 false)

/-- DRW_LONG_LOW: DRW has been low for 10 ms, or is released (R389); the thermal hold clears where every die reads below 100 °C (R397). -/
def execDrwLongLow (asserted : Bool) (s : State) : Res :=
  if asserted then
    let cool := (List.range 5).all (fun d => decide (SMap.get 0 s.rst.temps d < 100))
    let s1 : State := if cool then { s with rst := { s.rst with hold := false } } else s
    if s.level 2 then .next s1 else .next ((s1.setLevel 2 true).assertModule 2 4 0)
  else .next (s.setLevel 2 false)

/-- PERST: warm, or cold with option PERSTCOLD (R389). -/
def execPerst (asserted : Bool) (s : State) : Res :=
  if asserted then
    if s.level 3 then .next s else .next ((s.setLevel 3 true).assertModule 3 (if s.optPerstCold then 4 else 3) 0)
  else .next (s.setLevel 3 false)

/-! ## Pulses (R389) -/

/-- HOT_RESET. -/
def execHotReset (s : State) : Res := .next (s.assertModule 4 3 0)
/-- LINK_DOWN_RESET: after the link has once reached L0 since the last release. -/
def execLinkDownReset (s : State) : Res := if s.ep.linkUp then .next (s.assertModule 5 3 0) else .next s
/-- SOFTWARE: a write of RST_CTL. -/
def execSoftware (reach : BitVec 3) (target : Byte) (s : State) : Res := .next (s.requestReset 7 reach.toNat target.toNat)

/-- CONTROLLER_STATE_PARITY: the firmware store or the reset controller's state (R389, R398). -/
def execControllerStateParity (firmware : Bool) (addr : BitVec 16) (s : State) : Res :=
  .next (s.assertModule 9 3 ((if firmware then 6 else 7) * 2 ^ 60 + addr.toNat))

/-- FLR (R310): of a VF, its partition, ring and MSI-X table; of the PF, VF Enable, all partitions and rings, its MSI-X table and HST_HIV. -/
def execFlr (fn : Fin 5) (s : State) : Res :=
  let quiet (t : State) (f : Nat) : State := { t with ep := { t.ep with
    msix := t.ep.msix.filter (fun e => decide (e.1 / 1024 ≠ f)), pba := t.ep.pba.filter (fun m => decide (m.1 ≠ f))
    after := t.ep.after.filter (fun m => decide (m.1 ≠ f)), d3hot := setBit t.ep.d3hot f false, fnMask := setBit t.ep.fnMask f false } }
  if fn.val = 0 then
    let s1 := s.each 4 (fun p t => (t.assertTarget 6 2 p 0).resetRing p)
    let s2 := quiet { s1 with ep := { s1.ep with vfEnable := false } } 0
    .next (((s2.set Reg.HST_HIV_OFFER 0).set Reg.HST_HIV_CHOSEN 0).showOwners)
  else if fn.val ≤ s.vfs then
    .next (quiet ((s.assertTarget 6 2 (fn.val - 1) 0).resetRing (fn.val - 1)) fn.val)
  else .next s

/-! ## Watchdogs (R405, R406) -/

/-- Whether a debug halt holds the watchdog of partition `p`. -/
def State.wdHeld (s : State) (p : Nat) : Bool := decide (bitAt (s.get Reg.DBG_HALT_HALTED) p = 1) && s.flag (Reg.RST_WDCFG_FRZ p)

/-- WATCHDOG: the count reaches 0; the watchdog is disabled from then on (R405). -/
def execWatchdog (p : SeqId) (s : State) : Res :=
  if s.flag (Reg.RST_WDCFG_EN p) = false ∨ s.wdHeld p = true then .next s
  else
    let s1 := (s.set (Reg.RST_WDCFG_EN p) 0).set (Reg.RST_WDCNT_REMAIN p) 0
    if s.optWdWarm then .next (s1.assertModule 8 3 0) else .next (s1.assertTarget 8 2 p 0)

/-- WATCHDOG_ENABLE: a write of RST_WDCFG with EN = 1 (R405). -/
def execWatchdogEnable (p : SeqId) (value : W32) (s : State) : Res :=
  if value.getLsbD 31 = false then .next s
  else
    let s1 := (s.set (Reg.RST_WDCFG_EN p) 1).set (Reg.RST_WDCFG_FRZ p) (bitAt value.toNat 30)
    .next ((s1.set (Reg.RST_WDCFG_TIMEOUT p) (bitsOf value.toNat 15 0)).wdReload p)

/-- WATCHDOG_KICK (R405). -/
def execWatchdogKick (mask : BitVec 4) (s : State) : Res := .next (s.each 4 (fun p t => if mask.getLsbD p then t.wdReload p else t))

/-! ## Temperature (R396, R397) -/

/-- A reading of a junction sensor: NOW, PEAK, TWARN, and the warning with its arming (R396, R411). -/
def State.reading (s : State) (die v : Nat) : State :=
  let s1 := ((s.set (Reg.PWR_TEMP_NOW die) v).set (Reg.PWR_TEMP_PEAK die) (max (s.get (Reg.PWR_TEMP_PEAK die)) v))
  let temps := SMap.put 0 s1.rst.temps die v
  let limit := s1.get Reg.PWR_TWARN_LIMIT
  let hot := (List.range 5).any (fun d => decide (limit ≤ SMap.get 0 temps d))
  let cool := (List.range 5).all (fun d => decide (SMap.get 0 temps d + 5 ≤ limit))
  let s2 := ({ s1 with rst := { s1.rst with temps := temps, warned := hot || (s1.rst.warned && !cool) } } : State).set Reg.PWR_STAT_TWARN (bnat hot)
  if hot && !s.rst.warned then s2.raise 0x1D6 else s2

/-- JUNCTION_SENSOR_READING (R396). -/
def execJunctionSensorReading (die : Fin 5) (reading : Byte) (s : State) : Res := .next (s.reading die reading.toNat)

/-- THERMAL_WARNING: a reading at the limit or above (R396). -/
def execThermalWarning (die : Fin 5) (reading : Byte) (s : State) : Res :=
  if reading.toNat < s.get Reg.PWR_TWARN_LIMIT then .next s else .next (s.reading die reading.toNat)

/-- THERMAL_TRIP: 115 °C or above for 10 µs asserts a cold reset and sets the thermal hold (R396, R397). -/
def execThermalTrip (die : Fin 5) (reading : Byte) (s : State) : Res :=
  if reading.toNat < 115 then .next s
  else
    let s1 := s.reading die reading.toNat
    if s1.rst.hold then .next s1
    else .next (({ s1 with rst := { s1.rst with hold := true } } : State).assertModule 0x0A 4 (die.val * 256 + reading.toNat))

/-! ## REFCLK (R390) -/

/-- REFCLK_LOSS: with no source asserted it raises no reset and sets REFLOSS; what clocked blocks do until the next cold reset is not specified,
and the model leaves them as they are (log entry 29). -/
def execRefclkLoss (s : State) : Res :=
  let s1 : State := { s with rst := { s.rst with refclk := false } }
  if s.rst.levels.isEmpty && s.rst.module.isNone && s.rst.targets.isEmpty && !s.rst.hold then .next (s1.set Reg.PWR_STAT_REFLOSS 1) else .next s1

/-- REFCLK_RETURN: held sequences proceed (R390). -/
def execRefclkReturn (s : State) : Res :=
  let s1 : State := { s with rst := { s.rst with refclk := true } }
  .next (s1.rst.targets.foldl (fun (t : State) (e : Nat × Option Pending) => t.beginIdle e.1) s1)

/-! ## Idle and release (R392, R394) -/

/-- The pending reset of a partition or block. -/
def State.pendingTarget (s : State) (t : ResetTarget) : Option (Nat × Pending) :=
  match targetKey t with
  | some k => (SMap.get none s.rst.targets k).map (fun x => (k, x))
  | none => none

/-- IDLE_REACHED: the target is idle (R394). -/
def execIdleReached (target : ResetTarget) (s : State) : Res :=
  match s.pendingTarget target with
  | none => .next s
  | some (k, x) =>
    let t := s.finishPackets k
    .next (if t.rst.refclk && t.targetIdle k then t.setTarget k (some { x with idle := true }) else t)

/-- IDLE_TIMEOUT: open fences are forced, traffic is discarded, the record carries TIMEOUT; TMO = 0 means no timeout (R394). -/
def execIdleTimeout (target : ResetTarget) (s : State) : Res :=
  match s.pendingTarget target with
  | none => .next s
  | some (k, x) =>
    if x.idle ∨ s.rst.refclk = false ∨ s.get Reg.RST_IDLETMO_TMO = 0 then .next s
    else
      let s1 := (s.targetDomains k).foldl (fun t d => if t.phase d = 1 ∨ t.phase d = 2 then t.forceFence d else t) s
      .next (((s1.dropTraffic k).ashTimeout x.record).setTarget k (some { x with idle := true }))

/-- The target of a partition or block reset is cleared and released: the sequence is complete, source 0x1D7 is raised (R392). -/
def State.releaseTarget (s : State) (k : Nat) (x : Pending) : State :=
  let s1 := s.setTarget k none
  let s2 := if k < 4 then (s1.clearPartition k).set ⟨Reg.RST_STAT_PARTRST.off, k, k⟩ 0 else s1.clearBlock (k - 256)
  ((s2.set Reg.RST_STAT_LASTREACH x.reach).set Reg.RST_STAT_LASTSRC x.src).raise 0x1D7

/-- RESET_RELEASE (R390, R392): a module reset once every level source is released, REFCLK is present and no thermal hold stands, which begins
boot; a partition or block reset once its target is idle and no module reset stands. -/
def execResetRelease (target : ResetTarget) (s : State) : Res :=
  match targetKey target with
  | none =>
    match s.rst.module with
    | none => .next s
    | some x =>
      if s.rst.levels.isEmpty && s.rst.refclk && !s.rst.hold then
        .next (({ s with rst := { s.rst with module := none, boot := some (x.reach, x.src) } } : State).clearModule x.reach)
      else .next s
  | some k =>
    match SMap.get none s.rst.targets k with
    | none => .next s
    | some x => if x.idle && s.rst.refclk && s.rst.module.isNone then .next (s.releaseTarget k x) else .next s

/-- ASH_CLEAR: the counters and records are cleared (R398). -/
def execAshClear (s : State) : Res :=
  let s1 := (s.each 16 (fun c t => t.set (Reg.RST_ASHCNT_COUNT c) 0)).each 32 (fun i t => t.each 4 (fun j u => u.set (Reg.RST_ASHREC_RECORD i j) 0))
  let r := s1.rst
  let one (x : Pending) : Pending := { x with record := none }
  let s2 : State := { s1 with
    rst := { r with module := r.module.map one, targets := r.targets.map (fun e => (e.1, e.2.map one)) } }
  .next ((s2.set Reg.RST_ASHHEAD_NEWEST 0).set Reg.RST_ASHHEAD_WRAPPED 0)

/-- TURF_OFF: a set bit of PWR_TURFOFF acts once its conditions hold (R408). -/
def execTurfOff (t : TurfId) (s : State) : Res := .next (s.switchOff t)

end Sys2Proof.Machine
end

