-- ==== Sys2Proof/Machine/Recovery.lean ====
section
/-!
DEFINITION. Recovery (R364-R377): fault records, the action each fault starts, replay, rollback, and machine checks (R217-R219). A fault that a
mechanism of the model has found waits in `State.detected` for its report; any other comes with the command.
-/
namespace Sys2Proof.Machine

/-! ## Fault records (R387) -/

/-- The unit as a record names it: the sequencer for SPPAR, IMPAR, SHPAR, MCHK and REQ, else what has detected the fault. -/
def recUnit (f : FaultInfo) : Nat := if [6, 7, 8, 0xC, 0xD].contains f.kind then f.part else f.unit

/-- An RST_RECLOG entry. -/
def recEntry (f : FaultInfo) (action : Nat) (esc : Bool) : W64 :=
  let step := f.step.map (·.toNat % 2 ^ 40)
  BitVec.ofNat 64 (recUnit f % 1024 * 2 ^ 54 + f.kind % 16 * 2 ^ 48 + action % 8 * 2 ^ 45 + bnat esc * 2 ^ 44 + bnat f.shared * 2 ^ 43 +
    f.part.val * 2 ^ 41 + bnat step.isSome * 2 ^ 40 + step.getD 0)

/-- A record enters the queue of 64, or is lost with OVF; replay and rollback raise the partition's source (R386, R387). -/
def State.logFault (s : State) (f : FaultInfo) (action : Nat) (esc : Bool) : State :=
  let s1 := if s.recLog.length < 64 then ({ s with recLog := s.recLog ++ [recEntry f action esc] } : State).showRecLog
    else s.set Reg.RST_RECLVL_OVF 1
  if action = 1 ∨ action = 2 then s1.raise (0x1D0 + f.part.val) else s1

/-- RECOVERY_LOG_READ: a normal read dequeues the oldest record, or returns 0 (R387). -/
def execRecoveryLogRead (s : State) : Res := .next ((s.send (.readData (leBytes 8 (s.recLog.headD 0).toNat))).recNext)

/-! ## Actions (R365, R370, R372, R376) -/

/-- The first action of a kind: 0 none, 1 replay, 2 rollback, 3 partition reset (R370). A shared-scratch fault acts on the partition where a
sequencer read it, unit 0-3. -/
def firstAction (f : FaultInfo) : Nat :=
  match f.kind with
  | 1 | 2 | 3 | 4 | 0xB => 1
  | 5 | 6 | 0xD => 2
  | 7 | 9 | 0xA => 3
  | 8 => if f.unit < 4 then 3 else 0
  | _ => 0

/-- Whether a fault is logged only: no open job, or its tile's turf unassigned, withdrawn or fenced (R365). A host's request needs no open job
(R385). -/
def State.recordOnly (s : State) (f : FaultInfo) : Bool :=
  let t := turfOfTile (f.unit % 1024)
  (decide (f.kind ≠ 0xD) && (s.seq f.part).job.isNone) ||
  ((decide (f.kind = 1) || decide (f.kind = 3) || decide (f.kind = 5) || decide (f.kind = 9)) &&
    (!s.flag (Reg.TRF_CFG_ASSIGNED t) || s.flag (wdrawBit t) || s.turfShut t))

/-- A rollback that cannot be made is a partition reset (R372). -/
def State.rollbackOr (s : State) (p : Nat) : Nat :=
  let done := ((s.seq p).job.map (·.rollbacks)).getD 0
  if s.flag (Reg.HBM_CKPT_VALID p) = false ∨ s.flag (Reg.RST_RECSTAT_NORB p) = true ∨ s.get Reg.RST_RECCTL_RBLIM ≤ done then 3 else 2

/-- The action of a fault that starts or joins a recovery, and whether it is escalated (R376). A replay whose window has closed is no recovery under
way, though it has still to issue again what follows (R371). -/
def State.chooseAction (s : State) (f : FaultInfo) : Nat × Bool :=
  let p := f.part.val
  let a := if firstAction f = 2 then s.rollbackOr p else firstAction f
  match s.recov p with
  | none =>
    match (s.seq p).ckpt with
    | some c => if firstAction f = 1 then (if c.again then (3, true) else (4, false)) else (3, false)
    | none => (a, false)
  | some r =>
    if r.action = 3 then (3, false)
    else if r.action = 2 ∧ 1 ≤ r.stage then (3, true)
    else if r.action = 1 ∧ r.stage = 2 then (s.rollbackOr p, true)
    else if r.action = 1 ∧ r.stage = 3 then (a, false)
    else (max a r.action, false)

/-- A halted sequencer's recovery waits for its resume (R430). -/
def State.halted (s : State) (p : Nat) : Bool := s.get (Reg.SEQ_STATE_STATE p) = seqHalted

/-- The recovery of a partition begins with an action; a partition reset asserts RECOVERY with the record in its DETAIL (R375, R398). What an
earlier replay had still to issue again stays to be issued (R371). -/
def State.startRecovery (s : State) (f : FaultInfo) (action : Nat) (esc : Bool) : State :=
  let p := f.part.val
  let r : Recovery := (s.recov p).getD ⟨f, action, 0, [], none, 0, esc⟩
  let s1 := (s.setRecov p (some ⟨f, action, 0, r.todo, r.unfinished, r.sr, esc⟩)).set (Reg.RST_RECSTAT_STATE p) action
  if action = 3 ∧ s.halted p = false then s1.assertTarget 0x0D 2 p (recEntry f action esc).toNat else s1

/-- A fault's own recovery: the record, and the action (R370, R376). -/
def State.recover (s : State) (f : FaultInfo) : State :=
  let p := f.part.val
  if s.recordOnly f || decide (firstAction f = 0) then s.logFault f 0 false
  else
    let c := s.chooseAction f
    let s1 := s.logFault f c.1 c.2
    if c.1 = 4 then
      let q := s1.seq p
      s1.setSeq p { q with ckpt := q.ckpt.map (fun x => { x with written := false, again := true }) }
    else match s.recov p with
      | none => s1.startRecovery f c.1 c.2
      | some r =>
        if c.1 = r.action ∧ c.2 = false ∧ r.stage < 3 then s1
        else if c.2 ∧ r.action = 2 then
          let s2 := (s1.ashAppend 0x0E 0 p (recEntry r.fault r.action r.esc).toNat false).ashAppend 0x0E 0 p (recEntry f c.1 true).toNat false
          s2.startRecovery f c.1 c.2
        else s1.startRecovery f c.1 c.2

/-! ## Machine checks (R217-R219) -/

/-- A machine check: the unit names the store in bits 19-16 and its address below (0 microword ROM, 1 nanoword ROM, 2 dispatch, 3 micro patch, 4
nano patch, 5 match). The sequencer stops, its job fails, a recovery is abandoned; the reach follows the store (R218, R376). -/
def State.machineCheck (s : State) (f : FaultInfo) : State :=
  let p := f.part.val
  let store := f.unit / 2 ^ 16 % 16
  let addr := f.unit % 2 ^ 16
  let key := store * 2 ^ 16 + addr
  let q := s.seq p
  let twice := decide (store ≤ 1) && q.checked.contains key
  let s1 := (s.logFault f 0 false).raise (0x0A4 + p)
  let s2 := (s1.setSeq p { q with micro := none, checked := if store ≤ 1 ∧ q.checked.contains key = false then q.checked ++ [key] else q.checked }).stopIn
    p seqStopped
  let s3 := ((s2.failJob p 0).setRecov p none).set (Reg.RST_RECSTAT_STATE p) 0
  let s4 := if twice then s3.disableSeq p else s3
  let detail := store * 2 ^ 60 + p * 2 ^ 56 + addr
  if store ≤ 1 ∧ s4.optMcWarm = false then s4.assertTarget 9 2 p detail else s4.assertModule 9 3 detail

/-! ## Reports (R364, R366, R377) -/

/-- A shared-scratch error that no sequencer read fails the transfer that read it: one of the staging engine's, or the DMA channel's (R370). -/
def State.failReader (s : State) (unit : Nat) : State :=
  let reads (x : Transfer) : Bool := decide (x.desc.dir = 0) && decide (x.desc.mem = 2) && decide (0x800000 ≤ x.desc.maddr)
  if unit < readerUnit then s
  else if unit < readerUnit + 8 then
    let e := unit - readerUnit
    let l := (s.stg e).filter reads
    match l[s.freeValue.toNat % max 1 l.length]? with
    | some x => s.useFree.putTransfer e { x with failed := true }
    | none => s
  else if unit < readerUnit + 24 ∧ s.get (Reg.DMA_STAT_STATE (unit - (readerUnit + 8))) = 1 then s.dmaError (unit - (readerUnit + 8)) dmaData
  else s

/-- The register that also flags a fault which comes with the command (R364), or the transfer that it fails; a parity error of a Cord entry stops its
slot (R141), its unit being the tile plus 1,024 times the slot. A poisoned flit comes with POISONED_FLIT; one that does not is taken to be
found at port 0 of its router. -/
def State.flagFault (s : State) (f : FaultInfo) : State :=
  let t := turfOfTile (f.unit % 1024)
  match f.kind with
  | 1 => s.turfError t (Reg.TRF_ERR_DRAIL t)
  | 3 => s.meshErr 0 (f.unit % 1024) 0
  | 8 => s.failReader f.unit
  | 5 => s.turfError t (Reg.TRF_ERR_PARITY t)
  | 9 => { s with cordBad := if s.cordBad.contains (f.unit % 1024, f.unit / 1024) then s.cordBad else s.cordBad ++ [(f.unit % 1024, f.unit / 1024)] }
  | _ => s

/-- The steps below a reported fault's step are confirmed (R366). -/
def State.confirmTo (s : State) (f : FaultInfo) : State :=
  match f.step with
  | some n => if n.toNat ≤ (s.part f.part).step then s.confirm f.part n.toNat else s
  | none => s

/-- The open macro-instruction whose window holds a fault's step, else the oldest (R371). -/
def faulting (opened : List OpenMacro) (step : Option W64) : Option OpenMacro :=
  match step with
  | some n => (opened.find? (fun o => decide (o.first ≤ n.toNat) && decide (n.toNat < o.next))).or opened.head?
  | none => opened.head?

/-- A partition fault is an error in every Flue stream whose last input step it does not lie above, and in a result of it not yet written: `dst` and
FLC stay (R105, R367). A fault without a step counts from the first step not confirmed (DEDUCED; log entry 47); a host's request is no error. -/
def State.markFlue (s : State) (f : FaultInfo) : State :=
  let p := f.part.val
  let t := s.part p
  let n := (f.step.map (·.toNat)).getD t.confirmed
  if f.kind = 0xD ∨ firstAction f = 0 then s
  else s.setPart p { t with
    streams := t.streams.map (fun v => if !s.streamWhole p v || decide (n ≤ v.last) then { v with failed := true } else v)
    results := t.results.map (fun v => if n < v.upto then { v with failed := true } else v) }

/-- One partition's share of a report. -/
def State.reportOne (s : State) (f : FaultInfo) : State :=
  if f.kind = 0xC then s.machineCheck f else ((s.markFlue f).confirmTo f).recover f

/-- A spine CRC error fails the transaction that carried it (R137): which one is free, a running DMA channel, a staging transfer, or the register
access that comes next (log entry 43). -/
def State.failSpine (s : State) : State :=
  let dma := (List.range 16).filter (fun c => decide (s.get (Reg.DMA_STAT_STATE c) = 1))
  let stg := (List.range 8).flatMap (fun e => ((s.stg e).filter (fun x => decide (x.desc.dir ≠ 2))).map (fun x => (e, x)))
  let k := s.freeValue.toNat % (1 + dma.length + stg.length)
  let t := s.useFree
  if k < dma.length then t.dmaError (dma.getD k 0) 5
  else match stg[k - dma.length]? with
    | some (e, x) => t.putTransfer e { x with failed := true }
    | none => { t with spineBad := true }

/-- The partitions that a fault which comes with the command reaches: a SPINE fault those with an open job, a shared FLUE fault those with
turfs in service on the die of its unit, an HBM data error in the block `a` those with a transfer that touches it, another its own (R105,
R224, R365, R377). -/
def State.faultParts (s : State) (f : FaultInfo) (a : Nat) : List SeqId :=
  if f.kind = 4 then [(0 : SeqId), 1, 2, 3].filter (fun q => (s.seq q).job.isSome)
  else if f.kind = 2 ∧ f.shared = true then [(0 : SeqId), 1, 2, 3].filter (fun q => (s.serving q).any (fun t => decide (2 * (t / 32) + t % 8 / 4 = f.unit)))
  else if f.kind = 0xA then s.partsTouching [f.part] a
  else [f.part]

/-- The partition of a fault that comes with the command: that of the tile's turf for DRAIL, PEPAR and CORDPAR, else the one it names (R365). -/
def State.attributed (s : State) (f : FaultInfo) : FaultInfo :=
  if f.kind = 1 ∨ f.kind = 5 ∨ f.kind = 9 then { f with part := Fin.ofNat 4 (s.get (Reg.TRF_CFG_PART (turfOfTile (f.unit % 1024)))) } else f

/-- An error handled in the block that detects it (R364), kind 0: parity of word `unit` of the Kindling programs, 512 of each engine, which is met when
it is next read (R303); from 2^16 on that of a route entry, which reads invalid until the next epoch or ROUTE apply. -/
def State.blockError (s : State) (unit : Nat) : State :=
  if unit < 2048 then { s with kdl := { s.kdl with bad := if s.kdl.bad.contains unit then s.kdl.bad else s.kdl.bad ++ [unit] } }
  else if 2 ^ 16 ≤ unit ∧ unit < 2 ^ 17 then s.set (Reg.FAB_ROUTE_ENTRY (unit - 2 ^ 16)) 0
  else s

/-- FAULT_REPORT (R366, R370, R377): a detected fault reaches its partition; one that comes with the command is flagged first and reaches every
partition that uses the resource, and its shared-resource source is raised once; that of a detected one was raised where it was found. -/
def execFaultReport (f0 : FaultInfo) (s : State) : Res :=
  let f := s.attributed f0
  if s.detected.contains f0 then .next (({ s with detected := s.detected.erase f0 } : State).reportOne f0)
  else if f.kind = 0 then .next (s.blockError f.unit)
  else
    let a := s.someBlock (f.unit % 8)
    let s1 := if f.kind = 4 then s.failSpine else if f.kind = 0xA then s.useFree.hbmErrorAt a else s.flagFault f
    let ps := s.faultParts f a
    let shared := f.shared || decide (f.kind = 4) || decide (1 < ps.length)
    .next (ps.foldl (fun (t : State) (q : SeqId) => t.reportOne { f with part := q, shared := shared }) (if shared then s1.raise 0x1D4 else s1))

/-- ROLLBACK_REQUEST: a fault of kind REQ in every named partition, except in debug halt (R385). -/
def execRollbackRequest (mask : BitVec 4) (s : State) : Res :=
  .next ([(0 : SeqId), 1, 2, 3].foldl (fun (t : State) (p : SeqId) =>
    if mask.getLsbD p.val && !t.halted p then t.reportOne ⟨0xD, p, none, p, false⟩ else t) s)

/-! ## Replay (R149, R371) -/

/-- The smallest step number from `step` on that is congruent to `base` modulo the frame length (R149, R150). -/
def congruentFrom (step base frame : Nat) : Nat := step + (base + frame * (step / frame + 1) - step) % frame

/-- A replay is counted (R387). -/
def State.countReplay (s : State) (p : Nat) : State :=
  let q := s.seq p
  (s.setSeq p { q with job := q.job.map (fun j => { j with replays := j.replays + 1 }) }).bump (Reg.RST_REPLAYS_COUNT p) 1

/-- What has not taken effect by step number `n` takes effect `by_` step numbers later: reserved flits and staging rows on their way, the flits
that the partition's Cord-bound transfers have still to supply, and those of descriptors still to be accepted (R142, R149, R371; log entry 19). -/
def State.delay (s : State) (p n by_ : Nat) : State :=
  let t := s.part p
  let s1 := s.setPart p { t with landing := t.landing.map (fun l => if n ≤ l.due then { l with due := l.due + by_ } else l) }
  let s2 : State := { s1 with links := s1.links.map (fun l => if l.part = p ∧ n ≤ l.due then { l with due := l.due + by_ } else l) }
  let shift (x : Transfer) : Transfer := { x with
    delta := x.delta + by_, from_ := x.from_.map (fun e => (e.1, e.2 + by_)), last := if n < x.last then x.last + by_ else x.last }
  let s3 := s2.each 8 (fun e v => v.setStg e ((v.stg e).map (fun x => if x.part = p ∧ x.desc.cord = true then shift x else x)))
  s3.setPart p { s3.part p with shift := (s3.part p).shift + by_ }

/-- A macro-instruction as it is issued again `by_` step numbers later. -/
def OpenMacro.later (o : OpenMacro) (by_ : Nat) : OpenMacro := { o with first := o.first + by_, next := o.next + by_ }

/-- Whether a snapshot slot of a PE of partition `p` does not match its parity bit; the PEs are those of turfs in state 1 or 2 (R369). -/
def State.slotBad (s : State) (p : Nat) (o : OpenMacro) : Bool :=
  (s.pesOf p).any (fun i => decide ((SMap.get PeRegs.reset o.snap i).parity ≠ SMap.get PeRegs.reset.parity o.parity i))

/-- The restart of a replay: registers from the snapshot, bursts discarded, idle steps up to the restart, Δ for what Cord-bound transfers have
still to bring (R149, R369, R371). What is to be issued again is the faulting macro-instruction and those after it, among them what an earlier
replay had still to issue. A parity error in a slot turns the replay into a rollback whose record carries ESC (R376); its kind is PEPAR (DEDUCED;
log entry 47). -/
def State.beginReplay (s : State) (p : Nat) (r : Recovery) : State :=
  let t := s.part p
  let s0 := s.countReplay p
  match faulting (t.opened ++ r.todo) r.fault.step with
  | none => (s0.setRecov p none).set (Reg.RST_RECSTAT_STATE p) 0
  | some o =>
    if s.slotBad p o then
      let f : FaultInfo := ⟨5, Fin.ofNat 4 p, none, p, false⟩
      (s.logFault f (s.rollbackOr p) true).startRecovery f (s.rollbackOr p) true
    else
    let sr := congruentFrom t.step o.first (s.frameLen p)
    let u := (s.seq p).micro
    let s1 := s0.setPart p { t with
      issue := [], draught := [], buffer := [], taken := 0, streams := [], touched := []
      results := t.results.filter (fun f => decide (f.first < o.first)), opened := t.opened.filter (fun x => decide (x.first < o.first)) }
    let s2 : State := { s1 with pes := SMap.update (fun _ => PeRegs.reset) s1.pes (SMap.get PeRegs.reset o.snap) (s1.pesOf p) }
    let s3 := (((s2.delay p t.step (sr - o.first)).beats p t.step (sr - t.step)).takeSteps p (sr - t.step) 0).setReg
      (Reg.SEQ_NEXTSTEP_STEP p).off (BitVec.ofNat 64 sr)
    let s4 := (s3.serving p).foldl (fun (v : State) (n : Nat) => v.set (Reg.TRF_STATE_BURSTS n) 0) s3
    let s5 := s4.setSeq p { s4.seq p with micro := none }
    s5.setRecov p (some { r with
      stage := 2
      todo := ((t.opened ++ r.todo).filter (fun x => decide (o.first ≤ x.first))).map (fun x => x.later (sr - o.first))
      unfinished := (u.filter (fun m => !m.again)).or r.unfinished |>.map (fun m => { m with first := m.first + (sr - o.first) })
      sr := sr })

/-- The next macro-instruction issued again, from the quantities of its first dispatch (R371): one of the ROM as its bursts, one of a patch as its
microroutine. The one that the fault cut short retires when its routine ends; of any other the pointers stay. -/
def State.reissue (s : State) (p : Nat) (r : Recovery) (o : OpenMacro) (rest : List OpenMacro) : State :=
  let cut := r.unfinished.filter (fun u => decide (u.first = o.first))
  let size := (cut.map (·.size)).getD 0
  let upd := (cut.map (·.upd)).getD []
  let done : State := match if s.patchedAop p o.disp.aop then none else aopMn o.disp.aop with
  | none => s.startMicro p o.disp size cut.isNone upd
  | some m =>
    match s.romIssue p m o.disp size cut.isNone upd with
    | .done t _ => t
    | .hold t => t
    | _ => s
  if r.stage = 3 ∧ rest = [] then done.setRecov p none
  else done.setRecov p (some { r with todo := rest, unfinished := if cut.isSome then none else r.unfinished })

/-- REPLAY: first the restart of a replay reported, then, as the issue stage is free, each macro-instruction to be issued again (R371). -/
def execReplay (p : SeqId) (s : State) : Res :=
  match s.recov p with
  | none => .next s
  | some r =>
    if r.action ≠ 1 ∨ s.halted p = true then .next s
    else if r.stage < 2 then .next (s.beginReplay p r)
    else match r.todo with
      | [] => .next s
      | o :: rest => if (s.part p).issue.isEmpty && (s.seq p).micro.isNone then .next (s.reissue p r o rest) else .next s

/-! ## Rollback (R150, R240, R372, R385) -/

/-- The HBM address of the checkpoint part of the lowest-numbered die that holds a turf of the partition (R240). -/
def State.ckptBase (s : State) (p : Nat) (c : SavedSeq) : Nat :=
  0x800000000 * (c.turfs.map (fun t => 2 * (t / 32) + t % 8 / 4)).foldl min 3 + s.get (Reg.HBM_CKPT_OFF p)

/-- The memories of a checkpoint restored: each turf's planes, into RST_SUBST.TO for FROM, where TO's own are left out, in IN transfers under the
engine assignment of R239, and the scratchpad from the lowest die (R231, R240, R385). -/
def State.restorePlanes (s : State) (p : Nat) (c : SavedSeq) : State :=
  let off := s.get (Reg.HBM_CKPT_OFF p)
  let dieOf (t : Nat) : Nat := 2 * (t / 32) + t % 8 / 4
  let src := s.get (Reg.RST_SUBST_FROM p)
  let dst := s.get (Reg.RST_SUBST_TO p)
  let swap := s.flag (Reg.RST_SUBST_V p) && c.turfs.contains src
  let place (t : Nat) : Nat :=
    0x800000000 * dieOf t + off + 0x201000 +
      512 * c.len * 16 * (((c.turfs.filter (fun u => decide (dieOf u = dieOf t))).findIdx? (fun u => decide (u = t))).getD 0)
  let one (u : State) (t : Nat) : State :=
    (tilesOfTurf (if swap && decide (t = src) then dst else t)).zipIdx.foldl (fun v x =>
      let at_ := place t + 512 * c.len * x.2
      let rows := (List.range (64 * c.len)).map (fun i => BitVec.ofNat 64 (leNat (v.hbmRead (at_ + 8 * i) 8)))
      State.storeRows (ckptOrigin p x.1) x.1 c.bit0 0 (c.len + 1) rows 0 (v.hbmTouch at_ (512 * c.len))) u
  let s1 := (c.turfs.filter (fun t => !(swap && decide (t = dst) && decide (src ≠ dst)))).foldl one s
  let base := s1.ckptBase p c + 0x1000
  (s1.hbmTouch base 0x200000).hearthWrite (0x200000 * p) (s1.hbmRead base 0x200000)

/-- The sequencer state of a checkpoint restored, the reservation left invalid (R240). -/
def State.restoreSeq (s : State) (p : Nat) (c : SavedSeq) : State :=
  let q := s.seq p
  let s1 := s.setSeq p { q with
    sst := c.sst, fsr := c.fsr, outstanding := [], micro := none, waiting := none, offer := none, ckpt := none }
  let s2 := s1.each 16 (fun i t =>
    let e := c.ptrs.getD i (0, 0)
    (t.setReg (Reg.SEQ_PADDR_VALUE p i).off (BitVec.ofNat 64 e.1)).setReg (Reg.SEQ_PDESC_VALUE p i).off (BitVec.ofNat 64 e.2))
  let s3 := (s2.set (Reg.SEQ_LEN_FLA p) c.fla).set (Reg.SEQ_LEN_FLB p) c.flb
  let s4 := ((s3.set (Reg.SEQ_STATE_FLC p) c.flc).set (Reg.SEQ_STATE_REPACT p) (bnat c.rep)).set (Reg.SEQ_STATE_REPI p) (bnat c.repi)
  (((s4.set (Reg.SEQ_REPCNT_COUNT p) c.repcnt).set (Reg.SEQ_IVEC_IEN p) c.ien).setRsv p false).setPc p c.pc

/-- The sequencer state that a header holds: that of the checkpoint; the layout of a header that something else wrote in its place is not given,
and what is read from it is a free function of its bytes (R239, R240; log entry 20). -/
def SavedSeq.ofHeader (v : SavedSeq) (h : List Byte) : SavedSeq :=
  if h = v.header then v
  else
    let g (i : Nat) : Nat := Config.freeFunction 20 (i :: h.map BitVec.toNat)
    { v with
      pc := g 0, ptrs := (List.range 16).map (fun i => (g (16 + 2 * i), g (17 + 2 * i))), fla := g 1, flb := g 2, sst := Sst.ofBits (g 3), flc := g 4
      fsr := fsrPut 0 (g 5), rep := (g 6).testBit 0, repi := (g 7).testBit 0, repcnt := g 8, ien := g 9 }

/-- A rollback is counted; the job it resumes is open (R385, R387). -/
def State.countRollback (s : State) (p : Nat) : State :=
  let q := s.seq p
  let j := q.job.getD ⟨0, 0, false⟩
  (s.setSeq p { q with job := some { j with rollbacks := j.rollbacks + 1 } }).bump (Reg.RST_ROLLBACKS_COUNT p) 1

/-- What a rollback discards: the partition's descriptors, without events, and their packets and flits (R372). -/
def State.dropDescriptors (s : State) (p : Nat) : State :=
  let s1 := s.each 8 (fun e t => ((t.stg e).filter (fun x => decide (x.part = p))).foldl (fun u x => u.dropPackets e x.slot) t)
  let s2 := s1.each 8 (fun e t => t.setStg e ((t.stg e).filter (fun x => decide (x.part ≠ p))))
  { s2 with links := s2.links.filter (fun l => decide (l.part ≠ p)), flows := s2.flows.filter (fun e => decide (e.1 / 4096 ≠ p)) }

/-- The array side of a rollback: nothing of the partition's work is left, and every PE register is as after a partition reset (R240, R372). -/
def State.dropWork (s : State) (p : Nat) : State :=
  let s1 := s.setPart p { s.part p with
    issue := [], draught := [], buffer := [], taken := 0, streams := [], results := [], landing := [], opened := [], touched := []
    stopped := false }
  { s1 with pes := s1.pes.filter (fun e => !s1.owns p (turfOfPe e.1)) }

/-- The partition as the checkpoint left it, at the smallest unconsumed step number congruent to the checkpoint's (R150, R240, R372). -/
def State.restoreCheckpoint (s : State) (p : Nat) (c : SavedSeq) : State :=
  let step := (s.part p).step
  let next := congruentFrom step c.step (s.frameLen p)
  let s1 := ((s.dropDescriptors p).dropWork p).restorePlanes p c
  let s2 := ((s1.beats p step (next - step)).takeSteps p (next - step) 0).setReg (Reg.SEQ_NEXTSTEP_STEP p).off (BitVec.ofNat 64 next)
  let s3 := (s2.serving p).foldl (fun (v : State) (n : Nat) => v.set (Reg.TRF_STATE_BURSTS n) 0) s2
  let s4 := s3.setPart p { s3.part p with shift := c.shift + (next - c.step) }
  (s4.hbmTouch (s.ckptBase p c) 4096).restoreSeq p (c.ofHeader (s.hbmRead (s.ckptBase p c) 4096))

/-- Whether the stacks that hold a checkpoint answer. -/
def State.ckptUp (s : State) (p : Nat) (c : SavedSeq) : Bool :=
  let dies := (c.turfs.map (fun t => 2 * (t / 32) + t % 8 / 4)).eraseDups
  dies.all (fun d => s.hbmUp (0x800000000 * d + s.get (Reg.HBM_CKPT_OFF p))
    (ckptSize c.len (c.turfs.filter (fun t => decide (2 * (t / 32) + t % 8 / 4 = d))).length))

/-- ROLLBACK: the checkpoint is restored (R372), by the engines that made it (R239, R240); where a stack that holds it does not answer, the partition is reset instead (R376, log entry 32). -/
def execRollback (p : SeqId) (s : State) : Res :=
  match s.recov p with
  | none => .next s
  | some r =>
    if r.action ≠ 2 ∨ r.stage ≠ 0 ∨ s.halted p = true then .next s
    else match SMap.get none s.saved p with
      | none => .next (s.startRecovery r.fault 3 true)
      | some c =>
        if !(s.diesOf p).all s.dieEngines then .next s
        else if s.ckptUp p c then .next (((s.restoreCheckpoint p c).countRollback p).setRecov p (some { r with stage := 1, todo := [], unfinished := none }))
        else .next (s.startRecovery r.fault 3 true)

/-- ROLLBACK_RESUME: the re-run resumes at the checkpoint's instruction; a sequencer that a reset or fault had stopped runs again (R150, R385). -/
def execRollbackResume (p : SeqId) (s : State) : Res :=
  match s.recov p with
  | none => .next s
  | some r =>
    if r.action ≠ 2 ∨ r.stage ≠ 1 then .next s
    else
      let s1 := s.setRecov p (some { r with stage := 2 })
      .next (if s1.halted p || (s1.seq p).disabled then s1 else s1.set (Reg.SEQ_STATE_STATE p) seqRunning)

end Sys2Proof.Machine
end

