-- ==== Sys2Proof/Machine/Windows.lean ====
section
/-!
DEFINITION. The PCIe endpoint's windows and link (R308, R311-R314): memory windows of the BARs, instruction-memory writes, accesses that
BAR0 does not accept, link training.
-/
namespace Sys2Proof.Machine

/-! ## Instruction memory (R314) -/

/-- A host write to a sequencer's instruction memory; discarded with IMEMW unless the sequencer is Stopped or Faulted. -/
def State.imemWrite (s : State) (p a : Nat) (bs : List Byte) : State :=
  let st := s.get (Reg.SEQ_STATE_STATE p)
  if st = seqStopped ∨ st = seqFaulted then
    { s with imem := writeBytes s.imem (0x100000 * p + a) (bs.take (0x100000 - a)) }
  else s.set Reg.HST_ERR_IMEMW 1

/-- INSTRUCTION_MEMORY_WRITE (R314). -/
def execInstructionMemoryWrite (p : SeqId) (addr : Nat) (data : List Byte) (s : State) : Res :=
  if addr < 0x100000 ∧ s.moduleReset = false then .next (s.imemWrite p addr data) else .next s

/-! ## Windows (R312, R313) -/

/-- What an access reaches: HBM, the Hearth memories, an instruction memory, registers of BAR0, a VF's MSI-X table or PBA, nothing, or a
place beyond a limit. -/
inductive Place where
  | hbm (a : Nat)
  | hearth (a : Nat)
  | imem (p a : Nat)
  | bar0 (off : Nat)
  | msix (byte : Nat)
  | pba (byte : Nat)
  | nothing
  | beyond
  deriving DecidableEq, Repr

/-- The top 64 MiB of PF BAR2 (R312). -/
def hearthPlace (o : Nat) : Place :=
  if o < 0x800000 then .hearth o
  else if o < 0xC00000 then .imem ((o - 0x800000) / 0x100000) ((o - 0x800000) % 0x100000)
  else if 0x1000000 ≤ o ∧ o < 0x2000000 then .hearth o
  else .nothing

/-- PF BAR2 (R312). -/
def State.pfPlace (s : State) (o : Nat) : Place :=
  let top := 2 ^ s.ep.bar2 - 0x4000000
  if o < top then .hbm ((s.get Reg.HST_B2WIN_BASE * 0x4000000 + o) % 0x2000000000) else hearthPlace (o - top)

/-- The BARs of VF `v` (R313). -/
def State.vfPlace (s : State) (v bar o : Nat) : Place :=
  let p := v - 1
  match bar with
  | 0 =>
    if o < 0x10000 then .bar0 (0x1000000 + 0x100000 * p + o)
    else if o < 0x10040 then .bar0 (0x1000 + 0x40 * p + (o - 0x10000))
    else if 0x20000 ≤ o ∧ o < 0x20400 then .msix (o - 0x20000)
    else if 0x21000 ≤ o ∧ o < 0x21008 then .pba (o - 0x21000)
    else .nothing
  | 2 =>
    if o < 0x200000 then .hearth (0x200000 * p + o)
    else if o < 0x300000 then .imem p (o - 0x200000)
    else .nothing
  | _ =>
    if o < s.get (Reg.HST_VFWIN_SIZE p) * 0x40000000 then .hbm ((s.get (Reg.HST_VFWIN_BASE p) * 0x40000000 + o) % 0x2000000000)
    else .beyond

/-- What an access reaches at its first byte. -/
def State.place (s : State) (a : WinAccess) : Place := if a.fn.val = 0 then s.pfPlace a.off else s.vfPlace a.fn a.bar a.off

/-- How many bytes an access asks for. -/
def accessSize (a : WinAccess) : Nat := if a.write then a.data.length else a.len

/-- An access cut at the ends of regions, which all lie at multiples of 1 MiB: offset and length of each piece. -/
def regionPieces : Nat → Nat → Nat → List (Nat × Nat)
  | 0, _, _ => []
  | f + 1, o, n =>
    let m := min n (0x100000 - o % 0x100000)
    if n = 0 then [] else (o, m) :: regionPieces f (o + m) (n - m)

/-- A write through a window; a fenced or switched-off stack takes nothing (R224). -/
def State.windowWrite (s : State) (fn : Nat) (at_ : Place) (bs : List Byte) : State :=
  match at_ with
  | .hbm a => if s.hbmUp a bs.length then s.hbmWrite a bs else s
  | .hearth a => s.hearthWrite a bs
  | .imem p a => s.imemWrite p a bs
  | .bar0 off => s.barWrite off bs
  | .msix b =>
    (List.range (cdiv (b % 4 + bs.length) 4)).foldl (fun t i =>
      let a := b / 4 * 4 + 4 * i
      if b ≤ a ∧ a + 4 ≤ b + bs.length then t.msixWrite (fn * 1024 + a / 4) (leNat ((bs.drop (a - b)).take 4))
      else t.set Reg.HST_ERR_PARTW 1) s
  | _ => s

/-- Bytes of a VF's MSI-X table and PBA as they read. -/
def State.msixByte (s : State) (fn b : Nat) : Byte :=
  let k := fn * 1024 + b / 4
  BitVec.ofNat 8 ((SMap.get (msixDefault k) s.ep.msix k).toNat / 2 ^ (8 * (b % 4)))
def State.pbaByte (s : State) (fn b : Nat) : Byte :=
  BitVec.ofNat 8 (natOfBits 8 (fun i => decide (b < 8) && s.ep.pba.contains (fn, 8 * b + i)))

/-- The bytes that a read finds at a place of BAR2 or BAR4; a fenced or switched-off stack answers with an error, and no data is stated for it (R224,
log entry 6). -/
def State.windowFetch (s : State) (at_ : Place) (n : Nat) : State × List Byte :=
  match at_ with
  | .hbm a => if s.hbmUp a n then (s.hbmTouch a n, s.hbmRead a n) else (s.useFree, leBytes n (Config.freeFunction 7 [s.free]))
  | .hearth a => (s, s.hearthRead a n)
  | .imem p a => (s, readBytes s.imem (0x100000 * p + a) n)
  | _ => (s, leBytes n 0)

/-- A read of a VF's BAR0. -/
def State.bar0Read (s : State) (fn : Nat) (at_ : Place) (n : Nat) : State :=
  match at_ with
  | .bar0 off => s.barRead off n
  | .msix b => s.send (.readData ((List.range n).map (fun i => s.msixByte fn (b + i))))
  | .pba b => s.send (.readData ((List.range n).map (fun i => s.pbaByte fn (b + i))))
  | _ => s.send (.readData (leBytes n 0))

/-- Whether an access runs beyond the limit of a VF's BAR4 (R313). -/
def State.beyondLimit (s : State) (a : WinAccess) : Bool :=
  decide (a.fn.val ≠ 0) && decide (a.bar ≠ 0) && decide (a.bar ≠ 2) &&
    decide (s.get (Reg.HST_VFWIN_SIZE (a.fn.val - 1)) * 0x40000000 < a.off + accessSize a)

/-- WINDOW_ACCESS: the PF's BAR2, or a BAR of a VF in effect, each part of it where it lies (R312, R313); in a VF's BAR0 one that is too large or crosses
64 bytes is answered with Completer Abort (R311). -/
def execWindowAccess (a : WinAccess) (s : State) : Res :=
  if s.vfs < a.fn.val ∨ s.moduleReset = true then .next s
  else if a.fn.val ≠ 0 ∧ a.bar = 0 then
    if barAccess a.off (accessSize a) = false then .next ((s.send .completerAbort).send (.aer 3))
    else if a.write then .next (s.windowWrite a.fn (s.place a) a.data)
    else .next (s.bar0Read a.fn (s.place a) a.len)
  else if s.beyondLimit a then .next ((s.send .unsupportedRequest).send (.aer 2))
  else
    let ps := regionPieces (accessSize a / 0x100000 + 2) a.off (accessSize a)
    if a.write then
      .next (ps.foldl (fun t b => t.windowWrite a.fn (s.place { a with off := b.1 }) ((a.data.drop (b.1 - a.off)).take b.2)) s)
    else
      let r := ps.foldl (fun (r : State × List Byte) b => let x := r.1.windowFetch (s.place { a with off := b.1 }) b.2; (x.1, r.2 ++ x.2)) (s, [])
      .next (r.1.send (.readData r.2))

/-! ## BAR0 and the link -/

/-- BAR0_OVERSIZE_ACCESS, an access of more than 64 bytes or across a 64-byte boundary: answered with Completer Abort, which AER reports; no register is reached (R311, R332). -/
def execBar0OversizeAccess (off len : Nat) (_write : Bool) (s : State) : Res :=
  if off % 64 + len ≤ 64 then .next s else .next ((s.send .completerAbort).send (.aer 3))

/-- LINK_TRAINED: the link enters L0 (R308, R333). -/
def execLinkTrained (speed : Fin 6) (s : State) : Res :=
  if s.moduleReset then .next s
  else .next (({ s with ep := { s.ep with linkUp := true } } : State).set Reg.HST_LINK_SPEED speed |>.set Reg.HST_LINK_DEGR (bnat (decide (speed.val < 2))))

end Sys2Proof.Machine
end

