-- ==== Sys2Proof/Machine/Debug.lean ====
section
/-!
DEFINITION. The debug link (R424-R434): sessions, the debug access master and its spaces, halt, resume and step, freezes. A command stands
for a whole frame with a good check field; frames with a bad one have no effect (R424).
-/
namespace Sys2Proof.Machine

/-! ## Responses (R424) -/

def dbgOk : Nat := 0x00
def dbgLevel : Nat := 0x02
def dbgAuth : Nat := 0x03
def dbgLocked : Nat := 0x04
def dbgDenied : Nat := 0x05
def dbgNotHalted : Nat := 0x06
def dbgNotFrozen : Nat := 0x07
def dbgFormat : Nat := 0x08
def dbgNoSession : Nat := 0x0A

/-- Whether a session is open, and whether a key exchange opened it. -/
def State.dbgOpen (s : State) : Bool := s.flag Reg.DBG_STAT_OPEN
def State.dbgKeyed (s : State) : Bool := s.dbgOpen && s.flag Reg.DBG_STAT_KEX

/-- A frame of a key-exchange session counts (log entry 33). -/
def State.countFrame (s : State) : State :=
  if s.dbgKeyed then { s with dbg := { s.dbg with frames := s.dbg.frames + 1 } } else s

/-- A response (R424): its check field is a tag under the session key once a key-exchange session is open. -/
def State.respond (s : State) (status : Nat) (data : List Byte) : State :=
  let bs := leBytes 1 status ++ leBytes 2 data.length ++ data
  let check := if s.dbgKeyed then Config.hmacTag s.dbg.key (leBytes 8 s.dbg.frames.toNat ++ bs) else leBytes 4 (Config.crc32 bs).toNat
  (s.send (.debug status data check)).countFrame

/-- A request that needs an open session at a level: its effect, or the answer that refuses it. -/
def State.request (s : State) (level : Nat) (f : State → State) : State :=
  let t := s.countFrame
  if !t.dbgOpen then t.respond dbgNoSession []
  else if t.get Reg.DBG_STAT_LEVEL < level then t.respond dbgLevel []
  else f t

/-! ## Sessions (R425-R427) -/

/-- A failed opening (R426). -/
def State.openFailed (s : State) : State :=
  let s1 := (s.count Reg.DBG_STAT_FAILS 1).raise 0x1E2
  let s2 := if s1.optFailLimit ≤ s1.get Reg.DBG_STAT_FAILS then (s1.set Reg.DBG_STAT_LOCKED 1).raise 0x1E3 else s1
  ({ s2 with dbg := { s2.dbg with kex := none } } : State).respond dbgAuth []

/-- A session opens at a level (R425-R427). -/
def State.openSession (s : State) (kex : Bool) (level : Nat) (key : List Byte) : State :=
  let s1 := ((s.set Reg.DBG_STAT_OPEN 1).set Reg.DBG_STAT_KEX (bnat kex)).set Reg.DBG_STAT_LEVEL level
  let s2 := if level = 2 then s1.set Reg.DBG_STAT_FULLSEEN 1 else s1
  let s3 := (s2.set Reg.DBG_STAT_FAILS 0).raise 0x1E0
  ({ s3 with dbg := { s3.dbg with kex := none, key := key, frames := 0 } } : State).respond dbgOk []

/-- What refuses every opening frame: an open session, or LOCKED (R426, log entry 33). -/
def State.openBarred (s : State) : Option Nat :=
  if s.dbgOpen then some dbgDenied else if s.flag Reg.DBG_STAT_LOCKED then some dbgLocked else none

/-- OPEN_PW (R425). -/
def execOpenPw (password : List Byte) (s : State) : Res :=
  let t := s.countFrame
  match t.openBarred with
  | some c => .next (t.respond c [])
  | none =>
    if password.length ≠ 32 then .next (t.respond dbgFormat [])
    else if t.optPwen && decide (t.optPwHash ≠ 0) && decide ((Config.sha512 password).toNat = t.optPwHash) then
      .next (t.openSession false (min t.optPwLevel t.optMaxLevel) [])
    else .next t.openFailed

/-- The device's part of an exchange: its ephemeral key and the challenge. -/
def kexKey (a : List Byte) : List Byte := a.take 132
def kexChallenge (a : List Byte) : List Byte := (a.drop 132).take 64

/-- KEX_INIT: the certificate is checked, and the device answers with its key, a challenge and its signature (R425). The key and the challenge
are a free value (log entry 10). -/
def execKexInit (cert key : List Byte) (level : Nat) (s : State) : Res :=
  let t := s.countFrame
  match t.openBarred with
  | some c => .next (t.respond c [])
  | none =>
    if cert.length ≠ 296 ∨ key.length ≠ 132 ∨ 256 ≤ level then .next (t.respond dbgFormat [])
    else if !(t.certSigned cert && t.certAllows cert purposeDebug) then .next t.openFailed
    else
      let a := Config.kexAnswer t.free
      let sig := Config.identitySign (Config.sha512 (key ++ kexKey a ++ kexChallenge a ++ leBytes 8 Config.serial.toNat))
      let u := t.useFree
      .next (({ u with dbg := { u.dbg with kex := some ⟨cert, key, level, a, Config.sessionKey t.free key⟩ } } : State).respond dbgOk
        (kexKey a ++ kexChallenge a ++ sig))

/-- What the debugger signs at the end of an exchange (R425). -/
def Kex.signed (x : Kex) : List Byte :=
  kexChallenge x.answer ++ x.key ++ kexKey x.answer ++ leBytes 8 Config.serial.toNat ++ leBytes 1 x.level

/-- KEX_FINISH: the debugger's signature opens the session at the level min(requested, DBGLEVEL, MAXLVL) (R425). -/
def execKexFinish (signature : List Byte) (s : State) : Res :=
  let t := s.countFrame
  match t.openBarred with
  | some c => .next (t.respond c [])
  | none =>
    match t.dbg.kex with
    | none => .next (t.respond dbgDenied [])
    | some x =>
      if signature.length ≠ 132 then .next (t.respond dbgFormat [])
      else if verifies (certKey x.cert) x.signed signature then
        .next (t.openSession true (min x.level (min (certLevel x.cert) t.optMaxLevel)) x.secret)
      else .next t.openFailed

/-- A halted sequencer returns to the state it left, its freezes released; a recovery that waited for the resume goes on, a partition reset
among them (R430, R431). A STEP under way ends. -/
def State.resumeSeq (s : State) (p : Nat) : State :=
  let q := s.seq p
  let back := if s.get (Reg.SEQ_STATE_STATE p) = seqHalted then q.left.getD seqRunning else s.get (Reg.SEQ_STATE_STATE p)
  let s1 := (s.setSeq p { q with haltReq := false, left := none }).set (Reg.SEQ_STATE_STATE p) back
  let s2 := s1.endHalt p
  let s3 := if back = seqRunning then s2.takeStop p else s2
  match s3.recov p with
  | some r =>
    if r.action = 3 ∧ (SMap.get none s3.rst.targets p).isNone then s3.assertTarget 0x0D 2 p (recEntry r.fault 3 r.esc).toNat else s3
  | none => s3

/-- The session closes: every halt and every freeze that it set is released (R427). -/
def State.closeSession (s : State) : State :=
  let s1 := s.each 4 (fun p t =>
    let u := if bitAt (t.get Reg.DBG_HALT_HALTED) p = 1 then t.resumeSeq p else t
    u.setSeq p { u.seq p with haltReq := false })
  let frz := s1.get Reg.DBG_BFRZ_FRZ
  let keep := natOfBits 30 (fun i => frz.testBit i && decide (24 ≤ i) && decide (i ≤ 28) && !s1.dbg.own.testBit i)
  let s2 := (s1.freezeBlocks keep).setReg Reg.DBG_TFRZ_FRZ.off 0
  let s3 := ((s2.set Reg.DBG_STAT_OPEN 0).set Reg.DBG_STAT_KEX 0).set Reg.DBG_STAT_LEVEL 0
  ({ s3 with dbg := { s3.dbg with kex := none, key := [], frames := 0, turfs := 0, blocks := 0, own := 0 } } : State).raise 0x1E1

/-- CLOSE (R427). -/
def execClose (s : State) : Res := .next (s.request 0 (fun t => t.closeSession.respond dbgOk []))

/-- SESSION_IDLE_TIMEOUT: IDLE seconds without a valid frame, where IDLE is not 0 (R422, R427). -/
def execSessionIdleTimeout (s : State) : Res := .next (if s.dbgOpen && decide (s.optIdle ≠ 0) then s.closeSession else s)

/-- KILL: a write of 1 to DBG_CTL.KILL (R427). -/
def execKill (s : State) : Res := .next (if s.dbgOpen then s.closeSession else s)

/-- DEBUG_STATUS: DBG_STAT, DBG_HALT and the SEQ_STATE of each sequencer. -/
def execDebugStatus (s : State) : Res :=
  .next (s.request 0 (fun t => t.respond dbgOk (leBytes 4 (t.reg Reg.DBG_STAT_OPEN.off).toNat ++ leBytes 4 (t.reg Reg.DBG_HALT_HALTED.off).toNat ++
    (List.range 4).flatMap (fun p => leBytes 4 (t.reg (Reg.SEQ_STATE_STATE p).off).toNat))))

/-! ## Reads (R34, R428) -/

/-- A byte of the Hearth memories as the top of PF BAR2 lays them out (R312). -/
def State.hearthByte (s : State) (o : Nat) : Byte :=
  match hearthPlace o with
  | .hearth a => SMap.get 0 s.hearth a
  | .imem p a => SMap.get 0 s.imem (0x100000 * p + a)
  | _ => 0

/-- A 32-bit word of space 4: the sequencer in bits 25-24, the store in bits 23-20 (0 microword ROM, 1 nanoword ROM, 2 dispatch table, 3 microword
patch, 4 nanoword patch, 5 match registers), the byte address within it below (R204, log entry 33). -/
def State.storeWord (s : State) (a : Nat) : Nat :=
  let p := bitsOf a 25 24
  let b := bitsOf a 19 0
  let i := b / 4
  let part (w : W256) : Nat := w.toNat / 2 ^ (32 * (i % 8)) % 2 ^ 32
  match bitsOf a 23 20 with
  | 0 => if i < 0x4000 then (Config.microRom i).toNat else 0
  | 1 => if i / 8 < 0x1000 then part (Config.nanoRom (i / 8)) else 0
  | 2 => if i < 1024 then (s.dispatchEntry p i).toNat else 0
  | 3 => ((s.patch p).micro.getD i 0).toNat
  | 4 => part ((s.patch p).nano.getD (i / 8) 0)
  | 5 => ((s.patch p).hits.getD i 0).toNat
  | _ => 0

/-- A 32-bit word of space 6: the SEQ block of sequencer ADDR[21:20], with SST at 0x200 and the FSR at 0x208 (R156, log entry 33). -/
def State.seqWord (s : State) (a : Nat) : Nat :=
  let p := bitsOf a 21 20
  let o := bitsOf a 19 0
  if o = 0x200 then (s.seq p).sst.bits
  else if o = 0x208 then (s.seq p).fsr.toNat % 2 ^ 32
  else if o = 0x20C then (s.seq p).fsr.toNat / 2 ^ 32
  else if o < 0x200 then s.wordRead (0x1000000 + 0x100000 * p + o)
  else 0

/-- A byte of space 7: the trace entries, oldest first (R433). -/
def State.traceByte (s : State) (a : Nat) : Byte := BitVec.ofNat 8 ((s.dbg.trace.getD (a / 16) 0).toNat / 2 ^ (8 * (a % 16)))

/-- Tile and bit address of a space-3 address, if it is one whose LEN is allowed (R428). -/
def tileAt (a n : Nat) : Option (Nat × Nat) :=
  if n % 8 = 0 ∧ n ≤ 512 ∧ a < 2 ^ 29 ∧ bitsOf a 15 10 = 0 then some (bitsOf a 9 0, bitsOf a 28 16) else none

/-- Tile and register bit of a space-3 address of the PE registers: ADDR[29] = 1, and ADDR[28:16] counts the register's bits from C, F, K, N, Q,
S and T to E (R10, R34; log entry 33). -/
def peRegAt (a n : Nat) : Option (Nat × Nat) :=
  if 2 ^ 29 ≤ a ∧ a < 2 ^ 30 then (tileAt (a - 2 ^ 29) n).filter (fun x => decide (x.2 < 12)) else none

/-- The bits of a PE's registers in that order. -/
def PeRegs.bits (r : PeRegs) : BitVec 12 :=
  BitVec.ofNat 12 (bnat r.c + 2 * bnat r.f + 4 * bnat r.k + 8 * bnat r.n + 16 * bnat r.q + 32 * bnat r.s + 64 * bnat r.t + 128 * r.e.toNat)

/-- Row `row` of one bit of the PE registers of a tile, laid out as a memory row. -/
def State.regRow (s : State) (tile row bit : Nat) : W64 :=
  let base := 2048 * (64 * (tile / 32) + row) + 64 * (tile % 32)
  BitVec.ofNat 64 (natOfBits 64 (fun m => (s.pe (base + m)).bits.getLsbD bit))

/-- A space-3 response: the tile's step number, then `n / 8` rows (R428). -/
def State.tilePeek (s : State) (row : Nat → Nat → Nat → W64) (n : Nat) (x : Nat × Nat) : List Byte :=
  leBytes 8 (s.get (Reg.TRF_STEP_STEP (turfOfTile x.1))) ++ (List.range (n / 8)).flatMap (fun r => leBytes 8 (row x.1 r x.2).toNat)

/-- Bytes of a debug space, or none where the address or length is not one of it. -/
def State.peek (s : State) (space a n : Nat) : Option (List Byte) :=
  match space with
  | 0 => if a + n ≤ 0x4000000 then some (s.barPeek a n) else none
  | 1 => if a + n ≤ 0x4000000 then some ((List.range n).map (fun i => s.hearthByte (a + i))) else none
  | 2 => if a + n ≤ 0x2000000000 then some (if s.hbmUp a n then s.hbmRead a n else leBytes n (Config.freeFunction 7 [s.free])) else none
  | 3 => ((tileAt a n).map (s.tilePeek s.readRow n)).or ((peRegAt a n).map (s.tilePeek s.regRow n))
  | 4 => if a + n ≤ 2 ^ 26 then some (wordBytes s.storeWord a n) else none
  | 5 => if a + n ≤ 0x800000 then some ((List.range n).map (fun i => s.nvmByte (a + i))) else none
  | 6 => if a + n ≤ 2 ^ 22 then some (wordBytes s.seqWord a n) else none
  | 7 => if a + n ≤ 0x10000 then some ((List.range n).map (fun i => s.traceByte (a + i))) else none
  | _ => none

/-- The state that a read finds: in space 0 the registers that report the device are up to date (log entry 45). -/
def State.beforePeek (s : State) (space a n : Nat) : State := if space = 0 then s.senseAll a n else s

/-- The free value that a read of a stack which does not answer has used, and the wake of one that does (R224). -/
def State.afterPeek (s : State) (space a n : Nat) : State :=
  if space = 2 then (if s.hbmUp a n then s.hbmTouch a n else s.useFree) else s

/-- DEBUG_READ: a peek, or with CONSUME a normal read (R428). -/
def execDebugRead (space : Byte) (addr : W64) (len : Nat) (s : State) : Res :=
  let take := space.getLsbD 7
  let sp := space.toNat % 128
  .next (s.request (if take then 2 else 1) (fun t =>
    if len = 0 ∨ 1024 < len then t.respond dbgFormat []
    else
      let t0 := t.beforePeek sp addr.toNat len
      match t0.peek sp addr.toNat len with
      | none => t.respond dbgFormat []
      | some d =>
        let u := t0.afterPeek sp addr.toNat len
        let v := if take ∧ sp = 0 then (touched addr.toNat len).foldl (fun (w : State) (r : RegRow × Nat) => w.readEffect r.1 r.2) u else u
        v.respond dbgOk d))

/-! ## Freezes (R429, R432) -/

/-- DBG_TFRZ becomes `v`; what the session sets or clears itself no longer belongs to a halt. The freeze falls between two steps of a
partition, whose tiles step together, so every frozen tile holds one step number (R432, log entry 14). -/
def State.freezeTurfs (s : State) (v : W64) : State :=
  let t := s.setReg Reg.DBG_TFRZ_FRZ.off v
  { t with dbg := { t.dbg with turfs := t.dbg.turfs &&& v } }

/-- DBG_BFRZ written by the session (R429). -/
def State.sessionFreeze (s : State) (v : Nat) : State :=
  let old := s.get Reg.DBG_BFRZ_FRZ
  let own := natOfBits 30 (fun i => v.testBit i && (s.dbg.own.testBit i || !old.testBit i))
  let t := s.freezeBlocks v
  { t with dbg := { t.dbg with own := own, blocks := t.dbg.blocks &&& v } }

/-- TURF_FREEZE: the turfs of the mask take no further step (R432). -/
def execTurfFreeze (mask : W64) (s : State) : Res :=
  .next (s.request 2 (fun t => (t.freezeTurfs (t.reg Reg.DBG_TFRZ_FRZ.off ||| mask)).respond dbgOk []))

/-- TURF_UNFREEZE: they go on at the step number they hold (R432). -/
def execTurfUnfreeze (mask : W64) (s : State) : Res :=
  .next (s.request 2 (fun t => (t.freezeTurfs (t.reg Reg.DBG_TFRZ_FRZ.off &&& ~~~mask)).respond dbgOk []))

/-- BLOCK_FREEZE: a write of DBG_BFRZ through the debug link (R429). -/
def execBlockFreeze (value : W32) (s : State) : Res :=
  .next (s.request 2 (fun t => (t.sessionFreeze (value.toNat % 2 ^ 30)).respond dbgOk []))

/-! ## Writes (R184, R428) -/

/-- A word of BAR0 written by the debug link: the registers that only the link writes, else as the host writes it (R428, R429). -/
def State.debugWord (s : State) (off v : Nat) : State :=
  if off = Reg.DBG_HFRZ_MASK.off then s.set Reg.DBG_HFRZ_MASK (v % 64)
  else if off = Reg.DBG_BFRZ_FRZ.off then s.sessionFreeze (v % 2 ^ 30)
  else if off = Reg.DBG_TFRZ_FRZ.off then s.freezeTurfs (s.reg Reg.DBG_TFRZ_FRZ.off &&& fieldMask 63 32 ||| BitVec.ofNat 64 (v % 2 ^ 32))
  else if off = Reg.DBG_TFRZ_FRZ.off + 4 then s.freezeTurfs (s.reg Reg.DBG_TFRZ_FRZ.off &&& fieldMask 31 0 ||| BitVec.ofNat 64 (v % 2 ^ 32 * 2 ^ 32))
  else if off = Reg.DBG_TRCCTL_EN.off then (s.set Reg.DBG_TRCCTL_EN (bitAt v 31)).set Reg.DBG_TRCCTL_STOP (bitAt v 30)
  else s.wordWrite off v

/-- Whether bytes of BAR0 touch a range that debug writes may not: the SEC and NVM blocks, RST_CTL, the loader registers (R428). -/
def debugBarred (a n : Nat) : Bool :=
  let meets (lo hi : Nat) : Bool := decide (a < hi) && decide (lo < a + n)
  meets 0x300000 0x400000 || meets 0x100000 0x100004 || meets 0x8000 0x8080

/-- Bytes written as words covered whole; a part of a word is discarded with PARTW (R311). -/
def State.debugWords (s : State) (f : State → Nat → Nat → State) (a : Nat) (bs : List Byte) : State :=
  (List.range (cdiv (a % 4 + bs.length) 4)).foldl (fun t i =>
    let w := a / 4 * 4 + 4 * i
    if a ≤ w ∧ w + 4 ≤ a + bs.length then f t w (leNat ((bs.drop (w - a)).take 4)) else t.set Reg.HST_ERR_PARTW 1) s

/-- A byte written into the Hearth memories; an instruction memory takes it in any state (R428, log entry 33). -/
def State.putHearthByte (s : State) (o : Nat) (b : Byte) : State :=
  match hearthPlace o with
  | .hearth a => s.hearthWrite a [b]
  | .imem p a => { s with imem := SMap.put 0 s.imem (0x100000 * p + a) b }
  | _ => s

/-- A word of the state of a halted sequencer written (R156, R184): PC, FLC and the REP state, lengths, count, reservation, IEN, pointers,
SST, FSR; other words of the block are as read-only there (log entry 33). -/
def State.putSeqWord (s : State) (a v : Nat) : State :=
  let p := bitsOf a 21 20
  let o := bitsOf a 19 0
  let base := 0x1000000 + 0x100000 * p
  if o = 0x4 then ((s.setFlc p (v.testBit 16)).set (Reg.SEQ_STATE_REPACT p) (bitAt v 8)).set (Reg.SEQ_STATE_REPI p) (bitAt v 9)
  else if o = 0xC then s.set (Reg.SEQ_PC_PC p) (bitsOf v 19 2)
  else if o = 0x18 then (s.set (Reg.SEQ_LEN_FLA p) (bitsOf v 13 0)).set (Reg.SEQ_LEN_FLB p) (bitsOf v 29 16)
  else if o = 0x1C then s.set (Reg.SEQ_REPCNT_COUNT p) v
  else if o = 0x20 then (s.set (Reg.SEQ_RSV_GRAN p) (bitsOf v 24 6)).setRsv p (v.testBit 31)
  else if o = 0x28 then s.set (Reg.SEQ_IVEC_IEN p) (bitAt v 0)
  else if 0x100 ≤ o ∧ o < 0x200 then
    let r := base + o / 8 * 8
    let w := s.reg r
    if o % 8 = 0 then s.setReg r (w &&& fieldMask 63 32 ||| BitVec.ofNat 64 (v % 2 ^ 32))
    else s.setReg r (w &&& fieldMask 31 0 ||| BitVec.ofNat 64 (v % 2 ^ 32 * 2 ^ 32))
  else if o = 0x200 then s.setSeq p { s.seq p with sst := Sst.ofBits v }
  else if o = 0x208 then s.setSeq p { s.seq p with fsr := fsrPut (s.seq p).fsr v }
  else s

/-- A debug write in a space: its effect, or the status that refuses it (R428). -/
def State.poke (s : State) (space a : Nat) (bs : List Byte) : Except Nat State :=
  let n := bs.length
  match space with
  | 0 =>
    if 0x4000000 < a + n then .error dbgFormat
    else if debugBarred a n then .error dbgDenied
    else .ok (s.debugWords State.debugWord a bs)
  | 1 =>
    if 0x4000000 < a + n then .error dbgFormat
    else .ok ((List.range n).foldl (fun t i => t.putHearthByte (a + i) (bs.getD i 0)) s)
  | 2 => if 0x2000000000 < a + n then .error dbgFormat else .ok (if s.hbmUp a n then s.hbmWrite a bs else s)
  | 3 =>
    match tileAt a n with
    | none => .error dbgFormat
    | some x =>
      if bitAt (s.get Reg.DBG_TFRZ_FRZ) (turfOfTile x.1) = 0 then .error dbgNotFrozen
      else .ok ((List.range (n / 8)).foldl (fun t r =>
        t.writeRow ⟨x.1, r, x.2, BitVec.ofNat 64 (leNat ((bs.drop (8 * r)).take 8)), none, 0⟩) s)
  | 4 | 5 | 7 => .error dbgDenied
  | 6 =>
    if 2 ^ 22 < a + n ∨ a % 4 ≠ 0 ∨ n % 4 ≠ 0 ∨ 0x100000 < a % 0x100000 + n then .error dbgFormat
    else if s.halted (a / 0x100000) = false then .error dbgNotHalted
    else .ok (s.debugWords State.putSeqWord a bs)
  | _ => .error dbgFormat

/-- DEBUG_WRITE (R428). -/
def execDebugWrite (space : Byte) (addr : W64) (data : List Byte) (s : State) : Res :=
  .next (s.request 2 (fun t =>
    if data.length = 0 ∨ 1091 < data.length then t.respond dbgFormat []
    else match t.poke (space.toNat % 128) addr.toNat data with
      | .ok u => u.respond dbgOk []
      | .error c => t.respond c []))

/-! ## Halt, resume, step, reset (R430, R431) -/

/-- Sequencer `p` is asked to halt: at its next boundary, or at once where it does not run (R175, R430). -/
def State.askHalt (s : State) (p : Nat) : State :=
  let st := s.get (Reg.SEQ_STATE_STATE p)
  if st = seqHalted then s
  else if st = seqRunning then (s.setSeq p { s.seq p with haltReq := true }).takeStop p
  else if st = seqWaiting then s.haltSeq p seqRunning
  else s.haltSeq p st

/-- DEBUG_HALT (R430). -/
def execDebugHalt (mask : BitVec 4) (s : State) : Res :=
  .next (s.request 2 (fun t => (t.each 4 (fun p u => if mask.getLsbD p then u.askHalt p else u)).respond dbgOk []))

/-- Whether sequencer `p` is in debug halt. -/
def State.inHalt (s : State) (p : Nat) : Bool := decide (bitAt (s.get Reg.DBG_HALT_HALTED) p = 1)

/-- DEBUG_RESUME (R431). -/
def execDebugResume (mask : BitVec 4) (s : State) : Res :=
  .next (s.request 2 (fun t =>
    if (List.range 4).any (fun p => mask.getLsbD p && !t.inHalt p) then t.respond dbgNotHalted []
    else (t.each 4 (fun p u => if mask.getLsbD p then u.resumeSeq p else u)).respond dbgOk []))

/-- DEBUG_STEP: the sequencer runs with a halt requested, which its next instruction's end takes; one that was not running before the halt stays
halted (R431). -/
def execDebugStep (p : SeqId) (s : State) : Res :=
  .next (s.request 2 (fun t =>
    if !t.inHalt p then t.respond dbgNotHalted []
    else if t.halted p ∧ (t.seq p).left.getD seqRunning = seqRunning then
      ((t.setSeq p { t.seq p with haltReq := true }).set (Reg.SEQ_STATE_STATE p) seqRunning).respond dbgOk []
    else t.respond dbgOk []))

/-- DEBUG_RESET: the source DEBUG is asserted, if RSTEN = 1 (R389, R422). -/
def execDebugReset (reach : BitVec 3) (target : Byte) (s : State) : Res :=
  .next (s.request 2 (fun t =>
    if t.optRsten then (t.respond dbgOk []).requestReset 0x0B reach.toNat target.toNat else t.respond dbgDenied []))

end Sys2Proof.Machine
end

