-- ==== Sys2Proof/Machine/Events.lean ====
section
/-!
DEFINITION. Event enables, pending bits, messages held (R324-R326, R334), the mirror of the wait flags (R330), PTM (R299, R331) and
timeouts of device reads (R332).
-/
namespace Sys2Proof.Machine

/-- EVENT_ENABLE: a write of EVT_SRC; EN written to 1 while the source is pending sends its message (R325). A write to a source that is not
listed is ignored (R334). -/
def execEventEnable (i : Fin 1024) (value : W32) (s : State) : Res :=
  if listedSource i = false then .next s
  else
    let s1 := s.setReg (Reg.EVT_SRC_EN i).off (BitVec.ofNat 64 value.toNat &&& 0xFFFFFF00)
    if s1.flag (Reg.EVT_SRC_EN i) && s1.flag (pendBit i) then
      .next (s1.message (s1.get (Reg.EVT_SRC_FN i)) (s1.get (Reg.EVT_SRC_VEC i)))
    else .next s1

/-- PENDING_CLEAR: a W1C write of EVT_PEND; messages sent or held stay (R334). -/
def execPendingClear (j : Fin 32) (mask : W32) (s : State) : Res :=
  let off := (Reg.EVT_PEND_PEND j).off
  .next (s.setReg off (s.reg off &&& ~~~(BitVec.ofNat 64 mask.toNat)))

/-- VECTOR_UNMASK: the vector's mask bit is cleared; a message held for it is sent, unless the function mask or D3hot still holds it (R325). -/
def execVectorUnmask (fn : Fin 5) (vec : Fin 256) (s : State) : Res :=
  let k := msixIndex fn vec 3
  .next (({ s with ep := { s.ep with msix := SMap.put 1 s.ep.msix k (SMap.get 1 s.ep.msix k &&& 0xFFFFFFFE) } } : State).sendHeld fn)

/-- The 32-byte image of a sequencer's wait flags (R330). -/
def State.flagImage (s : State) (p : Nat) : List Byte := (List.range 8).flatMap (fun j => leBytes 4 (s.get (Reg.EVT_SFLAG_FLAG p j)))

/-- WAIT_FLAG_MIRROR_WRITE: the image goes to EVT_SMIR.ADDR in the scratchpad, and the messages that waited for it are let go (R315, R330). A wait flag
that the write itself sets, by a collision at the port (R179), is not in the image. -/
def execWaitFlagMirrorWrite (p : SeqId) (s : State) : Res :=
  if s.flag (Reg.EVT_SMIR_EN p) && (s.seq p).mirrorDirty then
    .next ((s.mirrored p).hearthWrite (0x200000 * p + 32 * s.get (Reg.EVT_SMIR_ADDR p)) (s.flagImage p))
  else .next s

/-! ## PTM (R331) -/

/-- A dialog starts, while PTM Enable is set. -/
def State.startDialog (s : State) : State := if s.ep.ptmEnable then { s with ep := { s.ep with dialog := true } } else s

/-- PTM_TRIGGER: ignored while PTM Enable is clear (R331). -/
def execPtmTrigger (s : State) : Res := .next s.startDialog

/-- PTM_PERIOD_EXPIRY: PERIOD 0 means TRIG only (R331). -/
def execPtmPeriodExpiry (s : State) : Res := if s.get Reg.HST_PTMCTL_PERIOD = 0 then .next s else .next s.startDialog

/-- PTM_DIALOG_COMPLETE: the master time and KTIME of the cycle are recorded, and a requested KTIME alignment is made; where an engine has begun
to run since the request it waits for the next dialog, since KTIME never steps while a channel runs (R299, R331; log entry 11). -/
def execPtmDialogComplete (t : W64) (s : State) : Res :=
  if s.ep.dialog = false ∨ s.ep.ptmEnable = false then .next s
  else
    let s1 : State := { s with ep := { s.ep with dialog := false } }
    let s2 := (s1.set Reg.HST_PTMT_T t.toNat).set Reg.HST_PTMK_KTIME (s1.get Reg.KDL_TIME_KTIME)
    if s2.kdl.align && (List.range 4).all (fun e => decide (s2.get (Reg.KDL_ESTAT_STATE e) ≠ 1)) then
      .next ((({ s2 with kdl := { s2.kdl with align := false } } : State).set Reg.KDL_TIME_KTIME (3 * t.toNat / 4)).set Reg.KDL_TCTL_ALIGNED 1)
    else .next s2

/-! ## Timeouts of device reads (R332) -/

/-- COMPLETION_TIMEOUT: the transfer that waits for a read of host memory fails with HOST, and AER reports it. A ring's entry stays to be
fetched (log entry 28). -/
def execCompletionTimeout (r : Requester) (s : State) : Res :=
  match r with
  | .dma c =>
    let host := decide (s.get (Reg.DMA_HSP_SPACE c) = 0) || decide ((s.dmaDesc c []).2.ssp = 0)
    if s.get (Reg.DMA_STAT_STATE c) = 1 ∧ host = true then .next ((s.dmaError c dmaHost).send (.aer 1)) else .next s
  | .staging e slot =>
    match (s.stg e).find? (fun x => decide (x.slot = slot)) with
    | none => .next s
    | some x =>
      if x.desc.dir = 0 ∧ x.desc.mem = 1 then
        .next ((s.endTransfer e x [] .hostError).send (.aer 1))
      else .next s
  | .ring p =>
    if s.flag (Reg.HST_RCTL_EN p) && (s.ring p).entry.isNone && decide ((s.ring p).fetched ≠ (s.ring p).tail) then .next (s.send (.aer 1))
    else .next s

end Sys2Proof.Machine
end

