-- ==== Sys2Proof/Machine/Flue.lean ====
section
/-!
DEFINITION. The meanings of the Flue's instructions (R88-R103) and of the writing of a result at the root (R95, R96).
-/
namespace Sys2Proof.Machine

/-- RANY: RANY ORs an input over the partition into FLC, optionally returning the result to a flag. (R92) -/
def execRany (p : SeqId) (s : State) : Res := .next (s.runInstr p .rany (arrayBody p .rany))

/-- RALL: RALL ANDs an input over the partition into FLC, optionally returning the result to a flag. (R92) -/
def execRall (p : SeqId) (s : State) : Res := .next (s.runInstr p .rall (arrayBody p .rall))

/-- RCNT: RCNT counts the PEs whose input is 1 into dst, optionally returning the count to a field. (R92) -/
def execRcnt (p : SeqId) (s : State) : Res := .next (s.runInstr p .rcnt (arrayBody p .rcnt))

/-- RSUMU: RSUMU sums the bundle words exactly as unsigned values into dst. (R92) -/
def execRsumu (p : SeqId) (s : State) : Res := .next (s.runInstr p .rsumu (arrayBody p .rsumu))

/-- RSUMS: RSUMS sums the bundle words exactly as signed values into dst. (R92) -/
def execRsums (p : SeqId) (s : State) : Res := .next (s.runInstr p .rsums (arrayBody p .rsums))

/-- RMAXU: RMAXU writes the unsigned maximum of the bundle words to dst. (R92) -/
def execRmaxu (p : SeqId) (s : State) : Res := .next (s.runInstr p .rmaxu (arrayBody p .rmaxu))

/-- RMAXS: RMAXS writes the signed maximum of the bundle words to dst. (R92) -/
def execRmaxs (p : SeqId) (s : State) : Res := .next (s.runInstr p .rmaxs (arrayBody p .rmaxs))

/-- RMINU: RMINU writes the unsigned minimum of the bundle words to dst. (R92) -/
def execRminu (p : SeqId) (s : State) : Res := .next (s.runInstr p .rminu (arrayBody p .rminu))

/-- RMINS: RMINS writes the signed minimum of the bundle words to dst. (R92) -/
def execRmins (p : SeqId) (s : State) : Res := .next (s.runInstr p .rmins (arrayBody p .rmins))

/-- TMAXU: TMAXU tags, through K, the bundles that hold the unsigned maximum. (R98) -/
def execTmaxu (p : SeqId) (s : State) : Res := .next (s.runInstr p .tmaxu (arrayBody p .tmaxu))

/-- TMAXS: TMAXS tags, through K, the bundles that hold the signed maximum. (R98) -/
def execTmaxs (p : SeqId) (s : State) : Res := .next (s.runInstr p .tmaxs (arrayBody p .tmaxs))

/-- TMINU: TMINU tags, through K, the bundles that hold the unsigned minimum. (R98) -/
def execTminu (p : SeqId) (s : State) : Res := .next (s.runInstr p .tminu (arrayBody p .tminu))

/-- TMINS: TMINS tags, through K, the bundles that hold the signed minimum. (R98) -/
def execTmins (p : SeqId) (s : State) : Res := .next (s.runInstr p .tmins (arrayBody p .tmins))

/-- The oldest Flue result reaches the sequencer: the confirmation point covers its stream's last input step (R367); FLC is set or the words of `dst`
are written (R95). A failed stream delivers nothing (R105). -/
def State.deliverFlue (s : State) (p : Nat) (f : FlueResult) (rest : List FlueResult) : State :=
  let s0 := s.setPart p { s.part p with results := rest }
  if f.failed then s0
  else
  let s1 := s0.confirm p f.upto
  match f.flc with
  | some v => s1.setFlc p v
  | none => s1.seqPut p (0x200000 * p + f.dst) (f.words.flatMap (fun w => leBytes 8 w.toNat))

/-- FLUE_RESULT_WRITE: the oldest result, which has reached the root whole, is written; no recovery holds the partition (R95, R367). -/
def execFlueResultWrite (p : SeqId) (s : State) : Res :=
  match (s.part p).results with
  | [] => .next s
  | f :: rest => if s.stepsHeld p then .next s else .next (s.deliverFlue p f rest)

end Sys2Proof.Machine
end

