-- ==== Sys2Proof/Machine/Repair.lean ====
section
/-!
DEFINITION. Repair and march tests by command (R378-R383), and the remote command of the fabric (R360).
-/
namespace Sys2Proof.Machine

/-! ## Repair (R381) -/

/-- The outcome of RST_REPAIR. -/
def State.repairCode (s : State) (c : Nat) : State := (s.set Reg.RST_REPST_CODE c).set Reg.RST_REPST_VALID 1

/-- A soft repair record is appended with the next sequence number (R380, R381). -/
def State.appendSoft (s : State) (retire : Bool) (tile col : Nat) : State :=
  let seq := (s.softRepair.getLast?.map softSeq).getD 0 + 1
  { s with softRepair := s.softRepair ++ [softRecord seq retire tile col] }

/-- Whether a turf may be repaired or tested: STATE 0 or 4 (R381, R382). -/
def State.outOfService (s : State) (t : Nat) : Bool := decide (s.get (Reg.TRF_STATE_STATE t) = 0) || decide (s.get (Reg.TRF_STATE_STATE t) = 4)

/-- The PEs of tile `k`, row by row (R13). -/
def tilePes (k : Nat) : List Nat := (List.range 64).flatMap (fun r => (List.range 64).map (fun c => 2048 * (64 * (k / 32) + r) + 64 * (k % 32) + c))

/-- The PE memory of tile `k` is undefined: every bit is free (R381; log entry 3). -/
def State.loseTile (s : State) (k : Nat) : State :=
  { s.useFree with peMem := SMap.update (fun _ => 0) s.peMem (fun i => BitVec.ofNat 8192 (Config.freeFunction 23 [s.free, i])) (tilePes k) }

/-- COLUMN_REPAIR (R381): the tile's PE memory is undefined after it. -/
def execColumnRepair (tile : TileId) (col : BitVec 6) (s : State) : Res :=
  let k := tile.val
  if s.moduleReset then .next s
  else if !s.outOfService (turfOfTile k) then .next (s.repairCode 1)
  else if s.flag (Reg.RST_RMAP_RET k) then .next (s.repairCode 3)
  else if s.flag (Reg.RST_RMAP_V k) && decide (s.get (Reg.RST_RMAP_COL k) ≠ col.toNat) then .next (s.repairCode 2)
  else
    let s1 := if s.flag (Reg.RST_RMAP_V k) then s else (s.set (Reg.RST_RMAP_V k) 1).set (Reg.RST_RMAP_SRC k) 1
    let s2 := (s1.set (Reg.RST_RMAP_COL k) col.toNat).appendSoft false k col.toNat
    .next ((s2.loseTile k).repairCode 0)

/-- RETIRE (R381): permanent. -/
def execRetire (tile : TileId) (s : State) : Res :=
  let k := tile.val
  if s.moduleReset then .next s
  else if !s.outOfService (turfOfTile k) then .next (s.repairCode 1)
  else if s.flag (Reg.RST_RMAP_RET k) then .next (s.repairCode 3)
  else .next (((s.retireTurf (turfOfTile k)).appendSoft true k 0).repairCode 0)

/-! ## March tests (R382, R383) -/

/-- MARCH_TEST_START (R382); a turf that was off is switched on first (R408). -/
def execMarchTestStart (t : TurfId) (preserving : Bool) (s : State) : Res :=
  if s.moduleReset then .next s
  else if (SMap.get none s.march t).isSome then .next (s.set (Reg.RST_MTST_REF t) 2)
  else if !s.outOfService t then .next (s.set (Reg.RST_MTST_REF t) 1)
  else
    let s1 : State := { s.switchOn t with march := SMap.put none s.march t (some ⟨preserving, s.get (Reg.TRF_STATE_STATE t)⟩) }
    let s2 := ((s1.set (Reg.RST_MTST_REF t) 0).set (Reg.RST_MTST_BUSY t) 1).set (Reg.RST_MTST_MODE t) (bnat preserving)
    .next (s2.set (Reg.TRF_STATE_STATE t) 5)

/-- MARCH_TEST_END: the results, the turf's previous state, and the event; a destructive test leaves memory 0 (R382, R383, R386). A turf returned
from its withdrawal meanwhile waits for its rejoin. -/
def execMarchTestEnd (t : TurfId) (psave : Bool) (tiles : List (Nat × MarchTile)) (s : State) : Res :=
  match SMap.get none s.march t with
  | none => .next s
  | some x =>
    let s1 : State := { s with
      march := SMap.put none s.march t none
      peMem := if x.preserving then s.peMem else s.peMem.filter (fun e => decide (turfOfPe e.1 ≠ t.val)) }
    let s2 := s1.marchResult t (bnat x.preserving) (x.preserving && psave) tiles
    let f := s2.fence t
    let back := if x.back = 4 then (if f.held then (if f.wdraw then 4 else if f.loader then 6 else 3) else if s2.flag (Reg.TRF_CFG_ASSIGNED t) then 4 else 0)
      else if f.loader then 6 else 0
    .next ((s2.set (Reg.TRF_STATE_STATE t) back).raise 0x1D5)

/-! ## RCMD (R360) -/

/-- Bytes of the command's data (R118). -/
def rcmdBytes (k : Packet) : List Byte := k.data.flatMap (fun f => leBytes 32 f.toNat)

/-- The packet's fields (R360). -/
def rcmdNat (k : Packet) (a n : Nat) : Nat := leNat (((rcmdBytes k).drop a).take n)

/-- A failed remote command: its answer, and FAB_ERR.RCMD. -/
def State.rcmdFail (s : State) (k : Packet) (code : Nat) : State := (s.fabricErr k code).fabErr Reg.FAB_ERR_RCMD

/-- RCMD: the checks in order; the signature's then starts (R360). -/
def execRcmd (pkt : Packet) (s0 : State) : Res :=
  let s : State := { s0 with fabric := { s0.fabric with inbound := s0.fabric.inbound.erase pkt } }
  let op := rcmdNat pkt 16 2
  let shape := decide ((rcmdBytes pkt).length = 192) && decide (rcmdNat pkt 0 8 = Config.serial.toNat) && decide (1 ≤ op ∧ op ≤ 2) &&
    decide (rcmdNat pkt 18 2 = 0) && decide (rcmdNat pkt 28 32 = 0)
  if !s.flag Reg.FAB_CTL_RCEN || !s.optRcmd then .next (s.rcmdFail pkt 0x15)
  else if s.flag Reg.SEC_STAT_ENGBUSY || s.fabric.rcmd.isSome then .next (s.rcmdFail pkt 0x14)
  else if !shape then .next (s.rcmdFail pkt 0x12)
  else if rcmdNat pkt 8 8 ≤ s.get Reg.FAB_RCNT_COUNT then .next (s.rcmdFail pkt 0x13)
  else
    let r : Rcmd := ⟨BitVec.ofNat 64 (rcmdNat pkt 8 8), op, BitVec.ofNat 64 (rcmdNat pkt 20 8), pkt, false⟩
    .next (({ s with fabric := { s.fabric with rcmd := some r } } : State).showEngine)

/-- Whether a key that the hierarchy authorises for fabric commands has signed bytes 0-59 of a remote command (R360, R412, R414). -/
def State.rcmdSigned (s : State) (k : Packet) : Bool :=
  let bs := rcmdBytes k
  ((0 :: 1 :: s.sec.certs.map (fun e => certKeyId e.2)).filterMap (fun id => s.authorised id purposeFabric)).any (fun key =>
    verifies key (bs.take 60) ((bs.drop 60).take 132))

/-- Whether the WACK of a remote command has left: it waits neither for the router nor at a port. -/
def State.wackLeft (s : State) (w : Packet) : Bool :=
  !s.fabric.arrivals.any (fun a => decide (a.pkt = w)) && (List.range 8).all (fun n => !(s.port n).queue.any (fun f => decide (f.flit = w.header)))

/-- A verified remote command acts, once its WACK has left (R360). PORTDOWN fences the ports as the host would. -/
def State.rcmdAct (s : State) (r : Rcmd) : State :=
  if s.wackLeft (s.fabricReply r.reply 0x82 0) = false then s
  else
    let t := ({ s with fabric := { s.fabric with rcmd := none } } : State).showEngine
    if r.op = 1 then t.assertModule 0x0C 3 0
    else t.each 8 (fun n u => if r.arg.getLsbD n then u.holdFence (80 + n) (fun f => { f with host := true }) else u)

/-- RCMD_VERIFIED: the verification has ended; the signature itself says how, not the command's word for it. FAB_RCNT is set and WACK answered, then the
command acts, at once or, where the WACK has still to leave, when the command comes again (R360; log entry 26). -/
def execRcmdVerified (_good : Bool) (s : State) : Res :=
  match s.fabric.rcmd with
  | none => .next s
  | some r =>
    if r.done then .next (s.rcmdAct r)
    else if !s.rcmdSigned r.reply then .next ((({ s with fabric := { s.fabric with rcmd := none } } : State).showEngine).rcmdFail r.reply 0x12)
    else
      let r1 := { r with done := true }
      let s1 := (({ s with fabric := { s.fabric with rcmd := some r1 } } : State).set Reg.FAB_RCNT_COUNT r.counter.toNat).fabricAnswer r.reply 0x82 0
      let w := s1.fabricReply r.reply 0x82 0
      let s2 := if s1.fabric.arrivals.any (fun a => decide (a.pkt = w)) && s1.fabric.draining.isNone then s1.forward none false w else s1
      .next (s2.rcmdAct r1)

end Sys2Proof.Machine
end

