-- ==== Sys2Proof/Machine/Scalar.lean ====
section
/-!
DEFINITION. The sequencer's scalar instructions: integer (R185-R190), atomic (R177, R178) and floating point (R193-R203),
the writing of outstanding results (R192, R200, R202) and trap delivery (R203).
-/
namespace Sys2Proof.Machine

/-! ## Integer -/

/-- The specifiers of a scalar instruction with the order of their updates: A, B, D (R161); one that the instruction does not use makes its
update too (log entry 44). -/
def scalarUpdates (i : SeqInstr) : List (Spec × Nat) :=
  if i.short then [(i.a, 8), (i.d, 8)] else [(i.a, i.sz), (i.b, i.sz), (i.d, i.sz)]

/-- An ALU instruction at its turn (R185-R187): short forms compute d op a, long forms a op b. -/
def aluBody (m : Mn) (p : Nat) (i : SeqInstr) (s : State) : SeqRes := seqRes do
  let n := i.sz
  waitFor (decide (m = .sMov) || !s.sstBusy p)
  let a ← if m = .sMov then .ok 0 else s.fetch p n (s.source p (if i.short then i.d else i.a) n n)
  let b ← s.fetch p n (s.source p (if i.short then i.a else i.b) n n)
  let r := aluResult m (8 * n) a b (s.seq p).sst
  let s1 := s.setSeq p { s.seq p with sst := r.2 }
  if m = .cmp then .ok (.done (s1.specSteps p (scalarUpdates i)) none)
  else
    let h ← s.dest p n (s.specAddr p i.d n false)
    .ok (.done ((s1.seqStore p h (leBytes n r.1)).specSteps p (scalarUpdates i)) none)

/-- SCALAR_MOV: MOV copies its source operand. (R186) -/
def execScalarMov (p : SeqId) (s : State) : Res := .next (s.runInstr p .sMov (aluBody .sMov p))

/-- SCALAR_ADD: ADD adds modulo 2^w and sets Z, N, C and V. (R186) -/
def execScalarAdd (p : SeqId) (s : State) : Res := .next (s.runInstr p .sAdd (aluBody .sAdd p))

/-- ADC: ADC adds with the carry in C. (R186) -/
def execAdc (p : SeqId) (s : State) : Res := .next (s.runInstr p .adc (aluBody .adc p))

/-- SCALAR_SUB: SUB subtracts, with C meaning no borrow. (R186) -/
def execScalarSub (p : SeqId) (s : State) : Res := .next (s.runInstr p .sSub (aluBody .sSub p))

/-- SBC: SBC subtracts with borrow. (R186) -/
def execSbc (p : SeqId) (s : State) : Res := .next (s.runInstr p .sbc (aluBody .sbc p))

/-- CMP: CMP sets the flags as SUB without writing. (R186) -/
def execCmp (p : SeqId) (s : State) : Res := .next (s.runInstr p .cmp (aluBody .cmp p))

/-- AND: AND writes the bitwise AND of its operands. (R186) -/
def execAnd (p : SeqId) (s : State) : Res := .next (s.runInstr p .and (aluBody .and p))

/-- OR: OR writes the bitwise OR of its operands. (R186) -/
def execOr (p : SeqId) (s : State) : Res := .next (s.runInstr p .or (aluBody .or p))

/-- XOR: XOR writes the bitwise XOR of its operands. (R186) -/
def execXor (p : SeqId) (s : State) : Res := .next (s.runInstr p .xor (aluBody .xor p))

/-- SCALAR_SHL: SHL shifts left by an unsigned count. (R187) -/
def execScalarShl (p : SeqId) (s : State) : Res := .next (s.runInstr p .sShl (aluBody .sShl p))

/-- SHR: SHR shifts right without sign. (R187) -/
def execShr (p : SeqId) (s : State) : Res := .next (s.runInstr p .shr (aluBody .shr p))

/-- SAR: SAR shifts right with sign. (R187) -/
def execSar (p : SeqId) (s : State) : Res := .next (s.runInstr p .sar (aluBody .sar p))

/-! ## Atomic operations (R177) -/

/-- The address of a specifier at scale 8 where an atomic operation names a word. -/
def State.wordAddr (s : State) (p : Nat) (sp : Spec) : Nat := s.specAddr p sp 8 false

/-- TAS at its turn: the old value goes to d, then bit 0 of m is set (R177). -/
def tasBody (p : Nat) (i : SeqInstr) (s : State) : SeqRes := seqRes do
  let a := s.wordAddr p i.a
  must (decide (a % 8 = 0)) alignFault 0
  let v ← s.fetch p 8 (.bytes a)
  let m ← s.dest p 8 a
  let d ← s.dest p 8 (s.wordAddr p i.d)
  .ok (.done (((s.seqStore p d (leBytes 8 v)).seqStore p m (leBytes 8 (v ||| 1))).specSteps p (scalarUpdates i)) none)

/-- LR at its turn: d takes the word, then the reservation is set (R177). -/
def lrBody (p : Nat) (i : SeqInstr) (s : State) : SeqRes := seqRes do
  let a := s.wordAddr p i.a
  must (decide (a % 8 = 0)) alignFault 0
  let v ← s.fetch p 8 (.bytes a)
  let d ← s.dest p 8 (s.wordAddr p i.d)
  let s1 := ((s.seqStore p d (leBytes 8 v)).set (Reg.SEQ_RSV_GRAN p) (a / 64)).setRsv p true
  .ok (.done (s1.specSteps p (scalarUpdates i)) none)

/-- SC at its turn: with the reservation valid and covering m, m takes v and d takes 0; else d takes 1. The reservation ends (R177). Where d and m share
bytes, m is written first (DESIGN CHOICE; log entry 47). -/
def scBody (p : Nat) (i : SeqInstr) (s : State) : SeqRes := seqRes do
  let a := s.wordAddr p i.a
  must (decide (a % 8 = 0)) alignFault 0
  let m ← s.dest p 8 a
  let v ← s.fetch p 8 (s.source p i.b 8 8)
  let d ← s.dest p 8 (s.wordAddr p i.d)
  let ok := s.flag (Reg.SEQ_RSV_VALID p) && decide (s.get (Reg.SEQ_RSV_GRAN p) = a / 64)
  let s1 := s.setRsv p false
  let s2 := if ok then s1.seqStore p m (leBytes 8 v) else s1
  .ok (.done ((s2.seqStore p d (leBytes 8 (1 - bnat ok))).specSteps p (scalarUpdates i)) none)

/-- TAS: atomically returns a word and sets its bit 0 (R177). -/
def execTas (p : SeqId) (s : State) : Res := .next (s.runInstr p .tas (tasBody p))
/-- LR: reads a word and sets the reservation on its granule (R177). -/
def execLr (p : SeqId) (s : State) : Res := .next (s.runInstr p .lr (lrBody p))
/-- SC: writes a word only if the reservation covers it, and reports success in d (R177). -/
def execSc (p : SeqId) (s : State) : Res := .next (s.runInstr p .sc (scBody p))

/-! ## Outstanding integer results (R188-R190, R192) -/

/-- A result that is outstanding from now on. -/
def State.addOutstanding (s : State) (p : Nat) (o : Outstanding) : State :=
  s.setSeq p { s.seq p with outstanding := (s.seq p).outstanding ++ [o] }

/-- MULW, DIVU and DIVS at their turn: the 16 bytes at d and SST are outstanding (R188-R192). -/
def wideBody (m : Mn) (p : Nat) (i : SeqInstr) (s : State) : SeqRes := seqRes do
  let n := i.sz
  waitFor (!s.sstBusy p)
  let da := s.specAddr p i.d n false
  must (decide (da % 8 = 0)) alignFault 0
  let a ← s.fetch p n (s.source p i.a n n)
  let b ← s.fetch p n (s.source p i.b n n)
  let d ← s.dest p 16 da
  let r : List Byte × Sst := match m with
    | .mulw => let x := mulwResult (8 * n) a b (i.md % 2 = 1); (leBytes 16 x.1, x.2)
    | _ => let x := divResult64 (8 * n) a b (decide (m = .sDivs)); (leBytes 8 x.1 ++ leBytes 8 x.2.1, x.2.2)
  let s1 := s.addOutstanding p ⟨false, d, r.1, some r.2, none, 0, i.unit0, i.unit1, s.execAt p⟩
  .ok (.done (s1.specSteps p (scalarUpdates i)) none)

/-- MULW: MULW writes the exact 128-bit product of its operands. (R188) -/
def execMulw (p : SeqId) (s : State) : Res := .next (s.runInstr p .mulw (wideBody .mulw p))

/-- SCALAR_DIVU: DIVU writes an unsigned quotient and remainder. (R189) -/
def execScalarDivu (p : SeqId) (s : State) : Res := .next (s.runInstr p .sDivu (wideBody .sDivu p))

/-- SCALAR_DIVS: DIVS writes a signed quotient and remainder. (R189) -/
def execScalarDivs (p : SeqId) (s : State) : Res := .next (s.runInstr p .sDivs (wideBody .sDivs p))

/-! ## Floating point (R193-R198) -/

/-- FADD, FSUB, FMUL, FDIV, FSQRT and FFMA at their turn: the result is outstanding in the FPU (R192, R196). -/
def fpBody (m : Mn) (p : Nat) (i : SeqInstr) (s : State) : SeqRes := seqRes do
  let f := fpFormat i
  let n := f.w / 8
  let size := i.sz
  let fsr := (s.seq p).fsr
  let da := s.specAddr p i.d size false
  let x ← s.fetch p n (s.source p (if i.short then i.d else i.a) n size)
  let y ← if m = .sFsqrt then .ok 0 else s.fetch p n (s.source p (if i.short then i.a else i.b) n size)
  let z ← if m = .sFfma then s.fetch p n (.bytes da) else .ok 0
  let d ← s.dest p n da
  let r := fpuResult m f (fpRounding i fsr) (fpFlush i fsr) x y z
  let s1 := s.addOutstanding p ⟨true, d, leBytes n r.1, none, none, r.2, i.unit0, i.unit1, s.execAt p⟩
  .ok (.done (s1.specSteps p (scalarUpdates i)) none)

/-- SCALAR_FADD: FADD adds in binary32 or binary64. (R196) -/
def execScalarFadd (p : SeqId) (s : State) : Res := .next (s.runInstr p .sFadd (fpBody .sFadd p))

/-- SCALAR_FSUB: FSUB subtracts in binary32 or binary64. (R196) -/
def execScalarFsub (p : SeqId) (s : State) : Res := .next (s.runInstr p .sFsub (fpBody .sFsub p))

/-- SCALAR_FMUL: FMUL multiplies in binary32 or binary64. (R196) -/
def execScalarFmul (p : SeqId) (s : State) : Res := .next (s.runInstr p .sFmul (fpBody .sFmul p))

/-- SCALAR_FDIV: FDIV divides in binary32 or binary64. (R196) -/
def execScalarFdiv (p : SeqId) (s : State) : Res := .next (s.runInstr p .sFdiv (fpBody .sFdiv p))

/-- SCALAR_FSQRT: FSQRT takes a square root. (R196) -/
def execScalarFsqrt (p : SeqId) (s : State) : Res := .next (s.runInstr p .sFsqrt (fpBody .sFsqrt p))

/-- SCALAR_FFMA: FFMA writes a·b + d rounded once. (R196) -/
def execScalarFfma (p : SeqId) (s : State) : Res := .next (s.runInstr p .sFfma (fpBody .sFfma p))

/-- FCMP at its turn: CC is outstanding (R197). -/
def fcmpBody (p : Nat) (i : SeqInstr) (s : State) : SeqRes := seqRes do
  let f := fpFormat i
  let n := f.w / 8
  let x ← s.fetch p n (s.source p i.a n i.sz)
  let y ← s.fetch p n (s.source p i.b n i.sz)
  let r := fpCompare f (i.md % 2 = 1) x y
  let s1 := s.addOutstanding p ⟨true, 0, [], none, some (ccOf r.1), r.2, i.unit0, i.unit1, s.execAt p⟩
  .ok (.done (s1.specSteps p (scalarUpdates i)) none)

/-- SCALAR_FCMP: compares a and b into CC (R197). -/
def execScalarFcmp (p : SeqId) (s : State) : Res := .next (s.runInstr p .sFcmp (fcmpBody p))

/-- FCVT at its turn (R198). -/
def fcvtBody (p : Nat) (i : SeqInstr) (s : State) : SeqRes := seqRes do
  let w := fcvtBytes i.num i.sz
  let fsr := (s.seq p).fsr
  let x ← s.fetch p w.1 (s.source p i.a w.1 i.sz)
  let d ← s.dest p w.2 (s.specAddr p i.d i.sz false)
  let r := fcvtResult i.num i.sz (fpRounding i fsr) (fpFlush i fsr) x
  let s1 := s.addOutstanding p ⟨true, d, leBytes w.2 r.1, none, none, r.2, i.unit0, i.unit1, s.execAt p⟩
  .ok (.done (s1.specSteps p (scalarUpdates i)) none)

/-- SCALAR_FCVT: converts between formats or between FP and integer, by kind (R198). -/
def execScalarFcvt (p : SeqId) (s : State) : Res := .next (s.runInstr p .sFcvt (fcvtBody p))

/-- FBAR: waits until the FPU is idle, so any pending trap is delivered before it (R201). -/
def execFbar (p : SeqId) (s : State) : Res :=
  .next (s.runInstr p .fbar (fun _ t => if t.fpuBusy p || t.trapPending p then .stay else .done t none))

/-- FSTR at its turn: FSR and the trap record in three words (R195). -/
def fstrBody (p : Nat) (i : SeqInstr) (s : State) : SeqRes := seqRes do
  waitFor (!s.fpuBusy p && !s.trapPending p)
  let a := s.specAddr p i.d 8 false
  must (decide (a % 8 = 0)) alignFault 0
  let h ← s.dest p 24 a
  let q := s.seq p
  let bs := leBytes 8 q.fsr.toNat ++ leBytes 8 q.tra.toNat ++ leBytes 8 q.trb.toNat
  .ok (.done ((s.seqStore p h bs).specStep p i.d 8) none)

/-- FSTR: waits for an idle FPU and stores FSR and the trap record (R195). -/
def execFstr (p : SeqId) (s : State) : Res := .next (s.runInstr p .fstr (fstrBody p))

/-- FSTW at its turn (R195): PEND is ignored, and setting TE raises no trap. -/
def fstwBody (p : Nat) (i : SeqInstr) (s : State) : SeqRes := seqRes do
  waitFor (!s.fpuBusy p && !s.trapPending p)
  let v ← s.fetch p 8 (s.source p i.a 8 8)
  must (fsrLegal v) illegal 0
  let s1 := s.setSeq p { s.seq p with fsr := BitVec.ofNat 64 (v &&& fsrWritten) }
  .ok (.done (s1.specStep p i.a 8) none)

/-- FSTW: acts as FBAR and then writes FSR from memory (R195). -/
def execFstw (p : SeqId) (s : State) : Res := .next (s.runInstr p .fstw (fstwBody p))

/-! ## Completion and traps -/

/-- FSR, TRA and TRB after an FP instruction completes (R196, R197, R200, R202). -/
def Seq.complete (q : Seq) (o : Outstanding) : Seq :=
  let f1 := match o.cc with
    | some c => setField q.fsr 27 24 c.toNat
    | none => q.fsr
  let f2 := fsrFlags f1 o.exc
  if getField f2 12 8 &&& o.exc.toNat ≠ 0 ∧ getField q.fsr 31 31 = 0 then
    { q with
      fsr := setField f2 31 31 1
      tra := BitVec.ofNat 64 (o.unit0.toNat * 2 ^ 32 + 2 ^ 31 + o.exc.toNat * 2 ^ 24 + o.pc % 2 ^ 20)
      trb := BitVec.ofNat 64 o.unit1.toNat }
  else { q with fsr := f2 }

/-- The sequencer's state after the outstanding result `o` completes. -/
def Seq.finish (q : Seq) (o : Outstanding) : Seq :=
  if o.fp then q.complete o else { q with sst := o.sst.getD q.sst }

/-- OUTSTANDING_RESULT_WRITE: the `k`-th outstanding instruction writes its result; the FPU completes in issue order (R192). -/
def execOutstandingResultWrite (p : SeqId) (k : Nat) (s : State) : Res :=
  let l := (s.seq p).outstanding
  match l[k]? with
  | none => .next s
  | some o =>
    if o.fp && (l.take k).any (·.fp) then .next s
    else
      let q := { (s.seq p).finish o with outstanding := l.eraseIdx k }
      .next ((s.setSeq p q).seqStore p o.dst o.bytes)

/-- Whether a trap may be delivered here (R201): at a boundary, or before the first repetition of FBAR, FSTR or FSTW. -/
def State.trapBoundary (s : State) (p : Nat) : Bool :=
  s.atBoundary p || ((s.seq p).micro.isNone &&
    (match s.nextInstr p with
    | some i => decide (i.mn = .fbar) || decide (i.mn = .fstr) || decide (i.mn = .fstw)
    | none => false))

/-- TRAP_DELIVERY: a pending trap is delivered at an instruction boundary (R203). -/
def execTrapDelivery (p : SeqId) (s : State) : Res :=
  let st := s.get (Reg.SEQ_STATE_STATE p)
  if s.trapPending p && (decide (st = seqRunning) || decide (st = seqWaiting)) && s.trapBoundary p then .next (s.deliverTrap p)
  else .next s

end Sys2Proof.Machine
end

