-- ==== Sys2Proof/Machine/Smbus.lean ====
section
/-!
DEFINITION. The SMBus target (R440). A reply changes nothing in the module; only what it sends is recorded.
-/
namespace Sys2Proof.Machine

/-- Whether the core is powered: POWERON, source 1, is not asserted (R389, R440). -/
def State.corePowered (s : State) : Bool := !s.rst.levels.contains 1

/-- Whether the core is unpowered or in cold reset. -/
def State.coreCold (s : State) : Bool := !s.corePowered || (match s.rst.module with | some x => decide (4 ≤ x.reach) | none => false)

/-- A TEMP or POWER reply: VALID and its bytes, zero while the core is unpowered or in cold reset. -/
def State.smbusValues (s : State) (bs : List Byte) : List Byte :=
  if s.coreCold then leBytes (bs.length + 1) 0 else leBytes 1 1 ++ bs

/-- SMBUS_STATUS. -/
def execSmbusStatus (s : State) : Res :=
  .next (s.send (.smbus (leBytes 1 (bnat s.corePowered + 2 * s.get Reg.RST_BOOT_READY + 4 * bnat s.rst.hold + 8 * s.get Reg.PWR_STAT_TRIPPED +
    16 * bnat (decide (s.get Reg.RST_BOOT_HBMFAIL ≠ 0))))))

/-- SMBUS_TEMP: A0-A3 and H. -/
def execSmbusTemp (s : State) : Res :=
  .next (s.send (.smbus (s.smbusValues ((List.range 5).flatMap (fun d => leBytes 1 (s.get (Reg.PWR_TEMP_NOW d)))))))

/-- SMBUS_POWER. -/
def execSmbusPower (s : State) : Res :=
  .next (s.send (.smbus (s.smbusValues (leBytes 2 (s.get Reg.PWR_INPUT_WATTS) ++ leBytes 2 (s.get Reg.PWR_INPUT_VIN)))))

/-- SMBUS_SERIAL. -/
def execSmbusSerial (s : State) : Res := .next (s.send (.smbus (leBytes 8 Config.serial.toNat)))

/-- ASHLAST: the newest cause record (R398). -/
def execAshlast (s : State) : Res :=
  let i := s.get Reg.RST_ASHHEAD_NEWEST
  .next (s.send (.smbus ((List.range 4).flatMap (fun j => leBytes 4 (s.get (Reg.RST_ASHREC_RECORD i j))))))

/-- SMBUS_UNKNOWN_COMMAND: a NACK. A code that the table lists is not this command's occasion (log entry 1). -/
def execSmbusUnknownCommand (code : Byte) (s : State) : Res :=
  .next (if 1 ≤ code.toNat ∧ code.toNat ≤ 5 then s else s.send .smbusNack)

end Sys2Proof.Machine
end

