-- ==== Sys2Proof/Machine/Dispatch.lean ====
section
/-!
DEFINITION. Which meaning each command has: one arm a constructor.
-/
namespace Sys2Proof.Machine

/-- The effect of a command on everything but the queue. -/
def exec (i : Instr) (s : State) : Host.Outcome State Fault Refusal :=
  match i with
  | .registerWrite dbg off data => Sys2Proof.Machine.execRegisterWrite dbg off data s
  | .shadowWrite off value => Sys2Proof.Machine.execShadowWrite off value s
  | .readClear off len => Sys2Proof.Machine.execReadClear off len s
  | .burstIssue p => Sys2Proof.Machine.execBurstIssue p s
  | .burstArrival p => Sys2Proof.Machine.execBurstArrival p s
  | .step p => Sys2Proof.Machine.execStep p s
  | .retentionEntry t => Sys2Proof.Machine.execRetentionEntry t s
  | .retentionWake t => Sys2Proof.Machine.execRetentionWake t s
  | .paceWindow t steps => Sys2Proof.Machine.execPaceWindow t steps s
  | .paceClear t => Sys2Proof.Machine.execPaceClear t s
  | .mov p => Sys2Proof.Machine.execMov p s
  | .extu p => Sys2Proof.Machine.execExtu p s
  | .exts p => Sys2Proof.Machine.execExts p s
  | .bool p => Sys2Proof.Machine.execBool p s
  | .add p => Sys2Proof.Machine.execAdd p s
  | .sub p => Sys2Proof.Machine.execSub p s
  | .addv p => Sys2Proof.Machine.execAddv p s
  | .subv p => Sys2Proof.Machine.execSubv p s
  | .cmpu p => Sys2Proof.Machine.execCmpu p s
  | .cmps p => Sys2Proof.Machine.execCmps p s
  | .shl p => Sys2Proof.Machine.execShl p s
  | .shru p => Sys2Proof.Machine.execShru p s
  | .shrs p => Sys2Proof.Machine.execShrs p s
  | .mulu p => Sys2Proof.Machine.execMulu p s
  | .muls p => Sys2Proof.Machine.execMuls p s
  | .divu p => Sys2Proof.Machine.execDivu p s
  | .divs p => Sys2Proof.Machine.execDivs p s
  | .fset p => Sys2Proof.Machine.execFset p s
  | .sprd p => Sys2Proof.Machine.execSprd p s
  | .idle p => Sys2Proof.Machine.execIdle p s
  | .fadd p => Sys2Proof.Machine.execFadd p s
  | .fsub p => Sys2Proof.Machine.execFsub p s
  | .fmul p => Sys2Proof.Machine.execFmul p s
  | .fdiv p => Sys2Proof.Machine.execFdiv p s
  | .fsqrt p => Sys2Proof.Machine.execFsqrt p s
  | .ffma p => Sys2Proof.Machine.execFfma p s
  | .fmulx p => Sys2Proof.Machine.execFmulx p s
  | .fcvt p => Sys2Proof.Machine.execFcvt p s
  | .ftol p => Sys2Proof.Machine.execFtol p s
  | .ltof p => Sys2Proof.Machine.execLtof p s
  | .fcmp p => Sys2Proof.Machine.execFcmp p s
  | .fcmps p => Sys2Proof.Machine.execFcmps p s
  | .fcls p => Sys2Proof.Machine.execFcls p s
  | .fneg p => Sys2Proof.Machine.execFneg p s
  | .fabs p => Sys2Proof.Machine.execFabs p s
  | .eclr p => Sys2Proof.Machine.execEclr p s
  | .rany p => Sys2Proof.Machine.execRany p s
  | .rall p => Sys2Proof.Machine.execRall p s
  | .rcnt p => Sys2Proof.Machine.execRcnt p s
  | .rsumu p => Sys2Proof.Machine.execRsumu p s
  | .rsums p => Sys2Proof.Machine.execRsums p s
  | .rmaxu p => Sys2Proof.Machine.execRmaxu p s
  | .rmaxs p => Sys2Proof.Machine.execRmaxs p s
  | .rminu p => Sys2Proof.Machine.execRminu p s
  | .rmins p => Sys2Proof.Machine.execRmins p s
  | .tmaxu p => Sys2Proof.Machine.execTmaxu p s
  | .tmaxs p => Sys2Proof.Machine.execTmaxs p s
  | .tminu p => Sys2Proof.Machine.execTminu p s
  | .tmins p => Sys2Proof.Machine.execTmins p s
  | .flueResultWrite p => Sys2Proof.Machine.execFlueResultWrite p s
  | .nop p => Sys2Proof.Machine.execNop p s
  | .rep p => Sys2Proof.Machine.execRep p s
  | .b p => Sys2Proof.Machine.execB p s
  | .call p => Sys2Proof.Machine.execCall p s
  | .ret p => Sys2Proof.Machine.execRet p s
  | .iret p => Sys2Proof.Machine.execIret p s
  | .wait p => Sys2Proof.Machine.execWait p s
  | .waitFlagSatisfied p => Sys2Proof.Machine.execWaitFlagSatisfied p s
  | .sig p => Sys2Proof.Machine.execSig p s
  | .fbar p => Sys2Proof.Machine.execFbar p s
  | .jobs p => Sys2Proof.Machine.execJobs p s
  | .jobe p => Sys2Proof.Machine.execJobe p s
  | .ldp p => Sys2Proof.Machine.execLdp p s
  | .stp p => Sys2Proof.Machine.execStp p s
  | .pset p => Sys2Proof.Machine.execPset p s
  | .padd p => Sys2Proof.Machine.execPadd p s
  | .snum p => Sys2Proof.Machine.execSnum p s
  | .setl p => Sys2Proof.Machine.execSetl p s
  | .setlm p => Sys2Proof.Machine.execSetlm p s
  | .stgq p => Sys2Proof.Machine.execStgq p s
  | .halt p => Sys2Proof.Machine.execHalt p s
  | .scalarMov p => Sys2Proof.Machine.execScalarMov p s
  | .scalarAdd p => Sys2Proof.Machine.execScalarAdd p s
  | .adc p => Sys2Proof.Machine.execAdc p s
  | .scalarSub p => Sys2Proof.Machine.execScalarSub p s
  | .sbc p => Sys2Proof.Machine.execSbc p s
  | .cmp p => Sys2Proof.Machine.execCmp p s
  | .and p => Sys2Proof.Machine.execAnd p s
  | .or p => Sys2Proof.Machine.execOr p s
  | .xor p => Sys2Proof.Machine.execXor p s
  | .scalarShl p => Sys2Proof.Machine.execScalarShl p s
  | .shr p => Sys2Proof.Machine.execShr p s
  | .sar p => Sys2Proof.Machine.execSar p s
  | .tas p => Sys2Proof.Machine.execTas p s
  | .lr p => Sys2Proof.Machine.execLr p s
  | .sc p => Sys2Proof.Machine.execSc p s
  | .mulw p => Sys2Proof.Machine.execMulw p s
  | .scalarDivu p => Sys2Proof.Machine.execScalarDivu p s
  | .scalarDivs p => Sys2Proof.Machine.execScalarDivs p s
  | .scalarFadd p => Sys2Proof.Machine.execScalarFadd p s
  | .scalarFsub p => Sys2Proof.Machine.execScalarFsub p s
  | .scalarFmul p => Sys2Proof.Machine.execScalarFmul p s
  | .scalarFdiv p => Sys2Proof.Machine.execScalarFdiv p s
  | .scalarFsqrt p => Sys2Proof.Machine.execScalarFsqrt p s
  | .scalarFfma p => Sys2Proof.Machine.execScalarFfma p s
  | .scalarFcmp p => Sys2Proof.Machine.execScalarFcmp p s
  | .scalarFcvt p => Sys2Proof.Machine.execScalarFcvt p s
  | .fstr p => Sys2Proof.Machine.execFstr p s
  | .fstw p => Sys2Proof.Machine.execFstw p s
  | .outstandingResultWrite p k => Sys2Proof.Machine.execOutstandingResultWrite p k s
  | .trapDelivery p => Sys2Proof.Machine.execTrapDelivery p s
  | .interruptEntry p => Sys2Proof.Machine.execInterruptEntry p s
  | .start p => Sys2Proof.Machine.execStart p s
  | .stop p => Sys2Proof.Machine.execStop p s
  | .clrf p => Sys2Proof.Machine.execClrf p s
  | .stepMicroword p => Sys2Proof.Machine.execStepMicroword p s
  | .loop p => Sys2Proof.Machine.execLoop p s
  | .jump p => Sys2Proof.Machine.execJump p s
  | .bft p => Sys2Proof.Machine.execBft p s
  | .bff p => Sys2Proof.Machine.execBff p s
  | .bpt p => Sys2Proof.Machine.execBpt p s
  | .microCall p => Sys2Proof.Machine.execMicroCall p s
  | .microRet p => Sys2Proof.Machine.execMicroRet p s
  | .read pkt => Sys2Proof.Machine.execRead pkt s
  | .write pkt => Sys2Proof.Machine.execWrite pkt s
  | .rdata pkt => Sys2Proof.Machine.execRdata pkt s
  | .wack pkt => Sys2Proof.Machine.execWack pkt s
  | .err pkt => Sys2Proof.Machine.execErr pkt s
  | .sdata pkt => Sys2Proof.Machine.execSdata pkt s
  | .ping pkt => Sys2Proof.Machine.execPing pkt s
  | .mread pkt => Sys2Proof.Machine.execMread pkt s
  | .mwrite pkt => Sys2Proof.Machine.execMwrite pkt s
  | .badcmd pkt => Sys2Proof.Machine.execBadcmd pkt s
  | .poisonedFlit pkt tile port crc header => Sys2Proof.Machine.execPoisonedFlit pkt tile port crc header s
  | .reservedFlitArrival tile port p flit => Sys2Proof.Machine.execReservedFlitArrival tile port p flit s
  | .fenceRequest d => Sys2Proof.Machine.execFenceRequest d s
  | .fenceStopComplete d => Sys2Proof.Machine.execFenceStopComplete d s
  | .fenceDrainComplete d => Sys2Proof.Machine.execFenceDrainComplete d s
  | .fenceClamp d => Sys2Proof.Machine.execFenceClamp d s
  | .fenceTimeout d => Sys2Proof.Machine.execFenceTimeout d s
  | .fenceRelease d => Sys2Proof.Machine.execFenceRelease d s
  | .turfRejoin t => Sys2Proof.Machine.execTurfRejoin t s
  | .descriptorAccept e p => Sys2Proof.Machine.execDescriptorAccept e p s
  | .transferComplete e slot bytes d => Sys2Proof.Machine.execTransferComplete e slot bytes d s
  | .stagingResend e slot => Sys2Proof.Machine.execStagingResend e slot s
  | .checkpoint p => Sys2Proof.Machine.execCheckpoint p s
  | .checkpointComplete p => Sys2Proof.Machine.execCheckpointComplete p s
  | .selfRefreshEntry n => Sys2Proof.Machine.execSelfRefreshEntry n s
  | .selfRefreshExit n => Sys2Proof.Machine.execSelfRefreshExit n s
  | .hbmPowerOff n => Sys2Proof.Machine.execHbmPowerOff n s
  | .hbmRetrainComplete n => Sys2Proof.Machine.execHbmRetrainComplete n s
  | .dmaStart c => Sys2Proof.Machine.execDmaStart c s
  | .dmaAbort c => Sys2Proof.Machine.execDmaAbort c s
  | .dmaDescriptorComplete c desc bytes d => Sys2Proof.Machine.execDmaDescriptorComplete c desc bytes d s
  | .load auto image readGood => Sys2Proof.Machine.execLoad auto image readGood s
  | .loaded => Sys2Proof.Machine.execLoaded s
  | .commit => Sys2Proof.Machine.execCommit s
  | .bareCommit => Sys2Proof.Machine.execBareCommit s
  | .apply => Sys2Proof.Machine.execApply s
  | .abort => Sys2Proof.Machine.execAbort s
  | .withdrawal t => Sys2Proof.Machine.execWithdrawal t s
  | .return t => Sys2Proof.Machine.execReturn t s
  | .readbackArm clk edges => Sys2Proof.Machine.execReadbackArm clk edges s
  | .readbackCapture clk => Sys2Proof.Machine.execReadbackCapture clk s
  | .readbackDataRead => Sys2Proof.Machine.execReadbackDataRead s
  | .edgeFreeze on => Sys2Proof.Machine.execEdgeFreeze on s
  | .clkloss n => Sys2Proof.Machine.execClkloss n s
  | .edgeEvent n => Sys2Proof.Machine.execEdgeEvent n s
  | .kindlingNop c => Sys2Proof.Machine.execKindlingNop c s
  | .br c lines => Sys2Proof.Machine.execBr c lines s
  | .kindlingWait c lines => Sys2Proof.Machine.execKindlingWait c lines s
  | .sleep c => Sys2Proof.Machine.execSleep c s
  | .sleepTurn c => Sys2Proof.Machine.execSleepTurn c s
  | .stallTurn c lines => Sys2Proof.Machine.execStallTurn c lines s
  | .sho c => Sys2Proof.Machine.execSho c s
  | .shi c lines => Sys2Proof.Machine.execShi c lines s
  | .take c => Sys2Proof.Machine.execTake c s
  | .give c => Sys2Proof.Machine.execGive c s
  | .drv c => Sys2Proof.Machine.execDrv c s
  | .smp c lines => Sys2Proof.Machine.execSmp c lines s
  | .dir c => Sys2Proof.Machine.execDir c s
  | .ldi c => Sys2Proof.Machine.execLdi c s
  | .opr c => Sys2Proof.Machine.execOpr c s
  | .arm c => Sys2Proof.Machine.execArm c s
  | .stmp c => Sys2Proof.Machine.execStmp c s
  | .evt c => Sys2Proof.Machine.execEvt c s
  | .edgeLatch c rising line => Sys2Proof.Machine.execEdgeLatch c rising line s
  | .tick c => Sys2Proof.Machine.execTick c s
  | .engineStop e => Sys2Proof.Machine.execEngineStop e s
  | .cleanStop e => Sys2Proof.Machine.execCleanStop e s
  | .engineStart e => Sys2Proof.Machine.execEngineStart e s
  | .globalStart mask => Sys2Proof.Machine.execGlobalStart mask s
  | .kindlingFreeze e on => Sys2Proof.Machine.execKindlingFreeze e on s
  | .align => Sys2Proof.Machine.execAlign s
  | .txEnqueue c word => Sys2Proof.Machine.execTxEnqueue c word s
  | .rxDequeue c => Sys2Proof.Machine.execRxDequeue c s
  | .doorbell p value => Sys2Proof.Machine.execDoorbell p value s
  | .entryFetch p entry => Sys2Proof.Machine.execEntryFetch p entry s
  | .mailboxDelivery p => Sys2Proof.Machine.execMailboxDelivery p s
  | .launch p => Sys2Proof.Machine.execLaunch p s
  | .completionWrite p => Sys2Proof.Machine.execCompletionWrite p s
  | .ringEnable p => Sys2Proof.Machine.execRingEnable p s
  | .ringDisable p => Sys2Proof.Machine.execRingDisable p s
  | .completionHeadWrite p value => Sys2Proof.Machine.execCompletionHeadWrite p value s
  | .hivOffer value => Sys2Proof.Machine.execHivOffer value s
  | .flr fn => Sys2Proof.Machine.execFlr fn s
  | .bar0OversizeAccess off len write => Sys2Proof.Machine.execBar0OversizeAccess off len write s
  | .instructionMemoryWrite p addr data => Sys2Proof.Machine.execInstructionMemoryWrite p addr data s
  | .windowAccess a => Sys2Proof.Machine.execWindowAccess a s
  | .linkTrained speed => Sys2Proof.Machine.execLinkTrained speed s
  | .eventEnable n value => Sys2Proof.Machine.execEventEnable n value s
  | .pendingClear j mask => Sys2Proof.Machine.execPendingClear j mask s
  | .vectorUnmask fn vec => Sys2Proof.Machine.execVectorUnmask fn vec s
  | .waitFlagMirrorWrite p => Sys2Proof.Machine.execWaitFlagMirrorWrite p s
  | .ptmTrigger => Sys2Proof.Machine.execPtmTrigger s
  | .ptmPeriodExpiry => Sys2Proof.Machine.execPtmPeriodExpiry s
  | .ptmDialogComplete t => Sys2Proof.Machine.execPtmDialogComplete t s
  | .portEnable n => Sys2Proof.Machine.execPortEnable n s
  | .partnerDetected n => Sys2Proof.Machine.execPartnerDetected n s
  | .equalisationDone n rate112 lanes => Sys2Proof.Machine.execEqualisationDone n rate112 lanes s
  | .frameLock n => Sys2Proof.Machine.execFrameLock n s
  | .cap n msg => Sys2Proof.Machine.execCap n msg s
  | .trainingTimeout n => Sys2Proof.Machine.execTrainingTimeout n s
  | .failedRetry n => Sys2Proof.Machine.execFailedRetry n s
  | .linkDown n => Sys2Proof.Machine.execLinkDown n s
  | .cablePresentChange n present => Sys2Proof.Machine.execCablePresentChange n present s
  | .frameReceive n frame => Sys2Proof.Machine.execFrameReceive n frame s
  | .retry n seq => Sys2Proof.Machine.execRetry n seq s
  | .keyFlood n appointed serial => Sys2Proof.Machine.execKeyFlood n appointed serial s
  | .rootDeclare => Sys2Proof.Machine.execRootDeclare s
  | .heartbeat => Sys2Proof.Machine.execHeartbeat s
  | .electionTimeout => Sys2Proof.Machine.execElectionTimeout s
  | .parentMap epoch root ids edges arrival => Sys2Proof.Machine.execParentMap epoch root ids edges arrival s
  | .epoch value => Sys2Proof.Machine.execEpoch value s
  | .epochDrainTimeout => Sys2Proof.Machine.execEpochDrainTimeout s
  | .fabricForward arrival dl pkt => Sys2Proof.Machine.execFabricForward arrival dl pkt s
  | .gatewayDelivery pkt => Sys2Proof.Machine.execGatewayDelivery pkt s
  | .gatewayTimeout n => Sys2Proof.Machine.execGatewayTimeout n s
  | .broadcast arrival pkt => Sys2Proof.Machine.execBroadcast arrival pkt s
  | .collectiveSubmit p slot => Sys2Proof.Machine.execCollectiveSubmit p slot s
  | .collectivePartial n part => Sys2Proof.Machine.execCollectivePartial n part s
  | .collectiveResult part res => Sys2Proof.Machine.execCollectiveResult part res s
  | .collectiveTimeout cid => Sys2Proof.Machine.execCollectiveTimeout cid s
  | .rcmd pkt => Sys2Proof.Machine.execRcmd pkt s
  | .rcmdVerified good => Sys2Proof.Machine.execRcmdVerified good s
  | .faultReport f => Sys2Proof.Machine.execFaultReport f s
  | .replay p => Sys2Proof.Machine.execReplay p s
  | .rollback p => Sys2Proof.Machine.execRollback p s
  | .rollbackResume p => Sys2Proof.Machine.execRollbackResume p s
  | .rollbackRequest mask => Sys2Proof.Machine.execRollbackRequest mask s
  | .columnRepair tile col => Sys2Proof.Machine.execColumnRepair tile col s
  | .retire tile => Sys2Proof.Machine.execRetire tile s
  | .marchTestStart t preserving => Sys2Proof.Machine.execMarchTestStart t preserving s
  | .marchTestEnd t psave tiles => Sys2Proof.Machine.execMarchTestEnd t psave tiles s
  | .recoveryLogRead => Sys2Proof.Machine.execRecoveryLogRead s
  | .poweron asserted aux => Sys2Proof.Machine.execPoweron asserted aux s
  | .drwLongLow asserted => Sys2Proof.Machine.execDrwLongLow asserted s
  | .perst asserted => Sys2Proof.Machine.execPerst asserted s
  | .hotReset => Sys2Proof.Machine.execHotReset s
  | .linkDownReset => Sys2Proof.Machine.execLinkDownReset s
  | .software reach target => Sys2Proof.Machine.execSoftware reach target s
  | .watchdog p => Sys2Proof.Machine.execWatchdog p s
  | .watchdogEnable p value => Sys2Proof.Machine.execWatchdogEnable p value s
  | .watchdogKick mask => Sys2Proof.Machine.execWatchdogKick mask s
  | .thermalTrip die reading => Sys2Proof.Machine.execThermalTrip die reading s
  | .thermalWarning die reading => Sys2Proof.Machine.execThermalWarning die reading s
  | .refclkLoss => Sys2Proof.Machine.execRefclkLoss s
  | .refclkReturn => Sys2Proof.Machine.execRefclkReturn s
  | .idleReached target => Sys2Proof.Machine.execIdleReached target s
  | .idleTimeout target => Sys2Proof.Machine.execIdleTimeout target s
  | .resetRelease target => Sys2Proof.Machine.execResetRelease target s
  | .coldBoot info => Sys2Proof.Machine.execColdBoot info s
  | .warmBoot info => Sys2Proof.Machine.execWarmBoot info s
  | .hbmTrainingComplete n rate failedSome => Sys2Proof.Machine.execHbmTrainingComplete n rate failedSome s
  | .ready ms => Sys2Proof.Machine.execReady ms s
  | .ashClear => Sys2Proof.Machine.execAshClear s
  | .turfOff t => Sys2Proof.Machine.execTurfOff t s
  | .svnburn => Sys2Proof.Machine.execSvnburn s
  | .attestation => Sys2Proof.Machine.execAttestation s
  | .attestationDone => Sys2Proof.Machine.execAttestationDone s
  | .store area => Sys2Proof.Machine.execStore area s
  | .storeComplete good => Sys2Proof.Machine.execStoreComplete good s
  | .storeReadData => Sys2Proof.Machine.execStoreReadData s
  | .openPw password => Sys2Proof.Machine.execOpenPw password s
  | .kexInit cert key level => Sys2Proof.Machine.execKexInit cert key level s
  | .kexFinish signature => Sys2Proof.Machine.execKexFinish signature s
  | .close => Sys2Proof.Machine.execClose s
  | .sessionIdleTimeout => Sys2Proof.Machine.execSessionIdleTimeout s
  | .kill => Sys2Proof.Machine.execKill s
  | .debugStatus => Sys2Proof.Machine.execDebugStatus s
  | .debugRead space addr len => Sys2Proof.Machine.execDebugRead space addr len s
  | .debugWrite space addr data => Sys2Proof.Machine.execDebugWrite space addr data s
  | .debugHalt mask => Sys2Proof.Machine.execDebugHalt mask s
  | .debugResume mask => Sys2Proof.Machine.execDebugResume mask s
  | .debugStep p => Sys2Proof.Machine.execDebugStep p s
  | .debugReset reach target => Sys2Proof.Machine.execDebugReset reach target s
  | .turfFreeze mask => Sys2Proof.Machine.execTurfFreeze mask s
  | .turfUnfreeze mask => Sys2Proof.Machine.execTurfUnfreeze mask s
  | .blockFreeze value => Sys2Proof.Machine.execBlockFreeze value s
  | .smbusStatus => Sys2Proof.Machine.execSmbusStatus s
  | .smbusTemp => Sys2Proof.Machine.execSmbusTemp s
  | .smbusPower => Sys2Proof.Machine.execSmbusPower s
  | .smbusSerial => Sys2Proof.Machine.execSmbusSerial s
  | .ashlast => Sys2Proof.Machine.execAshlast s
  | .smbusUnknownCommand code => Sys2Proof.Machine.execSmbusUnknownCommand code s
  | .completionTimeout r => Sys2Proof.Machine.execCompletionTimeout r s
  | .readyReport serial => Sys2Proof.Machine.execReadyReport serial s
  | .junctionSensorReading die reading => Sys2Proof.Machine.execJunctionSensorReading die reading s
  | .configurationMemoryParity => Sys2Proof.Machine.execConfigurationMemoryParity s
  | .controllerStateParity firmware addr => Sys2Proof.Machine.execControllerStateParity firmware addr s
  | .newAop p => Sys2Proof.Machine.execNewAop p s

end Sys2Proof.Machine
end

