-- ==== Sys2Proof/WellFormed.lean ====
section
/-!
DEFINITION. Which commands are well formed: the lengths and ranges that the access paths and message layouts of the manual give their
operands. A command that is not well formed is no command of the block; `exec` is total on it all the same.
-/
namespace Sys2Proof

/-- An access that BAR0 accepts: 1 to 64 bytes that cross no 64-byte boundary, inside its 64 MiB (R4, R311). -/
def barAccessWf (off len : Nat) : Bool := decide (0 < len) && decide (off % 64 + len ≤ 64) && decide (off + len ≤ 0x4000000)

/-- A word of configuration space (R306; log entry 11). -/
def configAccessWf (off len : Nat) : Bool := decide (0x10000000 ≤ off) && decide (off < 0x10005000) && decide (off % 4 = 0) && decide (len = 4)

/-- A mesh packet: the data flits that LEN announces, for the commands that carry data (R117, R119). -/
def Packet.wf (k : Packet) : Bool := decide (k.data.length ≤ 255)

/-- An access through a memory window: the PF has BAR2, a VF its BARs 0, 2 and 4; 1 byte or more (R312, R313). -/
def WinAccess.wf (a : WinAccess) : Bool :=
  (if a.fn.val = 0 then decide (a.bar = 2) else decide (a.bar = 0) || decide (a.bar = 2) || decide (a.bar = 4)) &&
    (if a.write then decide (0 < a.data.length) else decide (0 < a.len))

/-- A fabric frame: 15 slots and eight credit fields of 5 bits (R337). -/
def Frame.wf (f : Frame) : Bool := decide (f.slots.length = 15) && decide (f.credit.length = 8) && f.credit.all (fun c => decide (c < 32))

/-- A partial of a collective: an operation, a member width and counts in range (R356). -/
def Partial.wf (p : Partial) : Bool := decide (p.op ≤ 8) && decide (0 < p.width) && decide (p.width ≤ 65536) && decide (p.nmem ≤ 262144)

/-- Whether a command's operands have the lengths and ranges of the manual. -/
def Instr.wf : Instr → Bool
  | .registerWrite _ off data => barAccessWf off data.length || configAccessWf off data.length
  | .shadowWrite off _ => decide (off % 4 = 0) && decide (off < 0x4000000)
  | .readClear off len => barAccessWf off len || configAccessWf off len
  | .bar0OversizeAccess off len _ => decide (64 < off % 64 + len)
  | .read k | .write k | .rdata k | .wack k | .err k | .sdata k | .ping k | .mread k | .mwrite k | .badcmd k => k.wf
  | .poisonedFlit k _ _ _ _ => k.wf
  | .fabricForward _ _ k | .broadcast _ k | .gatewayDelivery k | .rcmd k => k.wf
  | .instructionMemoryWrite _ addr data => decide (0 < data.length) && decide (addr + data.length ≤ 0x100000)
  | .windowAccess a => a.wf
  | .entryFetch _ entry => decide (entry.length = 64) || decide (entry = [])
  | .frameReceive _ f => f.wf
  | .collectivePartial _ p | .collectiveResult p _ => p.wf
  | .kexInit _ _ level => decide (level < 256)
  | .debugRead _ _ len => decide (len < 65536)
  | .debugWrite _ _ data => decide (data.length ≤ 1091)
  | _ => true

end Sys2Proof
end

