-- ==== Sys2Proof/Safety.lean ====
section
/-!
DEFINITION. The terms in which claims about the machine are made: what it is for a command to complete, the canonical form of every
memory, and what a step leaves as it was.
-/
namespace Sys2Proof.Machine

/-- The command completes in `s`, and the state it gives has property `P`. -/
def Runs (i : Instr) (s : State) (P : State → Prop) : Prop := ∃ t, exec i s = .next t ∧ P t

/-- A byte memory in canonical form: addresses strictly rising, no byte listed that reads as an unlisted one (log entry 3). -/
def Memory.wf (m : SMap Byte) : Bool := SMap.wf (fun _ => 0) m

/-- Every memory of the module, the PE registers and the register file are in canonical form. -/
def State.memWf (s : State) : Bool :=
  Memory.wf s.imem && Memory.wf s.hearth && Memory.wf s.hbm && Memory.wf s.nvm && Memory.wf s.flash &&
    SMap.wf (fun _ => 0) s.peMem && SMap.wf (fun _ => PeRegs.reset) s.pes && SMap.wf resetValue s.regs

/-- What a run leaves behind of what it had: what was sent stays sent, and no free value is used twice. -/
structure Since (s t : State) : Prop where
  out : s.out <+: t.out
  free : s.free ≤ t.free

/-- Every register but those at `offs` reads as before. -/
def SameRegs (offs : List Nat) (s t : State) : Prop := ∀ off, off ∉ offs → t.reg off = s.reg off

/-- Every byte of the Hearth memories outside the `n` bytes at `lo` reads as before. -/
def SameHearth (lo n : Nat) (s t : State) : Prop := ∀ a, a < lo ∨ lo + n ≤ a → SMap.get 0 t.hearth a = SMap.get 0 s.hearth a

/-- The last write to the Hearth memories is not one of the system port that a sequencer's next write could meet in one cycle (R179). -/
def State.calm (s : State) : Bool := s.lastPort.all (fun w => w.who.isSome)

/-- The packet is a local one of that class and command, none of its class goes before it on its way, and its endpoint exists and takes it
(R119, R124, R133). -/
def State.admits (s : State) (k : Packet) (cls cmd : Nat) : Bool :=
  decide (k.cls = cls) && decide (k.cmd = cmd) && !s.behind k && !k.remote && portExists k.tile k.dport && !s.turnsAway k

/-- Once an instruction of `p` retires, no refused burst stops the sequencer there (R30) and no trap that a REP held back is delivered (R201). -/
def State.plainEnd (s : State) (p : Nat) : Bool :=
  (s.seq p).expander.isNone &&
    !(s.repActive p && !s.flag (Reg.SEQ_STATE_REPI p) && decide (s.get (Reg.SEQ_REPCNT_COUNT p) ≤ 1) && s.trapPending p)

/-- The sequencer may execute an instruction, and goes on after it. -/
def State.ready (s : State) (p : Nat) : Bool := s.canRun p && s.plainEnd p

/-- The PE in row `g`, column `m` of tile `t` (R13). -/
def peOfTile (t g m : Nat) : Nat := 2048 * (64 * (t / 32) + g) + 64 * (t % 32) + m

/-- The frame slots that carry a packet, header flit first, on the virtual channel of its class and dateline bit (R337, R339). -/
def frameSlots (dl : Bool) (k : Packet) : List FrameSlot :=
  (k.header :: k.data).zipIdx.map (fun e => slotOf ⟨vcOf k.cls dl, decide (e.2 = 0), decide (e.2 + 1 = k.data.length + 1), e.1⟩)

/-- The array and Flue instructions that act as one macro-instruction: all of the table but IDLE, with their commands. -/
def arrayCommands : List (Mn × (SeqId → Instr)) :=
  [(.mov, .mov), (.extu, .extu), (.exts, .exts), (.bool, .bool), (.add, .add), (.sub, .sub), (.addv, .addv), (.subv, .subv),
    (.cmpu, .cmpu), (.cmps, .cmps), (.shl, .shl), (.shru, .shru), (.shrs, .shrs), (.mulu, .mulu), (.muls, .muls), (.divu, .divu),
    (.divs, .divs), (.fset, .fset), (.sprd, .sprd), (.fadd, .fadd), (.fsub, .fsub), (.fmul, .fmul), (.fdiv, .fdiv),
    (.fsqrt, .fsqrt), (.ffma, .ffma), (.fmulx, .fmulx), (.fcvt, .fcvt), (.ftol, .ftol), (.ltof, .ltof), (.fcmp, .fcmp),
    (.fcmps, .fcmps), (.fcls, .fcls), (.fneg, .fneg), (.fabs, .fabs), (.eclr, .eclr), (.rany, .rany), (.rall, .rall),
    (.rcnt, .rcnt), (.rsumu, .rsumu), (.rsums, .rsums), (.rmaxu, .rmaxu), (.rmaxs, .rmaxs), (.rminu, .rminu), (.rmins, .rmins),
    (.tmaxu, .tmaxu), (.tmaxs, .tmaxs), (.tminu, .tminu), (.tmins, .tmins)]

/-- The scalar integer instructions that complete at their turn, with their commands. -/
def aluCommands : List (Mn × (SeqId → Instr)) :=
  [(.sMov, .scalarMov), (.sAdd, .scalarAdd), (.adc, .adc), (.sSub, .scalarSub), (.sbc, .sbc), (.cmp, .cmp), (.and, .and),
    (.or, .or), (.xor, .xor), (.sShl, .scalarShl), (.shr, .shr), (.sar, .sar)]

/-- The scalar instructions whose result is outstanding after they issue, with their commands and what they do at their turn. -/
def outstandingCommands : List (Mn × (SeqId → Instr) × (Nat → SeqInstr → State → SeqRes)) :=
  [(.mulw, .mulw, wideBody .mulw), (.sDivu, .scalarDivu, wideBody .sDivu), (.sDivs, .scalarDivs, wideBody .sDivs),
    (.sFadd, .scalarFadd, fpBody .sFadd), (.sFsub, .scalarFsub, fpBody .sFsub), (.sFmul, .scalarFmul, fpBody .sFmul),
    (.sFdiv, .scalarFdiv, fpBody .sFdiv), (.sFsqrt, .scalarFsqrt, fpBody .sFsqrt), (.sFfma, .scalarFfma, fpBody .sFfma),
    (.sFcmp, .scalarFcmp, fcmpBody), (.sFcvt, .scalarFcvt, fcvtBody)]

/-- The floating-point instructions with a result at d, with their commands. -/
def fpCommands : List (Mn × (SeqId → Instr)) :=
  [(.sFadd, .scalarFadd), (.sFsub, .scalarFsub), (.sFmul, .scalarFmul), (.sFdiv, .scalarFdiv), (.sFsqrt, .scalarFsqrt), (.sFfma, .scalarFfma)]

/-- The Kindling instructions: operation code, command and what they do at a channel's turn. -/
def kindlingCommands : List (Nat × (Fin 128 → BitVec 176 → Instr) × (Nat → Nat → BitVec 176 → State → KOut)) :=
  [(0x00, fun c _ => .kindlingNop c, kNop), (0x01, fun c l => .br c l, kBr), (0x02, fun c l => .kindlingWait c l, kWait),
    (0x03, fun c _ => .sleep c, kSleep), (0x04, fun c _ => .sho c, kSho), (0x05, fun c l => .shi c l, kShi),
    (0x06, fun c _ => .take c, kTake), (0x07, fun c _ => .give c, kGive), (0x08, fun c _ => .drv c, kDrv),
    (0x09, fun c l => .smp c l, kSmp), (0x0A, fun c _ => .dir c, kDir), (0x0B, fun c _ => .ldi c, kLdi),
    (0x0C, fun c _ => .opr c, kOpr), (0x0D, fun c _ => .arm c, kArm), (0x0E, fun c _ => .stmp c, kStmp), (0x0F, fun c _ => .evt c, kEvt)]

/-- It is channel `c`'s turn, it does not sleep, and the word at its PC has operation code `op` (R287, R288). -/
def State.kReady (s : State) (c op : Nat) : Bool :=
  s.kTurn c && decide (s.get (Reg.KDL_CEDGE_SLP c) = 0) && decide (bitsOf (s.kWord c) 31 27 = op)

end Sys2Proof.Machine
end

