-- ==== Sys2Proof/Certificates/Slice0/Obligations.lean ====
section
/-!
DEFINITION. The statements about the machine. A statement about what a command does says so by `Runs`: the command completes in every state that
meets the hypotheses, and the state it gives is as stated. `SameRegs` and `SameHearth` say what stays.
-/
open Sys2Proof Sys2Proof.Machine

/-- With a command at the front of the queue, a step is that command's effect on the state with the queue's rest. -/
def Obligations.StepRunsFrontCommand : Prop :=
  ∀ (c : Instr) (rest : List Instr) (s : State), step { s with pending := c :: rest } = exec c { s with pending := rest }

/-- Every command has an effect in every state: none faults and none is refused. No command touches the queue, what was sent stays sent in its
order, and no free value is used twice. On an empty queue the step is one cycle of the Kindling engines, and of the edge fabric where it runs:
KTIME counts it, the queue stays empty, no memory of the module and no other unit changes, and where the fabric does not run nothing is sent. That
an idle step is such a cycle is the model's choice (log entry 2). -/
def Obligations.CommandsAlwaysComplete : Prop :=
  (∀ (i : Instr) (s : State), ∃ t, exec i s = .next t) ∧
  (∀ (i : Instr) (s t : State), exec i s = .next t → t.pending = s.pending ∧ Since s t) ∧
  (∀ s : State, s.pending = [] → ∃ t, step s = .next t ∧ t.get Reg.KDL_TIME_KTIME = (s.get Reg.KDL_TIME_KTIME + 1) % 2 ^ 64 ∧ Since s t ∧
       t = { s with regs := t.regs, kdl := t.kdl, edge := t.edge, seqs := t.seqs, ep := t.ep, out := t.out, free := t.free,
                    lastPort := none } ∧
       (s.edgeRuns = false → t = { s with regs := t.regs, kdl := t.kdl, lastPort := none, edge := { s.edge with ekWas := s.edge.ek } }))

/-- Every step keeps every memory, the PE registers and the register file in the canonical form that the model gives them (log entry 3). -/
def Obligations.StepKeepsMemoriesCanonical : Prop :=
  ∀ s t : State, s.memWf = true → step s = .next t → t.memWf = true

/-- The state right after the release of a cold reset meets the invariant that every step keeps. -/
def Obligations.ResetMemoriesCanonical : Prop :=
 State.reset.memWf = true

/-- What the manual gives the registers after a cold reset: PEs with K = 1 and every other register 0 (R10), sequencers Stopped, turfs
unassigned and off (R44), pace minimum 0xFFFF, the fence timeout of 100, partitions without a job, no event pending; and an empty queue. -/
def Obligations.ResetLeavesManualValues : Prop :=
  (∀ i, State.reset.pe i = ⟨false, false, true, false, false, false, false, 0⟩) ∧
  (∀ p : SeqId, State.reset.get (Reg.SEQ_STATE_STATE p) = 0 ∧ State.reset.get (Reg.SEQ_NEXTSTEP_STEP p) = 0 ∧
    State.reset.get (Reg.SEQ_IVEC_IEN p) = 0 ∧ (State.reset.seq p).job = none) ∧
  (∀ t : TurfId, State.reset.get (Reg.TRF_CFG_ASSIGNED t) = 0 ∧ State.reset.get (Reg.TRF_STATE_STATE t) = 0 ∧
    State.reset.get (Reg.TRF_PACE_MIN_MINSTEPS t) = 0xFFFF ∧ State.reset.get (Reg.TRF_ID_TURF t) = t.val) ∧
  State.reset.get Reg.MSH_FENCE_TMO_TMO = 100 ∧ State.reset.get Reg.HST_SIFSTAT_STATE = 0 ∧
  (∀ j : Fin 32, State.reset.get (Reg.EVT_PEND_PEND j) = 0) ∧ State.reset.pending = []

/-- A 4-byte register write at an aligned offset acts on each field of the register by its access code (R7): RW takes the written bits, W1C
clears and W1S sets where 1 is written, and RO, WO, RC and CMT fields keep their bits. It is stated for the fields that no command of its
own acts on, in a register whose change sets nothing else off; bits outside the fields never change (R5). What it writes to CMT fields is held
in shadow state while the loader is Idle, the register's other CMT bits held as they were, and is ignored in any other state of the loader, with
IGNW (R9, R260). An access that a CRC error on the spine fails writes nothing and reads nothing, and only that one (R137); that its read is answered
with Completer Abort is the model's (log entry 43). -/
def Obligations.RegisterWriteFollowsAccessCodes : Prop :=
  (∀ (s : State) (dbg : Bool) (off : Nat) (v : BitVec 32) (r : RegRow) (a b start : Nat) (high : Bool),
    off % 4 = 0 → off + 4 ≤ 0x4000000 → findWord off = some (r, a, b, start, high) → s.serves off = true → msixWord off = none → s.spineBad = false →
    barredSource start = false → s.barredChannel start = false → (∀ o t, State.afterWrite o t start = t) →
    r.fields.Pairwise (fun f g => f.hi < g.lo ∨ g.hi < f.lo) → (∀ f ∈ r.fields, f.lo ≤ f.hi ∧ f.hi < 64) →
    let half := fieldMask (if high then 63 else 31) (if high then 32 else 0)
    let held := half &&& r.cmtMask
    (held ≠ 0 → start ≠ Reg.HST_SIFSTAT_IGNW.off) →
    Runs (.registerWrite dbg off (leBytes 4 v.toNat)) s (fun t =>
      (held = 0 → t = { s with regs := t.regs } ∧ SameRegs [start] s t) ∧
      (held ≠ 0 → s.get Reg.HST_SIFSTAT_STATE = 0 → t = { s with regs := t.regs, shadow := t.shadow } ∧ SameRegs [start] s t ∧
        (∀ i, (SMap.get 0 t.shadow start).getLsbD i = (r.cmtMask.getLsbD i &&
          (if i / 32 = bnat high then v.getLsbD (i % 32) else (SMap.get (s.reg start) s.shadow start).getLsbD i))) ∧
        ∀ k, k ≠ start → SMap.get 0 t.shadow k = SMap.get 0 s.shadow k) ∧
      (held ≠ 0 → s.get Reg.HST_SIFSTAT_STATE ≠ 0 → t = { s with regs := t.regs } ∧ SameRegs [start, Reg.HST_SIFSTAT_IGNW.off] s t ∧
        t.get Reg.HST_SIFSTAT_IGNW = 1) ∧
      (∀ f ∈ r.fields, f.own = .none → ∀ i, f.lo ≤ i → i ≤ f.hi →
        let w := decide (i / 32 = bnat high) && v.getLsbD (i % 32)
        let old := (s.reg start).getLsbD i
        (t.reg start).getLsbD i =
          if f.cmt then old
          else match f.acc with
          | .rw => if i / 32 = bnat high then w else old
          | .w1c => old && !w
          | .w1s => old || w
          | _ => old) ∧
      ∀ i, (∀ f ∈ r.fields, i < f.lo ∨ f.hi < i) → (t.reg start).getLsbD i = (s.reg start).getLsbD i)) ∧
  ∀ (s : State) (off len : Nat) (dbg : Bool) (data : List Byte), off < 0x10000000 → s.spineBad = true →
    (barAccess off data.length = true → exec (.registerWrite dbg off data) s = .next { s with spineBad := false }) ∧
    (barAccess off len = true → exec (.readClear off len) s = .next { s with spineBad := false, out := s.out ++ [.completerAbort] })

/-- A 4-byte read at an aligned offset returns the word's value and gives every RC field of the register its reset value; nothing else changes
(R7). What comes from the physical device is brought up to date first, from a free value (log entry 45). A queue field dequeues its head by
its own rule: a read of KDL_CRXQ, EDG_RBDATA, NVM_RDDATA or RST_RECLOG is the command of that name. A reserved offset reads as zero and its
write changes nothing (R5). -/
def Obligations.RegisterReadReturnsThenClears : Prop :=
  (∀ (s : State) (off : Nat) (r : RegRow) (a b start : Nat) (high : Bool),
    off % 4 = 0 → off + 4 ≤ 0x4000000 → findWord off = some (r, a, b, start, high) → msixWord off = none → s.spineBad = false →
    ¬(0x209000 ≤ off ∧ off < 0x209020) →
    r.fields.Pairwise (fun f g => f.hi < g.lo ∨ g.hi < f.lo) → (∀ f ∈ r.fields, f.lo ≤ f.hi ∧ f.hi < 64) →
    let u := s.sense start
    (∀ x ∈ [off, start], u.serves x = true ∧ crxqAt x = none ∧ x ≠ Reg.EDG_RBDATA_DATA.off ∧ x ≠ Reg.NVM_RDDATA_DATA.off ∧
      x ≠ Reg.RST_RECLOG_ENTRY.off) →
    (reportsDevice start = false → u = s) ∧
    Runs (.readClear off 4) s (fun t =>
      t.out = u.out ++ [.readData (leBytes 4 ((u.reg start).toNat / 2 ^ (32 * bnat high)))] ∧
      t = { u with regs := t.regs, out := t.out } ∧ SameRegs [start] u t ∧
      (∀ f ∈ r.fields, getField (t.reg start) f.hi f.lo =
        if f.acc = .rc ∧ f.own = .none then f.reset % 2 ^ (f.hi + 1 - f.lo) else getField (u.reg start) f.hi f.lo))) ∧
  (∀ s : State, s.flag Reg.RST_BOOT_FWFAIL = false → s.moduleReset = false → s.spineBad = false →
    (∀ c : Fin 128, exec (.readClear (0x3C0102C + 0x40 * c.val) 4) s = exec (.rxDequeue c) s) ∧
    exec (.readClear Reg.EDG_RBDATA_DATA.off 4) s = exec .readbackDataRead s ∧
    exec (.readClear Reg.NVM_RDDATA_DATA.off 4) s = exec .storeReadData s ∧
    (s.reg Reg.RST_RECLOG_ENTRY.off = s.recLog.headD 0 → exec (.readClear Reg.RST_RECLOG_ENTRY.off 8) s = exec .recoveryLogRead s)) ∧
  (∀ (s : State) (off : Nat), s.spineBad = false → off % 4 = 0 → off + 4 ≤ 0x4000000 → findWord off = none → msixWord off = none → crxqAt off = none →
    off ≠ Reg.EDG_RBDATA_DATA.off → off ≠ Reg.NVM_RDDATA_DATA.off → ¬(0x209000 ≤ off ∧ off < 0x209020) →
    exec (.readClear off 4) s = .next (s.send (.readData [0, 0, 0, 0])) ∧
    ∀ dbg v, exec (.registerWrite dbg off (leBytes 4 v)) s = .next s)

/-- A write of a register's CMT fields is held in shadow state and changes no value in effect while the loader is Idle; in any other state of
the loader it is ignored and HST_SIFSTAT.IGNW is set (R9, R260). -/
def Obligations.ShadowWriteIsHeldForCommit : Prop :=
  ∀ (s : State) (off : Nat) (value : W64) (r : RegRow) (a b : Nat), findReg off = some (r, a, b) →
    (∀ f ∈ r.fields, f.lo ≤ f.hi ∧ f.hi < 64) → r.fields.any (·.cmt) = true →
    (s.get Reg.HST_SIFSTAT_STATE = 0 → Runs (.shadowWrite off value) s (fun t =>
      t = { s with shadow := t.shadow } ∧
      (∀ i, (SMap.get 0 t.shadow off).getLsbD i =
        (value.getLsbD i && r.fields.any (fun f => f.cmt && decide (f.lo ≤ i) && decide (i ≤ f.hi)))) ∧
      ∀ k, k ≠ off → SMap.get 0 t.shadow k = SMap.get 0 s.shadow k)) ∧
    (s.get Reg.HST_SIFSTAT_STATE ≠ 0 → Runs (.shadowWrite off value) s (fun t =>
      t = { s with regs := t.regs } ∧ t.get Reg.HST_SIFSTAT_IGNW = 1 ∧ SameRegs [Reg.HST_SIFSTAT_IGNW.off] s t))

/-- A macro-instruction of the array completes at its turn. One without steps (R64, R93, R100) sends what the Flue owes it and no burst. Any other
issues the bursts of its routine as one macro-instruction, at its values of the step numbers it consumes: the first goes to the issue stage now, the
others as the stage takes them (R29, R171, R208), and once the array service has stopped they are discarded (R30). The PEs change only when the steps
come. It holds for each instruction of the array and the Flue but IDLE, while no patch gives its AOP a routine of its own (R205). Which steps the ROM
issues where the manual prints no microwords is the model's (log entries 9 and 13). -/
def Obligations.ArrayInstructionTakesEffect : Prop :=
  ∀ e ∈ arrayCommands, ∀ (p : SeqId) (s : State) (i : SeqInstr) (D : Dispatch), s.ready p = true → s.nextInstr p = some i → i.mn = e.1 →
    s.patchedAop p i.aop = false → s.dispatch p e.1 i = .ok D →
    let first := s.get (Reg.SEQ_NEXTSTEP_STEP p)
    let bs := if (s.part p).stopped then [] else romBursts e.1 D first
    let others (t : State) : Prop := t.peMem = s.peMem ∧ t.pes = s.pes ∧ t.hearth = s.hearth ∧ t.hbm = s.hbm ∧ t.imem = s.imem ∧
      (t.seq p).sst = (s.seq p).sst
    (s.noSteps p e.1 D = true → Runs (e.2 p) s (fun t =>
      t.part p = { s.part p with results := (s.part p).results ++ s.stepless p e.1 D } ∧ t.get (Reg.SEQ_NEXTSTEP_STEP p) = first ∧
      (t.seq p).micro = none ∧ others t)) ∧
    (s.noSteps p e.1 D = false → bs = [] → Runs (e.2 p) s (fun t =>
      t.part p = s.part p ∧ t.get (Reg.SEQ_NEXTSTEP_STEP p) = first ∧ (t.seq p).micro = none ∧ others t)) ∧
    (s.noSteps p e.1 D = false → ∀ b rest, bs = b :: rest → 0 < b.count ∧ b.mfirst = first ∧ b.aop = D.aop ∧ Runs (e.2 p) s (fun t =>
      t.part p = { s.part p with
        issue := [b]
        opened := (s.part p).opened ++ [⟨D, first, first + (bs.map (s.burstSteps p)).sum, s.pes, slotParity s.pes⟩] } ∧
      t.get (Reg.SEQ_NEXTSTEP_STEP p) = (first + s.burstSteps p b) % 2 ^ 64 ∧ others t ∧
      (t.seq p).micro = if rest = [] then none
        else some ⟨D, 0, none, [], none, none, none, 0, 0, 0, first, i.size, false, rest, true, i.arrayUpdates e.1 D⟩))

/-- The integer instructions of the array (R54, R55, R57, R58). MOV, EXTU, BOOL, ADD and SUB run step by step: a step of theirs reads digit `j` of the
fields x and y and writes digit `j` of d, the bundle's digit of the result, with the carry or borrow of ADD and SUB in the head's C. What the
others write in a bundle whose PEs all hold K = 1 is, as one number in the destination field, the result of the table modulo its width. -/
def Obligations.ArrayIntegerResultsAreWritten : Prop :=
  (∀ (m : Mn) (D : Dispatch) (first x y d : Nat) (b : Burst) (v : StepEnv) (ms : List (BitVec 8192)) (rs : List PeRegs),
    m ∈ [Mn.mov, .extu, .bool, .add, .sub] → D.x = some x → D.y = some y → D.d = some d → 0 < D.lx → (romBursts m D first).head? = some b →
    v.b = b → v.k = 2 ^ D.kw → D.kw ≤ 5 →
    let at_ (a j : Nat) : Bool := (ms.getD j 0).getLsbD ((a + v.j) % 8192)
    let digit (a : Nat) : Nat := natOfBits v.k (at_ a)
    let out := natOfBits v.k (fun j => (v.bits ms rs j).1)
    let c := bnat (rs.getD (v.k - 1) PeRegs.reset).c
    let h := bnat (v.bits ms rs (v.k - 1)).2
    (b.count = D.lx ∧ b.dAddr v.j = (d + v.j) % 8192 ∧ b.nb 24 24 = 1 ∧ b.nb 28 25 = 1) ∧
    (m = .mov ∨ m = .extu → out = digit x ∧ h = 0) ∧
    (m = .bool → (∀ j, j < v.k → (v.bits ms rs j).1 = (D.aop % 16).testBit (2 * bnat (at_ x j) + bnat (at_ y j))) ∧ h = 0) ∧
    (m = .add → out + h * 2 ^ v.k = digit x + digit y + c) ∧
    (m = .sub → out + digit y + c = digit x + h * 2 ^ v.k)) ∧
  ∀ (s : State) (m : Mn) (D : Dispatch) (flue i d : Nat), i % 2 ^ D.kw = 0 → D.d = some d → D.ld ≤ 8192 →
    (∀ j, j < 2 ^ D.kw → (s.pe (i + j)).k = true) →
    let k := 2 ^ D.kw
    let x := fieldWord k (s.bundleMem k i) D.x D.lx
    let y := fieldWord k (s.bundleMem k i) D.y D.ly
    let c := bnat (s.pe (i + k - 1)).c
    let after := fieldWord k ((List.range k).map (fun j => s.memAfter m D flue (i + j))) (some d) D.ld
    let w := D.ld * k
    (m = .exts → after = encodeInt (signedOf x (D.lx * k)) w) ∧
    (m = .addv → after = (x + y + c) % 2 ^ w) ∧
    (m = .subv → after = encodeInt ((x : Int) - y - c) w) ∧
    (m = .mulu → D.ld = D.lx + D.ly → after = x * y) ∧
    (m = .muls → D.ld = D.lx + D.ly → after = encodeInt (signedOf x (D.lx * k) * signedOf y (D.ly * k)) w) ∧
    (m = .divu → D.ld = 2 * D.lx → y ≠ 0 → after = x / y + x % y * 2 ^ (D.lx * k)) ∧
    (m = .divu ∨ m = .divs → D.ld = 2 * D.lx → y = 0 → after = (2 ^ (D.lx * k) - 1) + x * 2 ^ (D.lx * k))

/-- The edge results of DIVU and DIVS at width `w` (R59): the ordinary unsigned quotient and remainder with no E bit; division by zero, all
ones and the dividend with E[3]; and the most negative dividend over -1, itself and 0 with E[2]; else truncation toward zero. What DIVU
and DIVS do to the E bits of a bundle whose PEs all hold K = 1 (R59): the bit of the edge case is set beside those already set. -/
def Obligations.DivisionEdgeResults : Prop :=
  (∀ w x y : Nat, 0 < w → x < 2 ^ w → y < 2 ^ w →
       (y ≠ 0 → divide w false x y = (x / y, x % y, 0)) ∧
       (∀ signed, divide w signed x 0 = (2 ^ w - 1, x, 0x08)) ∧
       (x = 2 ^ (w - 1) → y = 2 ^ w - 1 → 1 < w → divide w true x y = (x, 0, 0x04)) ∧
       (y ≠ 0 → ¬(x = 2 ^ (w - 1) ∧ y = 2 ^ w - 1) →
         ∃ q r : Int, divide w true x y = (encodeInt q w, encodeInt r w, 0) ∧ signedOf x w = q * signedOf y w + r ∧
           r.natAbs < (signedOf y w).natAbs ∧ (0 ≤ signedOf x w → 0 ≤ r) ∧ (signedOf x w ≤ 0 → r ≤ 0))) ∧
  (∀ (s : State) (m : Mn) (D : Dispatch) (flue i j : Nat), i % 2 ^ D.kw = 0 → j < 2 ^ D.kw → m = .divu ∨ m = .divs →
       (∀ j, j < 2 ^ D.kw → (s.pe (i + j)).k = true) →
       let k := 2 ^ D.kw
       let w := D.lx * k
       let x := fieldWord k (s.bundleMem k i) D.x D.lx
       let y := fieldWord k (s.bundleMem k i) D.y D.ly
       (s.regsAfter m D flue (i + j)).e = (s.pe (i + j)).e |||
         (divide w (decide (m = .divs)) x (if m = .divs then encodeInt (signedOf y (D.ly * k)) w else y)).2.2)

/-- A PE whose K is 0 at the start of a step does not write memory, and leaves C, F, the E bits, Q, S and T unchanged; N changes only by the
capture of a transfer, and K is written whatever its value, with what table H gives (R20). The same of a macro-instruction, whose writes to K
reach every PE. -/
def Obligations.PesWithoutKWriteNothing : Prop :=
  (∀ (t s r : State) (p : SeqId) (v : StepEnv) (i : Nat), i ∈ s.pesOf p → (s.pe i).k = false →
    let u := t.stepPes s r p v
    let ms := s.bundleMem v.k i
    let rs := s.bundleRegs v.k i
    let j := i % v.k
    u.peMemory i = t.peMemory i ∧
    u.pe i = { s.pe i with k := (if v.b.nb 28 25 = 3 then (s.stepBits p v i).2 else false), n := (r.capture p v i).getD (s.pe i).n } ∧
    (s.romSum p v.b = none → (s.stepBits p v i).2 =
      (v.b.nb 15 8).testBit (ttIndex (v.a j (ms.getD j 0) (rs.getD j PeRegs.reset)) (v.bb j (ms.getD j 0) (rs.getD j PeRegs.reset)) (v.f ms rs j)))) ∧
  (∀ (s : State) (m : Mn) (D : Dispatch) (flue i : Nat), (s.pe i).k = false →
    s.memAfter m D flue i = s.peMemory i ∧
    ∃ c' k', s.regsAfter m D flue i = { s.pe i with c := c', k := k' } ∧ (m ≠ .tmaxu → m ≠ .tmaxs → m ≠ .tminu → m ≠ .tmins → c' = (s.pe i).c))

/-- The Flue's results over the words it takes (R92): OR and AND of one-bit inputs, exact counts and sums, maxima and minima.
FLUE_RESULT_WRITE: the oldest result whose stream has not failed sets FLC, or is written to the words of `dst`, and no byte outside them
changes; a failed stream writes neither (R95, R105). The confirmation point covers the input steps of a result that is written (R367). -/
def Obligations.FlueCombinesExactly : Prop :=
  (∀ (w : Nat) (vs : List Nat), vs ≠ [] → (∀ v ∈ vs, v < 2 ^ w) → 0 < w →
       (flueCombine .rany w vs = 1 ↔ ∃ v ∈ vs, v ≠ 0) ∧ (flueCombine .rall w vs = 1 ↔ ∀ v ∈ vs, v ≠ 0) ∧
       flueCombine .rcnt w vs = ((vs.sum : Nat) : Int) ∧ flueCombine .rsumu w vs = ((vs.sum : Nat) : Int) ∧
       flueCombine .rsums w vs = (vs.map (fun v => signedOf v w)).sum ∧
       (∃ v ∈ vs, flueCombine .rmaxu w vs = v ∧ ∀ u ∈ vs, u ≤ v) ∧
       (∃ v ∈ vs, flueCombine .rminu w vs = v ∧ ∀ u ∈ vs, v ≤ u) ∧
       (∃ v ∈ vs, flueCombine .rmaxs w vs = signedOf v w ∧ ∀ u ∈ vs, signedOf u w ≤ signedOf v w) ∧
       (∃ v ∈ vs, flueCombine .rmins w vs = signedOf v w ∧ ∀ u ∈ vs, signedOf v w ≤ signedOf u w)) ∧
  (∀ (p : SeqId) (s : State) (f : FlueResult) (rest : List FlueResult), (s.part p).results = f :: rest → s.stepsHeld p = false →
       (f.failed = true ∨ f.flc.isSome = true ∨ s.calm = true) →
       Runs (.flueResultWrite p) s (fun t =>
         (t.part p).results = rest ∧ (f.failed = false → f.upto ≤ (t.part p).confirmed) ∧ t.peMem = s.peMem ∧ t.pes = s.pes ∧ t.hbm = s.hbm ∧
         (∀ v, f.failed = false → f.flc = some v → t.get (Reg.SEQ_STATE_FLC p) = bnat v ∧ t.hearth = s.hearth) ∧
         (f.failed = false → f.flc = none → let bs := f.words.flatMap (fun w => leBytes 8 w.toNat)
           t.hearthRead (0x200000 * p + f.dst) bs.length = bs ∧ SameHearth (0x200000 * p + f.dst) bs.length s t) ∧
         (f.failed = true → t.hearth = s.hearth ∧ t.get (Reg.SEQ_STATE_FLC p) = s.get (Reg.SEQ_STATE_FLC p))))

/-- IDLE of `n` steps issues its idle bursts, `n` step numbers in all, none of a burst above 8,192 (R166): the first goes to the issue stage, the
others follow as it takes them. A burst travels: BURST_ISSUE takes the burst of the issue stage into the Draught when a buffer entry is free and
nothing holds it (R29, R368), and the stage takes the next of its routine; BURST_ARRIVAL buffers the oldest burst of the Draught when no turf refuses
its width; where one does, the turfs that refuse it record it, what is on its way is discarded, and the sequencer faults with EXPANDER at its next
instruction boundary, which a routine that had only bursts to issue has then reached (R30). -/
def Obligations.BurstsTravelToTheBuffers : Prop :=
  (∀ (p : SeqId) (s : State) (i : SeqInstr) (D : Dispatch), s.ready p = true → s.nextInstr p = some i → i.mn = .idle →
       s.patchedAop p i.aop = false → s.dispatch p .idle i = .ok D → (s.part p).stopped = false →
       let bs := romBursts .idle D (s.get (Reg.SEQ_NEXTSTEP_STEP p))
       ((bs.map (·.count)).sum = D.param.toNat ∧ bs.length = cdiv D.param.toNat 8192 ∧
         ∀ b ∈ bs, 0 < b.count ∧ b.count ≤ 8192 ∧ b.nb 24 24 = 0 ∧ b.nb 28 25 = 0 ∧ b.nb 31 29 = 0 ∧ b.flueMode = 0) ∧
       Runs (.idle p) s (fun t => (t.part p).issue = bs.take 1 ∧ (((t.seq p).micro.map (·.todo)).getD []) = bs.drop 1 ∧
         t.peMem = s.peMem ∧ t.pes = s.pes ∧ (t.part p).step = (s.part p).step)) ∧
  (∀ (p : SeqId) (s : State) (b : Burst) (bs : List Burst), (s.part p).issue = b :: bs →
       (s.part p).draught.length + (s.part p).buffer.length < 64 → s.stepsHeld p = false →
       (∀ o ∈ (s.part p).opened, o.first < b.mfirst → o.next ≤ (s.part p).step) → s.barsStream p b = false →
       Runs (.burstIssue p) s (fun t => (t.part p).draught = (s.part p).draught ++ [b] ∧
         (t.part p).buffer = (s.part p).buffer ∧ (t.part p).step = (s.part p).step ∧ t.peMem = s.peMem ∧ t.pes = s.pes ∧
         ((((s.seq p).micro.map (·.todo)).getD []) = [] → (t.part p).issue = bs ∧ t.hearth = s.hearth ∧ t.seqs = s.seqs) ∧
         (∀ u c cs, (s.seq p).micro = some u → u.todo = c :: cs → (t.part p).issue = bs ++ [c] ∧
           t.get (Reg.SEQ_NEXTSTEP_STEP p) = (s.get (Reg.SEQ_NEXTSTEP_STEP p) + s.burstSteps p c) % 2 ^ 64 ∧
           (t.seq p).micro = if u.ends && cs.isEmpty then none else some { u with todo := cs }))) ∧
  (∀ (p : SeqId) (s : State) (b : Burst) (bs : List Burst), (s.part p).draught = b :: bs →
       (∀ u ∈ s.turfsOf p, b.width ≤ s.get (Reg.TRF_CFG_MAXW u)) →
       Runs (.burstArrival p) s (fun t => (t.part p).draught = bs ∧ (t.part p).buffer = (s.part p).buffer ++ [b] ∧
         (t.part p).issue = (s.part p).issue ∧ t = { s with regs := t.regs, parts := t.parts } ∧
         ∀ q, q ≠ p.val → t.part q = s.part q)) ∧
  (∀ (p : SeqId) (s : State) (b : Burst) (bs : List Burst), (s.part p).draught = b :: bs →
       (∃ u ∈ s.turfsOf p, s.get (Reg.TRF_CFG_MAXW u) < b.width) →
       let faults (t : State) : Prop := t.get (Reg.SEQ_FAULT_CODE p) = 0x07 ∧ t.get (Reg.SEQ_FAULT_VALID p) = 1
       let waits (t : State) : Prop := (t.seq p).expander = some b.aop ∧ t.get (Reg.SEQ_FAULT_VALID p) = s.get (Reg.SEQ_FAULT_VALID p)
       Runs (.burstArrival p) s (fun t => (t.part p).stopped = true ∧ (t.part p).draught = [] ∧ (t.part p).issue = [] ∧
         (t.part p).buffer = (s.part p).buffer ∧ (∀ u ∈ s.turfsOf p, s.get (Reg.TRF_CFG_MAXW u) < b.width → t.get (Reg.TRF_ERR_WIDTH u) = 1) ∧
         (s.atBoundary p = true → faults t) ∧
         ((s.seq p).micro = none → s.atBoundary p = false → waits t) ∧
         (∀ u, (s.seq p).micro = some u → u.ends = true → s.repActive p = false → faults t ∧ (t.seq p).micro = none) ∧
         (∀ u, (s.seq p).micro = some u → u.ends = false → waits t ∧ (t.seq p).micro = some { u with todo := [] })))

/-- One step of a partition. Every PE that takes it holds what the nanoword gives for its bundle: operand a is read in the first step number with
the staging rows due there written, operand b of a conflicting step in the second, and every write takes effect in the last, with the rows due
by then; only a row due in that last number can meet the write and lose to it. One step number more is consumed for the step, one for a conflict, and
those of the neighbour transfer (R15, R23, R25, R113). A step of the ROM whose nanoword the manual does not print takes one step number and leaves
the PE registers as they are, until at the last step of its macro-instruction every PE holds what the instruction gives (log entry 13). The
confirmation point then stands somewhere from where it was to the steps completed (R366). -/
def Obligations.StepUpdatesEveryPe : Prop :=
  ∀ (p : SeqId) (s : State) (b : Burst) (bs : List Burst), s.canStep p = true → (s.part p).buffer = b :: bs →
    let j := (s.part p).taken
    let n := (s.part p).step
    let c := bnat (b.conflict j)
    let x := s.transferCost p b
    let s0 := (s.beats p n (c + x + 1)).snapshot p b
    let onward (t : State) : Prop := (t.part p).buffer = (if b.count ≤ j + 1 then bs else b :: bs) ∧
      (t.part p).taken = (if b.count ≤ j + 1 then 0 else j + 1) ∧ t.hearth = s.hearth ∧
      (s.part p).confirmed ≤ (t.part p).confirmed ∧ (t.part p).confirmed ≤ max (s.part p).confirmed (t.part p).step
    (b.rom = false → Runs (.step p) s (fun t =>
      let writes := if b.nb 24 24 = 1 then some (b.dAddr j) else none
      let r := s0.land p n (if c + x = 0 then writes else none)
      let w := r.land p (n + c) (if x = 0 then writes else none)
      let q := (w.land p (n + c + x - 1) (if x = 0 then writes else none)).land p (n + c + x) writes
      let v := r.stepEnv p b
      let f := r.readLater w p v
      (t.part p).step = n + 1 + c + x ∧ onward t ∧
      (∀ i ∈ s.pesOf p, t.peMemory i = v.memory (q.peMemory i) (f.pe i) (f.stepBits p v i).1 ∧
        t.pe i = v.registers (f.pe i) (f.stepBits p v i).2 (v.cell (f.bundleMem v.k i) (f.bundleRegs v.k i) (i % v.k)) (r.capture p v i)) ∧
      (∀ i, i ∉ s.pesOf p → t.peMemory i = q.peMemory i ∧ t.pe i = s.pe i) ∧
      (f.pes = s.pes ∧ (c = 0 → f = r)) ∧
      ((s0.part p).landing = [] → q.peMem = s0.peMem ∧ t.seqs = s0.seqs ∧ t.out = s0.out) ∧
      (s.net.still = true → s.mesh = [] → s0.peMem = s.peMem))) ∧
    (b.rom = true → Runs (.step p) s (fun t => (t.part p).step = n + 1 ∧ onward t ∧
      ∀ D, s.macroOf p b.mfirst = some D → let last := (s.part p).opened.any (fun o => decide (o.first = b.mfirst) && decide (o.next = n + 1))
        (last = false → t.pes = s.pes ∧ ((s0.part p).landing = [] → t.peMem = s0.peMem)) ∧
        (last = true → (s0.part p).landing = [] → (s0.part p).touched = [] → let m := s.macroMn p D
          (∀ i ∈ s.pesOf p, t.peMemory i = s0.memAfter m D (s0.hiddenFlue p D b.mfirst) i ∧
            t.pe i = s0.regsAfter m D (s0.hiddenFlue p D b.mfirst) i) ∧
          ∀ i, i ∉ s.pesOf p → t.peMemory i = s0.peMemory i ∧ t.pe i = s.pe i)))

/-- Retention and pace (R42-R44): an awake turf with no burst buffered enters retention, a sleeping one wakes; a whole busy window adds 1,500
to the busy time and keeps the smallest count of steps; a write of 1 to TRF_PACE_CTL.CLR zeroes the counters and sets the minimum to
0xFFFF. -/
def Obligations.RetentionAndPaceCounters : Prop :=
  (∀ (t : TurfId) (s : State), s.get (Reg.TRF_STATE_STATE t) = 1 → s.get (Reg.TRF_STATE_BURSTS t) = 0 →
    Runs (.retentionEntry t) s (fun u => u.get (Reg.TRF_STATE_STATE t) = 2 ∧ u = { s with regs := u.regs } ∧
      SameRegs [(Reg.TRF_STATE_STATE t).off] s u ∧ u.get (Reg.TRF_STATE_BURSTS t) = 0)) ∧
  (∀ (t : TurfId) (s : State), s.get (Reg.TRF_STATE_STATE t) = 2 →
    Runs (.retentionWake t) s (fun u => u.get (Reg.TRF_STATE_STATE t) = 1 ∧ u = { s with regs := u.regs } ∧
      SameRegs [(Reg.TRF_STATE_STATE t).off] s u)) ∧
  (∀ (t : TurfId) (n : Nat) (s : State), (s.get (Reg.TRF_PACE_FLOOR_FLOOR t) = 0 ∨ s.get (Reg.TRF_PACE_FLOOR_FLOOR t) ≤ n) →
    Runs (.paceWindow t n) s (fun u =>
      u.get (Reg.TRF_PACE_BUSY_BUSY t) = (s.get (Reg.TRF_PACE_BUSY_BUSY t) + 1500) % 2 ^ 64 ∧
      u.get (Reg.TRF_PACE_MIN_MINSTEPS t) = min (s.get (Reg.TRF_PACE_MIN_MINSTEPS t)) n ∧ u = { s with regs := u.regs } ∧
      SameRegs [(Reg.TRF_PACE_BUSY_BUSY t).off, (Reg.TRF_PACE_MIN_MINSTEPS t).off] s u)) ∧
  (∀ (t : TurfId) (n : Nat) (s : State), s.get (Reg.TRF_PACE_FLOOR_FLOOR t) ≠ 0 → n < s.get (Reg.TRF_PACE_FLOOR_FLOOR t) →
    Runs (.paceWindow t n) s (fun u => u.get (Reg.TRF_ERR_FLOOR t) = 1 ∧
      u.flag (pendBit t) = true ∧ u.flag (pendBit (0x0A8 + s.get (Reg.TRF_CFG_PART t))) = true)) ∧
  (∀ (t : TurfId) (s : State), Runs (.paceClear t) s (fun u =>
    u.get (Reg.TRF_PACE_STEPS_STEPS t) = 0 ∧ u.get (Reg.TRF_PACE_BUSY_BUSY t) = 0 ∧ u.get (Reg.TRF_PACE_MIN_MINSTEPS t) = 0xFFFF ∧
    u = { s with regs := u.regs } ∧
    SameRegs [(Reg.TRF_PACE_STEPS_STEPS t).off, (Reg.TRF_PACE_BUSY_BUSY t).off, (Reg.TRF_PACE_MIN_MINSTEPS t).off] s u))

/-- The field counters of step `j` of a burst start at fa, fb and fd, advance by ia, ib and id and wrap at 8,192, and two operands lie in one
bank by the wrapped addresses (R27); a word on a bundle of width `k` is digit-interleaved: PE `j` holds word bit `j + d·k` at the field's
start plus `d` (R36). -/
def Obligations.CountersWrapAndDigitsInterleave : Prop :=
  (∀ (b : Burst) (j : Nat),
    let at_ (start : Nat) (inc : Int) (v : Nat) : Prop := v < 8192 ∧ ((v : Int) - (start + j * inc)) % 8192 = 0
    at_ b.fd b.id (b.dAddr j) ∧ (b.nb 56 55 = 0 → at_ b.fa b.ia (b.aAddr j)) ∧ (b.nb 58 57 = 1 → at_ b.fb b.ib (b.bAddr j)) ∧
    (b.conflict j = true ↔ b.nb 18 16 = 0 ∧ b.nb 21 19 = 0 ∧ pairConflicts (b.aAddr j) (b.bAddr j) = true)) ∧
  (∀ (k a w j d : Nat) (ms : List (BitVec 8192)), 0 < k → j < k → d < cdiv w k →
    (fieldWord k ms (some a) (cdiv w k)).testBit (j + d * k) = (ms.getD j 0).getLsbD ((a + d) % 8192))

/-- The scalar integer instructions (R186, R187): at operand size `w` they give the results of the table and set Z, N, C and V as it says, MOV
leaving SST unchanged; an immediate source is sign-extended to `w` bits, and the count of a shift is the operand read as unsigned. At its
turn, with its sources at hand and its destination in data memory, the instruction completes: the destination's bytes hold the result, SST
its flags, the PC moves to the next instruction (or a REP counts down), the short forms take D and A as their operands and the long forms
A and B, and no other byte of data memory, no array state and no other memory changes; CMP writes no byte. -/
def Obligations.ScalarIntegerInstructions : Prop :=
  (∀ (w a b : Nat) (t : Sst), 0 < w → a < 2 ^ w → b < 2 ^ w →
    let out (v : Int) : Bool := decide (v < -(2 ^ (w - 1) : Nat) ∨ (2 ^ (w - 1) : Nat) ≤ v)
    let zn (d : Nat) (c v : Bool) : Nat × Sst := (d, ⟨decide (d = 0), d.testBit (w - 1), c, v⟩)
    let last (n : Nat) : Bool := decide (0 < b ∧ b ≤ w) && a.testBit n
    aluResult .sMov w a b t = (b, t) ∧
    aluResult .sAdd w a b t = zn ((a + b) % 2 ^ w) (decide (2 ^ w ≤ a + b)) (out (signedOf a w + signedOf b w)) ∧
    aluResult .adc w a b t = zn ((a + b + bnat t.c) % 2 ^ w) (decide (2 ^ w ≤ a + b + bnat t.c)) (out (signedOf a w + signedOf b w + bnat t.c)) ∧
    aluResult .sSub w a b t = zn (encodeInt ((a : Int) - b) w) (decide (b ≤ a)) (out (signedOf a w - signedOf b w)) ∧
    aluResult .cmp w a b t = aluResult .sSub w a b t ∧
    aluResult .sbc w a b t = zn (encodeInt ((a : Int) - b - 1 + bnat t.c) w) (decide (b + 1 - bnat t.c ≤ a))
      (out (signedOf a w - signedOf b w - 1 + bnat t.c)) ∧
    aluResult .and w a b t = zn (a &&& b) false false ∧ aluResult .or w a b t = zn (a ||| b) false false ∧
    aluResult .xor w a b t = zn (a ^^^ b) false false ∧
    aluResult .sShl w a b t = zn (a * 2 ^ b % 2 ^ w) (last (w - b)) false ∧
    aluResult .shr w a b t = zn (a / 2 ^ b) (last (b - 1)) false ∧
    aluResult .sar w a b t = zn (encodeInt (signedOf a w / (2 ^ b : Nat)) w)
      (if w < b then decide (signedOf a w < 0) else last (b - 1)) false) ∧
  (∀ (s : State) (p : SeqId) (n : Nat) (v : Int), s.fetch p n (s.source p (.imm v) n n) = .ok (v % 2 ^ (8 * n)).toNat) ∧
  (∀ e ∈ aluCommands, ∀ (p : SeqId) (s : State) (i : SeqInstr) (a b h : Nat), s.ready p = true → s.nextInstr p = some i → i.mn = e.1 →
    (e.1 ≠ .sMov → s.sstBusy p = false) →
    (e.1 ≠ .sMov → s.fetch p i.sz (s.source p (if i.short then i.d else i.a) i.sz i.sz) = .ok a) →
    s.fetch p i.sz (s.source p (if i.short then i.a else i.b) i.sz i.sz) = .ok b →
    (e.1 ≠ .cmp → s.dest p i.sz (s.specAddr p i.d i.sz false) = .ok h ∧ s.calm = true) →
    Runs (e.2 p) s (fun t =>
      let r := aluResult e.1 (8 * i.sz) (if e.1 = .sMov then 0 else a) b (s.seq p).sst
      let n := if e.1 = .cmp then 0 else i.sz
      (t.seq p).sst = r.2 ∧ t.hearthRead h n = leBytes n r.1 ∧ SameHearth h n s t ∧
      (s.repActive p = false → t.pc p = (s.execAt p + i.size) / 4 * 4 % 0x100000) ∧
      (s.repActive p = true → t.get (Reg.SEQ_REPCNT_COUNT p) = (s.get (Reg.SEQ_REPCNT_COUNT p) - 1)) ∧
      t.peMem = s.peMem ∧ t.pes = s.pes ∧ t.parts = s.parts ∧ t.hbm = s.hbm ∧ t.imem = s.imem ∧ t.rings = s.rings ∧
      (t.seq p).fsr = (s.seq p).fsr ∧ (t.seq p).outstanding = (s.seq p).outstanding ∧ (t.seq p).job = (s.seq p).job))

/-- MULW, DIVU and DIVS at their turn, on an aligned destination (R188-R190): their two words, low or quotient first, are outstanding with the
flags that SST takes with them: the exact 128-bit product, or the quotient truncated toward zero and the remainder, each extended to 64
bits, with the edge results of R59. A destination that is not aligned raises ALIGN. -/
def Obligations.WideArithmeticResults : Prop :=
  ∀ (p : SeqId) (s : State) (i : SeqInstr), s.canRun p = true → s.nextInstr p = some i → s.sstBusy p = false →
    let da := s.specAddr p i.d i.sz false
    let w := 8 * i.sz
    (∀ e ∈ [(Mn.mulw, Instr.mulw p), (.sDivu, .scalarDivu p), (.sDivs, .scalarDivs p)], i.mn = e.1 → da % 8 ≠ 0 →
      exec e.2 s = .next (s.seqFault p alignFault 0 i.aop (s.execAt p))) ∧
    ∀ a b d, s.plainEnd p = true → da % 8 = 0 → s.fetch p i.sz (s.source p i.a i.sz i.sz) = .ok a → s.fetch p i.sz (s.source p i.b i.sz i.sz) = .ok b →
      s.dest p 16 da = .ok d →
      let gives (lo hi : Nat) (sst : Sst) (t : State) : Prop := ∃ o : Outstanding, (t.seq p).outstanding = (s.seq p).outstanding ++ [o] ∧
        o.dst = d ∧ o.fp = false ∧ o.sst = some sst ∧ o.bytes = leBytes 8 lo ++ leBytes 8 hi ∧ t.hearth = s.hearth ∧
        (t.seq p).sst = (s.seq p).sst
      let A := signedOf a w
      let B := signedOf b w
      let wide (v : Int) : Nat := (v % (2 ^ 64 : Nat)).toNat
      let far (v : Int) : Bool := decide (v < -(2 ^ 63 : Nat) ∨ (2 ^ 63 : Nat) ≤ v)
      (i.mn = .mulw → i.md < 2) ∧
      (i.mn = .mulw → i.md = 0 → Runs (.mulw p) s (gives (a * b % 2 ^ 64) (a * b / 2 ^ 64)
        ⟨decide (a * b = 0), decide (2 ^ 127 ≤ a * b), decide (2 ^ 64 ≤ a * b), decide (2 ^ 64 ≤ a * b)⟩)) ∧
      (i.mn = .mulw → i.md = 1 → Runs (.mulw p) s (gives (wide (A * B)) (wide (A * B / (2 ^ 64 : Nat)))
        ⟨decide (A * B = 0), decide (A * B < 0), far (A * B), far (A * B)⟩)) ∧
      (i.mn = .sDivu → b ≠ 0 → Runs (.scalarDivu p) s (gives (a / b) (a % b) ⟨decide (a < b), (a / b).testBit (w - 1), false, false⟩)) ∧
      (i.mn = .sDivu → b = 0 → Runs (.scalarDivu p) s (gives (2 ^ w - 1) a ⟨false, true, true, false⟩)) ∧
      (i.mn = .sDivs → b ≠ 0 → ¬(A = -(2 ^ (w - 1) : Nat) ∧ B = -1) → Runs (.scalarDivs p) s
        (gives (wide (A.tdiv B)) (wide (A.tmod B)) ⟨decide (A.tdiv B = 0), decide (A.tdiv B < 0), false, false⟩)) ∧
      (i.mn = .sDivs → b = 0 → Runs (.scalarDivs p) s (gives (2 ^ 64 - 1) (wide A) ⟨false, true, true, false⟩)) ∧
      (i.mn = .sDivs → A = -(2 ^ (w - 1) : Nat) → B = -1 → Runs (.scalarDivs p) s (gives (wide A) 0 ⟨false, true, false, true⟩))

/-- MULW, DIVU, DIVS and the floating-point instructions issue at their turn: their result is outstanding from then on, and no byte of data
memory, SST or FSR changes before OUTSTANDING_RESULT_WRITE writes the oldest of its unit (R192). What is outstanding for the floating-point
instructions, with its exceptions, is their result over the operands at issue (R196-R198): FADD, FSUB, FMUL, FDIV, FSQRT and FFMA at d, FCMP
in CC, FCVT at d in the width of its kind. FSTR stores FSR and the trap record in three words, FSTW writes FSR from a word whose reserved bits
are 0, with PEND taken as 0; both wait for an idle FPU (R195). -/
def Obligations.OutstandingResultsAreWrittenLater : Prop :=
  ((∀ e ∈ outstandingCommands, ∀ (p : SeqId) (s : State) (i : SeqInstr) (t : State) (target : Option Nat), s.ready p = true →
       s.nextInstr p = some i → i.mn = e.1 → e.2.2 p i s = .done t target →
       Runs (e.2.1 p) s (fun u => ∃ o, (u.seq p).outstanding = (s.seq p).outstanding ++ [o] ∧ (o.fp = true ↔ e.1 ∉ [Mn.mulw, .sDivu, .sDivs]) ∧
         u.hearth = s.hearth ∧ (u.seq p).sst = (s.seq p).sst ∧ (u.seq p).fsr = (s.seq p).fsr ∧ u.parts = s.parts)) ∧
     (∀ (p : SeqId) (s : State) (i : SeqInstr), s.ready p = true → s.nextInstr p = some i →
       let f := fpFormat i
       let n := f.w / 8
       let rm := fpRounding i (s.seq p).fsr
       let fz := fpFlush i (s.seq p).fsr
       let da := s.specAddr p i.d i.sz false
       let issues (c : Instr) (d : Nat) (bytes : List Byte) (cc : Option (BitVec 4)) (exc : BitVec 5) : Prop := Runs c s (fun u =>
         (u.seq p).outstanding = (s.seq p).outstanding ++ [⟨true, d, bytes, none, cc, exc, i.unit0, i.unit1, s.execAt p⟩] ∧
         u.hearth = s.hearth ∧ (u.seq p).sst = (s.seq p).sst ∧ (u.seq p).fsr = (s.seq p).fsr ∧ u.parts = s.parts)
       (∀ e ∈ fpCommands, ∀ x y z d, i.mn = e.1 → s.fetch p n (s.source p (if i.short then i.d else i.a) n i.sz) = .ok x →
         (e.1 ≠ .sFsqrt → s.fetch p n (s.source p (if i.short then i.a else i.b) n i.sz) = .ok y) → (e.1 = .sFsqrt → y = 0) →
         (e.1 = .sFfma → s.fetch p n (.bytes da) = .ok z) → (e.1 ≠ .sFfma → z = 0) → s.dest p n da = .ok d →
         issues (e.2 p) d (leBytes n (fpuResult e.1 f rm fz x y z).1) none (fpuResult e.1 f rm fz x y z).2) ∧
       (∀ x y, i.mn = .sFcmp → s.fetch p n (s.source p i.a n i.sz) = .ok x → s.fetch p n (s.source p i.b n i.sz) = .ok y →
         issues (.scalarFcmp p) 0 [] (some (ccOf (fpCompare f (i.md % 2 = 1) x y).1)) (fpCompare f (i.md % 2 = 1) x y).2) ∧
       (∀ x d, i.mn = .sFcvt → let w := fcvtBytes i.num i.sz
         s.fetch p w.1 (s.source p i.a w.1 i.sz) = .ok x → s.dest p w.2 da = .ok d →
         issues (.scalarFcvt p) d (leBytes w.2 (fcvtResult i.num i.sz rm fz x).1) none (fcvtResult i.num i.sz rm fz x).2)) ∧
     (∀ (p : SeqId) (k : Nat) (s : State) (o : Outstanding), (s.seq p).outstanding[k]? = some o →
       (o.fp = true → ∀ q ∈ (s.seq p).outstanding.take k, q.fp = false) → s.calm = true →
       Runs (.outstandingResultWrite p k) s (fun t =>
         (t.seq p).outstanding = (s.seq p).outstanding.eraseIdx k ∧ t.hearthRead o.dst o.bytes.length = o.bytes ∧
         SameHearth o.dst o.bytes.length s t ∧ (o.fp = false → (t.seq p).fsr = (s.seq p).fsr ∧ (t.seq p).sst = o.sst.getD (s.seq p).sst) ∧
         (o.fp = true → (t.seq p).sst = (s.seq p).sst ∧ getField (t.seq p).fsr 20 16 = getField (s.seq p).fsr 20 16 ||| o.exc.toNat ∧
           (∀ c, o.cc = some c → getField (t.seq p).fsr 27 24 = c.toNat))))) ∧
  (∀ (p : SeqId) (s : State) (i : SeqInstr), s.ready p = true → s.nextInstr p = some i → s.fpuBusy p = false → s.trapPending p = false →
       (∀ h, i.mn = .fstr → s.calm = true → s.specAddr p i.d 8 false % 8 = 0 → s.dest p 24 (s.specAddr p i.d 8 false) = .ok h →
         Runs (.fstr p) s (fun t => t.hearthRead h 24 =
           leBytes 8 (s.seq p).fsr.toNat ++ leBytes 8 (s.seq p).tra.toNat ++ leBytes 8 (s.seq p).trb.toNat ∧ SameHearth h 24 s t ∧
           (t.seq p).fsr = (s.seq p).fsr)) ∧
       (∀ v, i.mn = .fstw → s.fetch p 8 (s.source p i.a 8 8) = .ok v → fsrLegal v = true →
         Runs (.fstw p) s (fun t => (t.seq p).fsr = BitVec.ofNat 64 (v &&& 0x0F1F1F1F) ∧ t.hearth = s.hearth ∧ (t.seq p).sst = (s.seq p).sst)))

/-- TAS, LR and SC at their turn on an aligned word (R177): TAS returns the word and leaves it with bit 0 set; LR returns it and sets the
reservation on its 64-byte granule; SC writes and returns 0 only where a valid reservation covers the word, returns 1 otherwise, and
leaves no reservation. A write to the granule of a reservation, by any agent and whatever its value, ends the reservation; a write that
touches no byte of the granule leaves it (R178). Where a write of a sequencer and one of the system port next to it, of which a word is common,
fall in one cycle, the system port's is repeated after it and stands, the sequencer's SEQ_COLL counts the collision, and event 0x0AC + p is raised
(R179); which of them do is free (log entry 40). -/
def Obligations.AtomicsFollowReservation : Prop :=
  (∀ (p : SeqId) (s : State) (i : SeqInstr) (v m d : Nat), s.ready p = true → s.calm = true → s.nextInstr p = some i →
       s.wordAddr p i.a % 8 = 0 → s.fetch p 8 (.bytes (s.wordAddr p i.a)) = .ok v → s.dest p 8 (s.wordAddr p i.a) = .ok m →
       s.dest p 8 (s.wordAddr p i.d) = .ok d →
       (i.mn = .tas → Runs (.tas p) s (fun t => t.hearthRead m 8 = leBytes 8 (v ||| 1) ∧
         (d + 8 ≤ m ∨ m + 8 ≤ d → t.hearthRead d 8 = leBytes 8 v) ∧
         ∀ a, (a < m ∨ m + 8 ≤ a) → (a < d ∨ d + 8 ≤ a) → SMap.get 0 t.hearth a = SMap.get 0 s.hearth a)) ∧
       (i.mn = .lr → (s.seq p).haltReq = false → (s.seq p).stopReq = false → Runs (.lr p) s (fun t => t.hearthRead d 8 = leBytes 8 v ∧ SameHearth d 8 s t ∧
         t.get (Reg.SEQ_RSV_VALID p) = 1 ∧ t.get (Reg.SEQ_STATE_RSVV p) = 1 ∧
         t.get (Reg.SEQ_RSV_GRAN p) = s.wordAddr p i.a / 64 % 2 ^ ((Reg.SEQ_RSV_GRAN p).hi + 1 - (Reg.SEQ_RSV_GRAN p).lo))) ∧
       (∀ x, i.mn = .sc → s.fetch p 8 (s.source p i.b 8 8) = .ok x →
         let ok := s.flag (Reg.SEQ_RSV_VALID p) && decide (s.get (Reg.SEQ_RSV_GRAN p) = s.wordAddr p i.a / 64)
         Runs (.sc p) s (fun t => t.get (Reg.SEQ_RSV_VALID p) = 0 ∧ t.hearthRead d 8 = leBytes 8 (if ok then 0 else 1) ∧
           (ok = true → (d + 8 ≤ m ∨ m + 8 ≤ d) → t.hearthRead m 8 = leBytes 8 x) ∧ (ok = false → SameHearth d 8 s t)))) ∧
  (∀ (s : State) (q : SeqId) (a : Nat) (bs : List Byte), bs ≠ [] →
       ((∃ x, a ≤ x ∧ x < a + bs.length ∧ x / 64 = s.rsvAt q) → (s.hearthWrite a bs).get (Reg.SEQ_RSV_VALID q) = 0) ∧
       ((∀ x, a ≤ x → x < a + bs.length → x / 64 ≠ s.rsvAt q) →
         (s.hearthWrite a bs).get (Reg.SEQ_RSV_VALID q) = s.get (Reg.SEQ_RSV_VALID q))) ∧
  (∀ (s : State) (p : SeqId) (a b : Nat) (bs cs : List Byte),
       let one := s.oneCycle && PortWrite.meets ⟨some p.val, a, bs⟩ ⟨none, b, cs⟩
       let counted (t : State) : Prop := t.get (Reg.SEQ_COLL_COUNT p) = min (s.get (Reg.SEQ_COLL_COUNT p) + 1) 0xFFFF ∧ t.flag (pendBit (0x0AC + p)) = true
       let mute (t : State) : Prop := t.get (Reg.SEQ_COLL_COUNT p) = s.get (Reg.SEQ_COLL_COUNT p) ∧
         t.flag (pendBit (0x0AC + p)) = s.flag (pendBit (0x0AC + p))
       (s.lastPort = some ⟨some p.val, a, bs⟩ → let t := s.hearthWrite b cs
         t.hearth = writeBytes s.hearth b cs ∧ if one then counted t else mute t) ∧
       (s.lastPort = some ⟨none, b, cs⟩ → let t := s.seqPut p a bs
         if one then t.hearth = writeBytes (writeBytes s.hearth a bs) b cs ∧ counted t else t.hearth = writeBytes s.hearth a bs ∧ mute t))

/-- Control at its turn, no stop or halt requested (R168, R169, R173, R174, R201): NOP and FBAR on an idle FPU only move on; B jumps by its
displacement where its condition holds and moves on otherwise; CALL pushes the return address at P15 - 8 and jumps; RET pops it; REP makes
its target repeat, and REP 0 skips it. -/
def Obligations.ControlInstructionsMoveThePc : Prop :=
  ∀ (p : SeqId) (s : State) (i : SeqInstr), s.canRun p = true → s.nextInstr p = some i → (s.seq p).haltReq = false → (s.seq p).stopReq = false →
    (i.mn = .nop → exec (.nop p) s = .next (s.retire p (s.execAt p) i.size none) ∧
      (s.plainEnd p = true → s.repActive p = false → exec (.nop p) s = .next (s.setPc p (s.pc p + i.size)))) ∧
    (i.mn = .fbar → s.fpuBusy p = false → s.trapPending p = false → exec (.fbar p) s = .next (s.retire p (s.execAt p) i.size none)) ∧
    (i.mn = .b → s.plainEnd p = true → s.repActive p = false → s.branchReady p i.num = true →
      let taken := branchTaken i.num (s.seq p).sst (s.flag (Reg.SEQ_STATE_FLC p)) (getField (s.seq p).fsr 27 24)
      (taken = true → 0 ≤ (s.pc p : Int) + i.disp → (s.pc p : Int) + i.disp < 0x100000 →
        exec (.b p) s = .next (s.setPc p ((s.pc p : Int) + i.disp).toNat)) ∧
      (taken = false → exec (.b p) s = .next (s.setPc p (s.pc p + i.size)))) ∧
    (∀ h, i.mn = .call → s.calm = true → s.plainEnd p = true → s.repActive p = false → 0 ≤ (s.pc p : Int) + i.disp → (s.pc p : Int) + i.disp < 0x100000 →
      s.ptr p 15 % 8 = 0 → s.dest p 8 (encodeInt ((s.ptr p 15 : Int) - 8) 64) = .ok h →
      Runs (.call p) s (fun t => t.hearthRead h 8 = leBytes 8 (s.pc p + i.size) ∧ SameHearth h 8 s t ∧
        t.ptr p 15 = encodeInt ((s.ptr p 15 : Int) - 8) 64 ∧ t.pc p = ((s.pc p : Int) + i.disp).toNat / 4 * 4)) ∧
    (∀ v, i.mn = .ret → s.plainEnd p = true → s.repActive p = false → s.ptr p 15 % 8 = 0 → s.fetch p 8 (.bytes (s.ptr p 15)) = .ok v →
      v < 0x100000 →
      Runs (.ret p) s (fun t => t.ptr p 15 = (s.ptr p 15 + 8) % 2 ^ 64 ∧ t.pc p = v / 4 * 4 ∧ t.hearth = s.hearth)) ∧
    (∀ n, i.mn = .rep → s.repActive p = false → (if i.src then s.fetch p 8 (s.source p i.a 8 8) else .ok i.num) = .ok n → n < 2 ^ 32 →
      repBars (s.unitAt p (s.pc p + 4)) = false →
      (0 < n → Runs (.rep p) s (fun t => t.hearth = s.hearth ∧ t.repActive p = true ∧ t.get (Reg.SEQ_REPCNT_COUNT p) = n ∧
        t.flag (Reg.SEQ_STATE_REPI p) = i.flag ∧ t.pc p = s.pc p)) ∧
      (n = 0 → s.plainEnd p = true → Runs (.rep p) s (fun t => t.hearth = s.hearth ∧ t.repActive p = false ∧
        t.pc p = (s.pc p + 4 + sizeAt (s.unitAt p) (s.pc p + 4)) / 4 % 2 ^ 18 * 4)))

/-- Interrupts (R176, R329, R203): an interrupt taken at a boundary, or a trap with its handler, pushes the 32-byte frame at P15 - 32, clears
IEN, ends the REP, and jumps to SEQ_IVEC.VEC; a trap that is pending when an uninterruptible REP ends is delivered there, before another
instruction (R201); IRET restores PC, SST, FLC, the REP state and IEN from the frame it pops. -/
def Obligations.InterruptEntryAndReturn : Prop :=
  (∀ (p : SeqId) (s : State) (h : Nat), s.calm = true → s.interruptible p = true → s.flag (Reg.SEQ_IVEC_IEN p) = true → s.irqPending p = true →
    s.trapPending p = false → s.ptr p 15 % 8 = 0 → hearthAt p (encodeInt ((s.ptr p 15 : Int) - 32) 64) 32 = some h →
    Runs (.interruptEntry p) s (fun t => t.hearthRead h 32 = s.frame p 0 ∧ SameHearth h 32 s t ∧
      t.ptr p 15 = encodeInt ((s.ptr p 15 : Int) - 32) 64 ∧ t.get (Reg.SEQ_IVEC_IEN p) = 0 ∧ t.get (Reg.SEQ_STATE_STATE p) = seqRunning ∧
      t.get (Reg.SEQ_STATE_REPACT p) = 0 ∧ t.pc p = 4 * s.get (Reg.SEQ_IVEC_VEC p) ∧ t.peMem = s.peMem ∧ t.parts = s.parts)) ∧
  (∀ (p : SeqId) (s : State) (h : Nat), s.calm = true → s.trapPending p = true → s.get (Reg.SEQ_STATE_STATE p) = seqRunning → s.trapBoundary p = true →
    getField (s.seq p).fsr 4 4 = 1 → s.flag (Reg.SEQ_IVEC_IEN p) = true → s.ptr p 15 % 8 = 0 →
    hearthAt p (encodeInt ((s.ptr p 15 : Int) - 32) 64) 32 = some h →
    Runs (.trapDelivery p) s (fun t => t.hearthRead h 32 = s.frame p (6 + 256 * getField (s.seq p).tra 28 24) ∧
      t.trapPending p = false ∧ t.get (Reg.SEQ_IVEC_IEN p) = 0 ∧ t.pc p = 4 * s.get (Reg.SEQ_IVEC_VEC p))) ∧
  (∀ (p : SeqId) (s : State) (i : SeqInstr) (h : Nat), s.calm = true → s.canRun p = true → s.nextInstr p = some i → i.mn = .nop → (s.seq p).expander = none →
    s.repActive p = true → s.flag (Reg.SEQ_STATE_REPI p) = false → s.get (Reg.SEQ_REPCNT_COUNT p) ≤ 1 → s.trapPending p = true →
    getField (s.seq p).fsr 4 4 = 1 → s.flag (Reg.SEQ_IVEC_IEN p) = true → s.ptr p 15 % 8 = 0 →
    hearthAt p (encodeInt ((s.ptr p 15 : Int) - 32) 64) 32 = some h →
    Runs (.nop p) s (fun t => t.trapPending p = false ∧ t.repActive p = false ∧ t.get (Reg.SEQ_IVEC_IEN p) = 0 ∧
      t.pc p = 4 * s.get (Reg.SEQ_IVEC_VEC p) ∧ SameHearth h 32 s t)) ∧
  (∀ (p : SeqId) (s : State) (i : SeqInstr) (w0 w1 w2 w3 : Nat), s.canRun p = true → s.nextInstr p = some i → i.mn = .iret →
    (s.seq p).haltReq = false → (s.seq p).stopReq = false → s.ptr p 15 % 8 = 0 → s.sstBusy p = false → s.flcBusy p = false →
    s.fetch p 8 (.bytes (s.ptr p 15)) = .ok w0 → s.fetch p 8 (.bytes (s.ptr p 15 + 8)) = .ok w1 →
    s.fetch p 8 (.bytes (s.ptr p 15 + 16)) = .ok w2 → s.fetch p 8 (.bytes (s.ptr p 15 + 24)) = .ok w3 → w0 < 0x100000 →
    Runs (.iret p) s (fun t => t.pc p = w0 / 4 * 4 ∧ (t.seq p).sst = Sst.ofBits w1 ∧ t.get (Reg.SEQ_STATE_FLC p) = bnat (w1.testBit 4) ∧
      t.get (Reg.SEQ_STATE_REPACT p) = bitAt w1 8 ∧ t.get (Reg.SEQ_STATE_REPI p) = bitAt w1 9 ∧
      t.get (Reg.SEQ_REPCNT_COUNT p) = w2 % 2 ^ 32 ∧ t.get (Reg.SEQ_IVEC_IEN p) = 1 ∧
      t.ptr p 15 = (s.ptr p 15 + 32) % 2 ^ 64 ∧ t.hearth = s.hearth))

/-- WAIT n consumes a set wait flag and moves on, or waits in state Waiting; when the flag it waits for is set, WAIT_FLAG_SATISFIED clears it
and the sequencer continues after its WAIT (R327). SIG n raises source 0x200 + n (R328). JOBS opens a job: it records the partition's next
step number and clears the violation record; JOBE, once the bursts have drained and the completion ring has room, posts the completion
with the job's token and the contract bit, closes the job and frees the oldest mailbox slot (R182, R320, R321). -/
def Obligations.WaitSignalAndJobs : Prop :=
  ((∀ (p : SeqId) (s : State) (i : SeqInstr), s.canRun p = true → s.nextInstr p = some i → i.mn = .wait → (s.seq p).haltReq = false →
       (s.seq p).stopReq = false →
       (s.flag (waitFlag p i.num) = true → i.num < 256 → s.plainEnd p = true → Runs (.wait p) s (fun t => t.flag (waitFlag p i.num) = false ∧
         t.get (Reg.SEQ_STATE_STATE p) = seqRunning ∧ t.hearth = s.hearth)) ∧
       (s.flag (waitFlag p i.num) = false → Runs (.wait p) s (fun t => t.get (Reg.SEQ_STATE_STATE p) = seqWaiting ∧
         (t.seq p).waiting = some i.num ∧ t.pc p = s.pc p ∧ t.hearth = s.hearth))) ∧
     (∀ (p : SeqId) (s : State) (n : Nat), n < 256 → (s.seq p).waiting = some n → s.get (Reg.SEQ_STATE_STATE p) = seqWaiting →
       s.flag (waitFlag p n) = true → (s.seq p).haltReq = false → (s.seq p).stopReq = false →
       Runs (.waitFlagSatisfied p) s (fun t => t.flag (waitFlag p n) = false ∧ (t.seq p).waiting = none ∧
         t.get (Reg.SEQ_STATE_STATE p) = seqRunning ∧ t.pc p = (s.pc p + 4) % 0x100000 ∧ t.hearth = s.hearth)) ∧
     (∀ (p : SeqId) (s : State) (i : SeqInstr), s.ready p = true → s.nextInstr p = some i → i.mn = .sig → i.num < 256 →
       Runs (.sig p) s (fun t => t.flag (pendBit (0x200 + i.num)) = true ∧ t.get (Reg.RST_RECSTAT_NORB p) = 1 ∧ t.hearth = s.hearth))) ∧
  ((∀ (p : SeqId) (s : State) (i : SeqInstr), s.ready p = true → s.nextInstr p = some i → i.mn = .jobs →
       Runs (.jobs p) s (fun t => (t.seq p).job = some ⟨0, 0, false⟩ ∧
         t.get (Reg.SEQ_JOBSTEP_STEP p) = s.get (Reg.SEQ_NEXTSTEP_STEP p) ∧ t.get (Reg.SEQ_VIOL_VALID p) = 0 ∧
         t.get (Reg.SEQ_VIOLSTEP_STEP p) = 0 ∧ t.hearth = s.hearth ∧ t.parts = s.parts)) ∧
     (∀ (p : SeqId) (s : State) (i : SeqInstr) (token : Nat), s.ready p = true → s.nextInstr p = some i → i.mn = .jobe →
       s.fetch p 8 (s.source p i.a 8 8) = .ok token → (s.part p).drained = true → (s.ring p).ready = true → s.ringFull p = false →
       (s.ring p).held = [] →
       Runs (.jobe p) s (fun t => (t.seq p).job = none ∧ (t.ring p).slots = (s.ring p).slots.tail ∧ t.get (Reg.RST_RECSTAT_NORB p) = 1 ∧
         s.out ++ [.hostWrite ((s.ring p).cbase + (if s.hiv2 then 16 else 32) * s.get (Reg.HST_CTAIL_TAIL p))
           ((s.jobCompletion p token).bytes p (s.flag (Reg.HST_CTAIL_PHASE p)) s.hiv2) false] <+: t.out ∧
         t.get (Reg.HST_CTAIL_TAIL p) = (s.get (Reg.HST_CTAIL_TAIL p) + 1) % 2 ^ (s.ring p).rsize % 2 ^ 16 ∧ t.hearth = s.hearth)) ∧
     (∀ (p : SeqId) (s : State) (token : Nat) (j : Job), (s.seq p).job = some j →
       (s.jobCompletion p token).contract = !j.broken ∧ (s.jobCompletion p token).token = BitVec.ofNat 64 token ∧
       (s.jobCompletion p token).first = BitVec.ofNat 64 (s.get (Reg.SEQ_JOBSTEP_STEP p))))

/-- Pointers and lengths at their turn (R162-R164, R168): LDP and STP move address and descriptor together, PSET and PADD change the address
alone, SNUM stores the next step number, SETL and SETLM set FLA and FLB, and no other pointer changes but those that the specifiers
update. PADD adds to what its own specifier's update left (R161); that a PSET wins over it is the model's reading (log entry 44). -/
def Obligations.PointersAndLengths : Prop :=
  ∀ (p : SeqId) (s : State) (i : SeqInstr), s.ready p = true → s.nextInstr p = some i → i.num < 16 →
    let only (u t : State) : Prop := ∀ j, j < 16 → j ≠ i.num → t.ptr p j = u.ptr p j
    let all (u t : State) : Prop := ∀ j, j < 16 → t.ptr p j = u.ptr p j
    (∀ v w, i.mn = .ldp → s.specAddr p i.a 8 false % 8 = 0 → s.fetch p 8 (.bytes (s.specAddr p i.a 8 false)) = .ok v →
      s.fetch p 8 (.bytes (s.specAddr p i.a 8 false + 8)) = .ok w → w < 2 ^ 61 → bitsOf w 60 56 ≤ 24 → v < 2 ^ 64 →
      Runs (.ldp p) s (fun t => t.ptr p i.num = v ∧ t.pdesc p i.num = w ∧ t.hearth = s.hearth ∧ only (s.specStep p i.a 8) t)) ∧
    (∀ h, i.mn = .stp → s.calm = true → s.specAddr p i.a 8 false % 8 = 0 → s.dest p 16 (s.specAddr p i.a 8 false) = .ok h →
      Runs (.stp p) s (fun t => t.hearthRead h 16 = leBytes 8 (s.ptr p i.num) ++ leBytes 8 (s.pdesc p i.num) ∧ SameHearth h 16 s t ∧
        all (s.specStep p i.a 8) t)) ∧
    (∀ v, i.mn = .pset → s.fetch p 8 (s.source p i.a 8 8) = .ok v → v < 2 ^ 64 →
      Runs (.pset p) s (fun t => t.ptr p i.num = v ∧ t.pdesc p i.num = s.pdesc p i.num ∧ t.hearth = s.hearth ∧ only (s.specStep p i.a 8) t)) ∧
    (∀ v, i.mn = .padd → s.fetch p 8 (s.source p i.a 8 8) = .ok v →
      Runs (.padd p) s (fun t => t.ptr p i.num = ((s.specStep p i.a 8).ptr p i.num + v) % 2 ^ 64 ∧ t.pdesc p i.num = s.pdesc p i.num ∧
        t.hearth = s.hearth ∧ only (s.specStep p i.a 8) t)) ∧
    (∀ h, i.mn = .snum → s.calm = true → s.dest p 8 (s.specAddr p i.d 8 false) = .ok h →
      Runs (.snum p) s (fun t => t.hearthRead h 8 = leBytes 8 (s.get (Reg.SEQ_NEXTSTEP_STEP p)) ∧ SameHearth h 8 s t ∧ all (s.specStep p i.d 8) t)) ∧
    (∀ a b, i.mn = .setl → i.d = .abs a → i.a = .abs b → a ≤ 8192 → b ≤ 8192 →
      Runs (.setl p) s (fun t => t.get (Reg.SEQ_LEN_FLA p) = a ∧ t.get (Reg.SEQ_LEN_FLB p) = b ∧ t.hearth = s.hearth ∧ all s t)) ∧
    (∀ a b, i.mn = .setlm → s.fetch p 8 (s.source p i.a 8 i.sz) = .ok a → s.fetch p 8 (s.source p i.b 8 i.sz) = .ok b → a ≤ 8192 → b ≤ 8192 →
      Runs (.setlm p) s (fun t => t.get (Reg.SEQ_LEN_FLA p) = a ∧ t.get (Reg.SEQ_LEN_FLB p) = b ∧ t.hearth = s.hearth ∧
        all (s.specSteps p [(i.a, i.sz), (i.b, i.sz)]) t))

/-- Starting and stopping (R172, R175, R183): HALT stops with no fault recorded; START moves a Stopped sequencer that boot has not disabled to
Running at SEQ_ENTRY and is ignored in any other state, or while a reset holds it (R390); STOP at a boundary stops; CLRF returns a Faulted sequencer to Stopped, except
after EXPANDER. A sequencer fault stops the sequencer at the faulting instruction: SEQ_FAULT and SEQ_FAULTPC record it, the sequencer's
event is raised, an open job is reported failed and closed, and no memory and no array state changes (R172). Units that decode to nothing
fault with ILLEGAL; a burst refused before faults the sequencer with EXPANDER at the boundary after its instruction (R30). -/
def Obligations.SequencersStartStopAndFault : Prop :=
  ((∀ (p : SeqId) (s : State) (i : SeqInstr), s.canRun p = true → s.nextInstr p = some i → i.mn = .halt → (s.seq p).haltReq = false →
       bitAt (s.get Reg.DBG_HALT_HALTED) p = 0 →
       Runs (.halt p) s (fun t => t.get (Reg.SEQ_STATE_STATE p) = seqStopped ∧ t.get (Reg.SEQ_FAULT_VALID p) = s.get (Reg.SEQ_FAULT_VALID p) ∧
         t = { s with regs := t.regs } ∧ SameRegs [(Reg.SEQ_STATE_STATE p).off, (Reg.SEQ_PC_PC p).off] s t)) ∧
     (∀ (p : SeqId) (s : State), s.get (Reg.SEQ_STATE_STATE p) = seqStopped → (s.seq p).disabled = false → s.inReset p = false →
       Runs (.start p) s (fun t => t.get (Reg.SEQ_STATE_STATE p) = seqRunning ∧ t.pc p = 4 * s.get (Reg.SEQ_ENTRY_ENTRY p) ∧
         t.repActive p = false ∧ t = { s with regs := t.regs, seqs := t.seqs } ∧
         SameRegs [(Reg.SEQ_STATE_STATE p).off, (Reg.SEQ_PC_PC p).off] s t)) ∧
     (∀ (p : SeqId) (s : State), s.get (Reg.SEQ_STATE_STATE p) ≠ seqStopped ∨ (s.seq p).disabled = true ∨ s.inReset p = true → exec (.start p) s = .next s) ∧
     (∀ (p : SeqId) (s : State), s.get (Reg.SEQ_STATE_STATE p) = seqRunning ∨ s.get (Reg.SEQ_STATE_STATE p) = seqWaiting →
       s.atBoundary p = true → (s.seq p).haltReq = false →
       Runs (.stop p) s (fun t => t.get (Reg.SEQ_STATE_STATE p) = seqStopped ∧ t = { s with regs := t.regs, seqs := t.seqs } ∧
         SameRegs [(Reg.SEQ_STATE_STATE p).off] s t)) ∧
     (∀ (p : SeqId) (s : State), s.get (Reg.SEQ_STATE_STATE p) = seqFaulted →
       (s.get (Reg.SEQ_FAULT_CODE p) ≠ 0x07 → Runs (.clrf p) s (fun t => t.get (Reg.SEQ_STATE_STATE p) = seqStopped ∧
         t.get (Reg.SEQ_FAULT_VALID p) = 0 ∧ t = { s with regs := t.regs })) ∧
       (s.get (Reg.SEQ_FAULT_CODE p) = 0x07 → exec (.clrf p) s = .next s))) ∧
  ((∀ (s : State) (p : SeqId) (code reason aop pc : Nat), code < 256 → reason < 8 → (s.seq p).haltReq = false →
       bitAt (s.get Reg.DBG_HALT_HALTED) p = 0 →
       let t := s.seqFault p code reason aop pc
       t.get (Reg.SEQ_STATE_STATE p) = seqFaulted ∧ t.get (Reg.SEQ_FAULT_VALID p) = 1 ∧ t.get (Reg.SEQ_FAULT_CODE p) = code ∧
       t.get (Reg.SEQ_FAULT_REASON p) = reason ∧ t.get (Reg.SEQ_FAULTPC_PC p) = pc / 4 % 2 ^ 18 ∧
       t.flag (pendBit (0x0A0 + p.val)) = true ∧ (t.seq p).job = none ∧ t.hearth = s.hearth ∧ t.peMem = s.peMem ∧ t.pes = s.pes ∧
       t.parts = s.parts ∧ t.hbm = s.hbm ∧ t.imem = s.imem) ∧
     (∀ (s : State) (p : SeqId), s.canRun p = true → s.nextInstr p = none →
       exec (.nop p) s = .next (s.seqFault p 0x01 0 (s.aopAt p (s.execAt p)) (s.execAt p))) ∧
     (∀ (s : State) (p : SeqId) (i : SeqInstr) (aop : Nat), s.canRun p = true → s.nextInstr p = some i → i.mn = .nop →
       (s.seq p).expander = some aop → s.repActive p = false → Runs (.nop p) s (fun t => t.get (Reg.SEQ_FAULT_CODE p) = 0x07 ∧
         t.get (Reg.SEQ_FAULT_VALID p) = 1 ∧ t.get (Reg.SEQ_FAULTPC_PC p) = (s.pc p + i.size) / 4 % 2 ^ 18 ∧ (t.seq p).expander = none ∧
         t.hearth = s.hearth ∧ t.parts = s.parts)))

/-- The address of an operand and the update of its pointer, in 64-bit arithmetic (R160): each mode names its address from the pointer and its
descriptor, a field address is taken modulo 8,192, PRE, POST, MOD and REV alone move their pointer, and no other pointer moves. -/
def Obligations.OperandAddressesFollowTheirModes : Prop :=
  ∀ (s : State) (q : SeqId) (i j size : Nat) (d : Int), i < 16 → j < 16 →
    let p : Int := s.ptr q i
    let mb := bitsOf (s.pdesc q i) 31 0
    let ml := bitsOf (s.pdesc q i) 55 32
    let brw := bitsOf (s.pdesc q i) 60 56
    let lo := s.ptr q i % 2 ^ brw
    let same (sp : Spec) : Prop := s.specStep q sp size = s
    let moves (sp : Spec) (P : Nat → Prop) : Prop := P ((s.specStep q sp size).ptr q i) ∧ s.specStep q sp size = { s with regs := (s.specStep q sp size).regs } ∧
      SameRegs [(Reg.SEQ_PADDR_VALUE q i).off] s (s.specStep q sp size)
    (∀ n, s.specAddr q (.abs n) size false = 8 * n % 2 ^ 64 ∧ s.specAddr q (.abs n) size true = n % 8192 ∧ same (.abs n)) ∧
    s.specAddr q (.ind i d) size false = encodeInt (p + d * size) 64 ∧ same (.ind i d) ∧
    s.specAddr q (.idx i j) size false = (s.ptr q i + s.ptr q j * size) % 2 ^ 64 ∧ same (.idx i j) ∧
    s.specAddr q (.pre i d) size false = encodeInt (p + d * size) 64 ∧ moves (.pre i d) (fun v => v = s.specAddr q (.pre i d) size false) ∧
    s.specAddr q (.post i d) size false = s.ptr q i ∧ moves (.post i d) (fun v => v = encodeInt (p + d * size) 64) ∧
    s.specAddr q (.modu i d) size false = s.ptr q i ∧ moves (.modu i d) (fun v => (ml = 0 → v = encodeInt (p + d * size) 64) ∧
      (ml ≠ 0 → mb ≤ v ∧ v < mb + ml ∧ ((v : Int) - mb - signedOf (encodeInt (p + d * size - mb) 64) 64) % ml = 0)) ∧
    s.specAddr q (.rev i d) size false = (mb + (natOfBits brw (fun t => lo.testBit (brw - 1 - t)) + s.ptr q i - lo) * size) % 2 ^ 64 ∧
    moves (.rev i d) (fun v => v = encodeInt (p + d) 64) ∧
    ∀ sp : Spec, (∀ n, sp ≠ .abs n) → s.specAddr q sp size true = s.specAddr q sp size false % 8192

/-- A step microword of a microroutine under way issues its bursts, `count` step numbers in all and none of a burst above 8,192, the first to the
issue stage and the others as it takes them; the routine goes on: after the word, at the body of its loop while passes remain, at the loop's
continuation after the last, and not at all after the routine's last word (R207-R209). It waits until the issue stage has taken the bursts before
(R29). A valid match register takes the fetch into patch memory, where the routine goes on (R213). Once array service has stopped the bursts are
discarded (R30). -/
def Obligations.StepMicrowordIssuesItsCount : Prop :=
  ∀ (p : SeqId) (s : State) (u : Micro), (s.seq p).micro = some u → s.get (Reg.SEQ_STATE_STATE p) = seqRunning →
    (u.again = true ∨ s.issueHeld p = false) → s.stepsHeld p = false → u.ends = false →
    let a := s.fetchAddr p u.uaddr
    let w := s.microword p a
    bitAt w 31 = 0 →
    let n := u.count (s.macroMn p u.disp) (bitsOf w 15 12)
    ((s.part p).issue ≠ [] ∨ u.todo ≠ [] → exec (.stepMicroword p) s = .next s) ∧
    ((s.part p).issue = [] → u.todo = [] → Runs (.stepMicroword p) s (fun t => ∃ bs,
      (bs.map (·.count)).sum = n ∧ bs.length = cdiv n 8192 ∧ (∀ b ∈ bs, 0 < b.count ∧ b.count ≤ 8192 ∧ b.mfirst = u.first) ∧
      let go := if (s.part p).stopped then [] else bs
      (t.part p).issue = go.take 1 ∧
      t.get (Reg.SEQ_NEXTSTEP_STEP p) = (s.get (Reg.SEQ_NEXTSTEP_STEP p) + ((go.take 1).map (s.burstSteps p)).sum) % 2 ^ 64 ∧
      t.peMem = s.peMem ∧ t.pes = s.pes ∧ (bitAt w 30 = 0 ∨ s.plainEnd p = true → t.hearth = s.hearth) ∧ (t.part p).step = (s.part p).step ∧
      (bitAt w 30 = 0 → bitAt w 29 = 0 → ∃ v, (t.seq p).micro = some v ∧ v.uaddr = a + 1 ∧ v.loops = u.loops ∧ v.todo = go.drop 1) ∧
      (∀ l ls, bitAt w 30 = 0 → bitAt w 29 = 1 → u.loops = l :: ls → ∃ v, (t.seq p).micro = some v ∧ v.todo = go.drop 1 ∧
        (l.left ≤ 1 → v.uaddr = l.target ∧ v.loops = ls) ∧
        (1 < l.left → v.uaddr = l.body ∧ v.loops = ⟨l.left - 1, l.body, l.target, l.passes + 1⟩ :: ls)) ∧
      (bitAt w 30 = 1 → go.drop 1 = [] → (t.seq p).micro = none) ∧
      (bitAt w 30 = 1 → go.drop 1 ≠ [] → ∃ v, (t.seq p).micro = some v ∧ v.ends = true ∧ v.todo = go.drop 1)))

/-- An array instruction whose AOP a dispatch record of the patch defines, be the AOP in the table of R170 or not, or whose routine a match register
redirects at its first word, begins its microroutine at the entry of its dispatch record, its counters at its fields, and opens a
macro-instruction at the partition's next step number (R205, R206, R213, R216); one of the table of R170 that takes no step issues none (R64, R93,
R100). The control microwords of a microroutine under way change its own
state alone (R209): LOOP opens a level or skips a body of no passes, JUMP goes to its target, BFT, BFF and BPT branch on FLC and on a parameter, the
call saves the next microaddress and the return takes it up. -/
def Obligations.ControlMicrowordsSequenceTheRoutine : Prop :=
  (∀ e ∈ (.newAop, .newAop) :: (.idle, .idle) :: arrayCommands, ∀ (p : SeqId) (s : State) (i : SeqInstr) (D : Dispatch),
       s.canRun p = true → s.nextInstr p = some i → i.mn = e.1 → s.patchedAop p i.aop = true → s.dispatch p (s.role p i) i = .ok D →
       (s.noSteps p (s.role p i) D = true → s.plainEnd p = true → Runs (e.2 p) s (fun t => (t.seq p).micro = none ∧
         t.part p = { s.part p with results := (s.part p).results ++ s.stepless p (s.role p i) D } ∧ t.peMem = s.peMem ∧ t.pes = s.pes ∧
         t.hearth = s.hearth)) ∧
       (s.noSteps p (s.role p i) D = false → Runs (e.2 p) s (fun t => ∃ u, (t.seq p).micro = some u ∧ u.disp = D ∧ u.uaddr = bitsOf (s.dispatchEntry p i.aop).toNat 14 0 ∧
         u.fa = D.x ∧ u.fb = D.y ∧ u.fd = D.d ∧ u.loops = [] ∧ u.saved = none ∧ u.first = s.get (Reg.SEQ_NEXTSTEP_STEP p) ∧
         t.pc p = s.pc p ∧ (t.part p).opened = (s.part p).opened ++ [⟨D, u.first, u.first, s.pes, slotParity s.pes⟩] ∧
         t = { s with seqs := t.seqs, parts := t.parts }))) ∧
  (∀ (p : SeqId) (s : State) (u : Micro), (s.seq p).micro = some u → s.get (Reg.SEQ_STATE_STATE p) = seqRunning →
       (u.again = true ∨ s.issueHeld p = false) → s.stepsHeld p = false → (s.part p).issue = [] → u.todo = [] → u.ends = false →
       let a := s.fetchAddr p u.uaddr
       let w := s.microword p a
       let goes (c : Instr) (v : Micro) : Prop := exec c s = .next (s.setSeq p { s.seq p with micro := some v })
       let onTo (taken : Bool) : Micro := { u with uaddr := if taken then microTarget w else a + 1 }
       (isControl 0 w = true → let n := u.count (s.macroMn p u.disp) (bitsOf w 27 24)
         (n = 0 → goes (.loop p) (onTo true)) ∧
         (n ≠ 0 → goes (.loop p) { u with uaddr := a + 1, loops := ⟨n, a + 1, microTarget w, 0⟩ :: u.loops })) ∧
       (isControl 1 w = true → goes (.jump p) (onTo true)) ∧
       (isControl 2 w = true → s.flcBusy p = false → goes (.bft p) (onTo (s.flag (Reg.SEQ_STATE_FLC p)))) ∧
       (isControl 3 w = true → s.flcBusy p = false → goes (.bff p) (onTo (!s.flag (Reg.SEQ_STATE_FLC p)))) ∧
       (isControl 4 w = true → goes (.bpt p) (onTo (u.param (s.returnForm p u.disp) (bitsOf w 27 24)))) ∧
       (isControl 5 w = true → goes (.microCall p) { u with saved := some (a + 1), uaddr := microTarget w }) ∧
       (∀ b, isControl 6 w = true → u.saved = some b → goes (.microRet p) { u with saved := none, uaddr := b }) ∧
       (isControl 6 w = true → u.saved = none → Runs (.microRet p) s (fun t => (t.seq p).micro = none ∧ t.peMem = s.peMem ∧
         (s.plainEnd p = true → t.hearth = s.hearth))))

/-- Requests at a tile (R118-R120). READ answers with RDATA, whose flits hold the rows that the T port reads as each of them enters the mesh (R116);
WRITE puts its data into the rows it names and answers with WACK, SDATA does so without an answer, and no other bit of PE memory changes; a data flit
that leaves the mesh at its T port in a beat has its four rows written there and then, and they are not written again (R116). PING and the maintenance
Requests are answered. On its way a packet carries on what else is in the mesh, which changes PE memory and wakes turfs only by flits that T ports take
(R115, R123). A location behind another port, or a maintenance register, reads what was last written there, and is free before (log entry 17). -/
def Obligations.MeshRequestsAtTiles : Prop :=
  (∀ (k : Packet) (s : State), k.data.length ≤ 255 →
    let c := s.carry k none
    let wake := [(Reg.TRF_STATE_STATE (turfOfTile k.tile)).off]
    let left (f : Nat) : Bool := !(c.net.landed.contains ⟨k, f + 1⟩)
    let answered (cmd aux : Nat) (data : List W256) (t : State) : Prop := t.mesh = s.mesh.erase k ++ [s.response k cmd aux data]
    let kept (t : State) : Prop := (∀ i, i < k.data.length → i < 256 → t.keptFlit k i = k.data.getD i 0) ∧
      ∀ q : Packet, (q.tile ≠ k.tile ∨ q.dport ≠ k.dport ∨ q.addr ≠ k.addr) → ∀ i, i < 256 → t.keptFlit q i = s.keptFlit q i
    (s.admits k 0 0x01 = true → k.dport = 4 → Runs (.read k) s (fun t => let blank := List.replicate (k.aux % 256) (0 : W256)
      answered 0x81 0 blank t ∧ ⟨s.response k 0x81 0 blank, k.addr, blank⟩ ∈ t.net.replies ∧
      t = { c with mesh := t.mesh, net := t.net, regs := t.regs } ∧ SameRegs wake c t)) ∧
    (k.dport = 4 → let written (t : State) : Prop := SameRegs wake c t ∧
        (∀ f i, f < k.data.length → i < 4 → left f = true →
          t.readRow k.tile (k.seg (4 * f + i)).2 (k.seg (4 * f + i)).1 = flitSeg (k.data.getD f 0) i) ∧
        ∀ p b, (tileOfPe p ≠ k.tile ∨ ∀ f i, f < k.data.length → i < 4 → left f = true → k.seg (4 * f + i) ≠ (b, p / 2048 % 64)) →
          (t.peMemory p).getLsbD b = (c.peMemory p).getLsbD b
      (s.admits k 0 0x02 = true → Runs (.write k) s (fun t => answered 0x82 0 [] t ∧
        t = { c with mesh := t.mesh, net := t.net, regs := t.regs, peMem := t.peMem, parts := t.parts } ∧ written t)) ∧
      (s.admits k 2 0x40 = true → Runs (.sdata k) s (fun t => t.mesh = s.mesh.erase k ∧
        t = { c with mesh := t.mesh, net := t.net, regs := t.regs, peMem := t.peMem, parts := t.parts } ∧ written t))) ∧
    (s.admits k 0 0x01 = true → k.dport ≠ 4 → Runs (.read k) s (fun t =>
      answered 0x81 0 ((List.range (k.aux % 256)).map (s.keptFlit k)) t ∧ t = { c with mesh := t.mesh, net := t.net, free := t.free })) ∧
    (k.dport ≠ 4 →
      (s.admits k 0 0x02 = true → Runs (.write k) s (fun t => answered 0x82 0 [] t ∧ kept t ∧
        t = { c with mesh := t.mesh, net := t.net, maint := t.maint })) ∧
      (s.admits k 2 0x40 = true → Runs (.sdata k) s (fun t => t.mesh = s.mesh.erase k ∧ kept t ∧
        t = { c with mesh := t.mesh, net := t.net, maint := t.maint }))) ∧
    (s.admits k 3 0xC0 = true → Runs (.ping k) s (fun t => answered 0x82 0 [] t ∧ t = { c with mesh := t.mesh, net := t.net })) ∧
    (s.admits k 3 0xC1 = true → Runs (.mread k) s (fun t => answered 0x81 0 [s.keptFlit k 0] t ∧
      t = { c with mesh := t.mesh, net := t.net, free := t.free })) ∧
    (s.admits k 3 0xC2 = true → Runs (.mwrite k) s (fun t => answered 0x82 0 [] t ∧ kept t ∧
      t = { c with mesh := t.mesh, net := t.net, maint := t.maint, staging := t.staging } ∧
      (s.tagged k = none → t.staging = s.staging) ∧
      ∀ e x, s.tagged k = some (e, x) → k.dport = 4 → k.tile ∈ x.unarmed →
        t.stg e = (s.stg e).map (fun y => if y.slot = x.slot then { x with unarmed := x.unarmed.erase k.tile } else y)))) ∧
  (∀ (s : State) (k : Packet) (good : Option Nat), let c := s.carry k good
    c = { s with mesh := s.mesh.erase k, net := c.net, regs := c.regs, peMem := c.peMem, parts := c.parts } ∧
    SameRegs ((List.range 64).map (fun t => (Reg.TRF_STATE_STATE t).off)) s c) ∧
  (∀ (s : State) (f : MeshFlit), s.net.ejects (fun _ _ => false) = [f] → f.writes = true → s.endpointShut f.pkt = false →
    let t := s.meshBeat none none
    (∀ i, i < 4 → let a := f.pkt.seg (4 * (f.idx - 1) + i)
      t.readRow f.pkt.tile a.2 a.1 = flitSeg (f.pkt.data.getD (f.idx - 1) 0) i) ∧
    (∀ p, tileOfPe p ≠ f.pkt.tile → t.peMemory p = s.peMemory p) ∧ t.net.landed.contains f = true) ∧
  (∀ (n m : Net) (read : Nat → Nat → Nat → W64) (r : Reply) (f : Nat), r ∈ m.replies → f < r.data.length →
    n.waits ⟨r.pkt, f + 1⟩ = true → m.waits ⟨r.pkt, f + 1⟩ = false →
    ∃ q ∈ (n.hear m read).replies, q.pkt = r.pkt ∧ q.addr = r.addr ∧ ∀ i, i < 4 →
      flitSeg (q.data.getD f 0) i = read r.pkt.src (segAt r.addr (4 * f + i)).2 (segAt r.addr (4 * f + i)).1)

/-- Responses reach their requester, whose room they free: a staging engine whose transfer goes on, or at an H port the fabric, with the fields its
gateway entry keeps; an RDATA brings the rows that its T port has read (R116, R119, R125, R231, R353). A Request for a port that does not exist, for an
endpoint that a fence has closed or with an undefined command is answered with ERR 0x02, 0x01 or 0x03, and a poisoned Request or Maintenance packet
with 0x04 and a MESH fault, for the partition it names or, where its header is bad, for that of the router, once the packets before it have arrived
(R119, R124, R132, R133). A reserved flit at a mesh port in the slot of its step goes on to the next
router, which takes it in the next step, or is discarded, counted and reported as a CORDMISS violation where the slot does not name its
partition and port, is not served, or ends at a closed port (R126, R128, R131, R141, R154). -/
def Obligations.MeshResponsesAndReservedFlits : Prop :=
  ((∀ (k : Packet) (s : State),
       (∀ e ∈ [(0x81, Instr.rdata k, s.identify k), (0x82, .wack k, k), (0x8F, .err k, k)], s.admits e.2.2 1 e.1 = true →
         let q := e.2.2
         let c := s.carry q none
         let data := if e.1 = 0x81 then (c.filled q).data else q.data
         let home (t : State) : Prop := t.mesh = s.mesh.erase q ∧ t.net.rooms = c.net.rooms.erase (q.tile, q.dport, q.tag)
         ((∀ n x, s.tagged q = some (n, x) → (q.dport ≠ 5 ∧ q.dport ≠ 6) ∨ x.desc.cord = true ∨ x.desc.dir = 2) →
           q.dport ≠ 7 ∨ SMap.get none s.fabric.entries q.tag = none → Runs e.2.1 s (fun t => home t ∧ t = { c with mesh := t.mesh, net := t.net })) ∧
         (∀ g, q.dport = 7 → SMap.get none s.fabric.entries q.tag = some g → Runs e.2.1 s (fun t => ∃ x : Packet, home t ∧
           t.fabric.arrivals = s.fabric.arrivals ++ [⟨none, false, x⟩] ∧ SMap.get none t.fabric.entries q.tag = none ∧
           x.data = data ∧ x.remote = true ∧ x.dest = g.sfab % 2 ^ 16 ∧ x.dport = g.sport % 8 ∧ x.tag = g.tag % 2 ^ 12 ∧
           x.cls = q.cls ∧ x.cmd = q.cmd ∧ x.len = q.len ∧ bitsOf x.aux 63 48 = g.src % 2 ^ 16 ∧
           t = { c with mesh := t.mesh, net := t.net, fabric := t.fabric })) ∧
         (∀ n x, q.dport = 5 ∨ q.dport = 6 → s.tagged q = some (n, x) → x.desc.cord = false → x.desc.dir ≠ 2 → Runs e.2.1 s (fun t => home t ∧
           t = { c with mesh := t.mesh, net := t.net, staging := t.staging } ∧
           let g := SMap.get 0 x.sent q.src
           let m := min 512 (x.desc.segments - g)
           ∃ y ∈ t.stg n, y.slot = x.slot ∧ y.desc = x.desc ∧ y.failed = (x.failed || decide (e.1 = 0x8F)) ∧
             SMap.get 0 y.sent q.src = g + m ∧
             ∀ i, i < m → i / 4 < data.length → e.1 = 0x81 → x.desc.dir = 1 →
               SMap.get 0 y.got (0x80000 * q.src + g + i) = flitSeg (data.getD (i / 4) 0) (i % 4)))) ∧
       (let c := s.carry k none
        (∀ e ∈ [(0x01, Instr.read k), (0x02, .write k)], k.cls = 0 → k.cmd = e.1 → k.remote = false → s.behind k = false →
         (portExists k.tile k.dport = false → Runs e.2 s (fun t => t.mesh = s.mesh.erase k ++ [s.response k 0x8F 0x02 []] ∧
           t.get Reg.MSH_DROPS_COUNT = min (s.get Reg.MSH_DROPS_COUNT + 1) 0xFFFF ∧ t.flag (pendBit 0x0E1) = true ∧ t.peMem = c.peMem)) ∧
         (portExists k.tile k.dport = true → s.turnsAway k = true → Runs e.2 s (fun t =>
           t.mesh = s.mesh.erase k ++ [s.response k 0x8F 0x01 []] ∧ t = { c with mesh := t.mesh, net := t.net }))) ∧
        (k.cls = 2 → k.cmd = 0x40 → k.remote = false → s.behind k = false → portExists k.tile k.dport = true → s.turnsAway k = true →
         Runs (.sdata k) s (fun t => t.mesh = s.mesh.erase k ∧ t = { c with mesh := t.mesh, net := t.net })) ∧
        (cmdDefined k.cls k.cmd = false → s.admits k k.cls k.cmd = true → Runs (.badcmd k) s (fun t =>
         t.mesh = s.mesh.erase k ++ (if k.cls = 0 ∨ k.cls = 3 then [s.response k 0x8F 0x03 []] else []) ∧
         t.get Reg.MSH_DROPS_COUNT = min (s.get Reg.MSH_DROPS_COUNT + 1) 0xFFFF ∧ t.flag (pendBit 0x0E1) = true ∧ t.peMem = c.peMem ∧
         t.hearth = s.hearth)))) ∧
     (∀ (k0 : Packet) (tile : TileId) (port : Fin 8) (crc header : Bool) (s : State), let k := s.identify k0
       s.poisonedLink k tile port header = none →
       (s.behind k = true → exec (.poisonedFlit k0 tile port crc header) s = .next s) ∧
       (s.behind k = false → let n := s.goodCount k header
         let c := s.useFree.carry k (some n)
         let stores := header = false ∧ s.turnsAway k = false ∧ k.dport = 4 ∧ ((k.cls = 0 ∧ k.cmd = 0x02) ∨ (k.cls = 2 ∧ k.cmd = 0x40))
         Runs (.poisonedFlit k0 tile port crc header) s (fun t =>
         t.flag ⟨Reg.MSH_ERR_DRAIL.off, bnat crc, bnat crc⟩ = true ∧ t.pes = s.pes ∧ t.hearth = s.hearth ∧
         t.mesh = s.mesh.erase k ++ (if k.cls = 0 ∨ k.cls = 3 then [s.response k 0x8F 0x04 []] else []) ∧
         (header = false → t.detected = s.detected ++ [⟨3, Fin.ofNat 4 k.part, none, tile, false⟩]) ∧
         (∀ p, header = true → s.partOfTile tile = some p → t.detected = s.detected ++ [⟨3, Fin.ofNat 4 p, none, tile, true⟩]) ∧
         (header = true → t.flag (pendBit 0x1D4) = true) ∧
         (¬stores → t.peMem = c.peMem) ∧
         (stores → let q := c.filled k
           ∀ f i, f < n → f < q.data.length → q.data.length ≤ 255 → i < 4 → c.net.landed.contains ⟨q, f + 1⟩ = false →
             t.readRow q.tile (q.seg (4 * f + i)).2 (q.seg (4 * f + i)).1 = flitSeg (q.data.getD f 0) i) ∧
         ∀ i, tileOfPe i ≠ k.tile → t.peMemory i = c.peMemory i))) ∧
     (∀ (k0 : Packet) (tile : TileId) (port : Fin 8) (crc header : Bool) (s : State) (l : LinkFlit),
       s.poisonedLink (s.identify k0) tile port header = some l →
       Runs (.poisonedFlit k0 tile port crc header) s (fun t => t.links = s.links.map (fun m => if m = l then { m with bad := true } else m) ∧
         t.flag ⟨Reg.MSH_ERR_DRAIL.off, bnat crc, bnat crc⟩ = true ∧ t.mesh = s.mesh ∧ t.peMem = s.peMem))) ∧
  (∀ (tile : TileId) (port : Fin 8) (p : SeqId) (given : W256) (s : State) (l : LinkFlit), port.val < 4 →
       s.links.find? (fun l => decide (l.tile = tile.val) && decide (l.port = port.val) && decide (l.part = p.val)) = some l →
       l.due ≤ s.horizon p →
       let slot := l.due % s.frameLen p
       let en := s.cordEntry tile slot
       let mine := cordV en && decide (cordIn en = port.val) && decide (cordPart en = p.val) && s.slotServed p tile slot
       (mine = true → cordLast en = false →
         exec (.reservedFlitArrival tile port p given) s = .next { s with
           links := s.links.erase l ++ [⟨beyond tile (cordOut en), facing (cordOut en), p, cordFlow en, l.due + 1, l.flit, l.bad⟩] }) ∧
       (mine = false ∨ (cordLast en = true ∧ s.portShut tile (cordOut en) = true) → Runs (.reservedFlitArrival tile port p given) s (fun t =>
         t.links = s.links.erase l ∧ t.get Reg.CRD_MISS_COUNT = min (s.get Reg.CRD_MISS_COUNT + 1) Reg.CRD_MISS_COUNT.max ∧
         t.flag (pendBit (0x0A8 + p.val)) = true ∧ t.get (Reg.SEQ_VIOL_VALID p) = 1 ∧
         (s.flag (Reg.SEQ_VIOL_VALID p) = false → t.get (Reg.SEQ_VIOLSTEP_STEP p) = l.due % 2 ^ 64) ∧ t.peMem = s.peMem ∧ t.parts = s.parts)))

/-- A fence goes through its phases (R133-R136): a request of the host stops the domain and picks its step, the stop leads to Drain, the drain
to Fenced with the domain's event, then the clamps close; a timeout forces a fence of the host or the loader into Fenced; the release by
its last holder opens the domain, and a returning turf rejoins its partition. A drain waits for the domain's packets and for the credits
on their way back, which an idle beat brings (R121). No phase changes the memory of a turf that is not switched
off. -/
def Obligations.FencesGoThroughTheirPhases : Prop :=
  (∀ (d : Fin 88) (s : State), isDomain d = true →
    (s.hostBarred d = false → s.phase d = 0 → Runs (.fenceRequest d) s (fun t => t.phase d = 1 ∧ (t.fence d).host = true ∧
      t.get (Reg.MSH_FENCE_REQ d) = 1 ∧ t.get (Reg.MSH_FENCE_FORCED d) = 0 ∧
      (64 ≤ d.val ∨ s.streamsOpen d = false → (t.fence d).step.isSome = true) ∧
      t = { s with regs := t.regs, fences := t.fences } ∧ SameRegs [(Reg.MSH_FENCE_PHASE d).off] s t)) ∧
    (s.phase d = 1 → (s.fence d).step.isSome = true → Runs (.fenceStopComplete d) s (fun t => t.phase d = 2 ∧ t = { s with regs := t.regs } ∧
      (d.val < 64 → t.get (Reg.TRF_STATE_BURSTS d) = 0))) ∧
    (s.phase d = 2 → s.inFlight d = false → s.net.returning ≠ [] → let u := s.meshBeat none none
      Runs (.fenceDrainComplete d) s (fun t => (u.net.returning ≠ [] → t = u) ∧
        (u.net.returning = [] → t.phase d = 3 ∧ t.flag (pendBit (0x040 + d.val)) = true))) ∧
    (s.phase d = 2 → s.inFlight d = true → exec (.fenceDrainComplete d) s = .next s) ∧
    (s.phase d = 2 → s.inFlight d = false → s.net.returning = [] → Runs (.fenceDrainComplete d) s (fun t => t.phase d = 3 ∧ t.flag (pendBit (0x040 + d.val)) = true ∧
      (d.val < 64 → t.get (Reg.TRF_STATE_STATE d) = if (s.fence d).loader then 6 else 3) ∧ t.peMem = s.peMem ∧ t.fences = s.fences)) ∧
    (s.phase d = 3 → Runs (.fenceClamp d) s (fun t => t.phase d = 4 ∧ t.fences = s.fences ∧
      (64 ≤ d.val ∨ bitAt (s.get Reg.PWR_TURFOFF_OFF) d = 0 → t.peMem = s.peMem) ∧ t = { s with regs := t.regs, peMem := t.peMem } ∧
      ∀ i, turfOfPe i ≠ d.val → t.peMemory i = s.peMemory i)) ∧
    (s.phase d = 1 ∨ s.phase d = 2 → (s.fence d).reset = false → s.get Reg.MSH_FENCE_TMO_TMO ≠ 0 →
      Runs (.fenceTimeout d) s (fun t => t.phase d = 3 ∧ t.get (Reg.MSH_FENCE_FORCED d) = 1 ∧ t.flag (pendBit (0x040 + d.val)) = true ∧
        t.peMem = s.peMem ∧ t.pes = s.pes)) ∧
    (s.hostBarred d = false → s.phase d ≠ 0 → Runs (.fenceRelease d) s (fun t => t.phase d = 0 ∧ (t.fence d).host = false ∧
      t.get (Reg.MSH_FENCE_REQ d) = 0 ∧ t = { s with regs := t.regs, fences := t.fences }))) ∧
  (∀ (u : TurfId) (s : State), s.phase u = 0 → (s.fence u).step.isSome = true → s.streamsOpen u = false → s.get (Reg.TRF_STATE_STATE u) ≠ 5 →
    Runs (.turfRejoin u) s (fun t => (t.fence u).step = none ∧ t = { s with regs := t.regs, fences := t.fences } ∧
      (s.flag (Reg.TRF_CFG_ASSIGNED u) = true → t.get (Reg.TRF_STATE_STATE u) = 1 ∧
        t.get (Reg.TRF_STEP_STEP u) = (s.part (s.get (Reg.TRF_CFG_PART u))).step % 2 ^ 64) ∧
      (s.flag (Reg.TRF_CFG_ASSIGNED u) = false → t.get (Reg.TRF_STATE_STATE u) = 0)))

/-- A staging descriptor enters its engine's queue with a slot no other holds, or is refused with a code, recorded, and moves nothing (R225,
R227); ENG of a checkpoint is ignored (R239), and a Cord-bound one is given the delay by which the partition runs behind the fault-free count
(R142, R149). STGQ offers it with the sequencer's own partition number. The segments that a step write discarded are sent again: in the next runs of
their flow while the job is open, in best-effort WRITEs after it (R237); that a tile's segments go once its own packets have gone is how the model reads
it (log entry 19). -/
def Obligations.StagingQueuesAndResends : Prop :=
  (∀ (e : Fin 8) (p : SeqId) (s : State) (d : StgDesc), (s.seq p).offer = some d → d.eng = e.val ∨ d.dir = 2 → (s.stg e).length < 64 →
    (SMap.get none s.rst.targets (272 + e.val)).isSome = false →
    let s1 := s.setSeq p { s.seq p with offer := none }
    (s1.stgRefusal p e d = 0 → d.dir = 2 ∨ d.len ≠ 0 → Runs (.descriptorAccept e p) s (fun t => ∃ x : Transfer,
      t.stg e = s.stg e ++ [x] ∧ x.desc = d ∧ x.part = p.val ∧ x.delta = (s.part p).shift ∧ x.slot < 64 ∧ (∀ y ∈ s.stg e, y.slot ≠ x.slot) ∧ (t.seq p).offer = none ∧
      t.get (Reg.STG_STAT_QDEPTH e) = (s.stg e).length + 1 ∧ t.get (Reg.STG_STAT_BUSY e) = 1 ∧
      t.mesh = s.mesh ++ s1.firstPackets e p x.slot d ∧ (d.cord = true → d.dir = 1 → x.unarmed = d.tiles (e / 2)) ∧
      t = { s with regs := t.regs, seqs := t.seqs, staging := t.staging, flows := t.flows, mesh := t.mesh, net := t.net, free := t.free })) ∧
    (s1.stgRefusal p e d = 0 → d.dir ≠ 2 → d.len = 0 → Runs (.descriptorAccept e p) s (fun t => t.stg e = s.stg e ∧
      t.get (Reg.STG_DONE_COUNT e) = (s.get (Reg.STG_DONE_COUNT e) + 1) % 2 ^ 32 ∧ t.peMem = s.peMem ∧ t.hbm = s.hbm)) ∧
    (s1.stgRefusal p e d ≠ 0 → Runs (.descriptorAccept e p) s (fun t => t.stg e = s.stg e ∧ t.get (Reg.STG_ERR_REFUSE e) = 1 ∧
      t.get (Reg.STG_REFUSE_VALID e) = 1 ∧ (s.flag (Reg.STG_REFUSE_VALID e) = false →
        t.get (Reg.STG_REFUSE_CODE e) = s1.stgRefusal p e d ∧ t.get (Reg.STG_REFUSE_PART e) = p.val) ∧
      t.flag (pendBit (0x0C0 + e.val)) = true ∧ t.peMem = s.peMem ∧ t.hbm = s.hbm ∧ t.hearth = s.hearth))) ∧
  (∀ (p : SeqId) (s : State) (i : SeqInstr) (q0 q1 q2 q3 : Nat), s.ready p = true → s.nextInstr p = some i → i.mn = .stgq →
    let a := s.specAddr p i.a 8 false
    let d : StgDesc := ⟨setField (BitVec.ofNat 64 q0) 17 16 p, BitVec.ofNat 64 q1, BitVec.ofNat 64 q2, BitVec.ofNat 64 q3⟩
    a % 8 = 0 → s.fetch p 8 (.bytes a) = .ok q0 → s.fetch p 8 (.bytes (a + 8)) = .ok q1 → s.fetch p 8 (.bytes (a + 16)) = .ok q2 →
    s.fetch p 8 (.bytes (a + 24)) = .ok q3 → (s.seq p).offer = none → (s.stg d.eng).length < 64 →
    Runs (.stgq p) s (fun t => (t.seq p).offer = some d ∧ getField d.q0 17 16 = p.val ∧ ((t.seq p).ckpt.isSome = true ↔ d.dir = 2) ∧
      t.hearth = s.hearth ∧ t.staging = s.staging)) ∧
  (∀ (e : Fin 8) (slot : Nat) (s : State) (x : Transfer), (s.stg e).find? (fun y => decide (y.slot = slot)) = some x →
    let again (l : List (Nat × Nat)) : List (Nat × Nat) := (l.map (fun r => (r.1, r.2 / 4))).eraseDups
    let counted (u : State) : State := (u.count (Reg.STG_COLL_COUNT e) 1).set (Reg.STG_ERR_COLL e) 1
    (x.desc.cord = true → (s.seq x.part).job.isSome = true →
      let gone (l : Nat × Nat) : Bool := decide (x.desc.segments ≤ SMap.get 0 x.sent l.1)
      let ls := x.lost.filter gone
      (ls ≠ [] → exec (.stagingResend e slot) s = .next (counted (s.putTransfer e
        { x with lost := x.lost.filter (fun l => !gone l), mask := x.mask ++ ls, resend := x.resend ++ again ls }))) ∧
      (ls = [] → exec (.stagingResend e slot) s = .next s)) ∧
    (x.desc.cord = false ∨ (s.seq x.part).job.isSome = false → x.resend ++ again x.lost ≠ [] →
      let y := { x with lost := [], mask := x.mask ++ x.lost, resend := x.resend ++ again x.lost }
      exec (.stagingResend e slot) s = .next ((counted (s.putTransfer e y)).resendBest e y)) ∧
    (∀ l, x.mask = [l] → x.resend = [(l.1, l.2 / 4)] → s.resendBest e x =
      State.storeRows ⟨xRouter e l.1, xPort e, 64 * e + x.slot, x.part⟩ l.1 ((x.desc.bit0 + l.2 / 64) % 8192) (l.2 % 64) 1
        [if x.desc.mem = 1 then SMap.get 0 x.got (0x80000 * l.1 + l.2) else s.segmentIn e x.desc [] l.1 l.2] 0
        (s.putTransfer e { x with resend := [], left := [], mask := [] })))

/-- Best-effort transfers (R226, R229-R231, R235, R238). An engine moves a tile in packets of 128 data flits: an IN transfer in WRITEs whose segments
are the digits of the memory side, in the TILE layout the bits that 512 bytes a plane, 8 bytes a row put there, each at its row and bit address; an OUT
transfer in READs for the same. A transfer completes once its packets have reached their ends (`z`): where every tile has answered for all its
segments, OUT leaves in memory, in either layout, the bits that the answers held; the slot is free again, no packet of it stays in the mesh, and the
completion is counted, with its event where it asks for one. One that an error ends is marked as failed and reported. Which of the data goes with the
completion is the model's choice (log entry 19). -/
def Obligations.StagingMovesThePlanes : Prop :=
  (∀ (e : Fin 8) (p : SeqId) (slot j b f i : Nat) (d : StgDesc) (host : List Byte) (s : State), slot < 64 → d.tr0 + d.rows ≤ 16 → d.tc0 + d.cols ≤ 16 →
    j < d.rows * d.cols → f < 128 → i < 4 → d.len ≤ 8192 → let g := 512 * b + 4 * f + i
    g < d.segments → ∃ k, (s.tilePackets e p slot d host (d.tile (e / 2) j))[b]? = some k ∧ k.cls = 0 ∧ k.remote = false ∧
      k.tile = d.tile (e / 2) j ∧ k.dport = 4 ∧ k.sport = xPort e ∧ k.tag = 64 * e + slot ∧ k.seg (4 * f + i) = ((d.bit0 + g / 64) % 8192, g % 64) ∧
      (d.dir = 0 → k.cmd = 0x02 ∧ ∀ m, m < 64 →
        (flitSeg (k.data.getD f 0) i).getLsbD m = s.cellIn d host j (g / 64) (g % 64) m ∧
        (d.word = false → let n := 512 * d.len * (if d.repl then 0 else j) + 512 * (g / 64) + 8 * (g % 64) + m / 8
          s.cellIn d host j (g / 64) (g % 64) m = (match d.mem with
            | 0 => SMap.get 0 s.hbm (d.maddr + n)
            | 1 => host.getD n 0
            | _ => SMap.get 0 s.hearth (d.maddr + n)).getLsbD (m % 8))) ∧
      (d.dir ≠ 0 → k.cmd = 0x01 ∧ k.aux % 256 = min 128 ((d.segments - 512 * b) / 4))) ∧
  (∀ (e : Fin 8) (slot : Nat) (bytes : List Byte) (s : State) (x y : Transfer),
    (s.stg e).find? (fun y => decide (y.slot = slot) && decide (y.desc.dir ≠ 2)) = some x → x.desc.cord = false →
    bitAt (s.get Reg.DBG_BFRZ_FRZ) e = 0 →
    let d := x.desc
    (x.failed = false → s.stgBarred e x = false → (d.dir = 0 → d.mem = 1 → d.extent ≤ bytes.length) →
      let sent := if d.dir = 0 ∧ x.packets = 0 then
          ((d.tiles (e / 2)).flatMap (s.tilePackets e x.part x.slot d bytes)).foldl State.inject (if d.mem = 0 then s.hbmTouch d.maddr d.extent else s)
        else s
      let z := State.flush e x.slot (2 * sent.mesh.length + 1) sent
      (z.stg e).find? (fun y => decide (y.slot = x.slot)) = some y → y.desc = d → y.failed = false →
      (∀ t ∈ d.tiles (e / 2), SMap.get 0 y.sent t = d.segments) →
      Runs (.transferComplete e slot bytes .ok) s (fun t =>
        t.stg e = (z.stg e).filter (fun y => decide (y.slot ≠ x.slot)) ∧ t.mesh = z.mesh.filter (fun k => !ofTransfer e x.slot k) ∧
        t.get (Reg.STG_DONE_COUNT e) = (z.get (Reg.STG_DONE_COUNT e) + 1) % 2 ^ 32 ∧
        (d.evt = true → t.flag (pendBit (0x0C0 + e.val)) = true) ∧ t.pes = z.pes ∧ t.peMem = z.peMem ∧ t.detected = z.detected ∧
        (d.dir = 0 → t.hearth = z.hearth ∧ t.hbm = z.hbm) ∧
        (d.dir = 1 → d.mem ≠ 1 → d.repl = false → d.len ≤ 8192 → d.tr0 + d.rows ≤ 16 → d.tc0 + d.cols ≤ 16 →
          ∀ j q g m, j < d.rows * d.cols → q < d.len → g < 64 → m < 64 →
            let at_ (n i : Nat) : Prop := (if d.mem = 0 then SMap.get 0 t.hbm (d.maddr + n) else SMap.get 0 t.hearth (d.maddr + n)).getLsbD i =
              (SMap.get 0 y.got (0x80000 * d.tile (e / 2) j + 64 * q + g)).getLsbD m
            (d.word = false → at_ (512 * d.len * j + 512 * q + 8 * g + m / 8) (m % 8)) ∧
            (d.kw ≤ 5 → d.word = true → d.len * d.width ≤ 8 * d.ws → at_ (d.place j q g m).1 (d.place j q g m).2)))) ∧
    (∀ r : Delivery, r ≠ .ok → Runs (.transferComplete e slot bytes r) s (fun t => t.get (Reg.STG_ERR_FAIL e) = 1 ∧ (∀ y ∈ t.stg e, y.slot ≠ x.slot) ∧
      (r = .hostError ∨ r = .poisoned → ⟨0xB, Fin.ofNat 4 x.part, none, e.val, false⟩ ∈ t.detected) ∧ (r = .poisoned → .aer 4 ∈ t.out) ∧
      (r = .dataError → d.dir = 0 → d.mem = 2 → 0x800000 ≤ d.maddr → ⟨8, Fin.ofNat 4 x.part, none, 4 + e.val, false⟩ ∈ t.detected) ∧
      (d.evt = true → t.flag (pendBit (0x0C0 + e.val)) = true))))

/-- A stack enters self-refresh when active and not barred, and wakes at an access; a clamped stack whose PWROFF is set goes off, and one
retrained is up at a rate that HBM_CFG.RATE allows, or in state 5 where it failed at every rate, TRAIN set where some rate failed; the contents of
either are lost while every byte of the other stacks stays (R222, R224). A checkpoint of a drained partition, whose engines are free, writes its
parts and keeps the sequencer's state and the header it wrote, HBM_CKPT.VALID 0 meanwhile; its completion sets HBM_CKPT valid at the descriptor's
offset, clears NORB and lets the sequencer issue again (R239, R240, R373). -/
def Obligations.HbmPowerAndCheckpoints : Prop :=
  (∀ (n : Fin 8) (s : State),
       let same (t : State) (v : Nat) : Prop := t.get (Reg.HBM_STAT_STATE n) = v ∧ SameRegs [(Reg.HBM_STAT_STATE n).off] s t
       let lost (t : State) : Prop := t = { s with regs := t.regs, hbm := t.hbm } ∧
         (∀ a, hbmStack a ≠ n.val → SMap.get 0 t.hbm a = SMap.get 0 s.hbm a) ∧ ∀ a, hbmStack a = n.val → SMap.get 0 t.hbm a = 0
       (s.get (Reg.HBM_STAT_STATE n) = 2 → s.flag (Reg.HBM_CFG_SRDIS n) = false →
         Runs (.selfRefreshEntry n) s (fun t => same t 3 ∧ t = { s with regs := t.regs })) ∧
       (s.get (Reg.HBM_STAT_STATE n) = 3 → Runs (.selfRefreshExit n) s (fun t => same t 2 ∧ t = { s with regs := t.regs })) ∧
       (s.flag (Reg.HBM_CFG_PWROFF n) = true → s.phase (64 + n) = 4 → Runs (.hbmPowerOff n) s (fun t => same t 0 ∧ lost t)) ∧
       (s.get (Reg.HBM_STAT_STATE n) = 1 → s.flag (Reg.HBM_CFG_PWROFF n) = false →
         (∀ (r : Fin 3) (failedSome : Bool), s.get (Reg.HBM_CFG_RATE n) % 3 ≤ r.val →
           Runs (.hbmRetrainComplete ⟨n, some r, failedSome⟩) s (fun t => t.get (Reg.HBM_STAT_RATE n) = r.val ∧ lost t ∧
             t.get (Reg.HBM_STAT_STATE n) = (if 3 ≤ s.phase (64 + n) then 4 else 2) ∧
             (failedSome = true ∨ s.get (Reg.HBM_CFG_RATE n) % 3 < r.val → t.get (Reg.HBM_ERR_TRAIN n) = 1 ∧
               t.flag (pendBit (0x0E2 + n.val)) = true) ∧
             (failedSome = false → s.get (Reg.HBM_CFG_RATE n) % 3 = r.val → SameRegs [(Reg.HBM_STAT_STATE n).off] s t))) ∧
         ∀ failedSome, Runs (.hbmRetrainComplete ⟨n, none, failedSome⟩) s (fun t => t.get (Reg.HBM_STAT_STATE n) = 5 ∧ lost t ∧
           t.get (Reg.HBM_ERR_TRAIN n) = 1 ∧ t.flag (pendBit (0x0E2 + n.val)) = true))) ∧
  ((∀ (p : SeqId) (s : State) (c : Ckpt), (s.seq p).ckpt = some c → c.accepted = true → c.written = false → (s.part p).drained = true →
       (s.part p).results = [] → (s.seq p).outstanding = [] → (s.diesOf p).all s.dieEngines = true →
       (∀ die ∈ s.diesOf p, s.hbmUp (0x800000000 * die + c.desc.maddr) (ckptSize c.desc.len (s.turfsOnDie p die).length) = true) →
       Runs (.checkpoint p) s (fun t => t.get (Reg.HBM_CKPT_VALID p) = 0 ∧ SMap.get none t.saved p = some { s.saveSeq p c.desc with header := (s.saveSeq p c.desc).bytes p } ∧
         (t.seq p).ckpt = some { c with written := true } ∧ t.hearth = s.hearth ∧
         ∀ die, s.diesOf p = [die] → readBytes t.hbm (0x800000000 * die + c.desc.maddr) 0x201000 =
           (s.saveSeq p c.desc).bytes p ++ s.hearthRead (0x200000 * p) 0x200000)) ∧
     (∀ (p : SeqId) (s : State) (c : Ckpt), (s.seq p).ckpt = some c → c.written = true → (SMap.get none s.saved p).isSome = true →
       Runs (.checkpointComplete p) s (fun t => t.get (Reg.HBM_CKPT_VALID p) = 1 ∧ t.get (Reg.HBM_CKPT_OFF p) = c.desc.maddr % 2 ^ 35 ∧
         t.get (Reg.RST_RECSTAT_NORB p) = 0 ∧ (t.seq p).ckpt = none ∧ t.saved = s.saved ∧ t.hbm = s.hbm ∧ t.peMem = s.peMem)))

/-- A DMA channel not running and not in reset starts its chain at DMA_HEAD with ERR 0; a running one moves the bytes of the descriptor at DMA_CUR, of a
stream port as many as it holds or has room for, and waits where there are none; with the last of them DONE counts, its event is raised where EVT asks,
and the chain ends at LAST or goes on at NEXT. They stand at their destination and nowhere else; PE planes go in packets (R243). An abort leaves STATE 3
without an event, and of what the host had supplied the whole 32-byte blocks moved (R242-R244, R283). -/
def Obligations.DmaMovesItsDescriptors : Prop :=
  ∀ (c : Fin 16) (s : State),
    (s.get (Reg.DMA_STAT_STATE c) ≠ 1 → s.inReset (288 + c) = false → Runs (.dmaStart c) s (fun t => t.get (Reg.DMA_STAT_STATE c) = 1 ∧
      t.get (Reg.DMA_STAT_ERR c) = 0 ∧ SMap.get 0 t.dma c = 0 ∧
      t.reg (Reg.DMA_CUR_ADDR c).off = s.reg (Reg.DMA_HEAD_ADDR c).off ∧ t = { s with regs := t.regs, dma := t.dma } ∧
      SameRegs [(Reg.DMA_STAT_STATE c).off, (Reg.DMA_CUR_ADDR c).off] s t)) ∧
    (s.get (Reg.DMA_STAT_STATE c) = 1 ∨ s.inReset (288 + c) = true → exec (.dmaStart c) s = .next s) ∧
    (∀ desc bytes : List Byte, s.get (Reg.DMA_STAT_STATE c) = 1 →
      let d := DmaDesc.ofBytes (desc.take 32)
      let n := if d.len ≤ bytes.length then d.len else (d.dst + bytes.length) / 32 * 32 - d.dst
      Runs (.dmaAbort ⟨c, desc, bytes⟩) s (fun t => t.get (Reg.DMA_STAT_STATE c) = 3 ∧ SMap.get 0 t.dma c = 0 ∧
        (s.get (Reg.DMA_HSP_SPACE c) = 0 → d.ssp ≠ 3 → d.dsp ≠ 3 → t.get (Reg.DMA_CUR_ADDR c) = s.get (Reg.DMA_CUR_ADDR c) ∧
          t.get (Reg.DMA_DONE_COUNT c) = s.get (Reg.DMA_DONE_COUNT c) ∧ t.flag (pendBit (0x0D0 + c.val)) = s.flag (pendBit (0x0D0 + c.val)) ∧
          t.pes = s.pes ∧ t.peMem = s.peMem) ∧
        (s.get (Reg.DMA_HSP_SPACE c) = 0 → desc.length < 32 → t = { s with regs := t.regs, dma := t.dma }) ∧
        (s.get (Reg.DMA_HSP_SPACE c) = 0 → 32 ≤ desc.length → s.chainCheck c = 0 → d.check = 0 → d.ssp = 0 → d.dsp = 2 → SMap.get 0 s.dma c = 0 →
          t.hearthRead d.dst n = bytes.take n ∧ SameHearth d.dst n s t))) ∧
    (∀ desc bytes : List Byte, s.get (Reg.DMA_STAT_STATE c) = 1 → bitAt (s.get Reg.DBG_BFRZ_FRZ) (8 + c) = 0 → s.chainCheck c = 0 →
      (s.get (Reg.DMA_HSP_SPACE c) = 0 → 32 ≤ desc.length) →
      let s0 := (s.dmaDesc c desc).1
      let d := (s.dmaDesc c desc).2
      let off := SMap.get 0 s.dma c
      let n := s0.dmaRoom d (d.len - off)
      d.check = 0 → 0 < d.len → (d.ssp = 4 ∨ d.dsp = 4 → s.get Reg.EDG_STAT_STATE = 2) → s.dmaFenced d.ssp d.src d.len = false → s.dmaFenced d.dsp d.dst d.len = false →
      (d.ssp = 0 → d.len ≤ bytes.length) →
      let moved : List Byte := match d.ssp with
        | 0 => (bytes.drop off).take n
        | 4 => (SMap.get [] s0.edge.ports d.src).take n
        | 1 => readBytes s0.hbm (d.src + off) n
        | 2 => s0.hearthRead (d.src + off) n
        | _ => (s0.planeFetch c (d.src + off) n).2
      let here := s.get (Reg.DMA_HSP_SPACE c) ≠ 3 ∧ d.ssp ≠ 3 ∧ d.dsp ≠ 3
      let place := d.dst + off
      (n = 0 → exec (.dmaDescriptorComplete c desc bytes .ok) s = .next s) ∧
      (n ≠ 0 → Runs (.dmaDescriptorComplete c desc bytes .ok) s (fun t =>
        (off + n ≠ d.len → SMap.get 0 t.dma c = off + n ∧ (here → t.get (Reg.DMA_DONE_COUNT c) = s.get (Reg.DMA_DONE_COUNT c) ∧
          t.get (Reg.DMA_STAT_STATE c) = 1 ∧ t.get (Reg.DMA_CUR_ADDR c) = s.get (Reg.DMA_CUR_ADDR c))) ∧
        (off + n = d.len → SMap.get 0 t.dma c = 0 ∧ (here → t.get (Reg.DMA_DONE_COUNT c) = (s.get (Reg.DMA_DONE_COUNT c) + 1) % 2 ^ 32 ∧
            t.get (Reg.DMA_STAT_STATE c) = (if d.last then 0 else 1)) ∧
          (d.evt = true → t.flag (pendBit (0x0D0 + c.val)) = true) ∧ (d.last = false → t.get (Reg.DMA_CUR_ADDR c) = d.next % 2 ^ 64)) ∧
        (here → d.dsp = 0 → s.out ++ [.hostWrite place moved true] <+: t.out) ∧
        (if d.dsp = 1 then readBytes t.hbm place moved.length = moved ∧
          ∀ a, a < place ∨ place + moved.length ≤ a → SMap.get 0 t.hbm a = SMap.get 0 s0.hbm a else t.hbm = s0.hbm) ∧
        (if d.dsp = 2 then t.hearthRead place moved.length = moved ∧ SameHearth place moved.length s0 t else t.hearth = s0.hearth) ∧
        (d.dsp = 3 → t.peMem = (((s0.spaceFetch c d.ssp (d.src + off) n).1).planeStore c place moved).peMem) ∧
        (here → t.peMem = s.peMem ∧ t.pes = s.pes ∧ t.parts = s.parts) ∧
        (d.ssp = 4 → SMap.get [] t.edge.ports d.src = (SMap.get [] s0.edge.ports d.src).drop n) ∧
        (d.dsp = 4 → SMap.get [] t.edge.ports d.dst = SMap.get [] s0.edge.ports d.dst ++ moved) ∧
        (d.ssp ≠ 4 → d.dsp ≠ 4 → t.edge = s0.edge))))

/-- The loader goes from Idle to Loading to Loaded to Committing and back to Idle (R257-R260, R262): an accepted LOAD holds its image and
fences its targets, the verified image reads Loaded, a COMMIT that passes the checks waits for APPLY, APPLY records the image and lets go
of the targets, and a refusal or an ABORT ends the load and records its code in HST_SIFERR. A bare commit whose checks pass puts the
shadow writes into their registers and holds none any more; its COMMIT and BARE_COMMIT are one (R260). HST_WDRAW fences a turf and its
clearing lets go of the fence (R264). -/
def Obligations.LoaderGoesThroughItsStates : Prop :=
  ((∀ (auto : Bool) (image : List Byte) (good : Bool) (s : State),
       let space := s.get Reg.HST_SIFSRC_SPACE
       let a := s.get Reg.HST_SIFADDR_ADDR
       let len := s.get Reg.HST_SIFLEN_LEN
       let i := s.sourceBytes space a len image good
       (s.get Reg.HST_SIFSTAT_STATE = 0 → (sourceRefuse space a len).1 = 0 → (firstRefuse [headerRefuse i len, s.targetRefuse i]).1 = 0 →
         s.moduleReset = false → Runs (.load auto image good) s (fun t => t.get Reg.HST_SIFSTAT_STATE = 1 ∧ (t.loader.map (·.image)) = some i ∧
           (t.loader.map (·.auto)) = some auto ∧ t.shadow = [] ∧ (∀ n, n < 64 → n ∈ imgTurfs i → (t.fence n).loader = true ∧ t.phase n ≠ 0) ∧
           t.peMem = s.peMem ∧ t.pes = s.pes ∧ t.hbm = s.hbm ∧ t.hearth = s.hearth)) ∧
       (s.get Reg.HST_SIFSTAT_STATE ≠ 0 → s.moduleReset = false → Runs (.load auto image good) s (fun t => t.loader = s.loader ∧ t.get Reg.HST_SIFERR_CODE = 0x01 ∧
         t.get Reg.HST_SIFSTAT_STATE = s.get Reg.HST_SIFSTAT_STATE ∧ t.flag (pendBit 0x0E0) = true ∧ t.fences = s.fences))) ∧
     (∀ (s : State) (l : Loader), s.loader = some l →
       (s.get Reg.HST_SIFSTAT_STATE = 1 → l.auto = false → (firstRefuse [fetchRefuse l.image, s.verifyRefuse l.image]).1 = 0 →
         Runs .loaded s (fun t => t.get Reg.HST_SIFSTAT_STATE = 2 ∧ t.loader = some l ∧ t.flag (pendBit 0x0E0) = true ∧ t.fences = s.fences ∧
           t.peMem = s.peMem)) ∧
       (s.get Reg.HST_SIFSTAT_STATE = 1 → (firstRefuse [fetchRefuse l.image, s.verifyRefuse l.image]).1 ≠ 0 →
         Runs .loaded s (fun t => t.get Reg.HST_SIFSTAT_STATE = 0 ∧ t.loader = none ∧ t.get Reg.HST_SIFERR_VALID = 1 ∧
           ∀ e ∈ l.turfs, (t.fence e.1).loader = false)) ∧
       (s.get Reg.HST_SIFSTAT_STATE = 2 → (s.commitRefuse l.image l.banks).1 = 0 →
         Runs .commit s (fun t => t.get Reg.HST_SIFSTAT_STATE = 3 ∧ t = { s with regs := t.regs, free := t.free } ∧ SameRegs [Reg.HST_SIFSTAT_STATE.off] s t)) ∧
       (s.get Reg.HST_SIFSTAT_STATE = 3 → s.targetsHeld l = true → Runs .apply s (fun t => t.get Reg.HST_SIFSTAT_STATE = 0 ∧ t.loader = none ∧
         t.get Reg.HST_SIFID_ID = natAt l.image 8 4 % 2 ^ 32 ∧ t.get Reg.HST_SIFREV_REV = natAt l.image 12 4 % 2 ^ 32 ∧
         t.get Reg.HST_SIFSTAT_DIRECT = 0 ∧ (∀ e ∈ l.turfs, (t.fence e.1).loader = false) ∧ t.hbm = s.hbm)) ∧
       (s.get Reg.HST_SIFSTAT_STATE = 1 ∨ s.get Reg.HST_SIFSTAT_STATE = 2 → Runs .abort s (fun t => t.get Reg.HST_SIFSTAT_STATE = 0 ∧
         t.loader = none ∧ t.get Reg.HST_SIFERR_VALID = 1 ∧ t.get Reg.HST_SIFERR_CODE = 0x0B ∧ t.flag (pendBit 0x0E0) = true ∧
         ∀ e ∈ l.turfs, (t.fence e.1).loader = false)))) ∧
  ((∀ s : State, s.get Reg.HST_SIFSTAT_STATE = 0 → exec .commit s = exec .bareCommit s ∧
       (s.bareRefuse.1 = 0 → Runs .bareCommit s (fun t => t.shadow = [] ∧ t.get Reg.HST_SIFSTAT_DIRECT = 1 ∧
         t.get Reg.HST_SIFSTAT_STATE = 0 ∧ t.peMem = s.peMem ∧ t.pes = s.pes ∧
         ∀ (n : TurfId) v, s.fabric.coll = [] → s.shadow = [((Reg.TRF_CFG_ASSIGNED n).off, v)] → let off := (Reg.TRF_CFG_ASSIGNED n).off
           t.reg off = (s.reg off &&& ~~~(cmtMask off)) ||| (v &&& cmtMask off))) ∧
       (s.bareRefuse.1 ≠ 0 → Runs .bareCommit s (fun t => t.shadow = s.shadow ∧ t.get Reg.HST_SIFERR_VALID = 1 ∧
         t.get Reg.HST_SIFERR_CODE = s.bareRefuse.1 % 256 ∧ t.flag (pendBit 0x0E0) = true ∧ t.fences = s.fences))) ∧
     (∀ (u : TurfId) (s : State), Runs (.withdrawal u) s (fun t => t.flag (wdrawBit u) = true ∧ (t.fence u).wdraw = true ∧ t.phase u ≠ 0 ∧
       t = { s with regs := t.regs, fences := t.fences })) ∧
     (∀ (u : TurfId) (s : State), s.flag (wdrawBit u) = true → s.retired u = false → Runs (.return u) s (fun t =>
       t.flag (wdrawBit u) = false ∧ (t.fence u).wdraw = false ∧ bitAt (t.get Reg.PWR_TURFOFF_OFF) u = 0 ∧
       ((s.fence u).host = false → (s.fence u).loader = false → (s.fence u).reset = false → t.phase u = 0) ∧
       t = { s with regs := t.regs, fences := t.fences })))

/-- The edge fabric (R272, R276, R277, R284): GO arms a capture, which counts the edges of its clock and at the last of them puts the value of every
flip-flop in the read-back buffer; behind a freeze it is taken when the freeze ends, and while the clocks are gated there is no edge (R261). The words are
read one by one. FREEZE stops and starts the fabric; a lost pin-sourced clock sets its error, and an unmasked event line raises its source while the
fabric runs, but not under a block reset. That the command READBACK_CAPTURE lets the cycles up to the last edge pass is the model's choice (log entry
21). -/
def Obligations.EdgeFabricCommands : Prop :=
  ∀ s : State,
    let captured (t : State) : Prop := t.edge.armed = none ∧ t.get Reg.EDG_RBCTL_DONE = 1 ∧ t = { s with regs := t.regs, edge := t.edge } ∧
      t.edge.ffs = s.edge.ffs ∧
      (SMap.wf (fun _ => false) s.edge.ffs = true → ∀ i, (SMap.get 0 t.edge.buffer (i / 8)).getLsbD (i % 8) = SMap.get false s.edge.ffs i)
    (∀ (clk : Fin 8) (edges : BitVec 16), edges ≠ 0 → Runs (.readbackArm clk edges) s (fun t => t.edge.armed = some (clk.val, edges.toNat) ∧
      t.get Reg.EDG_RBCTL_DONE = 0 ∧ t.get Reg.EDG_RBCTL_CLK = clk.val ∧ t.get Reg.EDG_RBCTL_EDGES = edges.toNat ∧
      t = { s with regs := t.regs, edge := t.edge } ∧ SameRegs [Reg.EDG_RBCTL_DONE.off] s t)) ∧
    (∀ clk, Runs (.readbackArm clk 0) s (fun t => t.edge.armed = none ∧ t.get Reg.EDG_ERR_RBABORT = 1 ∧ t.flag (pendBit 0x0EA) = true)) ∧
    (∀ (k n : Nat) (ns : List Nat), s.edge.armed = some (k, n) →
      (k ∈ ns → n ≤ 1 → captured (s.countCapture ns)) ∧
      (k ∈ ns → 1 < n → s.countCapture ns = { s with edge := { s.edge with armed := some (k, n - 1) } }) ∧
      (k ∉ ns → s.countCapture ns = s)) ∧
    (∀ (clk : Fin 8) (n : Nat), s.edge.armed = some (clk.val, n) →
      (s.flag Reg.EDG_CTL_FREEZE = true → Runs (.readbackCapture clk) s (fun t => t.edge.due = true ∧ t.edge.armed = none ∧
        t.edge.buffer = s.edge.buffer ∧ t = { s with edge := t.edge })) ∧
      (s.flag Reg.EDG_CTL_FREEZE = false → s.edgeRuns = true → bitAt (s.get Reg.EDG_STAT_CLKRUN) clk = 1 →
        Config.clockSource (s.clockFrame clk) = 0 → Runs (.readbackCapture clk) s (fun t => t.edge.armed = none ∧ t.get Reg.EDG_RBCTL_DONE = 1)) ∧
      (s.flag Reg.EDG_CTL_FREEZE = false → s.edgeRuns = false → exec (.readbackCapture clk) s = .next s)) ∧
    (∀ clk : Fin 8, (∀ n, s.edge.armed ≠ some (clk.val, n)) → exec (.readbackCapture clk) s = .next s) ∧
    (let a := 32 * s.get Reg.EDG_RBADDR_FRAME + s.get Reg.EDG_RBADDR_WORD;
      Runs .readbackDataRead s (fun t => t.out = s.out ++ [.readData (readBytes s.edge.buffer (4 * a) 4)] ∧
        32 * t.get Reg.EDG_RBADDR_FRAME + t.get Reg.EDG_RBADDR_WORD = (a + 1) % (32 * 2 ^ (Reg.EDG_RBADDR_FRAME.hi + 1 - Reg.EDG_RBADDR_FRAME.lo)) ∧
        t = { s with regs := t.regs, out := t.out })) ∧
    (s.edge.due = true → Runs (.edgeFreeze false) s (fun t => t.get Reg.EDG_CTL_FREEZE = 0 ∧ captured t)) ∧
    (∀ on, s.edge.due = false ∨ on = true → Runs (.edgeFreeze on) s (fun t => t.get Reg.EDG_CTL_FREEZE = bnat on ∧ bitAt (t.get Reg.DBG_BFRZ_FRZ) 28 = bnat on ∧
      (on = true → s.get Reg.EDG_STAT_STATE = 2 → t.get Reg.EDG_STAT_STATE = 3 ∧ t.get Reg.EDG_STAT_CLKRUN = 0) ∧
      (on = false → s.get Reg.EDG_STAT_STATE = 3 → t.get Reg.EDG_STAT_STATE = 2) ∧
      t = { s with regs := t.regs, edge := { s.edge with ekWas := s.edge.ek } })) ∧
    (∀ n : Fin 8, s.edge.loaded = true → s.pinClock n = true → Runs (.clkloss n) s (fun t => t.edge.lost.getLsbD n = true ∧ t.get Reg.EDG_ERR_CLKLOSS = 1 ∧
      t.flag (pendBit 0x0EA) = true ∧ t.edge.config = s.edge.config)) ∧
    (∀ i : Fin 32,
      let heard := bitAt (s.get Reg.EDG_EVMASK_EN) i = 1 ∧ s.flag Reg.EDG_CTL_FREEZE = false ∧
        (s.get Reg.EDG_STAT_STATE = 2 ∨ s.get Reg.EDG_STAT_STATE = 4) ∧ (SMap.get none s.rst.targets 304).isNone = true
      (heard → Runs (.edgeEvent i) s (fun t => t.flag (pendBit (0x100 + i.val)) = true ∧ t.edge = s.edge)) ∧
      (¬heard → exec (.edgeEvent i) s = .next s)) ∧
    Runs .configurationMemoryParity s (fun t => t.edge.parityBad = true ∧ t.get Reg.EDG_ERR_PARITY = 1 ∧ t.flag (pendBit 0x0EA) = true)

/-- A Kindling instruction executes at its channel's turn, once what it waits for is there (R287, R288), on the levels of the pins that its command
brings and of the EK lines as the fabric drives them (R285, R290): the PC goes to the next instruction, or to a branch's target, the turn passes to the
engine's next channel, and what the instruction itself does not name stays. Only WAIT, SHO, SHI, TAKE, GIVE and STMP can stall. Where the word in turn has
wrong parity the engine stops before it with its event (R303). -/
def Obligations.KindlingInstructionsTakeTheirTurn : Prop :=
  ∀ e ∈ kindlingCommands, ∀ (c : Fin 128) (lines : BitVec 176) (s : State),
    let w := s.kWord c
    let s1 := if e.1 ∈ [0x01, 0x02, 0x05, 0x09] then s.see lines else s
    (s.kReady c e.1 = true → s.kFails c = false →
      (e.1 ∉ [0x02, 0x04, 0x05, 0x06, 0x07, 0x0E] → (e.2.2 c w s1.sampled s1).isSome = true) ∧
      ∀ t pc, e.2.2 c w s1.sampled s1 = some (t, pc) → Runs (e.2.1 c lines) s (fun u =>
        u.get (Reg.KDL_CST_PC c) = pc ∧ u.get (Reg.KDL_CST_STALL c) = 0 ∧
        (e.1 ≠ 0x01 → pc = (s.get (Reg.KDL_CST_PC c) + 1) % 512) ∧
        (u.keng (c / 32)).turns = (s.keng (c / 32)).turns.tail ++ [c.val] ∧
        (∀ off, off ≠ (Reg.KDL_CST_PC c).off → u.reg off = t.reg off) ∧ u.kch c = t.kch c ∧ u.kdl.pinOut = t.kdl.pinOut ∧
        (e.1 ≠ 0x0F → u = { s1 with regs := u.regs, kdl := u.kdl }))) ∧
    (s.kFails c = true → Runs (e.2.1 c lines) s (fun u => u.get (Reg.KDL_ESTAT_STATE (c / 32)) = 3 ∧ u.get (Reg.KDL_EERR_PARITY (c / 32)) = 1 ∧
      u.flag (pendBit (0x1A0 + c / 32)) = true ∧ u.get (Reg.KDL_CST_PC c) = s.get (Reg.KDL_CST_PC c) ∧ u.kdl = s.kdl))

/-- What the Kindling instructions do at their turn (R291-R294, R298): branches, a WAIT whose condition is met, loads, transfers between registers, pins
and queues. -/
def Obligations.KindlingInstructionResults : Prop :=
  ∀ (c : Fin 128) (lines : BitVec 176) (s : State), s.kFails c = false →
    let w := s.kWord c
    let now := (s.see lines).sampled
    let went (u : State) : Prop := u.get (Reg.KDL_CST_PC c) = (s.get (Reg.KDL_CST_PC c) + 1) % 512 ∧ u.get (Reg.KDL_CST_STALL c) = 0 ∧
      u = { s.see lines with regs := u.regs, kdl := u.kdl }
    let base := bitsOf w 7 0
    let v := s.get (kReg c w)
    let lanes := 2 ^ bitsOf w 26 25
    let txs := s.get (Reg.KDL_CTXS_VALUE c)
    let txn := s.get (Reg.KDL_CSC_TXN c)
    (s.kReady c 0x01 = true → Runs (.br c lines) s (fun u =>
      (bitsOf w 26 23 = 0 → u.get (Reg.KDL_CST_PC c) = bitsOf w 8 0) ∧
      (bitsOf w 26 23 = 1 → u.get (Reg.KDL_CSC_CNT c) = (s.get (Reg.KDL_CSC_CNT c) - 1) ∧
        u.get (Reg.KDL_CST_PC c) = if s.get (Reg.KDL_CSC_CNT c) = 0 then (s.get (Reg.KDL_CST_PC c) + 1) % 512 else bitsOf w 8 0) ∧
      (bitsOf w 26 23 = 4 → u.get (Reg.KDL_CST_PC c) =
        if lineAt now (bitsOf w 22 15) then bitsOf w 8 0 else (s.get (Reg.KDL_CST_PC c) + 1) % 512))) ∧
    (s.kReady c 0x02 = true →
      (bitsOf w 26 25 = 0 → lineAt now base = decide (bitAt w 24 = 1) → Runs (.kindlingWait c lines) s went) ∧
      (bitsOf w 26 25 = 1 → s.flag (Reg.KDL_CST_LATCHED c) = true → Runs (.kindlingWait c lines) s (fun u => went u ∧
        u.flag (Reg.KDL_CST_LATCHED c) = true)) ∧
      (bitsOf w 26 25 = 2 → s.flag (Reg.KDL_CST_TICK c) = true → Runs (.kindlingWait c lines) s (fun u => went u ∧
        u.get (Reg.KDL_CST_TICK c) = 0))) ∧
    (s.kReady c 0x03 = true → Runs (.sleep c) s (fun u => u.get (Reg.KDL_CEDGE_SLP c) = bitsOf w 15 0)) ∧
    (s.kReady c 0x04 = true → (bitAt w 24 = 0 ∨ txn ≠ 0) → Runs (.sho c) s (fun u => u.get (Reg.KDL_CSC_TXN c) = txn - lanes ∧
      u.get (Reg.KDL_CTXS_VALUE c) = (if s.flag (Reg.KDL_CSHF_TXMSB c) then txs * 2 ^ lanes % 2 ^ 32 else txs / 2 ^ lanes) ∧
      ∀ i, i < lanes → s.kOwns c ((base + i) % 256) = true → u.kdl.pinOut.getLsbD ((base + i) % 256) =
        (decide (i < txn) && txs.testBit (if s.flag (Reg.KDL_CSHF_TXMSB c) then 31 - i else i)))) ∧
    (s.kReady c 0x05 = true → bitAt w 24 = 0 → bitsOf w 26 25 = 0 → Runs (.shi c lines) s (fun u =>
      u.get (Reg.KDL_CSC_RXN c) = min 32 (s.get (Reg.KDL_CSC_RXN c) + 1) ∧
      u.get (Reg.KDL_CRXS_VALUE c) = if s.flag (Reg.KDL_CSHF_RXMSB c)
        then (2 * s.get (Reg.KDL_CRXS_VALUE c) + bnat (lineAt now base)) % 2 ^ 32
        else s.get (Reg.KDL_CRXS_VALUE c) / 2 + bnat (lineAt now base) * 2 ^ 31)) ∧
    (∀ x xs, s.kReady c 0x06 = true → (bitAt w 25 = 0 ∨ txn = 0) → (s.kch c).tx = x :: xs → Runs (.take c) s (fun u =>
      u.get (Reg.KDL_CTXS_VALUE c) = x.toNat ∧ u.get (Reg.KDL_CLAST_VALUE c) = x.toNat ∧
      u.get (Reg.KDL_CSC_TXN c) = s.get (Reg.KDL_CSHF_TXW c) ∧ (u.kch c).tx = xs ∧ (u.kch c).rx = (s.kch c).rx)) ∧
    (s.kReady c 0x07 = true → bitAt w 25 = 0 → s.rxRoom c 1 = true → Runs (.give c) s (fun u =>
      (u.kch c).rx = (s.kch c).rx ++ [BitVec.ofNat 32 (s.get (Reg.KDL_CRXS_VALUE c))] ∧ u.get (Reg.KDL_CRXS_VALUE c) = 0 ∧
      u.get (Reg.KDL_CSC_RXN c) = 0)) ∧
    (s.kReady c 0x07 = true → bitAt w 25 = 0 → bitAt w 26 = 0 → s.rxRoom c 1 = false → Runs (.give c) s (fun u =>
      (u.kch c).rx = (s.kch c).rx ∧ u.get (Reg.KDL_CRXS_VALUE c) = 0 ∧ u.get (Reg.KDL_CST_STALE c) = 1 ∧
      u.get (Reg.KDL_CERR_DROPS c) = min (s.get (Reg.KDL_CERR_DROPS c) + 1) 0xFFFF)) ∧
    (s.kReady c 0x08 = true → Runs (.drv c) s (fun u =>
      (∀ i, i ≤ bitsOf w 20 16 → s.kOwns c ((base + i) % 256) = true → u.kdl.pinOut.getLsbD ((base + i) % 256) = v.testBit i) ∧
      ∀ n, (s.kOwns c n = false ∨ ∀ i, i ≤ bitsOf w 20 16 → (base + i) % 256 ≠ n) → u.kdl.pinOut.getLsbD n = s.kdl.pinOut.getLsbD n)) ∧
    (s.kReady c 0x09 = true → Runs (.smp c lines) s (fun u => ∀ i, i < 32 → (u.get (kReg c w)).testBit i =
      (decide (i ≤ bitsOf w 20 16) && lineAt now (base + i)))) ∧
    (s.kReady c 0x0A = true → Runs (.dir c) s (fun u => ∀ i, i ≤ bitsOf w 20 16 → s.kOwns c ((base + i) % 256) = true →
      bitsOf (s.pinRecord ((base + i) % 256)) 3 0 = 3 → u.kdl.pinDir.getLsbD ((base + i) % 256) = v.testBit i)) ∧
    (s.kReady c 0x0B = true → Runs (.ldi c) s (fun u => (bitsOf w 26 25 = 0 → u.get (Reg.KDL_CA_VALUE c) =
      if bitAt w 24 = 1 then s.get (Reg.KDL_CA_VALUE c) % 2 ^ 16 + bitsOf w 15 0 * 2 ^ 16 else bitsOf w 15 0) ∧
      (bitsOf w 26 25 = 2 → u.get (Reg.KDL_CSC_CNT c) = bitsOf w 15 0))) ∧
    (s.kReady c 0x0C = true → bitsOf w 26 24 = 0 → Runs (.opr c) s (fun u =>
      (bitsOf w 20 18 = 0 → u.get (Reg.KDL_CA_VALUE c) = s.kSource c (bitsOf w 23 21)) ∧
      (bitsOf w 20 18 = 4 → u.get (Reg.KDL_CA_VALUE c) = (s.kSource c (bitsOf w 23 21) + 1) % 2 ^ 32))) ∧
    (s.kReady c 0x0D = true → Runs (.arm c) s (fun u => u.get (Reg.KDL_CST_LATCHED c) = 0 ∧ u.get (Reg.KDL_CEDGE_EDGE c) = bitsOf w 26 25 ∧
      u.get (Reg.KDL_CEDGE_LINE c) = base)) ∧
    (s.kReady c 0x0E = true → s.rxRoom c 2 = true → s.flag (Reg.KDL_CST_LATCHED c) = true → Runs (.stmp c) s (fun u =>
      (u.kch c).rx = (s.kch c).rx ++ [(s.kch c).latched.setWidth 32, ((s.kch c).latched >>> 32).setWidth 32])) ∧
    (s.kReady c 0x0F = true → Runs (.evt c) s (fun u => u.flag (pendBit (0x120 + c.val)) = true))

/-- Turns without an instruction, latched edges, ticks and host accesses (R288, R296-R298): a sleep turn counts down, a stall turn changes
nothing but whose turn it is, the first matching edge latches its time, a tick is pending or lost, and the host fills TX and empties RX.
Engines stop at a boundary with their state kept, or cleaned where the stop asks, start with their dividers at phase 0 unless a load holds them,
or in reset, freeze and go on again or take the start that came in between, and KTIME is aligned only while no engine runs (R261, R299-R303). -/
def Obligations.KindlingTurnsAndEngines : Prop :=
  (∀ (c : Fin 128) (s : State),
       let turn (s1 u : State) : Prop := (u.keng (c / 32)).turns = (s.keng (c / 32)).turns.tail ++ [c.val] ∧ u.kch c = s.kch c ∧
         u = { s1 with regs := u.regs, kdl := u.kdl }
       (s.kTurn c = true → s.get (Reg.KDL_CEDGE_SLP c) ≠ 0 → Runs (.sleepTurn c) s (fun u =>
         u.get (Reg.KDL_CEDGE_SLP c) = s.get (Reg.KDL_CEDGE_SLP c) - 1 ∧ u.get (Reg.KDL_CST_PC c) = s.get (Reg.KDL_CST_PC c) ∧ turn s u)) ∧
       (∀ lines, let s1 := s.see lines
         s.kTurn c = true → s.kFails c = false → s.get (Reg.KDL_CEDGE_SLP c) = 0 → kStalls c (s.kWord c) s1.sampled s1 = true → Runs (.stallTurn c lines) s (fun u =>
         u.get (Reg.KDL_CST_STALL c) = 1 ∧ u.get (Reg.KDL_CST_PC c) = s.get (Reg.KDL_CST_PC c) ∧ SameRegs [(Reg.KDL_CST_STALL c).off] s u ∧ turn s1 u)) ∧
       (∀ (rising : Bool) (line : Fin 176), s.flag (Reg.KDL_CST_LATCHED c) = false → s.get (Reg.KDL_CEDGE_LINE c) = line →
         (line.val < 144 → bitsOf (s.pinRecord line) 3 0 ≠ 0) →
         (144 ≤ line.val → s.edge.ek.getLsbD (line - 144) = rising ∧ s.edge.ekWas.getLsbD (line - 144) = !rising) →
         (s.get (Reg.KDL_CEDGE_EDGE c) = 3 ∨ (s.get (Reg.KDL_CEDGE_EDGE c) = if rising then 1 else 2)) →
         Runs (.edgeLatch c rising line) s (fun u => (u.kch c).latched = BitVec.ofNat 64 (s.get Reg.KDL_TIME_KTIME) - 2 ∧ u.get (Reg.KDL_CST_LATCHED c) = 1 ∧
           u = { s.moveLine rising line with regs := u.regs, kdl := u.kdl })) ∧
       (s.get (Reg.KDL_ESTAT_STATE (c / 32)) = 1 → s.get (Reg.KDL_CPACE_INC c) ≠ 0 → Runs (.tick c) s (fun u =>
         u.get (Reg.KDL_CST_TICK c) = 1 ∧ (s.get (Reg.KDL_CST_TICK c) = 1 → u.get (Reg.KDL_CERR_TICKLOST c) = 1) ∧
         ((s.kch c).phase < 2 ^ 32 → ((u.kch c).phase + 2 ^ 32 - (s.kch c).phase) % s.get (Reg.KDL_CPACE_INC c) = 0 ∧
           (u.kch c).phase < s.get (Reg.KDL_CPACE_INC c)))) ∧
       (∀ word, (s.kch c).tx.length < s.txDepth c → Runs (.txEnqueue c word) s (fun u => (u.kch c).tx = (s.kch c).tx ++ [word] ∧
         (u.kch c).rx = (s.kch c).rx ∧ u.get (Reg.KDL_CST_TXLVL c) = (s.kch c).tx.length + 1)) ∧
       (∀ word, s.txDepth c ≤ (s.kch c).tx.length → Runs (.txEnqueue c word) s (fun u => u.kdl = s.kdl ∧ u.get (Reg.KDL_CERR_TXOVF c) = 1)) ∧
       (∀ x xs, (s.kch c).rx = x :: xs → Runs (.rxDequeue c) s (fun u => (u.kch c).rx = xs ∧ (u.kch c).tx = (s.kch c).tx ∧
         u.out = s.out ++ [.readData (leBytes 4 x.toNat)])) ∧
       ((s.kch c).rx = [] → Runs (.rxDequeue c) s (fun u => u.get (Reg.KDL_CERR_RXUNF c) = 1 ∧ u.kdl = s.kdl ∧
         u.out = s.out ++ [.readData [0, 0, 0, 0]]))) ∧
  (∀ (e : Fin 4) (s : State),
       let begun (u : State) : Prop := u.get (Reg.KDL_ESTAT_STATE e) = 1 ∧
         (u.keng e).turns = (kChannels e).filter (fun c => s.flag (Reg.KDL_CCFG_EN c)) ∧
         ∀ c ∈ kChannels e, (u.kch c).phase = 0 ∧ u.get (Reg.KDL_CST_TICK c) = 0 ∧ u.get (Reg.KDL_CST_PC c) = s.get (Reg.KDL_CST_PC c)
       (s.get (Reg.KDL_ESTAT_STATE e) = 1 → Runs (.engineStop e) s (fun u => u.get (Reg.KDL_ESTAT_STATE e) = 0 ∧ u.kdl.chans = s.kdl.chans ∧
         SameRegs [(Reg.KDL_ESTAT_STATE e).off] s u ∧ u = { s with regs := u.regs, kdl := u.kdl })) ∧
       (s.get (Reg.KDL_ESTAT_STATE e) = 1 → Runs (.cleanStop e) s (fun u => u.get (Reg.KDL_ESTAT_STATE e) = 0 ∧
         u.kdl.pinOut = s.kdl.pinOut ∧ u.kdl.pinDir = s.kdl.pinDir ∧ (∀ c, c ∉ kChannels e → u.kch c = s.kch c) ∧
         ∀ c ∈ kChannels e, u.kch c = { KChan.reset with ke := (s.kch c).ke } ∧ u.get (Reg.KDL_CLAST_VALUE c) = 0 ∧
           u.get (Reg.KDL_CEDGE_SLP c) = 0 ∧ u.get (Reg.KDL_CEDGE_EDGE c) = 0 ∧ u.get (Reg.KDL_CEDGE_LINE c) = 0 ∧
           u.get (Reg.KDL_CST_TICK c) = 0 ∧ u.get (Reg.KDL_CST_LATCHED c) = 0 ∧ u.get (Reg.KDL_CA_VALUE c) = 0 ∧ u.get (Reg.KDL_CB_VALUE c) = 0 ∧ u.get (Reg.KDL_CSC_CNT c) = 0 ∧
           u.get (Reg.KDL_CTXS_VALUE c) = 0 ∧ u.get (Reg.KDL_CRXS_VALUE c) = 0 ∧ u.get (Reg.KDL_CSC_TXN c) = 0 ∧ u.get (Reg.KDL_CSC_RXN c) = 0 ∧
           u.get (Reg.KDL_CST_STALE c) = 0 ∧ u.get (Reg.KDL_CST_PC c) = s.get (Reg.KDL_CST_PC c))) ∧
       (s.get (Reg.KDL_ESTAT_STATE e) = 0 → s.enginesHeld = false → s.inReset (256 + e) = false →
         Runs (.engineStart e) s begun ∧ ∀ mask : BitVec 4, mask.getLsbD e = true → Runs (.globalStart mask) s begun) ∧
       (s.get (Reg.KDL_ESTAT_STATE e) = 1 → Runs (.kindlingFreeze e true) s (fun u => u.get (Reg.KDL_ESTAT_STATE e) = 2 ∧ (u.keng e).resume = true ∧
         u.get (Reg.KDL_ECTL_FREEZE e) = 1 ∧ bitAt (u.get Reg.DBG_BFRZ_FRZ) (24 + e) = 1 ∧ u.kdl.chans = s.kdl.chans)) ∧
       (s.get (Reg.KDL_ESTAT_STATE e) = 2 → (s.keng e).start = false → Runs (.kindlingFreeze e false) s (fun u =>
         u.get (Reg.KDL_ESTAT_STATE e) = bnat (s.keng e).resume ∧ u.get (Reg.KDL_ECTL_FREEZE e) = 0 ∧ u.kdl.chans = s.kdl.chans)) ∧
       (s.get (Reg.KDL_ESTAT_STATE e) = 2 → (s.keng e).start = true → Runs (.kindlingFreeze e false) s (fun u => begun u ∧
         u.get (Reg.KDL_ECTL_FREEZE e) = 0)) ∧
       (s.get (Reg.KDL_ESTAT_STATE e) = 2 → s.enginesHeld = false → s.inReset (256 + e) = false → Runs (.engineStart e) s (fun u => (u.keng e).start = true ∧ u.regs = s.regs)) ∧
       (s.enginesHeld = true ∨ s.inReset (256 + e) = true → exec (.engineStart e) s = .next s) ∧
       ((∀ d : Fin 4, s.get (Reg.KDL_ESTAT_STATE d) ≠ 1) → Runs .align s (fun u => u = { s with kdl := { s.kdl with align := true } })) ∧
       (s.get (Reg.KDL_ESTAT_STATE e) = 1 → Runs .align s (fun u => u.get Reg.KDL_TCTL_AERR = 1 ∧ u.kdl = s.kdl)))

/-- A source that is raised sets its pending bit, and its wait flag in each sequencer that SEQ names and no other; it sends its message only
with EN = 1 and the pending bit 0 before, and then to an unmasked vector of a function in D0, a masked one being held in the PBA (R324,
R325). Where it leaves an image of the wait flags to be written first, the message waits for that (R315, R330). -/
def Obligations.RaisedSourcesSetFlagsAndSend : Prop :=
  ∀ (s : State) (i : Nat), i < 1024 →
    let t := s.raise i
    let fn := s.get (Reg.EVT_SRC_FN i)
    let vec := s.get (Reg.EVT_SRC_VEC i)
    let due := s.flag (Reg.EVT_SRC_EN i) && !s.flag (pendBit i)
    let stale := (List.range 4).filter (fun q => decide (bitAt (s.get (Reg.EVT_SRC_SEQ i)) q = 1) && s.flag (Reg.EVT_SMIR_EN q) && (t.seq q).mirrorDirty)
    t.flag (pendBit i) = true ∧ (∀ j, j < 1024 → j ≠ i → t.flag (pendBit j) = s.flag (pendBit j)) ∧
    (∀ (q : SeqId) n, n < 256 → t.flag (waitFlag q n) =
      (s.flag (waitFlag q n) || (decide (n = s.get (Reg.EVT_SRC_WFLAG i)) && decide (bitAt (s.get (Reg.EVT_SRC_SEQ i)) q = 1)))) ∧
    (due = false → t.out = s.out ∧ t.ep = s.ep) ∧
    (due = true → stale ≠ [] → t.out = s.out ∧ t.ep = { s.ep with after := s.ep.after ++ [(fn, vec, stale)] }) ∧
    (due = true → stale = [] → s.ep.hasVector s.hiv2 fn vec = true → s.ep.masked fn vec = false → s.ep.d3hot.getLsbD fn = false →
      t.out = s.out ++ [.msix fn vec] ∧ t.ep = s.ep) ∧
    (due = true → stale = [] → s.ep.hasVector s.hiv2 fn vec = true → s.ep.masked fn vec = true ∨ s.ep.d3hot.getLsbD fn = true →
      t.out = s.out ∧ (fn, vec) ∈ t.ep.pba) ∧
    (due = true → stale = [] → s.ep.hasVector s.hiv2 fn vec = false → t.out = s.out ∧ t.get Reg.EVT_ERR_ROUTE = 1) ∧
    t = { s with regs := t.regs, seqs := t.seqs, ep := t.ep, out := t.out }

/-- Commands on events complete (R325, R330, R334): EVENT_ENABLE writes a listed source and sends its message where EN becomes 1 on a pending one, and an
unlisted one is ignored; W1C clears pending bits and nothing else, messages sent or held staying; an unmasked vector sends what was held for it, unless
its function's mask or D3hot holds it; the wait-flag image is written to the scratchpad and lets the messages go that waited for it (R315). PTM (R299,
R331): a trigger or an expired period starts a dialog while PTM Enable is set and is ignored else; its completion records the master time and KTIME, and
sets KTIME from the master time where an alignment was requested; that an alignment waits on where an engine has begun to run is the model's choice (log
entry 11). -/
def Obligations.EventAndPtmCommands : Prop :=
  ((∀ (i : Fin 1024) (v : W32) (s : State),
       let fn := bitsOf v.toNat 30 28
       let vec := bitsOf v.toNat 27 20
       let written (t : State) : Prop := t.get (Reg.EVT_SRC_FN i) = fn ∧ t.get (Reg.EVT_SRC_VEC i) = vec ∧ t.flag (Reg.EVT_SRC_EN i) = v.getLsbD 31 ∧
         SameRegs [(Reg.EVT_SRC_EN i).off] s t
       (listedSource i = false → exec (.eventEnable i v) s = .next s) ∧
       (listedSource i = true → s.flag (pendBit i) = false ∨ v.getLsbD 31 = false → Runs (.eventEnable i v) s (fun t => written t ∧
         t = { s with regs := t.regs })) ∧
       (listedSource i = true → s.flag (pendBit i) = true → v.getLsbD 31 = true → s.ep.hasVector s.hiv2 fn vec = true →
         s.ep.masked fn vec = false → s.ep.d3hot.getLsbD fn = false →
         Runs (.eventEnable i v) s (fun t => t.out = s.out ++ [.msix fn vec] ∧ written t ∧ t = { s with regs := t.regs, out := t.out }))) ∧
     (∀ (j : Fin 32) (mask : W32) (s : State), Runs (.pendingClear j mask) s (fun t =>
       (∀ b, b < 32 → t.flag (pendBit (32 * j + b)) = (s.flag (pendBit (32 * j + b)) && !mask.getLsbD b)) ∧
       SameRegs [(Reg.EVT_PEND_PEND j).off] s t ∧ t = { s with regs := t.regs })) ∧
     (∀ (fn : Fin 5) (vec : Fin 256) (s : State), Runs (.vectorUnmask fn vec) s (fun t =>
       (s.ep.fnMask.getLsbD fn = false → s.ep.d3hot.getLsbD fn = false → t.ep.masked fn vec = false ∧ (fn.val, vec.val) ∉ t.ep.pba ∧
         t.out = s.out ++ (s.ep.pba.filter (fun m => decide (m.1 = fn.val) && (decide (m.2 = vec.val) || !s.ep.masked m.1 m.2))).map (fun m =>
           Out.msix m.1 m.2)) ∧
       (s.ep.fnMask.getLsbD fn = true ∨ s.ep.d3hot.getLsbD fn = true → t.out = s.out ∧ t.ep.pba = s.ep.pba) ∧
       t = { s with ep := { s.ep with msix := t.ep.msix, pba := t.ep.pba }, out := t.out })) ∧
     (∀ (p : SeqId) (s : State), s.flag (Reg.EVT_SMIR_EN p) = true → (s.seq p).mirrorDirty = true → Runs (.waitFlagMirrorWrite p) s (fun t =>
       let a := 0x200000 * p + 32 * s.get (Reg.EVT_SMIR_ADDR p)
       (∀ n, n < 256 → (SMap.get 0 t.hearth (a + n / 8)).getLsbD (n % 8) = s.flag (waitFlag p n)) ∧ SameHearth a 32 s t ∧ t.peMem = s.peMem ∧
       (s.lastPort.all (fun w => w.who.isNone) = true → (t.seq p).mirrorDirty = false ∧
         (s.ep.after = [] → t.out = s.out ∧ t.ep = s.ep) ∧
         (∀ fn vec, s.ep.after = [(fn, vec, [p.val])] → s.ep.hasVector s.hiv2 fn vec = true → s.ep.masked fn vec = false →
           s.ep.d3hot.getLsbD fn = false → t.out = s.out ++ [.msix fn vec] ∧ t.ep.after = []))))) ∧
  (∀ s : State,
       (s.ep.ptmEnable = true → Runs .ptmTrigger s (fun t => t = { s with ep := { s.ep with dialog := true } })) ∧
       (s.ep.ptmEnable = true → s.get Reg.HST_PTMCTL_PERIOD ≠ 0 →
         Runs .ptmPeriodExpiry s (fun t => t = { s with ep := { s.ep with dialog := true } })) ∧
       (s.ep.ptmEnable = false → exec .ptmTrigger s = .next s ∧ exec .ptmPeriodExpiry s = .next s) ∧
       (∀ m : W64, s.ep.dialog = true → s.ep.ptmEnable = true →
         let idle := ∀ e, e < 4 → s.get (Reg.KDL_ESTAT_STATE e) ≠ 1
         Runs (.ptmDialogComplete m) s (fun t => t.get Reg.HST_PTMT_T = m.toNat ∧
           t.get Reg.HST_PTMK_KTIME = s.get Reg.KDL_TIME_KTIME ∧ t.ep = { s.ep with dialog := false } ∧
           (s.kdl.align = false ∨ ¬idle → t.get Reg.KDL_TIME_KTIME = s.get Reg.KDL_TIME_KTIME ∧ t.kdl = s.kdl) ∧
           (s.kdl.align = true → idle → t.get Reg.KDL_TIME_KTIME = 3 * m.toNat / 4 % 2 ^ 64 ∧ t.get Reg.KDL_TCTL_ALIGNED = 1 ∧ t.kdl.align = false) ∧
           t = { s with regs := t.regs, ep := t.ep, kdl := t.kdl })))

/-- A ring takes jobs (R318-R320): its enable takes the setup or sets an error bit for each check that fails; the doorbell names the entries
offered; an entry fetched waits for a mailbox slot, or completes as failed when malformed; delivery puts its 64 bytes into slot k mod MBN
and raises the arrival; a launch starts a Stopped sequencer at the entry's address. Completions and the interface version (R316, R321,
R322): the oldest held completion is written once the ring has room, the host's head is taken as written, and an offer sets CHOSEN while
every ring is disabled. A read of host memory that never completes (R332): its DMA channel stops with the host error, its staging transfer
ends failed, a ring fetches its entry again, and AER reports it, as it does a poisoned TLP in place of an entry; no bytes stand for one (log entry 28). -/
def Obligations.RingsTakeJobsAndComplete : Prop :=
  (∀ (p : SeqId) (s : State),
       (s.flag (Reg.HST_RCTL_EN p) = false → s.get Reg.HST_HIV_CHOSEN ≠ 0 → s.moduleReset = false → s.ringSizeBad p = false → s.ringAlignBad p = false →
         s.ringMboxBad p = false → Runs (.ringEnable p) s (fun t => t.flag (Reg.HST_RCTL_EN p) = true ∧ (t.ring p).ready = true ∧
           t.get (Reg.HST_RHEAD_HEAD p) = 0 ∧ t.get (Reg.HST_CTAIL_TAIL p) = 0 ∧ t.get (Reg.HST_CTAIL_PHASE p) = 1 ∧
           (t.ring p).rbase = s.get (Reg.HST_RBASE_ADDR p) ∧ (t.ring p).rsize = s.get (Reg.HST_RCTL_RSIZE p) ∧
           (t.ring p).slots = (s.ring p).slots ∧ t = { s with regs := t.regs, rings := t.rings })) ∧
       (s.flag (Reg.HST_RCTL_EN p) = false → s.get Reg.HST_HIV_CHOSEN ≠ 0 → s.ringSizeBad p = true → Runs (.ringEnable p) s (fun t =>
         t.flag (Reg.HST_RCTL_EN p) = false ∧ t.get (Reg.HST_RERR_SIZE p) = 1 ∧ t.rings = s.rings ∧ t.flag (pendBit (0x0B8 + p.val)) = true)) ∧
       Runs (.ringDisable p) s (fun t => t.flag (Reg.HST_RCTL_EN p) = false ∧ t = { s with regs := t.regs } ∧
         SameRegs [(Reg.HST_RCTL_EN p).off] s t) ∧
       (∀ v : W32, s.flag (Reg.HST_RCTL_EN p) = true → (v.toNat % 65536 < 2 ^ (s.ring p).rsize → Runs (.doorbell p v) s (fun t =>
           (t.ring p).tail = v.toNat % 65536 ∧ (t.ring p).fetched = (s.ring p).fetched ∧ t = { s with rings := t.rings })) ∧
         (2 ^ (s.ring p).rsize ≤ v.toNat % 65536 → Runs (.doorbell p v) s (fun t => t.rings = s.rings ∧ t.get (Reg.HST_RERR_DBRANGE p) = 1))) ∧
       (∀ entry : List Byte, s.flag (Reg.HST_RCTL_EN p) = true → (s.ring p).entry = none → (s.ring p).launch = none →
         (s.ring p).fetched ≠ (s.ring p).tail → entry.length = 64 → s.get (Reg.SEQ_STATE_STATE p) ≠ seqFaulted →
         (entryFlags entry < 2 → entryAddr entry % 4 = 0 → Runs (.entryFetch p entry) s (fun t => (t.ring p).entry = some entry ∧
           (t.ring p).fetched = ((s.ring p).fetched + 1) % 2 ^ (s.ring p).rsize ∧ t = { s with rings := t.rings })) ∧
         exec (.entryFetch p []) s = .next { s with out := s.out ++ [.aer 4] } ∧
         (2 ≤ entryFlags entry ∨ entryAddr entry % 4 ≠ 0 → (s.ring p).ready = true → s.ringFull p = false → (s.ring p).held = [] →
           Runs (.entryFetch p entry) s (fun t => (t.ring p).entry = none ∧ (t.ring p).slots = (s.ring p).slots ∧ ∃ c : Completion,
             c.token = entryToken entry ∧ c.failed = true ∧ c.fault = 0xF1 ∧
             s.out ++ [.hostWrite ((s.ring p).cbase + (if s.hiv2 then 16 else 32) * s.get (Reg.HST_CTAIL_TAIL p))
               (c.bytes p (s.flag (Reg.HST_CTAIL_PHASE p)) s.hiv2) false] <+: t.out))) ∧
       (∀ e : List Byte, (s.ring p).entry = some e → (s.ring p).slots.length < (s.ring p).mbn → s.get (Reg.SEQ_STATE_STATE p) ≠ seqFaulted →
         Runs (.mailboxDelivery p) s (fun t =>
           let a := 0x200000 * p + (s.ring p).mbaddr + 64 * ((s.ring p).delivered % (s.ring p).mbn)
           t.hearthRead a e.length = e ∧ SameHearth a e.length s t ∧ (t.ring p).entry = none ∧
           (t.ring p).slots = (s.ring p).slots ++ [entryToken e] ∧ (bitAt (entryFlags e) 0 = 1 → (t.ring p).launch = some (entryAddr e)) ∧
           t.flag (pendBit (0x0B4 + p.val)) = true ∧
           t.get (Reg.HST_RHEAD_HEAD p) = (s.ring p).fetched % 2 ^ (s.ring p).rsize % 2 ^ 16)) ∧
       (∀ a, (s.ring p).launch = some a → s.get (Reg.SEQ_STATE_STATE p) = seqStopped → (s.seq p).disabled = false → s.inReset p = false →
         Runs (.launch p) s (fun t => (t.ring p).launch = none ∧ t.get (Reg.SEQ_STATE_STATE p) = seqRunning ∧
           t.pc p = a / 4 * 4 % 0x100000 ∧ t.get (Reg.SEQ_ENTRY_ENTRY p) = a / 4 % 2 ^ 18 ∧
           t = { s with regs := t.regs, rings := t.rings, seqs := t.seqs }))) ∧
  ((∀ (p : SeqId) (s : State) (c : Completion) (cs : List Completion), (s.ring p).held = c :: cs → s.ringFull p = false →
       Runs (.completionWrite p) s (fun t => (t.ring p).held = cs ∧
         s.out ++ [.hostWrite ((s.ring p).cbase + (if s.hiv2 then 16 else 32) * s.get (Reg.HST_CTAIL_TAIL p))
           (c.bytes p (s.flag (Reg.HST_CTAIL_PHASE p)) s.hiv2) false] <+: t.out ∧
         t.get (Reg.HST_CTAIL_TAIL p) = (s.get (Reg.HST_CTAIL_TAIL p) + 1) % 2 ^ (s.ring p).rsize % 2 ^ 16 ∧
         t.get (Reg.HST_CTAIL_PHASE p) = (if (s.get (Reg.HST_CTAIL_TAIL p) + 1) % 2 ^ (s.ring p).rsize = 0
           then 1 - s.get (Reg.HST_CTAIL_PHASE p) else s.get (Reg.HST_CTAIL_PHASE p)) ∧
         t.flag (pendBit (0x0B0 + p.val)) = true)) ∧
     (∀ (p : SeqId) (v : W32) (s : State), Runs (.completionHeadWrite p v) s (fun t => t.get (Reg.HST_CHEAD_HEAD p) = v.toNat % 65536 ∧
       t = { s with regs := t.regs } ∧ SameRegs [(Reg.HST_CHEAD_HEAD p).off] s t)) ∧
     (∀ (v : BitVec 8) (s : State),
       ((∀ p : SeqId, s.flag (Reg.HST_RCTL_EN p) = false) → Runs (.hivOffer v) s (fun t =>
         t.get Reg.HST_HIV_CHOSEN = (if 2 ≤ v.toNat then min v.toNat 3 else 0) ∧ t.get Reg.HST_HIV_OFFER = v.toNat ∧ t = { s with regs := t.regs })) ∧
       (∀ p : SeqId, s.flag (Reg.HST_RCTL_EN p) = true → Runs (.hivOffer v) s (fun t => t.get Reg.HST_ERR_HIVW = 1 ∧
         t.get Reg.HST_HIV_CHOSEN = s.get Reg.HST_HIV_CHOSEN ∧ t = { s with regs := t.regs })))) ∧
  ((∀ (c : Fin 16) (s : State), s.get (Reg.DMA_STAT_STATE c) = 1 → s.get (Reg.DMA_HSP_SPACE c) = 0 → Runs (.completionTimeout (.dma c)) s (fun t =>
       t.get (Reg.DMA_STAT_STATE c) = 2 ∧ t.get (Reg.DMA_STAT_ERR c) = 4 ∧ t.flag (pendBit (0x0D0 + c.val)) = true ∧
       (∃ o, t.out = s.out ++ o ++ [.aer 1]) ∧ t.hbm = s.hbm ∧ t.hearth = s.hearth ∧ t.peMem = s.peMem)) ∧
     (∀ (e : Fin 8) (slot : Nat) (s : State) (x : Transfer), (s.stg e).find? (fun y => decide (y.slot = slot)) = some x → x.desc.dir = 0 →
       x.desc.mem = 1 →
       let gone := (∀ k ∈ s.mesh, ofTransfer e x.slot k = false) ∧ (x.desc.cord = true ∨ x.packets ≠ 0)
       Runs (.completionTimeout (.staging e slot)) s (fun t => (∀ y ∈ t.stg e, y.slot ≠ slot) ∧ t.get (Reg.STG_ERR_FAIL e) = 1 ∧
         (∃ fs, t.detected = fs ++ [⟨0xB, Fin.ofNat 4 x.part, none, e, false⟩]) ∧ (∃ o, t.out = o ++ [.aer 1]) ∧
         (gone → t.stg e = (s.stg e).filter (fun y => decide (y.slot ≠ slot)) ∧
           t.get (Reg.STG_DONE_COUNT e) = (s.get (Reg.STG_DONE_COUNT e) + 1) % 2 ^ 32 ∧
           t.detected = s.detected ++ [⟨0xB, Fin.ofNat 4 x.part, none, e, false⟩] ∧ t.hbm = s.hbm ∧ t.hearth = s.hearth))) ∧
     (∀ (p : SeqId) (s : State), s.flag (Reg.HST_RCTL_EN p) = true → (s.ring p).entry = none → (s.ring p).fetched ≠ (s.ring p).tail →
       exec (.completionTimeout (.ring p)) s = .next { s with out := s.out ++ [.aer 1] }))

/-- The windows of the endpoint (R312-R314): PF BAR2 reaches HBM below its top 64 MiB and the Hearth memories in it, a VF's BAR2 its partition's
scratchpad, its BAR4 HBM up to its limit, past which an access is unsupported; writes put their bytes there and nowhere else, reads return them. An access
to a VF's BAR0 acts as the PF's on the same registers, and one too large is answered with Completer Abort (R311). Instruction memory takes writes only
while its sequencer is Stopped or Faulted; a trained link shows its speed. VF Enable and NumVFs, the device state and the function mask of a function, PTM
Enable and the size of BAR2 take effect as they are written in configuration space (R306, R309, R325, R331); at which offsets they stand is the model's
choice (log entry 11). -/
def Obligations.EndpointWindows : Prop :=
  (∀ (a : WinAccess) (s : State), s.moduleReset = false → a.fn.val ≤ s.vfs →
    let n := if a.write then a.data.length else a.len
    (a.off % 0x100000 + n ≤ 0x100000 →
      (∀ h, s.place a = .hearth h →
        (a.write = true → Runs (.windowAccess a) s (fun t => t.hearthRead h n = a.data ∧ SameHearth h n s t ∧
          t.hbm = s.hbm ∧ t.imem = s.imem ∧ t.peMem = s.peMem)) ∧
        (a.write = false → exec (.windowAccess a) s = .next (s.send (.readData (s.hearthRead h n))))) ∧
      (∀ h, s.place a = .hbm h → s.beyondLimit a = false → s.hbmUp h n = true →
        (a.write = true → Runs (.windowAccess a) s (fun t => readBytes t.hbm h n = a.data ∧
          (∀ b, b < h ∨ h + n ≤ b → SMap.get 0 t.hbm b = SMap.get 0 s.hbm b) ∧ t = { s with regs := t.regs, hbm := t.hbm })) ∧
        (a.write = false → Runs (.windowAccess a) s (fun t =>
          t.out = s.out ++ [.readData (readBytes s.hbm h n)] ∧ t = { s with regs := t.regs, out := t.out })))) ∧
    (a.fn = 0 → a.off < 2 ^ s.ep.bar2 - 0x4000000 →
      s.place a = .hbm ((s.get Reg.HST_B2WIN_BASE * 0x4000000 + a.off) % 0x2000000000)) ∧
    (a.fn = 0 → ∀ o, o < 0x800000 → a.off = 2 ^ s.ep.bar2 - 0x4000000 + o → s.place a = .hearth o) ∧
    (a.fn ≠ 0 → a.bar = 2 → a.off < 0x200000 → s.place a = .hearth (0x200000 * (a.fn.val - 1) + a.off)) ∧
    (a.fn ≠ 0 → a.bar = 2 → 0x200000 ≤ a.off → a.off < 0x300000 → s.place a = .imem (a.fn.val - 1) (a.off - 0x200000)) ∧
    (a.fn ≠ 0 → a.bar = 4 →
      let limit := s.get (Reg.HST_VFWIN_SIZE (a.fn.val - 1)) * 0x40000000
      (s.beyondLimit a = decide (limit < a.off + n)) ∧
      (limit < a.off + n → exec (.windowAccess a) s = .next { s with out := s.out ++ [.unsupportedRequest, .aer 2] })) ∧
    (a.fn ≠ 0 → a.bar = 0 → 64 < a.off % 64 + n →
      exec (.windowAccess a) s = .next { s with out := s.out ++ [.completerAbort, .aer 3] }) ∧
    (∀ r, a.fn ≠ 0 → a.bar = 0 → a.off = 0x10000 + r → 0 < n → r + n ≤ 0x40 → s.spineBad = false →
      exec (.windowAccess a) s = exec (if a.write then .registerWrite false (0x1000 + 0x40 * (a.fn.val - 1) + r) a.data
        else .readClear (0x1000 + 0x40 * (a.fn.val - 1) + r) a.len) s)) ∧
  (∀ (a : WinAccess) (s : State), s.vfs < a.fn.val → exec (.windowAccess a) s = .next s) ∧
  (∀ (p : SeqId) (addr : Nat) (data : List Byte) (s : State), s.moduleReset = false → addr + data.length ≤ 0x100000 → data ≠ [] →
    (s.get (Reg.SEQ_STATE_STATE p) = seqStopped ∨ s.get (Reg.SEQ_STATE_STATE p) = seqFaulted →
      Runs (.instructionMemoryWrite p addr data) s (fun t => readBytes t.imem (0x100000 * p + addr) data.length = data ∧
        t = { s with imem := t.imem } ∧ ∀ b, (b < 0x100000 * p + addr ∨ 0x100000 * p + addr + data.length ≤ b) →
          SMap.get 0 t.imem b = SMap.get 0 s.imem b)) ∧
    (s.get (Reg.SEQ_STATE_STATE p) = seqRunning ∨ s.get (Reg.SEQ_STATE_STATE p) = seqWaiting →
      Runs (.instructionMemoryWrite p addr data) s (fun t => t.get Reg.HST_ERR_IMEMW = 1 ∧ t = { s with regs := t.regs }))) ∧
  (∀ (off len : Nat) (write : Bool) (s : State), 64 < off % 64 + len → Runs (.bar0OversizeAccess off len write) s (fun t =>
    t.out = s.out ++ [.completerAbort, .aer 3] ∧ t = { s with out := t.out })) ∧
  (∀ (speed : Fin 6) (s : State), s.moduleReset = false → Runs (.linkTrained speed) s (fun t => t.get Reg.HST_LINK_SPEED = speed.val ∧
    t.ep.linkUp = true ∧ t.get Reg.HST_LINK_DEGR = bnat (decide (speed.val < 2)) ∧ t = { s with regs := t.regs, ep := t.ep })) ∧
  (∀ (dbg : Bool) (fn v : Nat) (s : State), fn ≤ s.vfs → v < 2 ^ 32 →
    let wrote (k : Nat) (P : State → Prop) : Prop := Runs (.registerWrite dbg (0x10000000 + 0x1000 * fn + k) (leBytes 4 v)) s P
    let freed (vec : Nat) : Bool := !(SMap.get 1 s.ep.msix (msixIndex fn vec 3)).getLsbD 0
    let freedOut := (s.ep.pba.filter (fun m => decide (m.1 = fn) && freed m.2)).map (fun m => Out.msix m.1 m.2)
    (v = 3 → wrote 0x100 (fun t => t.ep.d3hot.getLsbD fn = true ∧ t.out = s.out)) ∧
    (v = 0 → wrote 0x100 (fun t => t.ep.d3hot.getLsbD fn = false ∧ (s.ep.fnMask.getLsbD fn = false → t.out = s.out ++ freedOut))) ∧
    wrote 0x104 (fun t => t.ep.fnMask.getLsbD fn = decide (v % 2 = 1) ∧
      t.out = s.out ++ (if v % 2 = 0 ∧ s.ep.d3hot.getLsbD fn = false then freedOut else [])) ∧
    (fn = 0 → wrote 0x108 (fun t => t.ep.vfEnable = decide (v % 2 = 1) ∧
        t.ep.numVfs = (if s.ep.vfEnable then s.ep.numVfs else v / 2 ^ 16) ∧ t = { s with regs := t.regs, ep := t.ep } ∧
        ∀ p : SeqId, t.get ⟨Reg.HST_OWN_FN.off, 3 * p + 2, 3 * p⟩ = if p.val < t.vfs then p.val + 1 else 0) ∧
      wrote 0x10C (fun t => t.ep.ptmEnable = decide (v % 2 = 1) ∧ t.get Reg.HST_PTMCTL_NOPTM = 1 - v % 2 ∧
        t = { s with regs := t.regs, ep := t.ep }) ∧
      (27 ≤ v → v ≤ 38 → wrote 0x110 (fun t => t = { s with ep := { s.ep with bar2 := v } }))))

/-- A fabric port goes through its states (R336, R340-R343, R442): enabled, a partner, equalised, locked, then ACTIVE when the CAP messages
agree, and FAILED with a reason when they do not or time runs out; a failed port tries again, and a lost link is FAILED with reason 8.
Frames carry packets in order (R337-R339): a frame with a good CRC and the SEQ expected brings its packet to the router and frees the
frames it acknowledges; any other is discarded, a bad CRC counted, and RETRY names the SEQ expected; a RETRY sends again the frames from
that SEQ on, the eighth takes the link down. -/
def Obligations.PortsTrainAndFramesCarryPackets : Prop :=
  (∀ (n : Fin 8) (s : State),
       let st := s.get (Reg.FAB_PSTAT_STATE n)
       let goes (c : Instr) (v : Nat) : Prop := Runs c s (fun t => t.get (Reg.FAB_PSTAT_STATE n) = v ∧
         SameRegs [(Reg.FAB_PSTAT_STATE n).off] s t ∧ t = { s with regs := t.regs, out := t.out })
       (st = 0 → s.portOn n = true → s.inReset (264 + n) = false → goes (.portEnable n) 1) ∧
       (st = 1 → (s.port n).cable = true → goes (.partnerDetected n) 2) ∧
       (∀ rate lanes, st = 2 → goes (.equalisationDone n rate lanes) 3 ∧ Runs (.equalisationDone n rate lanes) s (fun t =>
         t.get (Reg.FAB_PSTAT_RATE n) = bnat rate ∧ t.get (Reg.FAB_PSTAT_LANES n) = lanes.val ∧ t.out = s.out)) ∧
       (st = 3 → goes (.frameLock n) 4 ∧ Runs (.frameLock n) s (fun t => t.out = s.out ++ [.link n (.cap (s.ownCap n))])) ∧
       (∀ m : CapMsg, st = 4 → s.capReason n m = 0 → Runs (.cap n m) s (fun t => t.get (Reg.FAB_PSTAT_STATE n) = 5 ∧
         t.get (Reg.FAB_PSTAT_VER n) = min (s.get (Reg.FAB_PCTL_VMAX n)) m.vmax % 16 ∧ t.get (Reg.FAB_PPEER_SERIAL n) = m.serial.toNat ∧
         t.port n = { Port.reset with cable := (s.port n).cable } ∧ t.flag (pendBit (0x1C0 + n.val)) = true ∧
         (s.fabric.static = false → Out.link n (keyMsg s.bestKey) ∈ t.out))) ∧
       (∀ m : CapMsg, st = 4 → s.capReason n m ≠ 0 → Runs (.cap n m) s (fun t => t.get (Reg.FAB_PSTAT_STATE n) = 6 ∧
         t.get (Reg.FAB_PSTAT_REASON n) = s.capReason n m ∧ t.get (Reg.FAB_PERR_TRAIN n) = 1 ∧ t.flag (pendBit (0x1C0 + n.val)) = true)) ∧
       (1 ≤ st → st ≤ 4 → Runs (.trainingTimeout n) s (fun t => t.get (Reg.FAB_PSTAT_STATE n) = 6 ∧ t.get (Reg.FAB_PSTAT_REASON n) = 1 ∧
         t.get (Reg.FAB_PERR_TRAIN n) = 1 ∧ t.ports = s.ports)) ∧
       (st = 6 → goes (.failedRetry n) (bnat (s.portOn n))) ∧
       (st = 5 → (∀ c ∈ s.fabric.coll, n.val ∉ c.children ∧ s.fabric.parent ≠ some n.val) →
         let down (t : State) : Prop := t.get (Reg.FAB_PSTAT_STATE n) = 6 ∧ t.get (Reg.FAB_PSTAT_REASON n) = 8 ∧
           t.get (Reg.FAB_PERR_DOWN n) = 1 ∧ t.flag (pendBit (0x1C0 + n.val)) = true ∧ (t.port n).queue = [] ∧ (t.port n).unacked = [] ∧
           ∀ k, k ≠ n.val → t.port k = s.port k
         Runs (.linkDown n) s down ∧ Runs (.cablePresentChange n false) s (fun t => down t ∧ (t.port n).cable = false)) ∧
       (2 ≤ st → st ≤ 4 → ∀ present, Runs (.cablePresentChange n present) s (fun t => t.get (Reg.FAB_PSTAT_STATE n) = 1 ∧
         (t.port n).cable = present))) ∧
  (∀ (n : Fin 8) (s : State), s.get (Reg.FAB_PSTAT_STATE n) = 5 →
       let q := s.port n
       (∀ (f : Frame) (dl : Bool) (k : Packet), f.crcGood = true → f.seq.toNat = q.rxSeq → f.slots = frameSlots dl k →
         Runs (.frameReceive n f) s (fun t => t.fabric.arrivals = s.fabric.arrivals ++ [⟨some n.val, dl, k⟩] ∧
           (t.port n).rxSeq = (q.rxSeq + 1) % 65536 ∧ (t.port n).discarding = false ∧
           (q.queue = [] → s.fabric.coll = [] → (t.port n).unacked = ackFrames f.ack q.unacked))) ∧
       (∀ f : Frame, f.crcGood = false → Runs (.frameReceive n f) s (fun t => t.fabric = s.fabric ∧ (t.port n).rxSeq = q.rxSeq ∧
         (t.port n).discarding = true ∧ t.out = s.out ++ [.link n (.retry q.rxSeq)] ∧
         t.get (Reg.FAB_PCRC_COUNT n) = min (s.get (Reg.FAB_PCRC_COUNT n) + 1) 0xFFFF)) ∧
       (∀ f : Frame, f.crcGood = true → (∀ x ∈ f.slots, bitsOf x.tag.toNat 7 5 ≤ 2) → f.seq.toNat ≠ q.rxSeq →
         Runs (.frameReceive n f) s (fun t => t.fabric = s.fabric ∧ (t.port n).rxSeq = q.rxSeq ∧ (t.port n).discarding = true ∧
           t.regs = s.regs ∧ t.out = s.out ++ (if q.discarding then [] else [.link n (.retry q.rxSeq)]))) ∧
       (∀ seq : BitVec 16, let times := if q.retrySeq = seq.toNat then q.retries + 1 else 1
         (times < 8 → Runs (.retry n seq) s (fun t =>
           t.out = s.out ++ (q.unacked.dropWhile (fun f => decide (f.seq ≠ seq))).map (.frame n) ∧ (t.port n).retries = times ∧
           (t.port n).unacked = q.unacked ∧ t.get (Reg.FAB_PRETRY_COUNT n) = min (s.get (Reg.FAB_PRETRY_COUNT n) + 1) 0xFFFF)) ∧
         (8 ≤ times → s.fabric.coll = [] → Runs (.retry n seq) s (fun t => t.get (Reg.FAB_PSTAT_STATE n) = 6 ∧
           t.get (Reg.FAB_PSTAT_REASON n) = 7 ∧ (t.port n).unacked = []))))

/-- Elections and epochs (R345-R347): a smaller key is remembered and flooded; the module whose own key stays smallest is root, assigns the IDs and floods
the map of a new epoch; heartbeats and elections are flooded. The three passes keep the ID that a module holds, unless one with a smaller serial number
holds it too, give a free one to the module that requests it, and give no ID twice (R346). A parent map is passed on; it gives the module its ID and its
inactive bank, with the routes of the tree (R348, R349), and is answered with READY, and a module that finds no ID leaves routing; an epoch switches banks
once the port queues are empty, or after they are discarded. What the root has discovered and the number of its epoch are free (log entry 26). -/
def Obligations.ElectionsAndEpochs : Prop :=
  (∀ s : State,
    let own := BitVec.ofNat 64 (s.get Reg.FAB_SERIAL_SERIAL)
    let floods (m : LinkMsg) : List Out := s.activePorts.map (fun n => .link n m)
    let switched (v : Nat) (t : State) : Prop := t.get Reg.FAB_EPOCH_EPOCH = v % 2 ^ 32 ∧ t.fabric.draining = none ∧ t.fabric.bank = [] ∧
      t.fabric.parent = s.fabric.bankParent ∧ t.flag (pendBit 0x1C8) = true ∧
      (SMap.wf (fun _ => 0) s.fabric.bank = true → ∀ id, id < 65536 → t.get (Reg.FAB_ROUTE_ENTRY id) = (SMap.get 0 s.fabric.bank id).toNat)
    (∀ v, s.fabric.draining = some v → Runs .epochDrainTimeout s (fun t => switched v t ∧
      (s.fabric.coll = [] → t.get Reg.FAB_ERR_EPOCHDROP = 1 ∧ ∀ n : Fin 8, (t.port n).queue = []))) ∧
    (∀ (serial : W64) (v n : Nat), s.fabric.bankEpoch = some v → s.fabric.bankParent = some n →
      exec (.readyReport serial) s = .next (s.send (.link n (.ready serial)))) ∧
    (∀ (serial : W64) (v : Nat), s.fabric.bankEpoch = some v → s.fabric.bankParent = none →
      let l := if serial ∈ s.fabric.ready then s.fabric.ready else s.fabric.ready ++ [serial]
      let all := s.flag Reg.FAB_STAT_ROOT = true ∧ (∀ m ∈ s.fabric.mapped, m ∈ l) ∧ s.fabric.draining = none
      (¬all → exec (.readyReport serial) s = .next { s with fabric := { s.fabric with ready := l } }) ∧
      (all → Runs (.readyReport serial) s (fun t =>
        s.out ++ floods (.epoch v) <+: t.out ∧ (s.queuesEmpty = true → switched v t) ∧
        (s.queuesEmpty = false → t.fabric.draining = some v)))) ∧
    (s.discovers = true →
      (∀ (n : Fin 8) (ap : Bool) (serial : W64), s.get (Reg.FAB_PSTAT_STATE n) = 5 → keyLess (!ap, serial.toNat) s.bestKey = true →
        Runs (.keyFlood n ap serial) s (fun t => t.bestKey = (!ap, serial.toNat) ∧ t.flag Reg.FAB_STAT_ROOT = false ∧
          t.out = s.out ++ floods (.key ap serial))) ∧
      (keyLess s.bestKey s.ownKey = false → Runs .rootDeclare s (fun t => t.flag Reg.FAB_STAT_ROOT = true ∧
        t.get Reg.FAB_ROOTSER_SERIAL = s.get Reg.FAB_SERIAL_SERIAL ∧ ∃ e : W32, e.toNat ≠ s.get Reg.FAB_EPOCH_EPOCH ∧
          let ids := assignIds s.fabModules
          s.out ++ floods (.parentMap e own ids (treeEdges s.fabModules ids)) <+: t.out ∧
          (t.fabric.bankEpoch = some e.toNat ∨ t.get Reg.FAB_EPOCH_EPOCH = e.toNat))) ∧
      exec .heartbeat s = .next { s with out := s.out ++ floods .heartbeat } ∧
      (s.flag Reg.FAB_STAT_ROOT = false → Runs .electionTimeout s (fun t => t.bestKey = s.ownKey ∧ t.out = s.out ++ floods (keyMsg s.ownKey))) ∧
      (∀ (e : W32) (root : W64) (ids : List (W64 × BitVec 16)) (edges : List TreeEdge) (a : Option (Fin 8)),
        s.fabric.bankEpoch ≠ some e.toNat → s.get Reg.FAB_EPOCH_EPOCH ≠ e.toNat →
        let passed (t : State) : Prop := t.get Reg.FAB_ROOTSER_SERIAL = root.toNat ∧
          ∀ n ∈ s.activePorts, some n ≠ a.map (·.val) → Out.link n (.parentMap e root ids edges) ∈ t.out
        let up := (edges.find? (fun x => decide (x.child = own))).map (·.childPort.toNat)
        (∀ i, idIn ids own = some i → (up = none → s.flag Reg.FAB_STAT_ROOT = false) → Runs (.parentMap e root ids edges a) s (fun t => passed t ∧
          t.get Reg.FAB_STAT_ID = i.toNat ∧ t.flag Reg.FAB_STAT_IDV = true ∧ t.get Reg.FAB_STAT_NOID = 0 ∧
          t.fabric.bankEpoch = some e.toNat ∧ t.fabric.bankParent = up ∧
          (∀ n, up = some n → Out.link n (.ready own) ∈ t.out) ∧ (up = none → t.fabric.ready = [own]) ∧
          ∀ x j, (x, j) ∈ ids → (ids.map (·.2)).Nodup → SMap.get 0 t.fabric.bank j.toNat = BitVec.ofNat 32 (treeEntry edges own x))) ∧
        (idIn ids own = none → Runs (.parentMap e root ids edges a) s (fun t => passed t ∧ t.get Reg.FAB_STAT_NOID = 1 ∧
          t.flag Reg.FAB_STAT_IDV = false ∧ t.fabric.bank = [] ∧ ∀ id, id < 65536 → t.get (Reg.FAB_ROUTE_ENTRY id) = 0))) ∧
      (∀ value : W32, s.fabric.bankEpoch = some value.toNat → s.fabric.draining = none → Runs (.epoch value) s (fun t =>
        s.out ++ floods (.epoch value.toNat) <+: t.out ∧ (s.queuesEmpty = true → switched value.toNat t) ∧
        (s.queuesEmpty = false → t.fabric.draining = some value.toNat))))) ∧
  (∀ ms : List (FabModule × Nat), (ms.map (·.1.serial)).Nodup → ((assignIds ms).map (·.2)).Nodup ∧
    ∀ m ∈ ms, ∀ i,
      (m.1.held = some i → (∀ x ∈ ms, x.1.held = some i → m.1.serial.toNat ≤ x.1.serial.toNat) → idIn (assignIds ms) m.1.serial = some i) ∧
      (m.1.held = none → m.1.request = some i → (∀ x ∈ ms, x.1.held ≠ some i) →
        (∀ x ∈ ms, x.1.request = some i → m.1.serial.toNat ≤ x.1.serial.toNat) → idIn (assignIds ms) m.1.serial = some i)) ∧
  (∀ (edges : List TreeEdge) (own x : W64), treeEntry edges own own = 2 ^ 23 ∧ (x ≠ own →
    (∀ ed, edges.find? (fun y => decide (y.child = x)) = some ed → ed.parent = own →
      treeEntry edges own x = 2 ^ 31 + ed.parentPort.toNat * 2 ^ 28 + 1) ∧
    (∀ ed, edges.find? (fun y => decide (y.child = own)) = some ed → ed.parent = x → own ∉ ancestors edges edges.length x →
      treeEntry edges own x = 2 ^ 31 + ed.childPort.toNat * 2 ^ 28 + 1)))

/-- Forwarding and the gateway (R351, R353, R354): a packet for this module goes to its gateway, another out on the port of its route in one
frame where credits allow, one without a usable route is dropped, counted and answered; the gateway puts a request into the mesh under an
entry that keeps where it came from, and a broadcast is delivered and never answered twice. Remote commands (R360): refused with an error
where they are disabled, malformed or replayed, else under verification; signed by an authorised key, the counter is taken and WACK answered, and once
that has left the module resets, or the ports named are fenced as the host would fence them. A delivered packet enters the mesh at the H port of its
tile's die (R123, R353). That the command RCMD_VERIFIED comes again where the WACK has still to leave is the model's choice (log entry 26). -/
def Obligations.ForwardingAndTheGateway : Prop :=
  (∀ s : State,
       (∀ (a : Option (Fin 8)) (dl : Bool) (k : Packet), k.remote = true → k.bcast = false → (a = none → s.fabric.draining = none) →
         let e := s.get (Reg.FAB_ROUTE_ENTRY k.dest)
         let n := bitsOf e 30 28
         (bitAt e 23 = 1 → Runs (.fabricForward a dl k) s (fun t => t.fabric.inbound = s.fabric.inbound ++ [k] ∧
           t = { s with fabric := t.fabric })) ∧
         (bitAt e 23 = 0 → bitAt e 31 = 0 → bitAt e 27 = 0 → Runs (.fabricForward a dl k) s (fun t => t.get Reg.FAB_ERR_NOROUTE = 1 ∧
           t.get Reg.FAB_DROPS_COUNT = min (s.get Reg.FAB_DROPS_COUNT + 1) 0xFFFF ∧ t.ports = s.ports ∧ t.flag (pendBit 0x1C9) = true ∧
           (k.cls = 0 → k.sfab = s.get Reg.FAB_STAT_ID → t.mesh = s.mesh ++ [s.response k 0x8F 0x10 []]))) ∧
         (bitAt e 23 = 0 → bitAt e 31 = 1 → s.portUp n = true → s.fabric.static = false → k.h 251 251 = 0 →
           ¬(k.cls = 3 ∧ k.cmd = 0xC8 ∧ s.get (Reg.FAB_PSTAT_VER n) < 3) → (s.port n).queue = [] → (s.port n).unacked.length < 128 →
           k.data.length < 15 →
           let dl' := dl && a.isSome && decide (2 ≤ s.get (Reg.FAB_PSTAT_VER n))
           k.data.length < (s.port n).credits.getD (vcOf k.cls dl') 0 →
           Runs (.fabricForward a dl k) s (fun t => ∃ f : Frame, t.out = s.out ++ [.frame n f] ∧
             f.slots = frameSlots dl' k ++ List.replicate (14 - k.data.length) idleSlot ∧
             f.seq = BitVec.ofNat 16 (s.port n).txSeq ∧ f.crcGood = true ∧ (t.port n).unacked = (s.port n).unacked ++ [f] ∧
             (t.port n).queue = [] ∧ t = { s with fabric := t.fabric, ports := t.ports, out := t.out }))) ∧
       (∀ k : Packet, k.remote = true → ¬(k.cls = 3 ∧ k.cmd = 0xC8) →
         (k.cls = 1 ∨ k.cls = 2 → Runs (.gatewayDelivery k) s (fun t => ∃ x : Packet, t.mesh = s.mesh ++ [x] ∧ x.remote = false ∧
           x.tile = bitsOf k.aux 57 48 ∧ x.cls = k.cls ∧ x.cmd = k.cmd ∧ x.tag = k.tag ∧ x.data = k.data ∧
           t.net.gated = s.net.gated ++ [x] ∧ t.fabric.entries = s.fabric.entries)) ∧
         (∀ i, k.cls = 0 ∨ k.cls = 3 → s.freeEntry = some i → Runs (.gatewayDelivery k) s (fun t => ∃ x : Packet, t.mesh = s.mesh ++ [x] ∧
           x.remote = false ∧ x.tile = bitsOf k.aux 57 48 ∧ x.cls = k.cls ∧ x.cmd = k.cmd ∧ x.tag = i ∧ x.sport = 7 ∧ x.data = k.data ∧ t.net.gated = s.net.gated ++ [x] ∧
           SMap.get none s.fabric.entries i = none ∧ SMap.get none t.fabric.entries i = some ⟨k.src, k.sport, k.sfab, k.tag⟩)) ∧
         (k.cls = 0 ∨ k.cls = 3 → s.freeEntry = none → Runs (.gatewayDelivery k) s (fun t => t.mesh = s.mesh ∧ k ∈ t.fabric.held))) ∧
       (∀ (i : Fin 1024) (e : GwEntry), SMap.get none s.fabric.entries i = some e → Runs (.gatewayTimeout i) s (fun t => ∃ x : Packet,
         SMap.get none t.fabric.entries i = none ∧ t.fabric.arrivals = s.fabric.arrivals ++ [⟨none, false, x⟩] ∧
         (e.sfab < 65536 → e.sport < 8 → e.tag < 4096 → e.src < 1024 → x.cls = 1 ∧ x.cmd = 0x8F ∧ x.dest = e.sfab ∧ x.dport = e.sport ∧
           x.tag = e.tag ∧ bitsOf x.aux 63 48 = e.src ∧ bitsOf x.aux 7 0 = 0x11) ∧ t = { s with fabric := t.fabric })) ∧
       (∀ (a : Option (Fin 8)) (k : Packet), k.remote = true → k.bcast = true → (a = none → s.fabric.draining = none) →
         (k.cls = 2 ∨ k.cls = 3 → Runs (.broadcast a k) s (fun t =>
           t.fabric.inbound = s.fabric.inbound ++ (if a.isSome then [k] else []) ∧
           ((∀ n ∈ s.treePorts, s.portUp n = false) → t.out = s.out ∧ t.ports = s.ports))) ∧
         (k.cls = 0 ∨ k.cls = 1 → Runs (.broadcast a k) s (fun t => t.fabric.inbound = s.fabric.inbound ∧ t.ports = s.ports ∧
           t.get Reg.FAB_DROPS_COUNT = min (s.get Reg.FAB_DROPS_COUNT + 1) 0xFFFF)))) ∧
  ((∀ (k : Packet) (s : State),
       let refusedWith (t : State) : Prop := t.fabric.rcmd = s.fabric.rcmd ∧ t.get Reg.FAB_ERR_RCMD = 1 ∧ t.flag (pendBit 0x1C9) = true ∧
         t.get Reg.FAB_RCNT_COUNT = s.get Reg.FAB_RCNT_COUNT ∧ t.fences = s.fences ∧ t.peMem = s.peMem
       (s.flag Reg.FAB_CTL_RCEN = false ∨ s.optRcmd = false → Runs (.rcmd k) s refusedWith) ∧
       (s.flag Reg.FAB_CTL_RCEN = true → s.optRcmd = true → s.flag Reg.SEC_STAT_ENGBUSY = true → Runs (.rcmd k) s refusedWith) ∧
       (s.flag Reg.FAB_CTL_RCEN = true → s.optRcmd = true → s.flag Reg.SEC_STAT_ENGBUSY = false → rcmdNat k 8 8 ≤ s.get Reg.FAB_RCNT_COUNT →
         Runs (.rcmd k) s refusedWith) ∧
       (s.flag Reg.FAB_CTL_RCEN = true → s.optRcmd = true → s.flag Reg.SEC_STAT_ENGBUSY = false → (rcmdBytes k).length = 192 →
         rcmdNat k 0 8 = Config.serial.toNat → rcmdNat k 16 2 = 1 ∨ rcmdNat k 16 2 = 2 → rcmdNat k 18 2 = 0 → rcmdNat k 28 32 = 0 →
         s.get Reg.FAB_RCNT_COUNT < rcmdNat k 8 8 → s.fabric.rcmd = none → Runs (.rcmd k) s (fun t =>
           t.fabric.rcmd = some ⟨BitVec.ofNat 64 (rcmdNat k 8 8), rcmdNat k 16 2, BitVec.ofNat 64 (rcmdNat k 20 8), k, false⟩ ∧
           t.get Reg.SEC_STAT_ENGBUSY = 1 ∧ t = { s with regs := t.regs, fabric := t.fabric }))) ∧
     (∀ (good : Bool) (s : State) (r : Rcmd), s.fabric.rcmd = some r →
       let w := s.fabricReply r.reply 0x82 0
       let ports (t : State) : Prop := t.fabric.rcmd = none ∧
         ∀ n : Fin 8, r.arg.getLsbD n = true → (t.fence (80 + n)).host = true ∧ t.phase (80 + n) ≠ 0
       let reset (t : State) : Prop := t.rst.module.map (fun x => (x.reach, x.src)) = some (3, 0x0C) ∧ t.fabric.rcmd = none ∧ t.peMem = []
       let near := r.reply.sfab = s.get Reg.FAB_STAT_ID ∧ (r.reply.cls = 0 ∨ r.reply.cls = 3)
       (r.done = false → s.rcmdSigned r.reply = false → Runs (.rcmdVerified good) s (fun t => t.fabric.rcmd = none ∧ t.get Reg.FAB_ERR_RCMD = 1 ∧
         t.get Reg.FAB_RCNT_COUNT = s.get Reg.FAB_RCNT_COUNT ∧ t.fences = s.fences)) ∧
       (r.done = false → s.rcmdSigned r.reply = true → near → s.wackLeft w = true →
         (r.op ≠ 1 → Runs (.rcmdVerified good) s (fun t => ports t ∧ t.get Reg.FAB_RCNT_COUNT = r.counter.toNat ∧
           s.response r.reply 0x82 0 [] ∈ t.mesh)) ∧
         (r.op = 1 → s.rst.module = none → s.rst.boot = none → Runs (.rcmdVerified good) s reset)) ∧
       (r.done = false → s.rcmdSigned r.reply = true → r.op ≠ 1 → Runs (.rcmdVerified good) s (fun t =>
         t.get Reg.FAB_RCNT_COUNT = r.counter.toNat ∧ (t.fabric.rcmd = some { r with done := true } ∨ ports t))) ∧
       (r.done = true → s.wackLeft w = false → exec (.rcmdVerified good) s = .next s) ∧
       (r.done = true → s.wackLeft w = true → (r.op ≠ 1 → Runs (.rcmdVerified good) s ports) ∧
         (r.op = 1 → s.rst.module = none → s.rst.boot = none → Runs (.rcmdVerified good) s reset))))

/-- Collectives (R356-R358): a member's descriptor is taken, its GO cleared and its value combined; the partials of a child are combined and
counted; the result reaches every member with its status and event, and a timeout or a failure code ends the context; a failure goes on over the tree, away
from the port it came from. -/
def Obligations.CollectivesCombineAndComplete : Prop :=
  ∀ s : State, s.flag Reg.FAB_CTL_CEN = true → bitAt (s.get Reg.DBG_BFRZ_FRZ) 29 = 0 →
    (∀ (p : SeqId) (slot : Fin 16),
      let at_ := 0x1FFF000 + 0x400 * p.val + 64 * slot.val
      let q (i : Nat) : Nat := leNat (s.hearthRead (at_ + 8 * i) 8)
      let cid := BitVec.ofNat 32 (q 0)
      let op := bitsOf (q 0) 35 32
      let r := bitsOf (q 1) 16 0
      let raw := leNat (s.hearthRead (0x200000 * p + q 2) (8 * cdiv r 64)) % 2 ^ r
      bitAt (q 7) 0 = 1 → collFormatBad (q 0) (q 1) (q 2) (q 3) (q 4) (q 5) (q 6) = false → s.collCtx cid = none →
      s.fabric.coll.length < 64 → s.fabric.parent = none → bitsOf (q 0) 54 36 ≠ 1 →
      Runs (.collectiveSubmit p slot) s (fun t => t.hearthRead (at_ + 56) 8 = leBytes 8 0 ∧ SameHearth (at_ + 56) 8 s t ∧
        t.fabric.coll = s.fabric.coll ++ [⟨cid, op, r, bitsOf (q 0) 54 36, 1, encodeInt (collInt op (collWidth op r)
          (encodeInt (collInt op r raw) (collWidth op r))) (collWidth op r),
          [⟨p, bitAt (q 3) 63 = 1, bitsOf (q 3) 20 0, bitsOf (q 4) 20 0⟩], [], []⟩])) ∧
    (∀ (n : Fin 8) (x : Partial) (c : CollCtx), s.collCtx x.cid = some c → c.op = x.op → c.width = x.width → c.nmem = x.nmem →
      s.fabric.parent = none → 0 < c.count → c.count + x.count < c.nmem → Runs (.collectivePartial n x) s (fun t => ∃ d : CollCtx,
        t.collCtx x.cid = some d ∧ d.count = c.count + x.count ∧ d.members = c.members ∧ n.val ∈ d.children ∧
        d.value = encodeInt (collCombine c.op (collInt c.op (collWidth c.op c.width) c.value) (collInt c.op (collWidth c.op c.width) x.value))
          (collWidth c.op c.width) ∧ t = { s with fabric := t.fabric })) ∧
    (∀ (x : Partial) (c : CollCtx) (port : Option (Fin 8)), s.collCtx x.cid = some c →
      Runs (.collectiveResult x ⟨0, port⟩) s (fun t => t.fabric.coll = s.fabric.coll.filter (fun d => decide (d.cid ≠ c.cid)) ∧
        (∀ m ∈ c.members, m.part < 4 → t.flag (pendBit (0x1CA + m.part)) = true) ∧
        ∀ m a b, c.members = [m] → m.res = true → hearthAt m.part m.dst (8 * cdiv (collWidth c.op c.width) 64) = some a →
          hearthAt m.part m.stat 8 = some b → (a + 8 * cdiv (collWidth c.op c.width) 64 ≤ b ∨ b + 8 ≤ a) →
          t.hearthRead b 8 = leBytes 8 (c.cid.toNat * 2 ^ 32 + 1) ∧
          t.hearthRead a (8 * cdiv (collWidth c.op c.width) 64) = leBytes (8 * cdiv (collWidth c.op c.width) 64)
            (encodeInt (collInt c.op (collWidth c.op c.width) x.value) (64 * cdiv (collWidth c.op c.width) 64))) ∧
      (let ended (code : Nat) (t : State) : Prop := t.fabric.coll = s.fabric.coll.filter (fun d => decide (d.cid ≠ c.cid)) ∧
        (∀ m ∈ c.members, m.part < 4 → t.flag (pendBit (0x1CA + m.part)) = true ∧ t.flag Reg.FAB_ERR_COLL = true) ∧
        ∀ m b, c.members = [m] → hearthAt m.part m.stat 8 = some b → t.hearthRead b 8 = leBytes 8 (c.cid.toNat * 2 ^ 32 + code * 256 + 3);
      Runs (.collectiveTimeout x.cid) s (ended 3) ∧ ∀ code, code ≠ 0 → Runs (.collectiveResult x ⟨code, port⟩) s (ended code))) ∧
    (∀ (x : Partial) (code n : Nat) (port : Option (Fin 8)), code ≠ 0 → s.collCtx x.cid = none → s.treePorts = [n] → port.map (·.val) ≠ some n →
      s.portUp n = true → (s.port n).queue = [] → (s.port n).unacked.length < 128 → 0 < (s.port n).credits.getD (vcOf 2 false) 0 →
      Runs (.collectiveResult x ⟨code, port⟩) s (fun t => ∃ (f : Frame) (k : Packet), t.out = s.out ++ [.frame n f] ∧ k.cls = 2 ∧ k.data = [] ∧
        f.slots = frameSlots false k ++ List.replicate 14 idleSlot))

/-- A detected fault reaches its partition (R364-R366, R370, R376, R387): it is recorded in the log queue, alone where no job is open or its
tile is out of service, else with the action of its kind, which the partition's recovery then has; it is an error in every Flue stream and result that
its step does not lie above (R105, R367). A bad Cord entry reaches the partition of its tile (R365), a parity error of a Kindling program or a route entry
the block that holds it, one of shared scratch that a DMA channel read stops the channel; a machine check stops the sequencer, fails its job and resets
the partition; a requested rollback starts one in every partition named that is not halted; and the log is read oldest first. The units that name the
latter two, and from which step a fault without one counts, are the model's choice (log entries 40 and 47). -/
def Obligations.FaultsStartTheirRecovery : Prop :=
  (∀ (f : FaultInfo) (s : State), f ∈ s.detected → f.shared = false → f.kind ≠ 0xC → s.recLog.length < 64 →
    (s.recordOnly f = true → Runs (.faultReport f) s (fun t => t.detected = s.detected.erase f ∧ t.recLog = s.recLog ++ [recEntry f 0 false] ∧
      (f.step = none → t.recovery = s.recovery ∧ (firstAction f = 0 → t.parts = s.parts)) ∧ t.seqs = s.seqs ∧ t.peMem = s.peMem ∧ t.pes = s.pes ∧ t.hearth = s.hearth)) ∧
    (s.recordOnly f = false → s.recov f.part = none → (s.seq f.part).ckpt = none →
      let a := if firstAction f = 2 then s.rollbackOr f.part else firstAction f
      a = 1 ∨ a = 2 → Runs (.faultReport f) s (fun t => t.detected = s.detected.erase f ∧ t.recLog = s.recLog ++ [recEntry f a false] ∧
        t.get (Reg.RST_RECSTAT_STATE f.part) = a ∧ t.recov f.part = some ⟨f, a, 0, [], none, 0, false⟩ ∧ t.flag (pendBit (0x1D0 + f.part.val)) = true ∧
        t.peMem = s.peMem ∧ t.pes = s.pes ∧ t.hearth = s.hearth)) ∧
    (firstAction f ≠ 0 → f.kind ≠ 0xD →
      (s.recordOnly f = true ∨ s.recov f.part = none ∧ (s.seq f.part).ckpt = none ∧
        (let a := if firstAction f = 2 then s.rollbackOr f.part else firstAction f
         a = 1 ∨ a = 2)) →
      let n := (f.step.map (·.toNat)).getD (s.part f.part).confirmed
      Runs (.faultReport f) s (fun t => (∀ x ∈ (t.part f.part).results, n < x.upto → x.failed = true) ∧
        ∀ x ∈ (t.part f.part).streams, n ≤ x.last → x.failed = true))) ∧
  (∀ (f : FaultInfo) (s : State), f ∉ s.detected → f.kind = 9 → f.shared = false → s.recordOnly (s.attributed f) = true → s.recLog.length < 64 →
    Runs (.faultReport f) s (fun t => (f.unit % 1024, f.unit / 1024) ∈ t.cordBad ∧ t.recLog = s.recLog ++ [recEntry (s.attributed f) 0 false] ∧
      (s.attributed f).part.val = s.get (Reg.TRF_CFG_PART (turfOfTile (f.unit % 1024))) ∧
      t.seqs = s.seqs ∧ t.peMem = s.peMem ∧ t.pes = s.pes ∧ t.hearth = s.hearth)) ∧
  (∀ (f : FaultInfo) (s : State), f ∉ s.detected → f.kind = 0 →
    (f.unit < 2048 → Runs (.faultReport f) s (fun t => f.unit ∈ t.kdl.bad ∧ t = { s with kdl := { s.kdl with bad := t.kdl.bad } })) ∧
    (2 ^ 16 ≤ f.unit → f.unit < 2 ^ 17 → exec (.faultReport f) s = .next (s.set (Reg.FAB_ROUTE_ENTRY (f.unit - 2 ^ 16)) 0))) ∧
  (∀ (f : FaultInfo) (s : State), f ∉ s.detected → f.kind = 8 → 12 ≤ f.unit → f.unit < 28 → f.shared = false → f.step = none → s.recLog.length < 64 →
    let c := f.unit - 12
    s.get (Reg.DMA_STAT_STATE c) = 1 → Runs (.faultReport f) s (fun t => t.get (Reg.DMA_STAT_STATE c) = 2 ∧ t.get (Reg.DMA_STAT_ERR c) = dmaData ∧
      t.recLog = s.recLog ++ [recEntry f 0 false] ∧ t.recovery = s.recovery ∧ t.peMem = s.peMem)) ∧
  (∀ (f : FaultInfo) (s : State), f ∉ s.detected → f.shared = false → f.kind = 0xC → s.rst.module = none → s.optMcWarm = false →
    f.unit / 2 ^ 16 % 16 ≤ 1 → (s.seq f.part).haltReq = false → bitAt (s.get Reg.DBG_HALT_HALTED) f.part = 0 →
    Runs (.faultReport f) s (fun t => t.get (Reg.SEQ_STATE_STATE f.part) = seqStopped ∧ (t.seq f.part).job = none ∧ (t.seq f.part).micro = none ∧
      t.flag (pendBit (0x0A4 + f.part.val)) = true ∧ t.recov f.part = none ∧ (SMap.get none t.rst.targets f.part).isSome = true ∧
      t.peMem = s.peMem ∧ t.imem = s.imem)) ∧
  (∀ (mask : BitVec 4) (s : State), Runs (.rollbackRequest mask) s (fun t =>
    (∀ p : SeqId, mask.getLsbD p = true → s.halted p = false → s.recov p = none → (s.seq p).ckpt = none →
      t.get (Reg.RST_RECSTAT_STATE p) = s.rollbackOr p) ∧
    (∀ p : SeqId, mask.getLsbD p = false ∨ s.halted p = true → t.recov p = s.recov p))) ∧
  (∀ s : State, s.recLog.length ≤ 64 → Runs .recoveryLogRead s (fun t => t.out = s.out ++ [.readData (leBytes 8 (s.recLog.headD 0).toNat)] ∧
    t.recLog = s.recLog.tail ∧ t.get Reg.RST_RECLVL_LEVEL = s.recLog.length - 1 ∧ t = { s with regs := t.regs, recLog := t.recLog, out := t.out }))

/-- A replay puts the registers back to the snapshot of the faulting macro-instruction, discards the bursts, and starts again at a step number
congruent to the first one, all that follows as much later (R149, R369, R371); then each macro-instruction is issued again in order. A slot whose parity
bit does not match turns it into a rollback whose record carries ESC (R376). A rollback puts the partition into the state of its checkpoint at such a
step number, its planes by the packets of its IN transfers, and the re-run resumes there (R150, R240, R372, R385); a checkpoint that cannot be read makes
a partition reset of it. The kind of the record of a bad slot is the model's choice (log entry 47). -/
def Obligations.ReplayAndRollbackRestore : Prop :=
  ∀ (p : SeqId) (s : State) (r : Recovery), s.recov p = some r → s.halted p = false → 0 < s.frameLen p →
    (∀ (o : OpenMacro) (os : List OpenMacro), r.action = 1 → r.stage < 2 → (s.part p).opened = o :: os → r.fault.step = none →
      (s.slotBad p o = false → Runs (.replay p) s (fun t => ∃ sr, (s.part p).step ≤ sr ∧ sr < (s.part p).step + s.frameLen p ∧
        sr % s.frameLen p = o.first % s.frameLen p ∧
        t.get (Reg.SEQ_NEXTSTEP_STEP p) = sr % 2 ^ 64 ∧ (t.part p).step = sr ∧ (t.part p).issue = [] ∧ (t.part p).buffer = [] ∧
        (t.part p).draught = [] ∧ (t.part p).shift = (s.part p).shift + (sr - o.first) ∧
        (∀ i ∈ s.pesOf p, t.pe i = SMap.get PeRegs.reset o.snap i) ∧ (∀ i, i ∉ s.pesOf p → t.pe i = s.pe i) ∧
        (∃ r', t.recov p = some r' ∧ r'.stage = 2 ∧ r'.action = 1 ∧ r'.sr = sr ∧ o.later (sr - o.first) ∈ r'.todo) ∧
        t.get (Reg.RST_REPLAYS_COUNT p) = (s.get (Reg.RST_REPLAYS_COUNT p) + 1) % 2 ^ 64 ∧ t.hearth = s.hearth ∧
        ((s.net.sync s.mesh).still = true → t.peMem = s.peMem ∧
          (t.seq p).job = (s.seq p).job.map (fun j => { j with replays := j.replays + 1 })))) ∧
      (s.slotBad p o = true → s.recLog.length < 64 → Runs (.replay p) s (fun t => t.get (Reg.RST_RECSTAT_STATE p) = s.rollbackOr p ∧
        (∃ r', t.recov p = some r' ∧ r'.action = s.rollbackOr p ∧ r'.esc = true ∧ r'.stage = 0) ∧
        t.recLog = s.recLog ++ [recEntry ⟨5, p, none, p, false⟩ (s.rollbackOr p) true] ∧ t.peMem = s.peMem ∧ t.pes = s.pes))) ∧
    (∀ (o : OpenMacro) (os : List OpenMacro), r.action = 1 → r.stage = 2 → r.todo = o :: os → (s.part p).issue = [] → (s.seq p).micro = none →
      (s.part p).stopped = false → (∀ u, r.unfinished = some u → u.first ≠ o.first) → aopMn o.disp.aop = some .idle →
      s.patchedAop p o.disp.aop = false → 0 < o.disp.param.toNat → o.disp.param.toNat ≤ 8192 → Runs (.replay p) s (fun t =>
        let n := o.disp.param.toNat
        let first := s.get (Reg.SEQ_NEXTSTEP_STEP p)
        ∃ b, t.recov p = some { r with todo := os } ∧ (t.part p).issue = [b] ∧ b.count = n ∧
          (t.part p).opened = (s.part p).opened ++ [⟨o.disp, first, first + n, s.pes, slotParity s.pes⟩] ∧
          t.get (Reg.SEQ_NEXTSTEP_STEP p) = (first + n) % 2 ^ 64 ∧ t.peMem = s.peMem ∧ t.pes = s.pes)) ∧
    (∀ c : SavedSeq, r.action = 2 → r.stage = 0 → SMap.get none s.saved p = some c → s.ckptUp p c = true → (s.diesOf p).all s.dieEngines = true →
      s.hbmRead (s.ckptBase p c) 4096 = c.header → Runs (.rollback p) s (fun t =>
      let dieOf (u : Nat) : Nat := 2 * (u / 32) + u % 8 / 4
      let base (die : Nat) : Nat := 0x800000000 * die + s.get (Reg.HBM_CKPT_OFF p)
      t.recov p = some { r with stage := 1, todo := [], unfinished := none } ∧ (t.part p).step % s.frameLen p = c.step % s.frameLen p ∧
      (s.part p).step ≤ (t.part p).step ∧ (t.part p).step < (s.part p).step + s.frameLen p ∧
      (t.part p).shift = c.shift + ((t.part p).step - c.step) ∧
      t.get (Reg.SEQ_NEXTSTEP_STEP p) = (t.part p).step % 2 ^ 64 ∧ (t.part p).issue = [] ∧ (t.part p).opened = [] ∧ (t.part p).results = [] ∧
      t.pc p = c.pc / 4 * 4 % 0x100000 ∧ (t.seq p).sst = c.sst ∧ (t.seq p).fsr = c.fsr ∧ t.get (Reg.SEQ_LEN_FLA p) = c.fla % 2 ^ 14 ∧
      t.get (Reg.SEQ_IVEC_IEN p) = c.ien % 2 ∧ t.get (Reg.SEQ_RSV_VALID p) = 0 ∧ (∀ i, s.owns p (turfOfPe i) = true → t.pe i = PeRegs.reset) ∧
      t.get (Reg.RST_ROLLBACKS_COUNT p) = (s.get (Reg.RST_ROLLBACKS_COUNT p) + 1) % 2 ^ 64 ∧
      t.hearthRead (0x200000 * p) 0x200000 = readBytes s.hbm (base ((c.turfs.map dieOf).foldl min 3) + 0x1000) 0x200000 ∧
      SameHearth (0x200000 * p) 0x200000 s t ∧ t.hbm = s.hbm ∧ t.imem = s.imem ∧
      (s.flag (Reg.RST_SUBST_V p) = false → s.mesh = [] → s.net = Net.reset → (∀ u ∈ c.turfs, u < 64 ∧ s.phase u = 0) →
        (∀ i, turfOfPe i ∉ c.turfs → t.peMemory i = s.peMemory i) ∧
        ∀ u n j q g m, u ∈ c.turfs → (c.turfs.filter (fun v => decide (dieOf v = dieOf u))).findIdx? (fun v => decide (v = u)) = some n →
          j < 16 → q < c.len → c.len ≤ 8192 → g < 64 → m < 64 →
          (t.peMemory (peOfTile ((tilesOfTurf u).getD j 0) g m)).getLsbD ((c.bit0 + q) % 8192) =
            (SMap.get 0 s.hbm (base (dieOf u) + 0x201000 + 512 * c.len * (16 * n + j) + 512 * q + 8 * g + m / 8)).getLsbD (m % 8)))) ∧
    (r.action = 2 → r.stage = 0 → SMap.get none s.saved p = none → r.fault.part = p → Runs (.rollback p) s (fun t => t.get (Reg.RST_RECSTAT_STATE p) = 3 ∧
      (∃ r', t.recov p = some r' ∧ r'.action = 3 ∧ r'.esc = true) ∧ t.peMem = s.peMem ∧ t.pes = s.pes)) ∧
    (r.action = 2 → r.stage = 1 → (s.seq p).disabled = false → Runs (.rollbackResume p) s (fun t => t.recov p = some { r with stage := 2 } ∧
      t.get (Reg.SEQ_STATE_STATE p) = seqRunning ∧ SameRegs [(Reg.SEQ_STATE_STATE p).off] s t ∧ t = { s with regs := t.regs, recovery := t.recovery }))

/-- Repair and march tests (R381, R382, R386): RST_REPAIR on a turf in state 0 or 4 puts the spare column in use or retires the turf, and
appends its record, a refusal leaves the map and records its code; a march test sets its turf's state to 5 and, at its end, shows its
findings and raises source 0x1D5, PE memory being 0 after a destructive one. -/
def Obligations.RepairsAndMarchTests : Prop :=
  (∀ (tile : TileId) (col : BitVec 6) (s : State), s.moduleReset = false →
    (s.outOfService (turfOfTile tile) = true → s.flag (Reg.RST_RMAP_RET tile) = false →
      (s.flag (Reg.RST_RMAP_V tile) = false ∨ s.get (Reg.RST_RMAP_COL tile) = col.toNat) → Runs (.columnRepair tile col) s (fun t =>
        t.get Reg.RST_REPST_CODE = 0 ∧ t.get Reg.RST_REPST_VALID = 1 ∧ t.get (Reg.RST_RMAP_V tile) = 1 ∧ t.get (Reg.RST_RMAP_COL tile) = col.toNat ∧
        (∃ n, t.softRepair = s.softRepair ++ [softRecord n false tile col.toNat]) ∧ (∀ i, tileOfPe i ≠ tile.val → t.peMemory i = s.peMemory i) ∧
        SameRegs [(Reg.RST_RMAP_V tile).off, Reg.RST_REPST_CODE.off] s t ∧
        t = { s with regs := t.regs, peMem := t.peMem, softRepair := t.softRepair, free := s.free + 1 })) ∧
    (s.outOfService (turfOfTile tile) = false → Runs (.columnRepair tile col) s (fun t => t.get Reg.RST_REPST_CODE = 1 ∧
      t.get Reg.RST_REPST_VALID = 1 ∧ t = { s with regs := t.regs } ∧ SameRegs [Reg.RST_REPST_CODE.off] s t)) ∧
    (s.outOfService (turfOfTile tile) = true → s.flag (Reg.RST_RMAP_RET tile) = false → s.flag (Reg.RST_RMAP_V tile) = true →
      s.get (Reg.RST_RMAP_COL tile) ≠ col.toNat → Runs (.columnRepair tile col) s (fun t => t.get Reg.RST_REPST_CODE = 2 ∧
        t.get Reg.RST_REPST_VALID = 1 ∧ t = { s with regs := t.regs } ∧ SameRegs [Reg.RST_REPST_CODE.off] s t)) ∧
    (s.outOfService (turfOfTile tile) = true → s.flag (Reg.RST_RMAP_RET tile) = true → (Runs (.retire tile) s (fun t =>
      t.get Reg.RST_REPST_CODE = 3 ∧ t = { s with regs := t.regs } ∧ SameRegs [Reg.RST_REPST_CODE.off] s t)) ∧
      exec (.columnRepair tile col) s = exec (.retire tile) s) ∧
    (s.outOfService (turfOfTile tile) = true → s.flag (Reg.RST_RMAP_RET tile) = false → Runs (.retire tile) s (fun t =>
      t.get Reg.RST_REPST_CODE = 0 ∧ t.get Reg.RST_REPST_VALID = 1 ∧ (∀ k ∈ tilesOfTurf (turfOfTile tile), t.get (Reg.RST_RMAP_RET k) = 1) ∧
      t.flag (wdrawBit (turfOfTile tile)) = true ∧ (t.fence (turfOfTile tile)).wdraw = true ∧
      (∃ n, t.softRepair = s.softRepair ++ [softRecord n true tile 0]) ∧ t.peMem = s.peMem ∧ t.pes = s.pes))) ∧
  (∀ (u : TurfId) (keep : Bool) (s : State),
    (SMap.get none s.march u = none → s.outOfService u = true → s.moduleReset = false → Runs (.marchTestStart u keep) s (fun t =>
      t.get (Reg.TRF_STATE_STATE u) = 5 ∧ t.get (Reg.RST_MTST_BUSY u) = 1 ∧ t.get (Reg.RST_MTST_MODE u) = bnat keep ∧
      t.get (Reg.RST_MTST_REF u) = 0 ∧ SMap.get none t.march u = some ⟨keep, s.get (Reg.TRF_STATE_STATE u)⟩ ∧
      bitAt (t.get Reg.PWR_TURFOFF_OFF) u = 0 ∧ t = { s with regs := t.regs, march := t.march })) ∧
    (SMap.get none s.march u = none → s.outOfService u = false → s.moduleReset = false → Runs (.marchTestStart u keep) s (fun t => t.get (Reg.RST_MTST_REF u) = 1 ∧
      t = { s with regs := t.regs } ∧ SameRegs [(Reg.RST_MTST_REF u).off] s t)) ∧
    ((SMap.get none s.march u).isSome = true → s.moduleReset = false → Runs (.marchTestStart u keep) s (fun t => t.get (Reg.RST_MTST_REF u) = 2 ∧
      t = { s with regs := t.regs } ∧ SameRegs [(Reg.RST_MTST_REF u).off] s t)) ∧
    (∀ (x : March) (psave : Bool) (found : List (Nat × MarchTile)), SMap.get none s.march u = some x →
      Runs (.marchTestEnd u psave found) s (fun t => SMap.get none t.march u = none ∧ t.get (Reg.RST_MTST_DONE u) = 1 ∧
        t.get (Reg.RST_MTST_BUSY u) = 0 ∧ t.get (Reg.RST_MTST_PSAVE u) = bnat (x.preserving && psave) ∧
        (t.get (Reg.RST_MTST_FAIL u) = 1 ↔ ∃ e ∈ found, turfOfTile e.1 = u.val ∧ marchFailed e.2 = true) ∧ t.flag (pendBit 0x1D5) = true ∧
        (x.back = 0 → (s.fence u).loader = false → t.get (Reg.TRF_STATE_STATE u) = 0) ∧
        (x.back = 4 → (s.fence u).wdraw = true → t.get (Reg.TRF_STATE_STATE u) = 4) ∧ t.pes = s.pes ∧
        (x.preserving = true → t.peMem = s.peMem) ∧ (x.preserving = false → ∀ i, turfOfPe i = u.val → t.peMemory i = 0) ∧
        (∀ i, turfOfPe i ≠ u.val → t.peMemory i = s.peMemory i))))

/-- Reset sources (R310, R388-R391, R396-R398, R405): a cold or warm source asserts the module with its reach, counts its cause, holds the
module idle and clears it, HBM being kept by a warm one; a source with reach partition or block waits on its target, whose turfs it
fences, or which is held still while REFCLK is absent. A second assertion of a level source that stands changes nothing. -/
def Obligations.SourcesAssertTheirReach : Prop :=
  ∀ s : State, SMap.wf resetValue s.regs = true → s.rst.module = none → s.rst.boot = none →
    let whole (src reach : Nat) (t : State) : Prop := t.rst.module.map (fun x => (x.reach, x.src, x.idle)) = some (reach, src, true) ∧
      t.rst.targets = [] ∧ t.get (Reg.RST_ASHCNT_COUNT src) = min (s.get (Reg.RST_ASHCNT_COUNT src) + 1) 0xFFFF ∧ t.peMem = [] ∧ t.pes = [] ∧
      t.parts = [] ∧ t.hearth = [] ∧ t.imem = [] ∧ t.mesh = [] ∧ t.detected = [] ∧ t.hbm = (if reach = 4 then [] else s.hbm) ∧
      ∀ p : SeqId, t.get (Reg.SEQ_STATE_STATE p) = seqStopped ∧ t.get (Reg.SEQ_NEXTSTEP_STEP p) = 0
    let one (src reach key : Nat) (t : State) : Prop :=
      (SMap.get none t.rst.targets key).map (fun x => (x.reach, x.src, x.idle)) = some (reach, src, false) ∧
      t.get (Reg.RST_ASHCNT_COUNT src) = min (s.get (Reg.RST_ASHCNT_COUNT src) + 1) 0xFFFF ∧ t.imem = s.imem ∧
      (key < 288 ∨ 303 < key ∨ s.get (Reg.DMA_STAT_STATE (key - 288)) ≠ 1 → t.peMem = s.peMem ∧ t.hbm = s.hbm)
    let fenced (p : SeqId) (t : State) : Prop := bitAt (t.get Reg.RST_STAT_PARTRST) p = 1 ∧
      (s.rst.refclk = true → ∀ u ∈ s.turfsOf p, (t.fence u).reset = true ∧ t.phase u ≠ 0) ∧
      (s.rst.refclk = false → t.get (Reg.SEQ_STATE_STATE p) ≠ seqRunning ∧ t.get (Reg.SEQ_STATE_STATE p) ≠ seqWaiting ∧ (t.seq p).micro = none ∧
        (t.part p).issue = [] ∧ (t.part p).buffer = [] ∧ ∀ l ∈ t.links, l.part ≠ p.val)
    (s.level 1 = false → Runs (.poweron true false) s (fun t => whole 1 4 t ∧ t.level 1 = true)) ∧
    (s.level 1 = true → exec (.poweron true false) s = .next s) ∧
    Runs (.poweron true true) s (fun t => t.rst.module.map (fun x => (x.reach, x.src)) = some (4, 1) ∧ t.rst.hold = false ∧
      t.get (Reg.RST_ASHCNT_COUNT 1) = 1 ∧ ∀ c, c < 16 → c ≠ 1 → t.get (Reg.RST_ASHCNT_COUNT c) = 0) ∧
    Runs (.poweron false false) s (fun t => t.level 1 = false ∧ t = { s with rst := t.rst } ∧ t.rst.module = s.rst.module) ∧
    (s.level 2 = false → Runs (.drwLongLow true) s (fun t => whole 2 4 t ∧ t.level 2 = true ∧
      ((∀ d, d < 5 → SMap.get 0 s.rst.temps d < 100) → t.rst.hold = false))) ∧
    (s.level 3 = false → Runs (.perst true) s (fun t => whole 3 (if s.optPerstCold then 4 else 3) t ∧ t.level 3 = true)) ∧
    Runs (.drwLongLow false) s (fun t => t.level 2 = false) ∧ Runs (.perst false) s (fun t => t.level 3 = false ∧ t = { s with rst := t.rst }) ∧
    Runs .hotReset s (whole 4 3) ∧ (s.ep.linkUp = true → Runs .linkDownReset s (whole 5 3)) ∧
    Runs (.software 3 0) s (whole 7 3) ∧ Runs (.software 4 0) s (whole 7 4) ∧
    (∀ fw addr, Runs (.controllerStateParity fw addr) s (whole 9 3)) ∧
    (∀ (die : Fin 5) (v : Byte), 115 ≤ v.toNat → s.rst.hold = false → Runs (.thermalTrip die v) s (fun t => whole 0x0A 4 t ∧ t.rst.hold = true)) ∧
    (∀ p : SeqId, SMap.get none s.rst.targets p = none →
      Runs (.software 2 (BitVec.ofNat 8 p)) s (fun t => one 7 2 p t ∧ fenced p t) ∧
      (p.val < s.vfs → Runs (.flr ⟨p + 1, by omega⟩) s (fun t => one 6 2 p t ∧ fenced p t ∧ (t.ring p).slots = [] ∧
        (∀ v, v < 256 → t.ep.masked (p + 1) v = true) ∧ t.ep.fnMask.getLsbD (p + 1) = false ∧ t.ep.d3hot.getLsbD (p + 1) = false ∧
        ∀ m ∈ t.ep.pba, m.1 ≠ p + 1)) ∧
      (s.flag (Reg.RST_WDCFG_EN p) = true → s.wdHeld p = false → s.optWdWarm = false → Runs (.watchdog p) s (fun t => one 8 2 p t ∧ fenced p t ∧
        t.get (Reg.RST_WDCFG_EN p) = 0 ∧ t.get (Reg.RST_WDCNT_REMAIN p) = 0))) ∧
    (∀ b : Byte, isBlock b.toNat = true → SMap.get none s.rst.targets (256 + b.toNat) = none →
      Runs (.software 1 b) s (one 7 1 (256 + b.toNat)))

/-- The sequence of a reset (R390, R392, R394, R402-R404, R222, R408): a pending target that is idle is marked so, and is released once the
clock runs and no module reset stands: the partition is cleared and its cause shown, PE memory and the memories of its sequencer staying
as they were; the module's release begins its boot, whose end is recorded; the stacks train, READY is set once none still does; and the
clock's loss is shown. -/
def Obligations.ResetsRunTheirSequence : Prop :=
  (∀ (p : SeqId) (s : State) (x : Pending), SMap.get none s.rst.targets p = some x → s.rst.refclk = true →
    (s.targetIdle p = true → Runs (.idleReached (.part p)) s (fun t => SMap.get none t.rst.targets p = some { x with idle := true } ∧
      t = { s with rst := t.rst })) ∧
    (x.idle = false → s.get Reg.RST_IDLETMO_TMO ≠ 0 → (∀ i ∈ x.record, i < 32) → Runs (.idleTimeout (.part p)) s (fun t =>
      SMap.get none t.rst.targets p = some { x with idle := true } ∧ (t.part p).issue = [] ∧ (t.part p).draught = [] ∧ (t.part p).buffer = [] ∧
      (∀ l ∈ t.links, l.part ≠ p.val) ∧ ∀ u ∈ s.turfsOf p, s.phase u = 1 ∨ s.phase u = 2 → t.phase u = 3)) ∧
    (x.idle = true → s.rst.module = none → SMap.wf resetValue s.regs = true → Runs (.resetRelease (.part p)) s (fun t =>
      SMap.get none t.rst.targets p = none ∧ t.part p = Part.reset ∧ t.get (Reg.SEQ_STATE_STATE p) = seqStopped ∧
      t.get (Reg.SEQ_NEXTSTEP_STEP p) = 0 ∧ t.pc p = 4 * t.get (Reg.SEQ_ENTRY_ENTRY p) ∧ (t.seq p).job = none ∧
      bitAt (t.get Reg.RST_STAT_PARTRST) p = 0 ∧ t.get Reg.RST_STAT_LASTREACH = x.reach % 8 ∧ t.get Reg.RST_STAT_LASTSRC = x.src % 256 ∧
      t.flag (pendBit 0x1D7) = true ∧ (∀ i, s.owns p (turfOfPe i) = true → turfOfPe i < 64 → t.pe i = PeRegs.reset) ∧ t.peMem = s.peMem ∧
      t.hearth = s.hearth ∧ t.imem = s.imem))) ∧
  (∀ (s : State) (x : Pending), s.rst.module = some x → s.rst.levels = [] → s.rst.refclk = true → s.rst.hold = false →
    Runs (.resetRelease .module) s (fun t => t.rst.module = none ∧ t.rst.boot = some (x.reach, x.src) ∧ t.peMem = [] ∧ t.parts = [] ∧
      t.out = s.out)) ∧
  (∀ (s : State) (info : BootInfo) (src : Nat),
    let bare (t : State) : Prop := t.get Reg.RST_BOOT_FWFAIL = 1 ∧ t.get Reg.HST_SIFBOOT_SLOT = 2 ∧ t.get Reg.HST_SIFBOOT_CODEA = 0x05 ∧
      t.get Reg.HST_SIFBOOT_CODEB = 0x05 ∧ ∀ p : SeqId, info.sweepFail.getLsbD p = true → (t.seq p).disabled = true
    (s.rst.boot = some (4, src) → Runs (.coldBoot info) s (fun t => t.rst.boot = none ∧ t.get Reg.RST_STAT_LASTREACH = 4 ∧
      t.get Reg.RST_STAT_LASTSRC = src % 256 ∧ t.get Reg.PWR_STAT_TRIPPED = bnat (decide (src = 0x0A)) ∧
      (s.flash = [] → bare t))) ∧
    (s.rst.boot = some (3, src) → Runs (.warmBoot info) s (fun t => t.rst.boot = none ∧ t.get Reg.RST_STAT_LASTREACH = 3 ∧
      t.get Reg.RST_STAT_LASTSRC = src % 256 ∧ (s.flash = [] → bare t)))) ∧
  (∀ (n : Fin 8) (s : State), s.get (Reg.HBM_STAT_STATE n) = 1 →
    (∀ r : Fin 3, s.get (Reg.HBM_CFG_RATE n) % 3 ≤ r.val → s.phase (64 + n) < 3 → Runs (.hbmTrainingComplete n (some r) false) s (fun t =>
      t.get (Reg.HBM_STAT_STATE n) = 2 ∧ t.get (Reg.HBM_STAT_RATE n) = r.val ∧
      (s.get (Reg.HBM_CFG_RATE n) % 3 < r.val → t.get (Reg.HBM_ERR_TRAIN n) = 1 ∧ t.flag (pendBit (0x0E2 + n.val)) = true))) ∧
    Runs (.hbmTrainingComplete n none false) s (fun t => t.get (Reg.HBM_STAT_STATE n) = 5 ∧ bitAt (t.get Reg.RST_BOOT_HBMFAIL) n = 1 ∧
      t.get (Reg.HBM_ERR_TRAIN n) = 1 ∧ ∀ a, hbmStack a ≠ n.val → SMap.get 0 t.hbm a = SMap.get 0 s.hbm a)) ∧
  (∀ (ms : BitVec 16) (s : State),
    (s.rst.boot = none → s.rst.module = none → s.flag Reg.RST_BOOT_FWFAIL = false → (∀ n : Fin 8, s.get (Reg.HBM_STAT_STATE n) ≠ 1) →
      Runs (.ready ms) s (fun t => t.get Reg.RST_BOOT_READY = 1 ∧ t.get Reg.RST_BOOT_MS = ms.toNat ∧ SameRegs [Reg.RST_BOOT_READY.off] s t ∧
        t = { s with regs := t.regs })) ∧
    ((∃ n : Fin 8, s.get (Reg.HBM_STAT_STATE n) = 1) ∨ s.flag Reg.RST_BOOT_FWFAIL = true → exec (.ready ms) s = .next s)) ∧
  (∀ s : State, Runs .refclkLoss s (fun t => t.rst.refclk = false ∧ (s.rst.levels = [] → s.rst.module = none → s.rst.targets = [] →
      s.rst.hold = false → t.get Reg.PWR_STAT_REFLOSS = 1) ∧ t = { s with regs := t.regs, rst := t.rst }) ∧
    Runs .refclkReturn s (fun t => t.rst.refclk = true ∧ t.pes = s.pes ∧
      ((∀ e ∈ s.rst.targets, e.1 < 288 ∨ 303 < e.1 ∨ s.get (Reg.DMA_STAT_STATE (e.1 - 288)) ≠ 1) → t.peMem = s.peMem ∧ t.hbm = s.hbm)) ∧
    Runs .ashClear s (fun t => (∀ c, c < 16 → t.get (Reg.RST_ASHCNT_COUNT c) = 0) ∧
      (∀ i j, i < 32 → j < 4 → t.get (Reg.RST_ASHREC_RECORD i j) = 0) ∧ t.get Reg.RST_ASHHEAD_NEWEST = 0 ∧ t.get Reg.RST_ASHHEAD_WRAPPED = 0 ∧
      t = { s with regs := t.regs, rst := t.rst })) ∧
  (∀ (u : TurfId) (s : State), bitAt (s.get Reg.PWR_TURFOFF_OFF) u = 1 → s.phase u = 4 →
    (s.flag (Reg.TRF_CFG_ASSIGNED u) = false ∨ (s.fence u).wdraw = true) → Runs (.turfOff u) s (fun t => t = { s with peMem := t.peMem } ∧
      ∀ i, turfOfPe i ≠ u.val → t.peMemory i = s.peMemory i)) ∧
  (∀ (u : TurfId) (s : State), bitAt (s.get Reg.PWR_TURFOFF_OFF) u = 0 ∨ s.phase u ≠ 4 → exec (.turfOff u) s = .next s)

/-- Watchdogs and temperature (R396, R405, R411): a watchdog enabled or kicked counts from 1,000 µs for each unit of TIMEOUT, at least one; a
reading of a sensor is shown with the highest so far, and the warning source is raised when a die first reaches the limit, and not again
before every die has fallen 5 °C below it. -/
def Obligations.WatchdogsAndTemperature : Prop :=
  (∀ (p : SeqId) (v : W32) (s : State), v.getLsbD 31 = true → Runs (.watchdogEnable p v) s (fun t => t.get (Reg.RST_WDCFG_EN p) = 1 ∧
    t.get (Reg.RST_WDCFG_FRZ p) = bitAt v.toNat 30 ∧ t.get (Reg.RST_WDCFG_TIMEOUT p) = v.toNat % 2 ^ 16 ∧
    t.get (Reg.RST_WDCNT_REMAIN p) = 1000 * max 1 (v.toNat % 2 ^ 16) ∧ t = { s with regs := t.regs } ∧
    SameRegs [(Reg.RST_WDCFG_EN p).off, (Reg.RST_WDCNT_REMAIN p).off] s t)) ∧
  (∀ (mask : BitVec 4) (s : State), Runs (.watchdogKick mask) s (fun t => t = { s with regs := t.regs } ∧ ∀ p : SeqId,
    t.get (Reg.RST_WDCNT_REMAIN p) = if mask.getLsbD p = true ∧ s.flag (Reg.RST_WDCFG_EN p) = true
      then 1000 * max 1 (s.get (Reg.RST_WDCFG_TIMEOUT p)) else s.get (Reg.RST_WDCNT_REMAIN p))) ∧
  (∀ (die : Fin 5) (v : Byte) (s : State),
    let shown (t : State) : Prop := t.get (Reg.PWR_TEMP_NOW die) = v.toNat ∧
      t.get (Reg.PWR_TEMP_PEAK die) = max (s.get (Reg.PWR_TEMP_PEAK die)) v.toNat ∧ SMap.get 0 t.rst.temps die = v.toNat ∧
      (s.get Reg.PWR_TWARN_LIMIT ≤ v.toNat → t.get Reg.PWR_STAT_TWARN = 1 ∧ t.rst.warned = true ∧
        (s.rst.warned = false → t.flag (pendBit 0x1D6) = true)) ∧ (s.rst.warned = true → t.out = s.out ∧ t.flag (pendBit 0x1D6) = s.flag (pendBit 0x1D6)) ∧
      (v.toNat + 5 ≤ s.get Reg.PWR_TWARN_LIMIT → (∀ d, d < 5 → d ≠ die.val → SMap.get 0 s.rst.temps d + 5 ≤ s.get Reg.PWR_TWARN_LIMIT) →
        t.rst.warned = false ∧ t.get Reg.PWR_STAT_TWARN = 0) ∧ t.peMem = s.peMem ∧ t.rst.levels = s.rst.levels ∧ t.rst.module = s.rst.module
    Runs (.junctionSensorReading die v) s shown ∧ (s.get Reg.PWR_TWARN_LIMIT ≤ v.toNat → Runs (.thermalWarning die v) s shown))

/-- The store and the signature engine (R401, R417, R418, R420, R435): STORE is busy, is refused with its code and event, or takes the bytes
of the bank not in effect; its completion writes those bytes and no others, or leaves a torn bank; NVM_RDADDR is read on; SVNBURN raises
the minimum; and a report is made and signed once at a time. -/
def Obligations.StoresAndReports : Prop :=
  (∀ (area : BitVec 3) (s : State), s.moduleReset = false →
    (s.sec.store.isSome = true → Runs (.store area) s (fun t => t.get Reg.NVM_STAT_CODE = 1 ∧ t = { s with regs := t.regs } ∧
      SameRegs [Reg.NVM_STAT_CODE.off] s t)) ∧
    (∀ c, s.sec.store = none → s.storeContent area.toNat = .error c → Runs (.store area) s (fun t => t.get Reg.NVM_STAT_CODE = c % 256 ∧
      t.get Reg.NVM_STAT_DONE = 1 ∧ t.flag (pendBit (if c = 0 then 0x1E5 else 0x1E6)) = true ∧ t.sec = s.sec ∧ t.nvm = s.nvm)) ∧
    (5 < area.toNat → s.storeContent area.toNat = .error 2) ∧
    (∀ content cert, s.sec.store = none → s.storeContent area.toNat = .ok (content, cert) → Runs (.store area) s (fun t => ∃ j, t.sec.store = some j ∧
      j.area = area.toNat ∧ j.bytes = bankBytes area.toNat (s.storeBank area.toNat).2 content ∧
      j.off = bankAt area.toNat (s.storeBank area.toNat).1 ∧ t.get Reg.NVM_STAT_BUSY = 1 ∧ t.nvm = s.nvm ∧
      t = { s with regs := t.regs, sec := t.sec }))) ∧
  (∀ (s : State) (j : StoreJob), s.sec.store = some j →
    Runs (.storeComplete true) s (fun t => t.nvmBytes j.off j.bytes.length = j.bytes ∧
      (∀ a, a < j.off ∨ j.off + j.bytes.length ≤ a → SMap.get 0 t.nvm a = SMap.get 0 s.nvm a) ∧ t.sec.store = none ∧ j.off ∉ t.sec.torn ∧
      t.get Reg.NVM_STAT_BUSY = 0 ∧ t.get Reg.NVM_STAT_DONE = 1 ∧ t.get Reg.NVM_STAT_CODE = 0 ∧ t.flag (pendBit 0x1E5) = true ∧
      (j.area = 0 → t.get Reg.DBG_STAT_LOCKED = 0 ∧ t.get Reg.DBG_STAT_FAILS = 0)) ∧
    Runs (.storeComplete false) s (fun t => (∀ a, a < j.off ∨ j.off + j.bytes.length ≤ a → SMap.get 0 t.nvm a = SMap.get 0 s.nvm a) ∧
      t.sec.store = none ∧ j.off ∈ t.sec.torn ∧ t.get Reg.NVM_STAT_CODE = 8 ∧ t.get Reg.NVM_STAT_DONE = 1 ∧ t.flag (pendBit 0x1E6) = true)) ∧
  (∀ s : State,
    (let a := s.get Reg.NVM_RDADDR_ADDR / 4 * 4;
      (a + 4 ≤ 0x2000 ∨ 0x10000 ≤ a) → Runs .storeReadData s (fun t => t.out = s.out ++ [.readData (s.nvmBytes a 4)] ∧
        t.get Reg.NVM_RDADDR_ADDR = (a + 4) % 2 ^ 23 ∧ t = { s with regs := t.regs, out := t.out } ∧ SameRegs [Reg.NVM_RDADDR_ADDR.off] s t)) ∧
    Runs .storeReadData s (fun t => ∃ bs, t = { s.set Reg.NVM_RDADDR_ADDR (s.get Reg.NVM_RDADDR_ADDR / 4 * 4 + 4) with out := s.out ++ [.readData bs] }) ∧
    (s.moduleReset = true → exec .svnburn s = .next s ∧ ∀ area, exec (.store area) s = .next s) ∧
    (s.moduleReset = false → Runs .svnburn s (fun t => t.get Reg.SEC_SVN_MIN = s.get Reg.SEC_SVN_CUR ∧ t.get Reg.SEC_SVN_CUR = s.get Reg.SEC_SVN_CUR ∧
      t = { s with regs := t.regs } ∧ SameRegs [Reg.SEC_SVN_MIN.off] s t)) ∧
    (s.sec.report = none → Runs .attestation s (fun t => t.sec.report = some s.reportBody ∧ t.get Reg.SEC_ATTCTL_BUSY = 1 ∧
      t.get Reg.SEC_ATTCTL_DONE = 0 ∧ t.get Reg.SEC_STAT_ENGBUSY = 1 ∧ t = { s with regs := t.regs, sec := t.sec })) ∧
    (s.sec.report.isSome = true → exec .attestation s = .next s) ∧
    (∀ b, s.sec.report = some b → Runs .attestationDone s (fun t => t.sec.report = none ∧ t.get Reg.SEC_ATTCTL_DONE = 1 ∧
      t.get Reg.SEC_ATTCTL_BUSY = 0 ∧ t.flag (pendBit 0x1E7) = true ∧ (s.fabric.rcmd = none → t.get Reg.SEC_STAT_ENGBUSY = 0) ∧
      ∀ i, i < 169 → t.get (Reg.SEC_ATTREP_REPORT i) = leNat (((b ++ Config.identitySign (Config.sha512 b)).drop (4 * i)).take 4))))

/-- Debug sessions (R425-R427): the right password or a finished key exchange opens a session at the least of the levels that bound it, a
wrong one counts and locks at the limit, an open session or LOCKED refuses every opening; CLOSE, the idle time and KILL close it, with its
freezes released; and STATUS answers what it names. -/
def Obligations.SessionsOpenAndClose : Prop :=
  ∀ s : State,
    let opened (level : Nat) (t : State) : Prop := t.dbgOpen = true ∧ t.get Reg.DBG_STAT_LEVEL = level % 4 ∧ t.get Reg.DBG_STAT_FAILS = 0 ∧
      t.flag (pendBit 0x1E0) = true ∧ (level = 2 → t.get Reg.DBG_STAT_FULLSEEN = 1) ∧ t.dbg.kex = none ∧ t.peMem = s.peMem
    let failed (t : State) : Prop := t.dbgOpen = false ∧ t.get Reg.DBG_STAT_FAILS = min (s.get Reg.DBG_STAT_FAILS + 1) 255 ∧
      t.flag (pendBit 0x1E2) = true ∧ (s.optFailLimit ≤ min (s.get Reg.DBG_STAT_FAILS + 1) 255 → t.get Reg.DBG_STAT_LOCKED = 1 ∧
        t.flag (pendBit 0x1E3) = true) ∧ t.dbg.kex = none
    let closed (t : State) : Prop := t.dbgOpen = false ∧ t.get Reg.DBG_STAT_LEVEL = 0 ∧ t.get Reg.DBG_STAT_KEX = 0 ∧
      t.get Reg.DBG_TFRZ_FRZ = 0 ∧ t.dbg.own = 0 ∧ t.flag (pendBit 0x1E1) = true ∧ t.peMem = s.peMem ∧ t.hearth = s.hearth
    (s.dbgOpen = false → s.flag Reg.DBG_STAT_LOCKED = false →
      (∀ pw : List Byte, pw.length = 32 → s.optPwen = true → s.optPwHash ≠ 0 → (Config.sha512 pw).toNat = s.optPwHash →
        Runs (.openPw pw) s (fun t => opened (min s.optPwLevel s.optMaxLevel) t ∧ t.get Reg.DBG_STAT_KEX = 0)) ∧
      (∀ pw : List Byte, pw.length = 32 → s.optPwen = false ∨ s.optPwHash = 0 ∨ (Config.sha512 pw).toNat ≠ s.optPwHash →
        Runs (.openPw pw) s failed) ∧
      (∀ cert key level, cert.length = 296 → key.length = 132 → level < 256 → (s.certSigned cert = true → s.certAllows cert purposeDebug = true →
          Runs (.kexInit cert key level) s (fun t => (∃ x, t.dbg.kex = some x ∧ x.cert = cert ∧ x.key = key ∧ x.level = level) ∧
            t.free = s.free + 1 ∧ t = { s with free := t.free, dbg := t.dbg, out := t.out })) ∧
        (s.certSigned cert = false ∨ s.certAllows cert purposeDebug = false → Runs (.kexInit cert key level) s failed)) ∧
      (∀ x sig, s.dbg.kex = some x → sig.length = 132 → (verifies (certKey x.cert) x.signed sig = true → Runs (.kexFinish sig) s (fun t =>
          opened (min x.level (min (certLevel x.cert) s.optMaxLevel)) t ∧ t.get Reg.DBG_STAT_KEX = 1 ∧ t.dbg.key = x.secret)) ∧
        (verifies (certKey x.cert) x.signed sig = false → Runs (.kexFinish sig) s failed))) ∧
    (s.dbgOpen = true ∨ s.flag Reg.DBG_STAT_LOCKED = true → let code := if s.dbgOpen then dbgDenied else dbgLocked
      ∀ c : Instr, (∃ pw, c = .openPw pw) ∨ (∃ cert key level, c = .kexInit cert key level) ∨ (∃ sig, c = .kexFinish sig) → Runs c s (fun t =>
        (∃ check, t.out = s.out ++ [.debug code [] check]) ∧ t.regs = s.regs ∧ t.dbg.kex = s.dbg.kex)) ∧
    (s.dbgOpen = true → Runs .close s closed ∧ Runs .kill s closed ∧ (s.optIdle ≠ 0 → Runs .sessionIdleTimeout s closed) ∧
      Runs .debugStatus s (fun t => ∃ check, t.out = s.out ++ [.debug dbgOk (leBytes 4 (s.reg Reg.DBG_STAT_OPEN.off).toNat ++
        leBytes 4 (s.reg Reg.DBG_HALT_HALTED.off).toNat ++ (List.range 4).flatMap (fun p => leBytes 4 (s.reg (Reg.SEQ_STATE_STATE p).off).toNat)) check] ∧
        t.regs = s.regs))

/-- Debug accesses of a Full session (R428, R429, R432, R389): a read answers the bytes of its space and changes nothing but what it answers, in
space 0 as the registers stand once those that report the device are up to date, the PE registers beside PE memory in space 3 (log entry 33); a write puts its bytes there; writes to the ROMs, the store and the trace, and to the registers of security, are denied; PE memory is
written only in a frozen turf; turfs and blocks are frozen and released as the mask says. Without a session, or below its level, a command
is refused and has no effect. -/
def Obligations.DebugAccessesTheirSpaces : Prop :=
  ∀ s : State,
    let answers (code : Nat) (t : State) : Prop := ∃ data check, t.out = s.out ++ [.debug code data check]
    let refused (c : Instr) (code : Nat) : Prop := Runs c s (fun t => answers code t ∧ t = { s with dbg := t.dbg, out := t.out })
    (s.dbgOpen = false → (∀ sp a n, refused (.debugRead sp a n) dbgNoSession) ∧ (∀ sp a bs, refused (.debugWrite sp a bs) dbgNoSession) ∧
      (∀ r b, refused (.debugReset r b) dbgNoSession) ∧ (∀ m, refused (.debugHalt m) dbgNoSession) ∧ refused .close dbgNoSession) ∧
    (s.dbgOpen = true → s.get Reg.DBG_STAT_LEVEL < 2 → (∀ sp a bs, refused (.debugWrite sp a bs) dbgLevel) ∧ (∀ m, refused (.debugHalt m) dbgLevel) ∧
      (∀ m, refused (.turfFreeze m) dbgLevel) ∧ ∀ r b, refused (.debugReset r b) dbgLevel) ∧
    (s.dbgOpen = true → 1 ≤ s.get Reg.DBG_STAT_LEVEL → ∀ (sp : Byte) (a : W64) (n : Nat), sp.toNat < 128 → 0 < n → n ≤ 1024 →
      (sp ≠ 2 → (sp = 0 → ∀ r ∈ touched a.toNat n, reportsDevice r.2 = false) → ∀ d, s.peek sp.toNat a.toNat n = some d → Runs (.debugRead sp a n) s (fun t => ∃ check, t.out = s.out ++ [.debug dbgOk d check] ∧
        t = { s with dbg := t.dbg, out := t.out })) ∧
      (∀ d, sp = 0 → (s.senseAll a.toNat n).peek 0 a.toNat n = some d → Runs (.debugRead sp a n) s (fun t => (∃ check, t.out = s.out ++ [.debug dbgOk d check]) ∧
        t.peMem = s.peMem ∧ t.hearth = s.hearth ∧ t.hbm = s.hbm ∧ t.recLog = s.recLog ∧ t.kdl = s.kdl)) ∧
      (s.peek sp.toNat a.toNat n = none → refused (.debugRead sp a n) dbgFormat) ∧
      (a.toNat + n ≤ 0x2000000000 → s.hbmUp a.toNat n = true → s.peek 2 a.toNat n = some (readBytes s.hbm a.toNat n)) ∧
      (∀ tile bit, tileAt a.toNat n = some (tile, bit) → s.peek 3 a.toNat n = some (leBytes 8 (s.get (Reg.TRF_STEP_STEP (turfOfTile tile))) ++
        (List.range (n / 8)).flatMap (fun r => leBytes 8 (s.readRow tile r bit).toNat))) ∧
      (∀ tile bit, peRegAt a.toNat n = some (tile, bit) → s.peek 3 a.toNat n = some (leBytes 8 (s.get (Reg.TRF_STEP_STEP (turfOfTile tile))) ++
        (List.range (n / 8)).flatMap (fun r => leBytes 8 (s.regRow tile r bit).toNat))) ∧
      (a.toNat + n ≤ 0x800000 → s.peek 1 a.toNat n = some (s.hearthRead a.toNat n))) ∧
    (s.dbgOpen = true → s.get Reg.DBG_STAT_LEVEL = 2 →
      (∀ (a : W64) (bs : List Byte), bs ≠ [] → bs.length ≤ 1091 →
        (a.toNat + bs.length ≤ 0x800000 → Runs (.debugWrite 1 a bs) s (fun t => t.hearthRead a.toNat bs.length = bs ∧
          (∃ out check, t.out = out ++ [.debug dbgOk [] check]) ∧
          SameHearth a.toNat bs.length s t ∧ t.peMem = s.peMem ∧ t.hbm = s.hbm)) ∧
        (a.toNat + bs.length ≤ 0x2000000000 → s.hbmUp a.toNat bs.length = true → Runs (.debugWrite 2 a bs) s (fun t =>
          readBytes t.hbm a.toNat bs.length = bs ∧ answers dbgOk t ∧ t.hearth = s.hearth ∧
          ∀ b, b < a.toNat ∨ a.toNat + bs.length ≤ b → SMap.get 0 t.hbm b = SMap.get 0 s.hbm b)) ∧
        (∀ tile bit, tileAt a.toNat bs.length = some (tile, bit) → (bitAt (s.get Reg.DBG_TFRZ_FRZ) (turfOfTile tile) = 0 →
            refused (.debugWrite 3 a bs) dbgNotFrozen) ∧
          (bitAt (s.get Reg.DBG_TFRZ_FRZ) (turfOfTile tile) = 1 → Runs (.debugWrite 3 a bs) s (fun t => answers dbgOk t ∧
            (∀ r, r < bs.length / 8 → t.readRow tile r bit = BitVec.ofNat 64 (leNat ((bs.drop (8 * r)).take 8))) ∧
            ∀ i, tileOfPe i ≠ tile → t.peMemory i = s.peMemory i))) ∧
        refused (.debugWrite 4 a bs) dbgDenied ∧ refused (.debugWrite 5 a bs) dbgDenied ∧ refused (.debugWrite 7 a bs) dbgDenied ∧
        (a.toNat + bs.length ≤ 0x4000000 → debugBarred a.toNat bs.length = true → refused (.debugWrite 0 a bs) dbgDenied) ∧
        (a.toNat < 2 ^ 22 → a.toNat % 4 = 0 → bs.length % 4 = 0 → a.toNat % 0x100000 + bs.length ≤ 0x100000 →
          s.halted (a.toNat / 0x100000) = false → refused (.debugWrite 6 a bs) dbgNotHalted)) ∧
      (∀ m : W64, Runs (.turfFreeze m) s (fun t => answers dbgOk t ∧ t.reg Reg.DBG_TFRZ_FRZ.off = s.reg Reg.DBG_TFRZ_FRZ.off ||| m ∧
          t = { s with regs := t.regs, dbg := t.dbg, out := t.out } ∧ SameRegs [Reg.DBG_TFRZ_FRZ.off] s t) ∧
        Runs (.turfUnfreeze m) s (fun t => answers dbgOk t ∧ t.reg Reg.DBG_TFRZ_FRZ.off = s.reg Reg.DBG_TFRZ_FRZ.off &&& ~~~m ∧
          t = { s with regs := t.regs, dbg := t.dbg, out := t.out } ∧ SameRegs [Reg.DBG_TFRZ_FRZ.off] s t)) ∧
      (∀ v : W32, Runs (.blockFreeze v) s (fun t => answers dbgOk t ∧ t.get Reg.DBG_BFRZ_FRZ = v.toNat % 2 ^ 30 ∧ t.peMem = s.peMem ∧
        ∀ e : Fin 4, bitAt (s.get Reg.DBG_BFRZ_FRZ) (24 + e) ≠ v.toNat / 2 ^ (24 + e.val) % 2 →
          t.get (Reg.KDL_ECTL_FREEZE e) = v.toNat / 2 ^ (24 + e.val) % 2)) ∧
      (s.optRsten = false → ∀ r b, refused (.debugReset r b) dbgDenied) ∧
      (s.optRsten = true → s.rst.module = none → s.rst.boot = none → Runs (.debugReset 3 0) s (fun t =>
        t.rst.module.map (fun x => (x.reach, x.src)) = some (3, 0x0B) ∧ answers dbgOk t ∧ t.peMem = [])))

/-- Halt, resume and step (R178, R430, R431): a sequencer at a boundary, or waiting or stopped, reads state 4 at once, with its reservation
lost, its WAIT to be executed again and source 0x1E4 raised; RESUME gives it back the state it left, STEP lets it run with the halt
requested again, and both refuse a sequencer that is not halted. -/
def Obligations.HaltsStopAndResume : Prop :=
  ∀ (p : SeqId) (s : State), s.dbgOpen = true → s.get Reg.DBG_STAT_LEVEL = 2 →
    let mask : BitVec 4 := BitVec.ofNat 4 (2 ^ p.val)
    let st := s.get (Reg.SEQ_STATE_STATE p)
    let halts (t : State) : Prop := t.get (Reg.SEQ_STATE_STATE p) = seqHalted ∧ bitAt (t.get Reg.DBG_HALT_HALTED) p = 1 ∧
      t.flag (pendBit 0x1E4) = true ∧ (t.seq p).left = some (if st = seqWaiting then seqRunning else st) ∧ (t.seq p).waiting = none ∧
      t.get (Reg.SEQ_RSV_VALID p) = 0 ∧ t.pc p = s.pc p ∧ t.peMem = s.peMem ∧ t.hearth = s.hearth ∧ t.parts = s.parts
    (bitAt (s.get Reg.DBG_HALT_HALTED) p = 0 →
      (st ≠ seqHalted → (st = seqRunning → s.atBoundary p = true) → Runs (.debugHalt mask) s halts) ∧
      (st = seqRunning → s.atBoundary p = false → Runs (.debugHalt mask) s (fun t => t.get (Reg.SEQ_STATE_STATE p) = seqRunning ∧
        (t.seq p).haltReq = true ∧ t.regs = s.regs ∧ t.parts = s.parts)) ∧
      Runs (.debugResume mask) s (fun t => ∃ check, t.out = s.out ++ [.debug dbgNotHalted [] check] ∧ t.regs = s.regs ∧ t.seqs = s.seqs) ∧
      Runs (.debugStep p) s (fun t => ∃ check, t.out = s.out ++ [.debug dbgNotHalted [] check] ∧ t.regs = s.regs ∧ t.seqs = s.seqs)) ∧
    (∀ l, bitAt (s.get Reg.DBG_HALT_HALTED) p = 1 → st = seqHalted → (s.seq p).left = some l → l < 4 → s.recov p = none →
      ((s.seq p).stopReq = false → Runs (.debugResume mask) s (fun t => t.get (Reg.SEQ_STATE_STATE p) = l ∧
        bitAt (t.get Reg.DBG_HALT_HALTED) p = 0 ∧ (t.seq p).haltReq = false ∧ (t.seq p).left = none ∧ t.pc p = s.pc p ∧ t.peMem = s.peMem ∧
        t.hearth = s.hearth ∧ t.parts = s.parts)) ∧
      (l = seqRunning → Runs (.debugStep p) s (fun t => t.get (Reg.SEQ_STATE_STATE p) = seqRunning ∧ (t.seq p).haltReq = true ∧
        bitAt (t.get Reg.DBG_HALT_HALTED) p = 1 ∧ SameRegs [(Reg.SEQ_STATE_STATE p).off] s t ∧ t.parts = s.parts)) ∧
      (l ≠ seqRunning → Runs (.debugStep p) s (fun t => t.get (Reg.SEQ_STATE_STATE p) = seqHalted ∧ t.regs = s.regs)))

/-- The SMBus target answers its block reads and no other command, and an answer changes nothing in the module (R440): the status bits, the
values with VALID = 0 and zeros while the core is unpowered or in cold reset, the serial number, the newest cause record; a code that it
does not know is answered with a NACK. -/
def Obligations.SmbusRepliesChangeNothing : Prop :=
  ∀ s : State,
    let sends (c : Instr) (bs : List Byte) : Prop := exec c s = .next { s with out := s.out ++ [.smbus bs] }
    (∃ b : Byte, sends .smbusStatus [b] ∧ b.getLsbD 0 = !s.rst.levels.contains 1 ∧ b.getLsbD 1 = s.flag Reg.RST_BOOT_READY ∧ b.getLsbD 2 = s.rst.hold ∧
      b.getLsbD 3 = s.flag Reg.PWR_STAT_TRIPPED ∧ b.getLsbD 4 = decide (s.get Reg.RST_BOOT_HBMFAIL ≠ 0) ∧ ∀ i, 5 ≤ i → b.getLsbD i = false) ∧
    (s.coreCold = true → sends .smbusTemp [0, 0, 0, 0, 0, 0] ∧ sends .smbusPower [0, 0, 0, 0, 0]) ∧
    (s.coreCold = false → sends .smbusTemp (1 :: (List.range 5).map (fun d => BitVec.ofNat 8 (s.get (Reg.PWR_TEMP_NOW d)))) ∧
      sends .smbusPower (1 :: (leBytes 2 (s.get Reg.PWR_INPUT_WATTS) ++ leBytes 2 (s.get Reg.PWR_INPUT_VIN)))) ∧
    sends .smbusSerial (leBytes 8 Config.serial.toNat) ∧
    sends .ashlast ((List.range 4).flatMap (fun j => leBytes 4 (s.get (Reg.RST_ASHREC_RECORD (s.get Reg.RST_ASHHEAD_NEWEST) j)))) ∧
    ∀ code : Byte, (code = 0 ∨ 5 < code.toNat) → exec (.smbusUnknownCommand code) s = .next { s with out := s.out ++ [.smbusNack] }
end

