-- ==== Sys2Proof/Laws/Map.lean ====
section
/-!
SUPPORT. Laws of the sparse maps: what a key reads as after a write, and that every operation keeps the canonical form.
-/
namespace Sys2Proof.Machine

variable {α : Type}

/-! ## Reads after writes -/

theorem SMap.get_insert_same (d : α) (m : SMap α) (k : Nat) (v : α) : SMap.get d (SMap.insert m k v) k = v := by
  induction m with
  | nil => simp [SMap.insert, SMap.get]
  | cons e m ih =>
    obtain ⟨j, w⟩ := e
    unfold SMap.insert
    split
    · simp [SMap.get]
    · split
      · simp [SMap.get]
      · rename_i h
        simp [SMap.get, h, ih]

theorem SMap.get_insert_other (d : α) (m : SMap α) {k k' : Nat} (v : α) (h : k' ≠ k) :
    SMap.get d (SMap.insert m k v) k' = SMap.get d m k' := by
  induction m with
  | nil => simp [SMap.insert, SMap.get, h]
  | cons e m ih =>
    obtain ⟨j, w⟩ := e
    unfold SMap.insert
    split
    · simp [SMap.get, h]
    · split
      · rename_i hk; subst hk; simp [SMap.get, h]
      · simp [SMap.get, ih]

theorem SMap.get_remove_same (d : α) (m : SMap α) (k : Nat) : SMap.get d (SMap.remove m k) k = d := by
  induction m with
  | nil => simp [SMap.remove, SMap.get]
  | cons e m ih =>
    obtain ⟨j, w⟩ := e
    unfold SMap.remove
    split
    · exact ih
    · rename_i h; simp [SMap.get, h, ih]

theorem SMap.get_remove_other (d : α) (m : SMap α) {k k' : Nat} (h : k' ≠ k) :
    SMap.get d (SMap.remove m k) k' = SMap.get d m k' := by
  induction m with
  | nil => simp [SMap.remove]
  | cons e m ih =>
    obtain ⟨j, w⟩ := e
    unfold SMap.remove
    split
    · rename_i hk; subst hk; simp [SMap.get, h, ih]
    · simp [SMap.get, ih]

variable [DecidableEq α]

/-- The key just written reads as what was written. -/
@[simp] theorem SMap.get_put_same (d : α) (m : SMap α) (k : Nat) (v : α) : SMap.get d (SMap.put d m k v) k = v := by
  unfold SMap.put
  split
  · rename_i h; subst h; exact SMap.get_remove_same _ _ _
  · exact SMap.get_insert_same _ _ _ _

/-- Every other key reads as before, whatever unlisted keys read as. -/
theorem SMap.get_put_other (d d' : α) (m : SMap α) {k k' : Nat} (v : α) (h : k' ≠ k) :
    SMap.get d' (SMap.put d m k v) k' = SMap.get d' m k' := by
  unfold SMap.put
  split
  · exact SMap.get_remove_other _ _ h
  · exact SMap.get_insert_other _ _ _ h

/-- A key of an update reads as what the function gives it. -/
theorem SMap.get_update_mem (d : Nat → α) (m : SMap α) (f : Nat → α) {ks : List Nat} {k : Nat} (h : k ∈ ks) :
    SMap.get (d k) (SMap.update d m f ks) k = f k := by
  induction ks with
  | nil => cases h
  | cons j ks ih =>
    simp only [SMap.update]
    by_cases hj : k = j
    · subst hj; simp
    · rw [SMap.get_put_other _ _ _ _ hj]
      exact ih (by simpa [hj] using h)

/-- Any other key reads as before. -/
theorem SMap.get_update_other (d : Nat → α) (d' : α) (m : SMap α) (f : Nat → α) {ks : List Nat} {k : Nat} (h : k ∉ ks) :
    SMap.get d' (SMap.update d m f ks) k = SMap.get d' m k := by
  induction ks with
  | nil => rfl
  | cons j ks ih =>
    simp only [List.mem_cons, not_or] at h
    simp only [SMap.update]
    rw [SMap.get_put_other _ _ _ _ h.1]
    exact ih h.2

/-! ## The canonical form -/

omit [DecidableEq α] in
theorem SMap.risingFrom_weaken {m : SMap α} {b : Nat} (h : SMap.risingFrom (some b) m = true) : SMap.risingFrom none m = true := by
  cases m with
  | nil => rfl
  | cons e m => simp only [SMap.risingFrom, Bool.and_eq_true] at h ⊢; exact h.2

omit [DecidableEq α] in
theorem SMap.risingFrom_lower {m : SMap α} {a b : Nat} (hab : a ≤ b) (h : SMap.risingFrom (some b) m = true) :
    SMap.risingFrom (some a) m = true := by
  cases m with
  | nil => rfl
  | cons e m =>
    simp only [SMap.risingFrom, Bool.and_eq_true, decide_eq_true_eq] at h ⊢
    exact ⟨by omega, h.2⟩

omit [DecidableEq α] in
theorem SMap.risingFrom_insert {m : SMap α} (lo : Option Nat) (k : Nat) (v : α) (hk : ∀ b ∈ lo, b < k)
    (h : SMap.risingFrom lo m = true) : SMap.risingFrom lo (SMap.insert m k v) = true := by
  induction m generalizing lo with
  | nil =>
    cases lo with
    | none => rfl
    | some b => simp [SMap.insert, SMap.risingFrom, hk b rfl]
  | cons e m ih =>
    obtain ⟨j, w⟩ := e
    have htail : SMap.risingFrom (some j) m = true := by
      cases lo with
      | none => simpa [SMap.risingFrom] using h
      | some b => simp only [SMap.risingFrom, Bool.and_eq_true] at h; exact h.2
    unfold SMap.insert
    split
    · rename_i hkj
      have hj : SMap.risingFrom (some k) ((j, w) :: m) = true := by
        simp only [SMap.risingFrom, Bool.and_eq_true, decide_eq_true_eq]; exact ⟨hkj, htail⟩
      cases lo with
      | none => simpa [SMap.risingFrom] using hj
      | some b => simp only [SMap.risingFrom, Bool.and_eq_true, decide_eq_true_eq] at hj ⊢; exact ⟨hk b rfl, hj⟩
    · split
      · rename_i hkj; subst hkj
        cases lo with
        | none => simpa [SMap.risingFrom] using htail
        | some b => simp only [SMap.risingFrom, Bool.and_eq_true, decide_eq_true_eq]; exact ⟨hk b rfl, htail⟩
      · rename_i h1 h2
        have := ih (some j) (by intro b hb; cases hb; omega) htail
        cases lo with
        | none => simpa [SMap.risingFrom] using this
        | some b =>
          simp only [SMap.risingFrom, Bool.and_eq_true, decide_eq_true_eq] at h ⊢
          exact ⟨h.1, this⟩

omit [DecidableEq α] in
theorem SMap.risingFrom_filter {m : SMap α} (lo : Option Nat) (f : Nat × α → Bool) (h : SMap.risingFrom lo m = true) :
    SMap.risingFrom lo (m.filter f) = true := by
  induction m generalizing lo with
  | nil => exact h
  | cons e m ih =>
    obtain ⟨j, w⟩ := e
    have htail : SMap.risingFrom (some j) m = true := by
      cases lo with
      | none => simpa [SMap.risingFrom] using h
      | some b => simp only [SMap.risingFrom, Bool.and_eq_true] at h; exact h.2
    simp only [List.filter_cons]
    split
    · cases lo with
      | none => simpa [SMap.risingFrom] using ih (some j) htail
      | some b =>
        simp only [SMap.risingFrom, Bool.and_eq_true, decide_eq_true_eq] at h ⊢
        exact ⟨h.1, ih (some j) htail⟩
    · cases lo with
      | none => exact SMap.risingFrom_weaken (ih (some j) htail)
      | some b =>
        simp only [SMap.risingFrom, Bool.and_eq_true, decide_eq_true_eq] at h
        exact SMap.risingFrom_lower (by omega) (ih (some j) htail)

omit [DecidableEq α] in
theorem SMap.remove_eq_filter (m : SMap α) (k : Nat) : SMap.remove m k = m.filter (fun e => decide (k ≠ e.1)) := by
  induction m with
  | nil => rfl
  | cons e m ih =>
    obtain ⟨j, w⟩ := e
    unfold SMap.remove
    by_cases h : k = j
    · subst h; simp [ih]
    · simp [h, ih]

theorem SMap.all_insert {m : SMap α} (d : Nat → α) (k : Nat) (v : α) (hv : v ≠ d k)
    (h : m.all (fun e => decide (e.2 ≠ d e.1)) = true) : (SMap.insert m k v).all (fun e => decide (e.2 ≠ d e.1)) = true := by
  induction m with
  | nil => simp [SMap.insert, hv]
  | cons e m ih =>
    obtain ⟨j, w⟩ := e
    simp only [List.all_cons, Bool.and_eq_true] at h
    unfold SMap.insert
    split
    · simp only [List.all_cons, Bool.and_eq_true]; exact ⟨by simpa using hv, h.1, h.2⟩
    · split
      · simp only [List.all_cons, Bool.and_eq_true]; exact ⟨by simpa using hv, h.2⟩
      · simp only [List.all_cons, Bool.and_eq_true]; exact ⟨h.1, ih h.2⟩

/-- A selection of entries keeps the canonical form. -/
theorem SMap.wf_filter {d : Nat → α} {m : SMap α} (f : Nat × α → Bool) (h : SMap.wf d m = true) : SMap.wf d (m.filter f) = true := by
  simp only [SMap.wf, Bool.and_eq_true] at h ⊢
  refine ⟨SMap.risingFrom_filter none f h.1, ?_⟩
  rw [List.all_eq_true] at h ⊢
  intro e he
  exact h.2 e (List.mem_filter.mp he).1

/-- A write keeps the canonical form. -/
theorem SMap.wf_put {d : Nat → α} {m : SMap α} (k : Nat) (v : α) (h : SMap.wf d m = true) : SMap.wf d (SMap.put (d k) m k v) = true := by
  unfold SMap.put
  split
  · rw [SMap.remove_eq_filter]; exact SMap.wf_filter _ h
  · rename_i hv
    simp only [SMap.wf, Bool.and_eq_true] at h ⊢
    exact ⟨SMap.risingFrom_insert none k v (by simp) h.1, SMap.all_insert d k v hv h.2⟩

/-- An update of several keys keeps the canonical form. -/
theorem SMap.wf_update {d : Nat → α} {m : SMap α} (f : Nat → α) (ks : List Nat) (h : SMap.wf d m = true) :
    SMap.wf d (SMap.update d m f ks) = true := by
  induction ks with
  | nil => exact h
  | cons k ks ih => exact SMap.wf_put k (f k) ih

/-- The empty map is in canonical form. -/
@[simp] theorem SMap.wf_nil (d : Nat → α) : SMap.wf d ([] : SMap α) = true := rfl

/-! ## Byte memories -/

omit [DecidableEq α] in
/-- Values changed in place leave the keys rising. -/
theorem SMap.risingFrom_map {m : SMap α} {f : Nat × α → Nat × α} (hf : ∀ e, (f e).1 = e.1) (lo : Option Nat) :
    SMap.risingFrom lo (m.map f) = SMap.risingFrom lo m := by
  induction m generalizing lo with
  | nil => cases lo <;> rfl
  | cons e m ih =>
    rw [List.map_cons, show f e = (e.1, (f e).2) from Prod.ext (hf e) rfl]
    cases lo <;> simp only [SMap.risingFrom, ih]

/-- Values changed in place, keys kept, and the entries left that differ from their default. -/
theorem SMap.wf_map_filter {d : Nat → α} {m : SMap α} {f : Nat × α → Nat × α} (hf : ∀ e, (f e).1 = e.1) (h : SMap.wf d m = true) :
    SMap.wf d ((m.map f).filter (fun e => decide (e.2 ≠ d e.1))) = true := by
  simp only [SMap.wf, Bool.and_eq_true] at h ⊢
  refine ⟨SMap.risingFrom_filter none _ ((SMap.risingFrom_map hf none).trans h.1), ?_⟩
  simp

/-- Bytes written keep the canonical form. -/
theorem wf_writeBytes {m : SMap Byte} (a : Nat) (bs : List Byte) (h : SMap.wf (fun _ => 0) m = true) :
    SMap.wf (fun _ => 0) (writeBytes m a bs) = true := by
  induction bs generalizing m a with
  | nil => exact h
  | cons b bs ih => exact ih (a + 1) (SMap.wf_put (d := fun _ => (0 : Byte)) a b h)

/-- A byte outside those written reads as before. -/
theorem get_writeBytes_other (m : SMap Byte) (a : Nat) (bs : List Byte) {k : Nat} (h : k < a ∨ a + bs.length ≤ k) :
    SMap.get 0 (writeBytes m a bs) k = SMap.get 0 m k := by
  induction bs generalizing m a with
  | nil => rfl
  | cons b bs ih =>
    simp only [writeBytes, List.length_cons] at h ⊢
    rw [ih _ _ (by omega), SMap.get_put_other _ _ _ _ (by omega)]

/-- A byte written reads as what was written. -/
theorem get_writeBytes_mem (m : SMap Byte) (a : Nat) (bs : List Byte) {i : Nat} (h : i < bs.length) :
    SMap.get 0 (writeBytes m a bs) (a + i) = bs.getD i 0 := by
  induction bs generalizing m a i with
  | nil => simp at h
  | cons b bs ih =>
    simp only [writeBytes]
    cases i with
    | zero =>
      rw [get_writeBytes_other _ _ _ (by omega)]
      simp
    | succ i =>
      have := ih (SMap.put 0 m a b) (a + 1) (i := i) (by simpa using h)
      rw [show a + (i + 1) = a + 1 + i by omega, this]
      simp

@[simp] theorem readBytes_length (m : SMap Byte) (a n : Nat) : (readBytes m a n).length = n := by
  induction n generalizing a with
  | zero => rfl
  | succ n ih => simp [readBytes, ih]

/-- Bytes just written read back. -/
theorem readBytes_writeBytes (m : SMap Byte) (a : Nat) (bs : List Byte) : readBytes (writeBytes m a bs) a bs.length = bs := by
  induction bs generalizing m a with
  | nil => rfl
  | cons b bs ih =>
    simp only [writeBytes, List.length_cons, readBytes]
    rw [ih, get_writeBytes_other _ _ _ (by omega)]
    simp

@[simp] theorem leBytes_length (n v : Nat) : (leBytes n v).length = n := by
  induction n generalizing v with
  | zero => rfl
  | succ n ih => simp [leBytes, ih]

/-- Little-endian bytes are the number they were made of, below their width. -/
theorem leNat_leBytes (n v : Nat) : leNat (leBytes n v) = v % 256 ^ n := by
  induction n generalizing v with
  | zero => simp [leBytes, leNat, Nat.mod_one]
  | succ n ih =>
    simp only [leBytes, leNat, ih, BitVec.toNat_ofNat]
    rw [show 256 ^ (n + 1) = 256 * 256 ^ n by rw [Nat.pow_succ, Nat.mul_comm], Nat.mod_mul]

end Sys2Proof.Machine
end

