-- ==== Sys2Proof/Laws/Register.lean ====
section
/-!
SUPPORT. Laws of register fields: what a field reads as after a field of the same or of another register is set.
-/
namespace Sys2Proof.Machine

theorem getLsbD_fieldMask (hi lo i : Nat) (hlo : lo ≤ hi) : (fieldMask hi lo).getLsbD i = (decide (i < 64) && decide (lo ≤ i) && decide (i ≤ hi)) := by
  simp only [fieldMask, BitVec.getLsbD_ofNat]
  by_cases h : i < 64
  · simp only [h, decide_true, Bool.true_and]
    rw [Nat.testBit_mul_two_pow]
    by_cases h2 : lo ≤ i
    · simp only [h2, decide_true, Bool.true_and, Nat.testBit_two_pow_sub_one]
      congr 1
      simp only [eq_iff_iff]
      omega
    · simp [h2]
  · simp [h]

theorem testBit_getField (r : W64) (hi lo i : Nat) (hlo : lo ≤ hi) : (getField r hi lo).testBit i = (decide (lo + i ≤ hi) && r.getLsbD (lo + i)) := by
  simp only [getField, bitsOf, Nat.testBit_mod_two_pow, Nat.testBit_div_two_pow]
  rw [Nat.add_comm i lo]
  congr 1
  simp only [decide_eq_decide]
  omega

theorem getLsbD_setField (r : W64) (hi lo v i : Nat) (hlo : lo ≤ hi) (hi64 : hi < 64) :
    (setField r hi lo v).getLsbD i = if lo ≤ i ∧ i ≤ hi then v.testBit (i - lo) else r.getLsbD i := by
  simp only [setField, BitVec.getLsbD_or, BitVec.getLsbD_and, BitVec.getLsbD_not, getLsbD_fieldMask _ _ _ hlo, BitVec.getLsbD_ofNat]
  by_cases h64 : i < 64
  · by_cases h : lo ≤ i ∧ i ≤ hi
    · simp [h64, h, Nat.testBit_mul_two_pow]
    · by_cases h1 : lo ≤ i
      · have h2 : ¬ i ≤ hi := fun h2 => h ⟨h1, h2⟩
        simp [h64, h1, h2]
      · simp [h64, h1]
  · have h : ¬ (lo ≤ i ∧ i ≤ hi) := by omega
    have hr : r.getLsbD i = false := BitVec.getLsbD_of_ge r i (by omega)
    simp [h64, h, hr]

/-- The field just set reads as the value's low bits. -/
theorem getField_setField_same (r : W64) (hi lo v : Nat) (hlo : lo ≤ hi) (hi64 : hi < 64) :
    getField (setField r hi lo v) hi lo = v % 2 ^ (hi + 1 - lo) := by
  apply Nat.eq_of_testBit_eq
  intro i
  rw [testBit_getField _ _ _ _ hlo, getLsbD_setField _ _ _ _ _ hlo hi64, Nat.testBit_mod_two_pow]
  by_cases h : lo + i ≤ hi
  · have h2 : i < hi + 1 - lo := by omega
    simp [h, h2]
  · have h2 : ¬ i < hi + 1 - lo := by omega
    simp [h, h2]

/-- A field with no bit in common reads as before. -/
theorem getField_setField_other (r : W64) (hi lo v hi' lo' : Nat) (hlo : lo ≤ hi) (hi64 : hi < 64) (hlo' : lo' ≤ hi')
    (h : hi' < lo ∨ hi < lo') : getField (setField r hi lo v) hi' lo' = getField r hi' lo' := by
  apply Nat.eq_of_testBit_eq
  intro i
  rw [testBit_getField _ _ _ _ hlo', testBit_getField _ _ _ _ hlo', getLsbD_setField _ _ _ _ _ hlo hi64]
  by_cases h1 : lo' + i ≤ hi'
  · have h2 : ¬ (lo ≤ lo' + i ∧ lo' + i ≤ hi) := by omega
    simp [h1, h2]
  · simp [h1]

/-! ## Registers of the state -/

@[simp] theorem State.reg_setReg_same (s : State) (off : Nat) (v : W64) : (s.setReg off v).reg off = v := by
  simp [State.reg, State.setReg]

theorem State.reg_setReg_other (s : State) {off off' : Nat} (v : W64) (h : off' ≠ off) : (s.setReg off v).reg off' = s.reg off' := by
  simp only [State.reg, State.setReg]
  exact SMap.get_put_other _ _ _ _ h

theorem State.reg_set_other (s : State) (f : Field) (v : Nat) {off : Nat} (h : off ≠ f.off) : (s.set f v).reg off = s.reg off :=
  State.reg_setReg_other s _ h

@[simp] theorem State.reg_set_same (s : State) (f : Field) (v : Nat) : (s.set f v).reg f.off = setField (s.reg f.off) f.hi f.lo v :=
  State.reg_setReg_same s _ _

/-- The field just set. -/
theorem State.get_set_same (s : State) (f : Field) (v : Nat) (h : f.lo ≤ f.hi ∧ f.hi < 64) : (s.set f v).get f = v % 2 ^ (f.hi + 1 - f.lo) := by
  simp only [State.get, State.reg_set_same]
  exact getField_setField_same _ _ _ _ h.1 h.2

/-- A field of another register. -/
theorem State.get_set_other_reg (s : State) (f g : Field) (v : Nat) (h : g.off ≠ f.off) : (s.set f v).get g = s.get g := by
  simp only [State.get, State.reg_set_other s f v h]

/-- A field of the same register with no bit in common. -/
theorem State.get_set_other_field (s : State) (f g : Field) (v : Nat) (hf : f.lo ≤ f.hi ∧ f.hi < 64) (hg : g.lo ≤ g.hi)
    (ho : g.off = f.off) (h : g.hi < f.lo ∨ f.hi < g.lo) : (s.set f v).get g = s.get g := by
  simp only [State.get, ho, State.reg_set_same]
  exact getField_setField_other _ _ _ _ _ _ hf.1 hf.2 hg h

end Sys2Proof.Machine
end

