-- ==== Sys2Proof/Laws/State.lean ====
section
/-!
SUPPORT. What each plain update of the state changes and leaves: one lemma a field and update, and one a unit accessor and update.
-/
namespace Sys2Proof.Machine

/-! ## Fields of the state under the updates -/

@[simp] theorem State.shadow_setReg (s : State) (off : Nat) (v : W64) : (s.setReg off v).shadow = s.shadow := rfl
@[simp] theorem State.peMem_setReg (s : State) (off : Nat) (v : W64) : (s.setReg off v).peMem = s.peMem := rfl
@[simp] theorem State.pes_setReg (s : State) (off : Nat) (v : W64) : (s.setReg off v).pes = s.pes := rfl
@[simp] theorem State.parts_setReg (s : State) (off : Nat) (v : W64) : (s.setReg off v).parts = s.parts := rfl
@[simp] theorem State.seqs_setReg (s : State) (off : Nat) (v : W64) : (s.setReg off v).seqs = s.seqs := rfl
@[simp] theorem State.imem_setReg (s : State) (off : Nat) (v : W64) : (s.setReg off v).imem = s.imem := rfl
@[simp] theorem State.hearth_setReg (s : State) (off : Nat) (v : W64) : (s.setReg off v).hearth = s.hearth := rfl
@[simp] theorem State.hbm_setReg (s : State) (off : Nat) (v : W64) : (s.setReg off v).hbm = s.hbm := rfl
@[simp] theorem State.patches_setReg (s : State) (off : Nat) (v : W64) : (s.setReg off v).patches = s.patches := rfl
@[simp] theorem State.mesh_setReg (s : State) (off : Nat) (v : W64) : (s.setReg off v).mesh = s.mesh := rfl
@[simp] theorem State.net_setReg (s : State) (off : Nat) (v : W64) : (s.setReg off v).net = s.net := rfl
@[simp] theorem State.maint_setReg (s : State) (off : Nat) (v : W64) : (s.setReg off v).maint = s.maint := rfl
@[simp] theorem State.cordBad_setReg (s : State) (off : Nat) (v : W64) : (s.setReg off v).cordBad = s.cordBad := rfl
@[simp] theorem State.links_setReg (s : State) (off : Nat) (v : W64) : (s.setReg off v).links = s.links := rfl
@[simp] theorem State.flows_setReg (s : State) (off : Nat) (v : W64) : (s.setReg off v).flows = s.flows := rfl
@[simp] theorem State.fences_setReg (s : State) (off : Nat) (v : W64) : (s.setReg off v).fences = s.fences := rfl
@[simp] theorem State.staging_setReg (s : State) (off : Nat) (v : W64) : (s.setReg off v).staging = s.staging := rfl
@[simp] theorem State.dma_setReg (s : State) (off : Nat) (v : W64) : (s.setReg off v).dma = s.dma := rfl
@[simp] theorem State.saved_setReg (s : State) (off : Nat) (v : W64) : (s.setReg off v).saved = s.saved := rfl
@[simp] theorem State.edge_setReg (s : State) (off : Nat) (v : W64) : (s.setReg off v).edge = s.edge := rfl
@[simp] theorem State.kdl_setReg (s : State) (off : Nat) (v : W64) : (s.setReg off v).kdl = s.kdl := rfl
@[simp] theorem State.ports_setReg (s : State) (off : Nat) (v : W64) : (s.setReg off v).ports = s.ports := rfl
@[simp] theorem State.fabric_setReg (s : State) (off : Nat) (v : W64) : (s.setReg off v).fabric = s.fabric := rfl
@[simp] theorem State.detected_setReg (s : State) (off : Nat) (v : W64) : (s.setReg off v).detected = s.detected := rfl
@[simp] theorem State.recovery_setReg (s : State) (off : Nat) (v : W64) : (s.setReg off v).recovery = s.recovery := rfl
@[simp] theorem State.recLog_setReg (s : State) (off : Nat) (v : W64) : (s.setReg off v).recLog = s.recLog := rfl
@[simp] theorem State.softRepair_setReg (s : State) (off : Nat) (v : W64) : (s.setReg off v).softRepair = s.softRepair := rfl
@[simp] theorem State.march_setReg (s : State) (off : Nat) (v : W64) : (s.setReg off v).march = s.march := rfl
@[simp] theorem State.loader_setReg (s : State) (off : Nat) (v : W64) : (s.setReg off v).loader = s.loader := rfl
@[simp] theorem State.flash_setReg (s : State) (off : Nat) (v : W64) : (s.setReg off v).flash = s.flash := rfl
@[simp] theorem State.nvm_setReg (s : State) (off : Nat) (v : W64) : (s.setReg off v).nvm = s.nvm := rfl
@[simp] theorem State.sec_setReg (s : State) (off : Nat) (v : W64) : (s.setReg off v).sec = s.sec := rfl
@[simp] theorem State.dbg_setReg (s : State) (off : Nat) (v : W64) : (s.setReg off v).dbg = s.dbg := rfl
@[simp] theorem State.rst_setReg (s : State) (off : Nat) (v : W64) : (s.setReg off v).rst = s.rst := rfl
@[simp] theorem State.rings_setReg (s : State) (off : Nat) (v : W64) : (s.setReg off v).rings = s.rings := rfl
@[simp] theorem State.ep_setReg (s : State) (off : Nat) (v : W64) : (s.setReg off v).ep = s.ep := rfl
@[simp] theorem State.out_setReg (s : State) (off : Nat) (v : W64) : (s.setReg off v).out = s.out := rfl
@[simp] theorem State.free_setReg (s : State) (off : Nat) (v : W64) : (s.setReg off v).free = s.free := rfl
@[simp] theorem State.lastPort_setReg (s : State) (off : Nat) (v : W64) : (s.setReg off v).lastPort = s.lastPort := rfl
@[simp] theorem State.spineBad_setReg (s : State) (off : Nat) (v : W64) : (s.setReg off v).spineBad = s.spineBad := rfl
@[simp] theorem State.pending_setReg (s : State) (off : Nat) (v : W64) : (s.setReg off v).pending = s.pending := rfl

@[simp] theorem State.shadow_set (s : State) (f : Field) (v : Nat) : (s.set f v).shadow = s.shadow := rfl
@[simp] theorem State.peMem_set (s : State) (f : Field) (v : Nat) : (s.set f v).peMem = s.peMem := rfl
@[simp] theorem State.pes_set (s : State) (f : Field) (v : Nat) : (s.set f v).pes = s.pes := rfl
@[simp] theorem State.parts_set (s : State) (f : Field) (v : Nat) : (s.set f v).parts = s.parts := rfl
@[simp] theorem State.seqs_set (s : State) (f : Field) (v : Nat) : (s.set f v).seqs = s.seqs := rfl
@[simp] theorem State.imem_set (s : State) (f : Field) (v : Nat) : (s.set f v).imem = s.imem := rfl
@[simp] theorem State.hearth_set (s : State) (f : Field) (v : Nat) : (s.set f v).hearth = s.hearth := rfl
@[simp] theorem State.hbm_set (s : State) (f : Field) (v : Nat) : (s.set f v).hbm = s.hbm := rfl
@[simp] theorem State.patches_set (s : State) (f : Field) (v : Nat) : (s.set f v).patches = s.patches := rfl
@[simp] theorem State.mesh_set (s : State) (f : Field) (v : Nat) : (s.set f v).mesh = s.mesh := rfl
@[simp] theorem State.net_set (s : State) (f : Field) (v : Nat) : (s.set f v).net = s.net := rfl
@[simp] theorem State.maint_set (s : State) (f : Field) (v : Nat) : (s.set f v).maint = s.maint := rfl
@[simp] theorem State.cordBad_set (s : State) (f : Field) (v : Nat) : (s.set f v).cordBad = s.cordBad := rfl
@[simp] theorem State.links_set (s : State) (f : Field) (v : Nat) : (s.set f v).links = s.links := rfl
@[simp] theorem State.flows_set (s : State) (f : Field) (v : Nat) : (s.set f v).flows = s.flows := rfl
@[simp] theorem State.fences_set (s : State) (f : Field) (v : Nat) : (s.set f v).fences = s.fences := rfl
@[simp] theorem State.staging_set (s : State) (f : Field) (v : Nat) : (s.set f v).staging = s.staging := rfl
@[simp] theorem State.dma_set (s : State) (f : Field) (v : Nat) : (s.set f v).dma = s.dma := rfl
@[simp] theorem State.saved_set (s : State) (f : Field) (v : Nat) : (s.set f v).saved = s.saved := rfl
@[simp] theorem State.edge_set (s : State) (f : Field) (v : Nat) : (s.set f v).edge = s.edge := rfl
@[simp] theorem State.kdl_set (s : State) (f : Field) (v : Nat) : (s.set f v).kdl = s.kdl := rfl
@[simp] theorem State.ports_set (s : State) (f : Field) (v : Nat) : (s.set f v).ports = s.ports := rfl
@[simp] theorem State.fabric_set (s : State) (f : Field) (v : Nat) : (s.set f v).fabric = s.fabric := rfl
@[simp] theorem State.detected_set (s : State) (f : Field) (v : Nat) : (s.set f v).detected = s.detected := rfl
@[simp] theorem State.recovery_set (s : State) (f : Field) (v : Nat) : (s.set f v).recovery = s.recovery := rfl
@[simp] theorem State.recLog_set (s : State) (f : Field) (v : Nat) : (s.set f v).recLog = s.recLog := rfl
@[simp] theorem State.softRepair_set (s : State) (f : Field) (v : Nat) : (s.set f v).softRepair = s.softRepair := rfl
@[simp] theorem State.march_set (s : State) (f : Field) (v : Nat) : (s.set f v).march = s.march := rfl
@[simp] theorem State.loader_set (s : State) (f : Field) (v : Nat) : (s.set f v).loader = s.loader := rfl
@[simp] theorem State.flash_set (s : State) (f : Field) (v : Nat) : (s.set f v).flash = s.flash := rfl
@[simp] theorem State.nvm_set (s : State) (f : Field) (v : Nat) : (s.set f v).nvm = s.nvm := rfl
@[simp] theorem State.sec_set (s : State) (f : Field) (v : Nat) : (s.set f v).sec = s.sec := rfl
@[simp] theorem State.dbg_set (s : State) (f : Field) (v : Nat) : (s.set f v).dbg = s.dbg := rfl
@[simp] theorem State.rst_set (s : State) (f : Field) (v : Nat) : (s.set f v).rst = s.rst := rfl
@[simp] theorem State.rings_set (s : State) (f : Field) (v : Nat) : (s.set f v).rings = s.rings := rfl
@[simp] theorem State.ep_set (s : State) (f : Field) (v : Nat) : (s.set f v).ep = s.ep := rfl
@[simp] theorem State.out_set (s : State) (f : Field) (v : Nat) : (s.set f v).out = s.out := rfl
@[simp] theorem State.free_set (s : State) (f : Field) (v : Nat) : (s.set f v).free = s.free := rfl
@[simp] theorem State.lastPort_set (s : State) (f : Field) (v : Nat) : (s.set f v).lastPort = s.lastPort := rfl
@[simp] theorem State.spineBad_set (s : State) (f : Field) (v : Nat) : (s.set f v).spineBad = s.spineBad := rfl
@[simp] theorem State.pending_set (s : State) (f : Field) (v : Nat) : (s.set f v).pending = s.pending := rfl

@[simp] theorem State.regs_setPart (s : State) (p : Nat) (v : Part) : (s.setPart p v).regs = s.regs := rfl
@[simp] theorem State.shadow_setPart (s : State) (p : Nat) (v : Part) : (s.setPart p v).shadow = s.shadow := rfl
@[simp] theorem State.peMem_setPart (s : State) (p : Nat) (v : Part) : (s.setPart p v).peMem = s.peMem := rfl
@[simp] theorem State.pes_setPart (s : State) (p : Nat) (v : Part) : (s.setPart p v).pes = s.pes := rfl
@[simp] theorem State.seqs_setPart (s : State) (p : Nat) (v : Part) : (s.setPart p v).seqs = s.seqs := rfl
@[simp] theorem State.imem_setPart (s : State) (p : Nat) (v : Part) : (s.setPart p v).imem = s.imem := rfl
@[simp] theorem State.hearth_setPart (s : State) (p : Nat) (v : Part) : (s.setPart p v).hearth = s.hearth := rfl
@[simp] theorem State.hbm_setPart (s : State) (p : Nat) (v : Part) : (s.setPart p v).hbm = s.hbm := rfl
@[simp] theorem State.patches_setPart (s : State) (p : Nat) (v : Part) : (s.setPart p v).patches = s.patches := rfl
@[simp] theorem State.mesh_setPart (s : State) (p : Nat) (v : Part) : (s.setPart p v).mesh = s.mesh := rfl
@[simp] theorem State.net_setPart (s : State) (p : Nat) (v : Part) : (s.setPart p v).net = s.net := rfl
@[simp] theorem State.maint_setPart (s : State) (p : Nat) (v : Part) : (s.setPart p v).maint = s.maint := rfl
@[simp] theorem State.cordBad_setPart (s : State) (p : Nat) (v : Part) : (s.setPart p v).cordBad = s.cordBad := rfl
@[simp] theorem State.links_setPart (s : State) (p : Nat) (v : Part) : (s.setPart p v).links = s.links := rfl
@[simp] theorem State.flows_setPart (s : State) (p : Nat) (v : Part) : (s.setPart p v).flows = s.flows := rfl
@[simp] theorem State.fences_setPart (s : State) (p : Nat) (v : Part) : (s.setPart p v).fences = s.fences := rfl
@[simp] theorem State.staging_setPart (s : State) (p : Nat) (v : Part) : (s.setPart p v).staging = s.staging := rfl
@[simp] theorem State.dma_setPart (s : State) (p : Nat) (v : Part) : (s.setPart p v).dma = s.dma := rfl
@[simp] theorem State.saved_setPart (s : State) (p : Nat) (v : Part) : (s.setPart p v).saved = s.saved := rfl
@[simp] theorem State.edge_setPart (s : State) (p : Nat) (v : Part) : (s.setPart p v).edge = s.edge := rfl
@[simp] theorem State.kdl_setPart (s : State) (p : Nat) (v : Part) : (s.setPart p v).kdl = s.kdl := rfl
@[simp] theorem State.ports_setPart (s : State) (p : Nat) (v : Part) : (s.setPart p v).ports = s.ports := rfl
@[simp] theorem State.fabric_setPart (s : State) (p : Nat) (v : Part) : (s.setPart p v).fabric = s.fabric := rfl
@[simp] theorem State.detected_setPart (s : State) (p : Nat) (v : Part) : (s.setPart p v).detected = s.detected := rfl
@[simp] theorem State.recovery_setPart (s : State) (p : Nat) (v : Part) : (s.setPart p v).recovery = s.recovery := rfl
@[simp] theorem State.recLog_setPart (s : State) (p : Nat) (v : Part) : (s.setPart p v).recLog = s.recLog := rfl
@[simp] theorem State.softRepair_setPart (s : State) (p : Nat) (v : Part) : (s.setPart p v).softRepair = s.softRepair := rfl
@[simp] theorem State.march_setPart (s : State) (p : Nat) (v : Part) : (s.setPart p v).march = s.march := rfl
@[simp] theorem State.loader_setPart (s : State) (p : Nat) (v : Part) : (s.setPart p v).loader = s.loader := rfl
@[simp] theorem State.flash_setPart (s : State) (p : Nat) (v : Part) : (s.setPart p v).flash = s.flash := rfl
@[simp] theorem State.nvm_setPart (s : State) (p : Nat) (v : Part) : (s.setPart p v).nvm = s.nvm := rfl
@[simp] theorem State.sec_setPart (s : State) (p : Nat) (v : Part) : (s.setPart p v).sec = s.sec := rfl
@[simp] theorem State.dbg_setPart (s : State) (p : Nat) (v : Part) : (s.setPart p v).dbg = s.dbg := rfl
@[simp] theorem State.rst_setPart (s : State) (p : Nat) (v : Part) : (s.setPart p v).rst = s.rst := rfl
@[simp] theorem State.rings_setPart (s : State) (p : Nat) (v : Part) : (s.setPart p v).rings = s.rings := rfl
@[simp] theorem State.ep_setPart (s : State) (p : Nat) (v : Part) : (s.setPart p v).ep = s.ep := rfl
@[simp] theorem State.out_setPart (s : State) (p : Nat) (v : Part) : (s.setPart p v).out = s.out := rfl
@[simp] theorem State.free_setPart (s : State) (p : Nat) (v : Part) : (s.setPart p v).free = s.free := rfl
@[simp] theorem State.lastPort_setPart (s : State) (p : Nat) (v : Part) : (s.setPart p v).lastPort = s.lastPort := rfl
@[simp] theorem State.spineBad_setPart (s : State) (p : Nat) (v : Part) : (s.setPart p v).spineBad = s.spineBad := rfl
@[simp] theorem State.pending_setPart (s : State) (p : Nat) (v : Part) : (s.setPart p v).pending = s.pending := rfl

@[simp] theorem State.regs_setSeq (s : State) (p : Nat) (v : Seq) : (s.setSeq p v).regs = s.regs := rfl
@[simp] theorem State.shadow_setSeq (s : State) (p : Nat) (v : Seq) : (s.setSeq p v).shadow = s.shadow := rfl
@[simp] theorem State.peMem_setSeq (s : State) (p : Nat) (v : Seq) : (s.setSeq p v).peMem = s.peMem := rfl
@[simp] theorem State.pes_setSeq (s : State) (p : Nat) (v : Seq) : (s.setSeq p v).pes = s.pes := rfl
@[simp] theorem State.parts_setSeq (s : State) (p : Nat) (v : Seq) : (s.setSeq p v).parts = s.parts := rfl
@[simp] theorem State.imem_setSeq (s : State) (p : Nat) (v : Seq) : (s.setSeq p v).imem = s.imem := rfl
@[simp] theorem State.hearth_setSeq (s : State) (p : Nat) (v : Seq) : (s.setSeq p v).hearth = s.hearth := rfl
@[simp] theorem State.hbm_setSeq (s : State) (p : Nat) (v : Seq) : (s.setSeq p v).hbm = s.hbm := rfl
@[simp] theorem State.patches_setSeq (s : State) (p : Nat) (v : Seq) : (s.setSeq p v).patches = s.patches := rfl
@[simp] theorem State.mesh_setSeq (s : State) (p : Nat) (v : Seq) : (s.setSeq p v).mesh = s.mesh := rfl
@[simp] theorem State.net_setSeq (s : State) (p : Nat) (v : Seq) : (s.setSeq p v).net = s.net := rfl
@[simp] theorem State.maint_setSeq (s : State) (p : Nat) (v : Seq) : (s.setSeq p v).maint = s.maint := rfl
@[simp] theorem State.cordBad_setSeq (s : State) (p : Nat) (v : Seq) : (s.setSeq p v).cordBad = s.cordBad := rfl
@[simp] theorem State.links_setSeq (s : State) (p : Nat) (v : Seq) : (s.setSeq p v).links = s.links := rfl
@[simp] theorem State.flows_setSeq (s : State) (p : Nat) (v : Seq) : (s.setSeq p v).flows = s.flows := rfl
@[simp] theorem State.fences_setSeq (s : State) (p : Nat) (v : Seq) : (s.setSeq p v).fences = s.fences := rfl
@[simp] theorem State.staging_setSeq (s : State) (p : Nat) (v : Seq) : (s.setSeq p v).staging = s.staging := rfl
@[simp] theorem State.dma_setSeq (s : State) (p : Nat) (v : Seq) : (s.setSeq p v).dma = s.dma := rfl
@[simp] theorem State.saved_setSeq (s : State) (p : Nat) (v : Seq) : (s.setSeq p v).saved = s.saved := rfl
@[simp] theorem State.edge_setSeq (s : State) (p : Nat) (v : Seq) : (s.setSeq p v).edge = s.edge := rfl
@[simp] theorem State.kdl_setSeq (s : State) (p : Nat) (v : Seq) : (s.setSeq p v).kdl = s.kdl := rfl
@[simp] theorem State.ports_setSeq (s : State) (p : Nat) (v : Seq) : (s.setSeq p v).ports = s.ports := rfl
@[simp] theorem State.fabric_setSeq (s : State) (p : Nat) (v : Seq) : (s.setSeq p v).fabric = s.fabric := rfl
@[simp] theorem State.detected_setSeq (s : State) (p : Nat) (v : Seq) : (s.setSeq p v).detected = s.detected := rfl
@[simp] theorem State.recovery_setSeq (s : State) (p : Nat) (v : Seq) : (s.setSeq p v).recovery = s.recovery := rfl
@[simp] theorem State.recLog_setSeq (s : State) (p : Nat) (v : Seq) : (s.setSeq p v).recLog = s.recLog := rfl
@[simp] theorem State.softRepair_setSeq (s : State) (p : Nat) (v : Seq) : (s.setSeq p v).softRepair = s.softRepair := rfl
@[simp] theorem State.march_setSeq (s : State) (p : Nat) (v : Seq) : (s.setSeq p v).march = s.march := rfl
@[simp] theorem State.loader_setSeq (s : State) (p : Nat) (v : Seq) : (s.setSeq p v).loader = s.loader := rfl
@[simp] theorem State.flash_setSeq (s : State) (p : Nat) (v : Seq) : (s.setSeq p v).flash = s.flash := rfl
@[simp] theorem State.nvm_setSeq (s : State) (p : Nat) (v : Seq) : (s.setSeq p v).nvm = s.nvm := rfl
@[simp] theorem State.sec_setSeq (s : State) (p : Nat) (v : Seq) : (s.setSeq p v).sec = s.sec := rfl
@[simp] theorem State.dbg_setSeq (s : State) (p : Nat) (v : Seq) : (s.setSeq p v).dbg = s.dbg := rfl
@[simp] theorem State.rst_setSeq (s : State) (p : Nat) (v : Seq) : (s.setSeq p v).rst = s.rst := rfl
@[simp] theorem State.rings_setSeq (s : State) (p : Nat) (v : Seq) : (s.setSeq p v).rings = s.rings := rfl
@[simp] theorem State.ep_setSeq (s : State) (p : Nat) (v : Seq) : (s.setSeq p v).ep = s.ep := rfl
@[simp] theorem State.out_setSeq (s : State) (p : Nat) (v : Seq) : (s.setSeq p v).out = s.out := rfl
@[simp] theorem State.free_setSeq (s : State) (p : Nat) (v : Seq) : (s.setSeq p v).free = s.free := rfl
@[simp] theorem State.lastPort_setSeq (s : State) (p : Nat) (v : Seq) : (s.setSeq p v).lastPort = s.lastPort := rfl
@[simp] theorem State.spineBad_setSeq (s : State) (p : Nat) (v : Seq) : (s.setSeq p v).spineBad = s.spineBad := rfl
@[simp] theorem State.pending_setSeq (s : State) (p : Nat) (v : Seq) : (s.setSeq p v).pending = s.pending := rfl

@[simp] theorem State.regs_setPatch (s : State) (p : Nat) (v : Patch) : (s.setPatch p v).regs = s.regs := rfl
@[simp] theorem State.shadow_setPatch (s : State) (p : Nat) (v : Patch) : (s.setPatch p v).shadow = s.shadow := rfl
@[simp] theorem State.peMem_setPatch (s : State) (p : Nat) (v : Patch) : (s.setPatch p v).peMem = s.peMem := rfl
@[simp] theorem State.pes_setPatch (s : State) (p : Nat) (v : Patch) : (s.setPatch p v).pes = s.pes := rfl
@[simp] theorem State.parts_setPatch (s : State) (p : Nat) (v : Patch) : (s.setPatch p v).parts = s.parts := rfl
@[simp] theorem State.seqs_setPatch (s : State) (p : Nat) (v : Patch) : (s.setPatch p v).seqs = s.seqs := rfl
@[simp] theorem State.imem_setPatch (s : State) (p : Nat) (v : Patch) : (s.setPatch p v).imem = s.imem := rfl
@[simp] theorem State.hearth_setPatch (s : State) (p : Nat) (v : Patch) : (s.setPatch p v).hearth = s.hearth := rfl
@[simp] theorem State.hbm_setPatch (s : State) (p : Nat) (v : Patch) : (s.setPatch p v).hbm = s.hbm := rfl
@[simp] theorem State.mesh_setPatch (s : State) (p : Nat) (v : Patch) : (s.setPatch p v).mesh = s.mesh := rfl
@[simp] theorem State.net_setPatch (s : State) (p : Nat) (v : Patch) : (s.setPatch p v).net = s.net := rfl
@[simp] theorem State.maint_setPatch (s : State) (p : Nat) (v : Patch) : (s.setPatch p v).maint = s.maint := rfl
@[simp] theorem State.cordBad_setPatch (s : State) (p : Nat) (v : Patch) : (s.setPatch p v).cordBad = s.cordBad := rfl
@[simp] theorem State.links_setPatch (s : State) (p : Nat) (v : Patch) : (s.setPatch p v).links = s.links := rfl
@[simp] theorem State.flows_setPatch (s : State) (p : Nat) (v : Patch) : (s.setPatch p v).flows = s.flows := rfl
@[simp] theorem State.fences_setPatch (s : State) (p : Nat) (v : Patch) : (s.setPatch p v).fences = s.fences := rfl
@[simp] theorem State.staging_setPatch (s : State) (p : Nat) (v : Patch) : (s.setPatch p v).staging = s.staging := rfl
@[simp] theorem State.dma_setPatch (s : State) (p : Nat) (v : Patch) : (s.setPatch p v).dma = s.dma := rfl
@[simp] theorem State.saved_setPatch (s : State) (p : Nat) (v : Patch) : (s.setPatch p v).saved = s.saved := rfl
@[simp] theorem State.edge_setPatch (s : State) (p : Nat) (v : Patch) : (s.setPatch p v).edge = s.edge := rfl
@[simp] theorem State.kdl_setPatch (s : State) (p : Nat) (v : Patch) : (s.setPatch p v).kdl = s.kdl := rfl
@[simp] theorem State.ports_setPatch (s : State) (p : Nat) (v : Patch) : (s.setPatch p v).ports = s.ports := rfl
@[simp] theorem State.fabric_setPatch (s : State) (p : Nat) (v : Patch) : (s.setPatch p v).fabric = s.fabric := rfl
@[simp] theorem State.detected_setPatch (s : State) (p : Nat) (v : Patch) : (s.setPatch p v).detected = s.detected := rfl
@[simp] theorem State.recovery_setPatch (s : State) (p : Nat) (v : Patch) : (s.setPatch p v).recovery = s.recovery := rfl
@[simp] theorem State.recLog_setPatch (s : State) (p : Nat) (v : Patch) : (s.setPatch p v).recLog = s.recLog := rfl
@[simp] theorem State.softRepair_setPatch (s : State) (p : Nat) (v : Patch) : (s.setPatch p v).softRepair = s.softRepair := rfl
@[simp] theorem State.march_setPatch (s : State) (p : Nat) (v : Patch) : (s.setPatch p v).march = s.march := rfl
@[simp] theorem State.loader_setPatch (s : State) (p : Nat) (v : Patch) : (s.setPatch p v).loader = s.loader := rfl
@[simp] theorem State.flash_setPatch (s : State) (p : Nat) (v : Patch) : (s.setPatch p v).flash = s.flash := rfl
@[simp] theorem State.nvm_setPatch (s : State) (p : Nat) (v : Patch) : (s.setPatch p v).nvm = s.nvm := rfl
@[simp] theorem State.sec_setPatch (s : State) (p : Nat) (v : Patch) : (s.setPatch p v).sec = s.sec := rfl
@[simp] theorem State.dbg_setPatch (s : State) (p : Nat) (v : Patch) : (s.setPatch p v).dbg = s.dbg := rfl
@[simp] theorem State.rst_setPatch (s : State) (p : Nat) (v : Patch) : (s.setPatch p v).rst = s.rst := rfl
@[simp] theorem State.rings_setPatch (s : State) (p : Nat) (v : Patch) : (s.setPatch p v).rings = s.rings := rfl
@[simp] theorem State.ep_setPatch (s : State) (p : Nat) (v : Patch) : (s.setPatch p v).ep = s.ep := rfl
@[simp] theorem State.out_setPatch (s : State) (p : Nat) (v : Patch) : (s.setPatch p v).out = s.out := rfl
@[simp] theorem State.free_setPatch (s : State) (p : Nat) (v : Patch) : (s.setPatch p v).free = s.free := rfl
@[simp] theorem State.lastPort_setPatch (s : State) (p : Nat) (v : Patch) : (s.setPatch p v).lastPort = s.lastPort := rfl
@[simp] theorem State.spineBad_setPatch (s : State) (p : Nat) (v : Patch) : (s.setPatch p v).spineBad = s.spineBad := rfl
@[simp] theorem State.pending_setPatch (s : State) (p : Nat) (v : Patch) : (s.setPatch p v).pending = s.pending := rfl

@[simp] theorem State.regs_setRing (s : State) (p : Nat) (v : Ring) : (s.setRing p v).regs = s.regs := rfl
@[simp] theorem State.shadow_setRing (s : State) (p : Nat) (v : Ring) : (s.setRing p v).shadow = s.shadow := rfl
@[simp] theorem State.peMem_setRing (s : State) (p : Nat) (v : Ring) : (s.setRing p v).peMem = s.peMem := rfl
@[simp] theorem State.pes_setRing (s : State) (p : Nat) (v : Ring) : (s.setRing p v).pes = s.pes := rfl
@[simp] theorem State.parts_setRing (s : State) (p : Nat) (v : Ring) : (s.setRing p v).parts = s.parts := rfl
@[simp] theorem State.seqs_setRing (s : State) (p : Nat) (v : Ring) : (s.setRing p v).seqs = s.seqs := rfl
@[simp] theorem State.imem_setRing (s : State) (p : Nat) (v : Ring) : (s.setRing p v).imem = s.imem := rfl
@[simp] theorem State.hearth_setRing (s : State) (p : Nat) (v : Ring) : (s.setRing p v).hearth = s.hearth := rfl
@[simp] theorem State.hbm_setRing (s : State) (p : Nat) (v : Ring) : (s.setRing p v).hbm = s.hbm := rfl
@[simp] theorem State.patches_setRing (s : State) (p : Nat) (v : Ring) : (s.setRing p v).patches = s.patches := rfl
@[simp] theorem State.mesh_setRing (s : State) (p : Nat) (v : Ring) : (s.setRing p v).mesh = s.mesh := rfl
@[simp] theorem State.net_setRing (s : State) (p : Nat) (v : Ring) : (s.setRing p v).net = s.net := rfl
@[simp] theorem State.maint_setRing (s : State) (p : Nat) (v : Ring) : (s.setRing p v).maint = s.maint := rfl
@[simp] theorem State.cordBad_setRing (s : State) (p : Nat) (v : Ring) : (s.setRing p v).cordBad = s.cordBad := rfl
@[simp] theorem State.links_setRing (s : State) (p : Nat) (v : Ring) : (s.setRing p v).links = s.links := rfl
@[simp] theorem State.flows_setRing (s : State) (p : Nat) (v : Ring) : (s.setRing p v).flows = s.flows := rfl
@[simp] theorem State.fences_setRing (s : State) (p : Nat) (v : Ring) : (s.setRing p v).fences = s.fences := rfl
@[simp] theorem State.staging_setRing (s : State) (p : Nat) (v : Ring) : (s.setRing p v).staging = s.staging := rfl
@[simp] theorem State.dma_setRing (s : State) (p : Nat) (v : Ring) : (s.setRing p v).dma = s.dma := rfl
@[simp] theorem State.saved_setRing (s : State) (p : Nat) (v : Ring) : (s.setRing p v).saved = s.saved := rfl
@[simp] theorem State.edge_setRing (s : State) (p : Nat) (v : Ring) : (s.setRing p v).edge = s.edge := rfl
@[simp] theorem State.kdl_setRing (s : State) (p : Nat) (v : Ring) : (s.setRing p v).kdl = s.kdl := rfl
@[simp] theorem State.ports_setRing (s : State) (p : Nat) (v : Ring) : (s.setRing p v).ports = s.ports := rfl
@[simp] theorem State.fabric_setRing (s : State) (p : Nat) (v : Ring) : (s.setRing p v).fabric = s.fabric := rfl
@[simp] theorem State.detected_setRing (s : State) (p : Nat) (v : Ring) : (s.setRing p v).detected = s.detected := rfl
@[simp] theorem State.recovery_setRing (s : State) (p : Nat) (v : Ring) : (s.setRing p v).recovery = s.recovery := rfl
@[simp] theorem State.recLog_setRing (s : State) (p : Nat) (v : Ring) : (s.setRing p v).recLog = s.recLog := rfl
@[simp] theorem State.softRepair_setRing (s : State) (p : Nat) (v : Ring) : (s.setRing p v).softRepair = s.softRepair := rfl
@[simp] theorem State.march_setRing (s : State) (p : Nat) (v : Ring) : (s.setRing p v).march = s.march := rfl
@[simp] theorem State.loader_setRing (s : State) (p : Nat) (v : Ring) : (s.setRing p v).loader = s.loader := rfl
@[simp] theorem State.flash_setRing (s : State) (p : Nat) (v : Ring) : (s.setRing p v).flash = s.flash := rfl
@[simp] theorem State.nvm_setRing (s : State) (p : Nat) (v : Ring) : (s.setRing p v).nvm = s.nvm := rfl
@[simp] theorem State.sec_setRing (s : State) (p : Nat) (v : Ring) : (s.setRing p v).sec = s.sec := rfl
@[simp] theorem State.dbg_setRing (s : State) (p : Nat) (v : Ring) : (s.setRing p v).dbg = s.dbg := rfl
@[simp] theorem State.rst_setRing (s : State) (p : Nat) (v : Ring) : (s.setRing p v).rst = s.rst := rfl
@[simp] theorem State.ep_setRing (s : State) (p : Nat) (v : Ring) : (s.setRing p v).ep = s.ep := rfl
@[simp] theorem State.out_setRing (s : State) (p : Nat) (v : Ring) : (s.setRing p v).out = s.out := rfl
@[simp] theorem State.free_setRing (s : State) (p : Nat) (v : Ring) : (s.setRing p v).free = s.free := rfl
@[simp] theorem State.lastPort_setRing (s : State) (p : Nat) (v : Ring) : (s.setRing p v).lastPort = s.lastPort := rfl
@[simp] theorem State.spineBad_setRing (s : State) (p : Nat) (v : Ring) : (s.setRing p v).spineBad = s.spineBad := rfl
@[simp] theorem State.pending_setRing (s : State) (p : Nat) (v : Ring) : (s.setRing p v).pending = s.pending := rfl

@[simp] theorem State.regs_setFence (s : State) (n : Nat) (v : Fence) : (s.setFence n v).regs = s.regs := rfl
@[simp] theorem State.shadow_setFence (s : State) (n : Nat) (v : Fence) : (s.setFence n v).shadow = s.shadow := rfl
@[simp] theorem State.peMem_setFence (s : State) (n : Nat) (v : Fence) : (s.setFence n v).peMem = s.peMem := rfl
@[simp] theorem State.pes_setFence (s : State) (n : Nat) (v : Fence) : (s.setFence n v).pes = s.pes := rfl
@[simp] theorem State.parts_setFence (s : State) (n : Nat) (v : Fence) : (s.setFence n v).parts = s.parts := rfl
@[simp] theorem State.seqs_setFence (s : State) (n : Nat) (v : Fence) : (s.setFence n v).seqs = s.seqs := rfl
@[simp] theorem State.imem_setFence (s : State) (n : Nat) (v : Fence) : (s.setFence n v).imem = s.imem := rfl
@[simp] theorem State.hearth_setFence (s : State) (n : Nat) (v : Fence) : (s.setFence n v).hearth = s.hearth := rfl
@[simp] theorem State.hbm_setFence (s : State) (n : Nat) (v : Fence) : (s.setFence n v).hbm = s.hbm := rfl
@[simp] theorem State.patches_setFence (s : State) (n : Nat) (v : Fence) : (s.setFence n v).patches = s.patches := rfl
@[simp] theorem State.mesh_setFence (s : State) (n : Nat) (v : Fence) : (s.setFence n v).mesh = s.mesh := rfl
@[simp] theorem State.net_setFence (s : State) (n : Nat) (v : Fence) : (s.setFence n v).net = s.net := rfl
@[simp] theorem State.maint_setFence (s : State) (n : Nat) (v : Fence) : (s.setFence n v).maint = s.maint := rfl
@[simp] theorem State.cordBad_setFence (s : State) (n : Nat) (v : Fence) : (s.setFence n v).cordBad = s.cordBad := rfl
@[simp] theorem State.links_setFence (s : State) (n : Nat) (v : Fence) : (s.setFence n v).links = s.links := rfl
@[simp] theorem State.flows_setFence (s : State) (n : Nat) (v : Fence) : (s.setFence n v).flows = s.flows := rfl
@[simp] theorem State.staging_setFence (s : State) (n : Nat) (v : Fence) : (s.setFence n v).staging = s.staging := rfl
@[simp] theorem State.dma_setFence (s : State) (n : Nat) (v : Fence) : (s.setFence n v).dma = s.dma := rfl
@[simp] theorem State.saved_setFence (s : State) (n : Nat) (v : Fence) : (s.setFence n v).saved = s.saved := rfl
@[simp] theorem State.edge_setFence (s : State) (n : Nat) (v : Fence) : (s.setFence n v).edge = s.edge := rfl
@[simp] theorem State.kdl_setFence (s : State) (n : Nat) (v : Fence) : (s.setFence n v).kdl = s.kdl := rfl
@[simp] theorem State.ports_setFence (s : State) (n : Nat) (v : Fence) : (s.setFence n v).ports = s.ports := rfl
@[simp] theorem State.fabric_setFence (s : State) (n : Nat) (v : Fence) : (s.setFence n v).fabric = s.fabric := rfl
@[simp] theorem State.detected_setFence (s : State) (n : Nat) (v : Fence) : (s.setFence n v).detected = s.detected := rfl
@[simp] theorem State.recovery_setFence (s : State) (n : Nat) (v : Fence) : (s.setFence n v).recovery = s.recovery := rfl
@[simp] theorem State.recLog_setFence (s : State) (n : Nat) (v : Fence) : (s.setFence n v).recLog = s.recLog := rfl
@[simp] theorem State.softRepair_setFence (s : State) (n : Nat) (v : Fence) : (s.setFence n v).softRepair = s.softRepair := rfl
@[simp] theorem State.march_setFence (s : State) (n : Nat) (v : Fence) : (s.setFence n v).march = s.march := rfl
@[simp] theorem State.loader_setFence (s : State) (n : Nat) (v : Fence) : (s.setFence n v).loader = s.loader := rfl
@[simp] theorem State.flash_setFence (s : State) (n : Nat) (v : Fence) : (s.setFence n v).flash = s.flash := rfl
@[simp] theorem State.nvm_setFence (s : State) (n : Nat) (v : Fence) : (s.setFence n v).nvm = s.nvm := rfl
@[simp] theorem State.sec_setFence (s : State) (n : Nat) (v : Fence) : (s.setFence n v).sec = s.sec := rfl
@[simp] theorem State.dbg_setFence (s : State) (n : Nat) (v : Fence) : (s.setFence n v).dbg = s.dbg := rfl
@[simp] theorem State.rst_setFence (s : State) (n : Nat) (v : Fence) : (s.setFence n v).rst = s.rst := rfl
@[simp] theorem State.rings_setFence (s : State) (n : Nat) (v : Fence) : (s.setFence n v).rings = s.rings := rfl
@[simp] theorem State.ep_setFence (s : State) (n : Nat) (v : Fence) : (s.setFence n v).ep = s.ep := rfl
@[simp] theorem State.out_setFence (s : State) (n : Nat) (v : Fence) : (s.setFence n v).out = s.out := rfl
@[simp] theorem State.free_setFence (s : State) (n : Nat) (v : Fence) : (s.setFence n v).free = s.free := rfl
@[simp] theorem State.lastPort_setFence (s : State) (n : Nat) (v : Fence) : (s.setFence n v).lastPort = s.lastPort := rfl
@[simp] theorem State.spineBad_setFence (s : State) (n : Nat) (v : Fence) : (s.setFence n v).spineBad = s.spineBad := rfl
@[simp] theorem State.pending_setFence (s : State) (n : Nat) (v : Fence) : (s.setFence n v).pending = s.pending := rfl

@[simp] theorem State.regs_setPort (s : State) (n : Nat) (v : Port) : (s.setPort n v).regs = s.regs := rfl
@[simp] theorem State.shadow_setPort (s : State) (n : Nat) (v : Port) : (s.setPort n v).shadow = s.shadow := rfl
@[simp] theorem State.peMem_setPort (s : State) (n : Nat) (v : Port) : (s.setPort n v).peMem = s.peMem := rfl
@[simp] theorem State.pes_setPort (s : State) (n : Nat) (v : Port) : (s.setPort n v).pes = s.pes := rfl
@[simp] theorem State.parts_setPort (s : State) (n : Nat) (v : Port) : (s.setPort n v).parts = s.parts := rfl
@[simp] theorem State.seqs_setPort (s : State) (n : Nat) (v : Port) : (s.setPort n v).seqs = s.seqs := rfl
@[simp] theorem State.imem_setPort (s : State) (n : Nat) (v : Port) : (s.setPort n v).imem = s.imem := rfl
@[simp] theorem State.hearth_setPort (s : State) (n : Nat) (v : Port) : (s.setPort n v).hearth = s.hearth := rfl
@[simp] theorem State.hbm_setPort (s : State) (n : Nat) (v : Port) : (s.setPort n v).hbm = s.hbm := rfl
@[simp] theorem State.patches_setPort (s : State) (n : Nat) (v : Port) : (s.setPort n v).patches = s.patches := rfl
@[simp] theorem State.mesh_setPort (s : State) (n : Nat) (v : Port) : (s.setPort n v).mesh = s.mesh := rfl
@[simp] theorem State.net_setPort (s : State) (n : Nat) (v : Port) : (s.setPort n v).net = s.net := rfl
@[simp] theorem State.maint_setPort (s : State) (n : Nat) (v : Port) : (s.setPort n v).maint = s.maint := rfl
@[simp] theorem State.cordBad_setPort (s : State) (n : Nat) (v : Port) : (s.setPort n v).cordBad = s.cordBad := rfl
@[simp] theorem State.links_setPort (s : State) (n : Nat) (v : Port) : (s.setPort n v).links = s.links := rfl
@[simp] theorem State.flows_setPort (s : State) (n : Nat) (v : Port) : (s.setPort n v).flows = s.flows := rfl
@[simp] theorem State.fences_setPort (s : State) (n : Nat) (v : Port) : (s.setPort n v).fences = s.fences := rfl
@[simp] theorem State.staging_setPort (s : State) (n : Nat) (v : Port) : (s.setPort n v).staging = s.staging := rfl
@[simp] theorem State.dma_setPort (s : State) (n : Nat) (v : Port) : (s.setPort n v).dma = s.dma := rfl
@[simp] theorem State.saved_setPort (s : State) (n : Nat) (v : Port) : (s.setPort n v).saved = s.saved := rfl
@[simp] theorem State.edge_setPort (s : State) (n : Nat) (v : Port) : (s.setPort n v).edge = s.edge := rfl
@[simp] theorem State.kdl_setPort (s : State) (n : Nat) (v : Port) : (s.setPort n v).kdl = s.kdl := rfl
@[simp] theorem State.fabric_setPort (s : State) (n : Nat) (v : Port) : (s.setPort n v).fabric = s.fabric := rfl
@[simp] theorem State.detected_setPort (s : State) (n : Nat) (v : Port) : (s.setPort n v).detected = s.detected := rfl
@[simp] theorem State.recovery_setPort (s : State) (n : Nat) (v : Port) : (s.setPort n v).recovery = s.recovery := rfl
@[simp] theorem State.recLog_setPort (s : State) (n : Nat) (v : Port) : (s.setPort n v).recLog = s.recLog := rfl
@[simp] theorem State.softRepair_setPort (s : State) (n : Nat) (v : Port) : (s.setPort n v).softRepair = s.softRepair := rfl
@[simp] theorem State.march_setPort (s : State) (n : Nat) (v : Port) : (s.setPort n v).march = s.march := rfl
@[simp] theorem State.loader_setPort (s : State) (n : Nat) (v : Port) : (s.setPort n v).loader = s.loader := rfl
@[simp] theorem State.flash_setPort (s : State) (n : Nat) (v : Port) : (s.setPort n v).flash = s.flash := rfl
@[simp] theorem State.nvm_setPort (s : State) (n : Nat) (v : Port) : (s.setPort n v).nvm = s.nvm := rfl
@[simp] theorem State.sec_setPort (s : State) (n : Nat) (v : Port) : (s.setPort n v).sec = s.sec := rfl
@[simp] theorem State.dbg_setPort (s : State) (n : Nat) (v : Port) : (s.setPort n v).dbg = s.dbg := rfl
@[simp] theorem State.rst_setPort (s : State) (n : Nat) (v : Port) : (s.setPort n v).rst = s.rst := rfl
@[simp] theorem State.rings_setPort (s : State) (n : Nat) (v : Port) : (s.setPort n v).rings = s.rings := rfl
@[simp] theorem State.ep_setPort (s : State) (n : Nat) (v : Port) : (s.setPort n v).ep = s.ep := rfl
@[simp] theorem State.out_setPort (s : State) (n : Nat) (v : Port) : (s.setPort n v).out = s.out := rfl
@[simp] theorem State.free_setPort (s : State) (n : Nat) (v : Port) : (s.setPort n v).free = s.free := rfl
@[simp] theorem State.lastPort_setPort (s : State) (n : Nat) (v : Port) : (s.setPort n v).lastPort = s.lastPort := rfl
@[simp] theorem State.spineBad_setPort (s : State) (n : Nat) (v : Port) : (s.setPort n v).spineBad = s.spineBad := rfl
@[simp] theorem State.pending_setPort (s : State) (n : Nat) (v : Port) : (s.setPort n v).pending = s.pending := rfl

@[simp] theorem State.regs_setRecov (s : State) (p : Nat) (v : Option Recovery) : (s.setRecov p v).regs = s.regs := rfl
@[simp] theorem State.shadow_setRecov (s : State) (p : Nat) (v : Option Recovery) : (s.setRecov p v).shadow = s.shadow := rfl
@[simp] theorem State.peMem_setRecov (s : State) (p : Nat) (v : Option Recovery) : (s.setRecov p v).peMem = s.peMem := rfl
@[simp] theorem State.pes_setRecov (s : State) (p : Nat) (v : Option Recovery) : (s.setRecov p v).pes = s.pes := rfl
@[simp] theorem State.parts_setRecov (s : State) (p : Nat) (v : Option Recovery) : (s.setRecov p v).parts = s.parts := rfl
@[simp] theorem State.seqs_setRecov (s : State) (p : Nat) (v : Option Recovery) : (s.setRecov p v).seqs = s.seqs := rfl
@[simp] theorem State.imem_setRecov (s : State) (p : Nat) (v : Option Recovery) : (s.setRecov p v).imem = s.imem := rfl
@[simp] theorem State.hearth_setRecov (s : State) (p : Nat) (v : Option Recovery) : (s.setRecov p v).hearth = s.hearth := rfl
@[simp] theorem State.hbm_setRecov (s : State) (p : Nat) (v : Option Recovery) : (s.setRecov p v).hbm = s.hbm := rfl
@[simp] theorem State.patches_setRecov (s : State) (p : Nat) (v : Option Recovery) : (s.setRecov p v).patches = s.patches := rfl
@[simp] theorem State.mesh_setRecov (s : State) (p : Nat) (v : Option Recovery) : (s.setRecov p v).mesh = s.mesh := rfl
@[simp] theorem State.net_setRecov (s : State) (p : Nat) (v : Option Recovery) : (s.setRecov p v).net = s.net := rfl
@[simp] theorem State.maint_setRecov (s : State) (p : Nat) (v : Option Recovery) : (s.setRecov p v).maint = s.maint := rfl
@[simp] theorem State.cordBad_setRecov (s : State) (p : Nat) (v : Option Recovery) : (s.setRecov p v).cordBad = s.cordBad := rfl
@[simp] theorem State.links_setRecov (s : State) (p : Nat) (v : Option Recovery) : (s.setRecov p v).links = s.links := rfl
@[simp] theorem State.flows_setRecov (s : State) (p : Nat) (v : Option Recovery) : (s.setRecov p v).flows = s.flows := rfl
@[simp] theorem State.fences_setRecov (s : State) (p : Nat) (v : Option Recovery) : (s.setRecov p v).fences = s.fences := rfl
@[simp] theorem State.staging_setRecov (s : State) (p : Nat) (v : Option Recovery) : (s.setRecov p v).staging = s.staging := rfl
@[simp] theorem State.dma_setRecov (s : State) (p : Nat) (v : Option Recovery) : (s.setRecov p v).dma = s.dma := rfl
@[simp] theorem State.saved_setRecov (s : State) (p : Nat) (v : Option Recovery) : (s.setRecov p v).saved = s.saved := rfl
@[simp] theorem State.edge_setRecov (s : State) (p : Nat) (v : Option Recovery) : (s.setRecov p v).edge = s.edge := rfl
@[simp] theorem State.kdl_setRecov (s : State) (p : Nat) (v : Option Recovery) : (s.setRecov p v).kdl = s.kdl := rfl
@[simp] theorem State.ports_setRecov (s : State) (p : Nat) (v : Option Recovery) : (s.setRecov p v).ports = s.ports := rfl
@[simp] theorem State.fabric_setRecov (s : State) (p : Nat) (v : Option Recovery) : (s.setRecov p v).fabric = s.fabric := rfl
@[simp] theorem State.detected_setRecov (s : State) (p : Nat) (v : Option Recovery) : (s.setRecov p v).detected = s.detected := rfl
@[simp] theorem State.recLog_setRecov (s : State) (p : Nat) (v : Option Recovery) : (s.setRecov p v).recLog = s.recLog := rfl
@[simp] theorem State.softRepair_setRecov (s : State) (p : Nat) (v : Option Recovery) : (s.setRecov p v).softRepair = s.softRepair := rfl
@[simp] theorem State.march_setRecov (s : State) (p : Nat) (v : Option Recovery) : (s.setRecov p v).march = s.march := rfl
@[simp] theorem State.loader_setRecov (s : State) (p : Nat) (v : Option Recovery) : (s.setRecov p v).loader = s.loader := rfl
@[simp] theorem State.flash_setRecov (s : State) (p : Nat) (v : Option Recovery) : (s.setRecov p v).flash = s.flash := rfl
@[simp] theorem State.nvm_setRecov (s : State) (p : Nat) (v : Option Recovery) : (s.setRecov p v).nvm = s.nvm := rfl
@[simp] theorem State.sec_setRecov (s : State) (p : Nat) (v : Option Recovery) : (s.setRecov p v).sec = s.sec := rfl
@[simp] theorem State.dbg_setRecov (s : State) (p : Nat) (v : Option Recovery) : (s.setRecov p v).dbg = s.dbg := rfl
@[simp] theorem State.rst_setRecov (s : State) (p : Nat) (v : Option Recovery) : (s.setRecov p v).rst = s.rst := rfl
@[simp] theorem State.rings_setRecov (s : State) (p : Nat) (v : Option Recovery) : (s.setRecov p v).rings = s.rings := rfl
@[simp] theorem State.ep_setRecov (s : State) (p : Nat) (v : Option Recovery) : (s.setRecov p v).ep = s.ep := rfl
@[simp] theorem State.out_setRecov (s : State) (p : Nat) (v : Option Recovery) : (s.setRecov p v).out = s.out := rfl
@[simp] theorem State.free_setRecov (s : State) (p : Nat) (v : Option Recovery) : (s.setRecov p v).free = s.free := rfl
@[simp] theorem State.lastPort_setRecov (s : State) (p : Nat) (v : Option Recovery) : (s.setRecov p v).lastPort = s.lastPort := rfl
@[simp] theorem State.spineBad_setRecov (s : State) (p : Nat) (v : Option Recovery) : (s.setRecov p v).spineBad = s.spineBad := rfl
@[simp] theorem State.pending_setRecov (s : State) (p : Nat) (v : Option Recovery) : (s.setRecov p v).pending = s.pending := rfl

@[simp] theorem State.regs_detect (s : State) (f : FaultInfo) : (s.detect f).regs = s.regs := rfl
@[simp] theorem State.shadow_detect (s : State) (f : FaultInfo) : (s.detect f).shadow = s.shadow := rfl
@[simp] theorem State.peMem_detect (s : State) (f : FaultInfo) : (s.detect f).peMem = s.peMem := rfl
@[simp] theorem State.pes_detect (s : State) (f : FaultInfo) : (s.detect f).pes = s.pes := rfl
@[simp] theorem State.parts_detect (s : State) (f : FaultInfo) : (s.detect f).parts = s.parts := rfl
@[simp] theorem State.seqs_detect (s : State) (f : FaultInfo) : (s.detect f).seqs = s.seqs := rfl
@[simp] theorem State.imem_detect (s : State) (f : FaultInfo) : (s.detect f).imem = s.imem := rfl
@[simp] theorem State.hearth_detect (s : State) (f : FaultInfo) : (s.detect f).hearth = s.hearth := rfl
@[simp] theorem State.hbm_detect (s : State) (f : FaultInfo) : (s.detect f).hbm = s.hbm := rfl
@[simp] theorem State.patches_detect (s : State) (f : FaultInfo) : (s.detect f).patches = s.patches := rfl
@[simp] theorem State.mesh_detect (s : State) (f : FaultInfo) : (s.detect f).mesh = s.mesh := rfl
@[simp] theorem State.net_detect (s : State) (f : FaultInfo) : (s.detect f).net = s.net := rfl
@[simp] theorem State.maint_detect (s : State) (f : FaultInfo) : (s.detect f).maint = s.maint := rfl
@[simp] theorem State.cordBad_detect (s : State) (f : FaultInfo) : (s.detect f).cordBad = s.cordBad := rfl
@[simp] theorem State.links_detect (s : State) (f : FaultInfo) : (s.detect f).links = s.links := rfl
@[simp] theorem State.flows_detect (s : State) (f : FaultInfo) : (s.detect f).flows = s.flows := rfl
@[simp] theorem State.fences_detect (s : State) (f : FaultInfo) : (s.detect f).fences = s.fences := rfl
@[simp] theorem State.staging_detect (s : State) (f : FaultInfo) : (s.detect f).staging = s.staging := rfl
@[simp] theorem State.dma_detect (s : State) (f : FaultInfo) : (s.detect f).dma = s.dma := rfl
@[simp] theorem State.saved_detect (s : State) (f : FaultInfo) : (s.detect f).saved = s.saved := rfl
@[simp] theorem State.edge_detect (s : State) (f : FaultInfo) : (s.detect f).edge = s.edge := rfl
@[simp] theorem State.kdl_detect (s : State) (f : FaultInfo) : (s.detect f).kdl = s.kdl := rfl
@[simp] theorem State.ports_detect (s : State) (f : FaultInfo) : (s.detect f).ports = s.ports := rfl
@[simp] theorem State.fabric_detect (s : State) (f : FaultInfo) : (s.detect f).fabric = s.fabric := rfl
@[simp] theorem State.recovery_detect (s : State) (f : FaultInfo) : (s.detect f).recovery = s.recovery := rfl
@[simp] theorem State.recLog_detect (s : State) (f : FaultInfo) : (s.detect f).recLog = s.recLog := rfl
@[simp] theorem State.softRepair_detect (s : State) (f : FaultInfo) : (s.detect f).softRepair = s.softRepair := rfl
@[simp] theorem State.march_detect (s : State) (f : FaultInfo) : (s.detect f).march = s.march := rfl
@[simp] theorem State.loader_detect (s : State) (f : FaultInfo) : (s.detect f).loader = s.loader := rfl
@[simp] theorem State.flash_detect (s : State) (f : FaultInfo) : (s.detect f).flash = s.flash := rfl
@[simp] theorem State.nvm_detect (s : State) (f : FaultInfo) : (s.detect f).nvm = s.nvm := rfl
@[simp] theorem State.sec_detect (s : State) (f : FaultInfo) : (s.detect f).sec = s.sec := rfl
@[simp] theorem State.dbg_detect (s : State) (f : FaultInfo) : (s.detect f).dbg = s.dbg := rfl
@[simp] theorem State.rst_detect (s : State) (f : FaultInfo) : (s.detect f).rst = s.rst := rfl
@[simp] theorem State.rings_detect (s : State) (f : FaultInfo) : (s.detect f).rings = s.rings := rfl
@[simp] theorem State.ep_detect (s : State) (f : FaultInfo) : (s.detect f).ep = s.ep := rfl
@[simp] theorem State.out_detect (s : State) (f : FaultInfo) : (s.detect f).out = s.out := rfl
@[simp] theorem State.free_detect (s : State) (f : FaultInfo) : (s.detect f).free = s.free := rfl
@[simp] theorem State.lastPort_detect (s : State) (f : FaultInfo) : (s.detect f).lastPort = s.lastPort := rfl
@[simp] theorem State.spineBad_detect (s : State) (f : FaultInfo) : (s.detect f).spineBad = s.spineBad := rfl
@[simp] theorem State.pending_detect (s : State) (f : FaultInfo) : (s.detect f).pending = s.pending := rfl

@[simp] theorem State.regs_send (s : State) (o : Out) : (s.send o).regs = s.regs := rfl
@[simp] theorem State.shadow_send (s : State) (o : Out) : (s.send o).shadow = s.shadow := rfl
@[simp] theorem State.peMem_send (s : State) (o : Out) : (s.send o).peMem = s.peMem := rfl
@[simp] theorem State.pes_send (s : State) (o : Out) : (s.send o).pes = s.pes := rfl
@[simp] theorem State.parts_send (s : State) (o : Out) : (s.send o).parts = s.parts := rfl
@[simp] theorem State.seqs_send (s : State) (o : Out) : (s.send o).seqs = s.seqs := rfl
@[simp] theorem State.imem_send (s : State) (o : Out) : (s.send o).imem = s.imem := rfl
@[simp] theorem State.hearth_send (s : State) (o : Out) : (s.send o).hearth = s.hearth := rfl
@[simp] theorem State.hbm_send (s : State) (o : Out) : (s.send o).hbm = s.hbm := rfl
@[simp] theorem State.patches_send (s : State) (o : Out) : (s.send o).patches = s.patches := rfl
@[simp] theorem State.mesh_send (s : State) (o : Out) : (s.send o).mesh = s.mesh := rfl
@[simp] theorem State.net_send (s : State) (o : Out) : (s.send o).net = s.net := rfl
@[simp] theorem State.maint_send (s : State) (o : Out) : (s.send o).maint = s.maint := rfl
@[simp] theorem State.cordBad_send (s : State) (o : Out) : (s.send o).cordBad = s.cordBad := rfl
@[simp] theorem State.links_send (s : State) (o : Out) : (s.send o).links = s.links := rfl
@[simp] theorem State.flows_send (s : State) (o : Out) : (s.send o).flows = s.flows := rfl
@[simp] theorem State.fences_send (s : State) (o : Out) : (s.send o).fences = s.fences := rfl
@[simp] theorem State.staging_send (s : State) (o : Out) : (s.send o).staging = s.staging := rfl
@[simp] theorem State.dma_send (s : State) (o : Out) : (s.send o).dma = s.dma := rfl
@[simp] theorem State.saved_send (s : State) (o : Out) : (s.send o).saved = s.saved := rfl
@[simp] theorem State.edge_send (s : State) (o : Out) : (s.send o).edge = s.edge := rfl
@[simp] theorem State.kdl_send (s : State) (o : Out) : (s.send o).kdl = s.kdl := rfl
@[simp] theorem State.ports_send (s : State) (o : Out) : (s.send o).ports = s.ports := rfl
@[simp] theorem State.fabric_send (s : State) (o : Out) : (s.send o).fabric = s.fabric := rfl
@[simp] theorem State.detected_send (s : State) (o : Out) : (s.send o).detected = s.detected := rfl
@[simp] theorem State.recovery_send (s : State) (o : Out) : (s.send o).recovery = s.recovery := rfl
@[simp] theorem State.recLog_send (s : State) (o : Out) : (s.send o).recLog = s.recLog := rfl
@[simp] theorem State.softRepair_send (s : State) (o : Out) : (s.send o).softRepair = s.softRepair := rfl
@[simp] theorem State.march_send (s : State) (o : Out) : (s.send o).march = s.march := rfl
@[simp] theorem State.loader_send (s : State) (o : Out) : (s.send o).loader = s.loader := rfl
@[simp] theorem State.flash_send (s : State) (o : Out) : (s.send o).flash = s.flash := rfl
@[simp] theorem State.nvm_send (s : State) (o : Out) : (s.send o).nvm = s.nvm := rfl
@[simp] theorem State.sec_send (s : State) (o : Out) : (s.send o).sec = s.sec := rfl
@[simp] theorem State.dbg_send (s : State) (o : Out) : (s.send o).dbg = s.dbg := rfl
@[simp] theorem State.rst_send (s : State) (o : Out) : (s.send o).rst = s.rst := rfl
@[simp] theorem State.rings_send (s : State) (o : Out) : (s.send o).rings = s.rings := rfl
@[simp] theorem State.ep_send (s : State) (o : Out) : (s.send o).ep = s.ep := rfl
@[simp] theorem State.free_send (s : State) (o : Out) : (s.send o).free = s.free := rfl
@[simp] theorem State.lastPort_send (s : State) (o : Out) : (s.send o).lastPort = s.lastPort := rfl
@[simp] theorem State.spineBad_send (s : State) (o : Out) : (s.send o).spineBad = s.spineBad := rfl
@[simp] theorem State.pending_send (s : State) (o : Out) : (s.send o).pending = s.pending := rfl

@[simp] theorem State.regs_useFree (s : State) : s.useFree.regs = s.regs := rfl
@[simp] theorem State.shadow_useFree (s : State) : s.useFree.shadow = s.shadow := rfl
@[simp] theorem State.peMem_useFree (s : State) : s.useFree.peMem = s.peMem := rfl
@[simp] theorem State.pes_useFree (s : State) : s.useFree.pes = s.pes := rfl
@[simp] theorem State.parts_useFree (s : State) : s.useFree.parts = s.parts := rfl
@[simp] theorem State.seqs_useFree (s : State) : s.useFree.seqs = s.seqs := rfl
@[simp] theorem State.imem_useFree (s : State) : s.useFree.imem = s.imem := rfl
@[simp] theorem State.hearth_useFree (s : State) : s.useFree.hearth = s.hearth := rfl
@[simp] theorem State.hbm_useFree (s : State) : s.useFree.hbm = s.hbm := rfl
@[simp] theorem State.patches_useFree (s : State) : s.useFree.patches = s.patches := rfl
@[simp] theorem State.mesh_useFree (s : State) : s.useFree.mesh = s.mesh := rfl
@[simp] theorem State.net_useFree (s : State) : s.useFree.net = s.net := rfl
@[simp] theorem State.maint_useFree (s : State) : s.useFree.maint = s.maint := rfl
@[simp] theorem State.cordBad_useFree (s : State) : s.useFree.cordBad = s.cordBad := rfl
@[simp] theorem State.links_useFree (s : State) : s.useFree.links = s.links := rfl
@[simp] theorem State.flows_useFree (s : State) : s.useFree.flows = s.flows := rfl
@[simp] theorem State.fences_useFree (s : State) : s.useFree.fences = s.fences := rfl
@[simp] theorem State.staging_useFree (s : State) : s.useFree.staging = s.staging := rfl
@[simp] theorem State.dma_useFree (s : State) : s.useFree.dma = s.dma := rfl
@[simp] theorem State.saved_useFree (s : State) : s.useFree.saved = s.saved := rfl
@[simp] theorem State.edge_useFree (s : State) : s.useFree.edge = s.edge := rfl
@[simp] theorem State.kdl_useFree (s : State) : s.useFree.kdl = s.kdl := rfl
@[simp] theorem State.ports_useFree (s : State) : s.useFree.ports = s.ports := rfl
@[simp] theorem State.fabric_useFree (s : State) : s.useFree.fabric = s.fabric := rfl
@[simp] theorem State.detected_useFree (s : State) : s.useFree.detected = s.detected := rfl
@[simp] theorem State.recovery_useFree (s : State) : s.useFree.recovery = s.recovery := rfl
@[simp] theorem State.recLog_useFree (s : State) : s.useFree.recLog = s.recLog := rfl
@[simp] theorem State.softRepair_useFree (s : State) : s.useFree.softRepair = s.softRepair := rfl
@[simp] theorem State.march_useFree (s : State) : s.useFree.march = s.march := rfl
@[simp] theorem State.loader_useFree (s : State) : s.useFree.loader = s.loader := rfl
@[simp] theorem State.flash_useFree (s : State) : s.useFree.flash = s.flash := rfl
@[simp] theorem State.nvm_useFree (s : State) : s.useFree.nvm = s.nvm := rfl
@[simp] theorem State.sec_useFree (s : State) : s.useFree.sec = s.sec := rfl
@[simp] theorem State.dbg_useFree (s : State) : s.useFree.dbg = s.dbg := rfl
@[simp] theorem State.rst_useFree (s : State) : s.useFree.rst = s.rst := rfl
@[simp] theorem State.rings_useFree (s : State) : s.useFree.rings = s.rings := rfl
@[simp] theorem State.ep_useFree (s : State) : s.useFree.ep = s.ep := rfl
@[simp] theorem State.out_useFree (s : State) : s.useFree.out = s.out := rfl
@[simp] theorem State.lastPort_useFree (s : State) : s.useFree.lastPort = s.lastPort := rfl
@[simp] theorem State.spineBad_useFree (s : State) : s.useFree.spineBad = s.spineBad := rfl
@[simp] theorem State.pending_useFree (s : State) : s.useFree.pending = s.pending := rfl

/-! ## Unit accessors under the updates -/

@[simp] theorem State.part_setReg (s : State) (off : Nat) (v : W64) (k : Nat) : (s.setReg off v).part k = s.part k := rfl
@[simp] theorem State.seq_setReg (s : State) (off : Nat) (v : W64) (k : Nat) : (s.setReg off v).seq k = s.seq k := rfl
@[simp] theorem State.patch_setReg (s : State) (off : Nat) (v : W64) (k : Nat) : (s.setReg off v).patch k = s.patch k := rfl
@[simp] theorem State.ring_setReg (s : State) (off : Nat) (v : W64) (k : Nat) : (s.setReg off v).ring k = s.ring k := rfl
@[simp] theorem State.stg_setReg (s : State) (off : Nat) (v : W64) (k : Nat) : (s.setReg off v).stg k = s.stg k := rfl
@[simp] theorem State.fence_setReg (s : State) (off : Nat) (v : W64) (k : Nat) : (s.setReg off v).fence k = s.fence k := rfl
@[simp] theorem State.port_setReg (s : State) (off : Nat) (v : W64) (k : Nat) : (s.setReg off v).port k = s.port k := rfl
@[simp] theorem State.recov_setReg (s : State) (off : Nat) (v : W64) (k : Nat) : (s.setReg off v).recov k = s.recov k := rfl
@[simp] theorem State.peMemory_setReg (s : State) (off : Nat) (v : W64) (k : Nat) : (s.setReg off v).peMemory k = s.peMemory k := rfl
@[simp] theorem State.pe_setReg (s : State) (off : Nat) (v : W64) (k : Nat) : (s.setReg off v).pe k = s.pe k := rfl
@[simp] theorem State.freeValue_setReg (s : State) (off : Nat) (v : W64) : (s.setReg off v).freeValue = s.freeValue := rfl

@[simp] theorem State.part_set (s : State) (f : Field) (v : Nat) (k : Nat) : (s.set f v).part k = s.part k := rfl
@[simp] theorem State.seq_set (s : State) (f : Field) (v : Nat) (k : Nat) : (s.set f v).seq k = s.seq k := rfl
@[simp] theorem State.patch_set (s : State) (f : Field) (v : Nat) (k : Nat) : (s.set f v).patch k = s.patch k := rfl
@[simp] theorem State.ring_set (s : State) (f : Field) (v : Nat) (k : Nat) : (s.set f v).ring k = s.ring k := rfl
@[simp] theorem State.stg_set (s : State) (f : Field) (v : Nat) (k : Nat) : (s.set f v).stg k = s.stg k := rfl
@[simp] theorem State.fence_set (s : State) (f : Field) (v : Nat) (k : Nat) : (s.set f v).fence k = s.fence k := rfl
@[simp] theorem State.port_set (s : State) (f : Field) (v : Nat) (k : Nat) : (s.set f v).port k = s.port k := rfl
@[simp] theorem State.recov_set (s : State) (f : Field) (v : Nat) (k : Nat) : (s.set f v).recov k = s.recov k := rfl
@[simp] theorem State.peMemory_set (s : State) (f : Field) (v : Nat) (k : Nat) : (s.set f v).peMemory k = s.peMemory k := rfl
@[simp] theorem State.pe_set (s : State) (f : Field) (v : Nat) (k : Nat) : (s.set f v).pe k = s.pe k := rfl
@[simp] theorem State.freeValue_set (s : State) (f : Field) (v : Nat) : (s.set f v).freeValue = s.freeValue := rfl

@[simp] theorem State.reg_setPart (s : State) (p : Nat) (v : Part) (k : Nat) : (s.setPart p v).reg k = s.reg k := rfl
@[simp] theorem State.get_setPart (s : State) (p : Nat) (v : Part) (g : Field) : (s.setPart p v).get g = s.get g := rfl
@[simp] theorem State.flag_setPart (s : State) (p : Nat) (v : Part) (g : Field) : (s.setPart p v).flag g = s.flag g := rfl
@[simp] theorem State.seq_setPart (s : State) (p : Nat) (v : Part) (k : Nat) : (s.setPart p v).seq k = s.seq k := rfl
@[simp] theorem State.patch_setPart (s : State) (p : Nat) (v : Part) (k : Nat) : (s.setPart p v).patch k = s.patch k := rfl
@[simp] theorem State.ring_setPart (s : State) (p : Nat) (v : Part) (k : Nat) : (s.setPart p v).ring k = s.ring k := rfl
@[simp] theorem State.stg_setPart (s : State) (p : Nat) (v : Part) (k : Nat) : (s.setPart p v).stg k = s.stg k := rfl
@[simp] theorem State.fence_setPart (s : State) (p : Nat) (v : Part) (k : Nat) : (s.setPart p v).fence k = s.fence k := rfl
@[simp] theorem State.port_setPart (s : State) (p : Nat) (v : Part) (k : Nat) : (s.setPart p v).port k = s.port k := rfl
@[simp] theorem State.recov_setPart (s : State) (p : Nat) (v : Part) (k : Nat) : (s.setPart p v).recov k = s.recov k := rfl
@[simp] theorem State.peMemory_setPart (s : State) (p : Nat) (v : Part) (k : Nat) : (s.setPart p v).peMemory k = s.peMemory k := rfl
@[simp] theorem State.pe_setPart (s : State) (p : Nat) (v : Part) (k : Nat) : (s.setPart p v).pe k = s.pe k := rfl
@[simp] theorem State.freeValue_setPart (s : State) (p : Nat) (v : Part) : (s.setPart p v).freeValue = s.freeValue := rfl

@[simp] theorem State.reg_setSeq (s : State) (p : Nat) (v : Seq) (k : Nat) : (s.setSeq p v).reg k = s.reg k := rfl
@[simp] theorem State.get_setSeq (s : State) (p : Nat) (v : Seq) (g : Field) : (s.setSeq p v).get g = s.get g := rfl
@[simp] theorem State.flag_setSeq (s : State) (p : Nat) (v : Seq) (g : Field) : (s.setSeq p v).flag g = s.flag g := rfl
@[simp] theorem State.part_setSeq (s : State) (p : Nat) (v : Seq) (k : Nat) : (s.setSeq p v).part k = s.part k := rfl
@[simp] theorem State.patch_setSeq (s : State) (p : Nat) (v : Seq) (k : Nat) : (s.setSeq p v).patch k = s.patch k := rfl
@[simp] theorem State.ring_setSeq (s : State) (p : Nat) (v : Seq) (k : Nat) : (s.setSeq p v).ring k = s.ring k := rfl
@[simp] theorem State.stg_setSeq (s : State) (p : Nat) (v : Seq) (k : Nat) : (s.setSeq p v).stg k = s.stg k := rfl
@[simp] theorem State.fence_setSeq (s : State) (p : Nat) (v : Seq) (k : Nat) : (s.setSeq p v).fence k = s.fence k := rfl
@[simp] theorem State.port_setSeq (s : State) (p : Nat) (v : Seq) (k : Nat) : (s.setSeq p v).port k = s.port k := rfl
@[simp] theorem State.recov_setSeq (s : State) (p : Nat) (v : Seq) (k : Nat) : (s.setSeq p v).recov k = s.recov k := rfl
@[simp] theorem State.peMemory_setSeq (s : State) (p : Nat) (v : Seq) (k : Nat) : (s.setSeq p v).peMemory k = s.peMemory k := rfl
@[simp] theorem State.pe_setSeq (s : State) (p : Nat) (v : Seq) (k : Nat) : (s.setSeq p v).pe k = s.pe k := rfl
@[simp] theorem State.freeValue_setSeq (s : State) (p : Nat) (v : Seq) : (s.setSeq p v).freeValue = s.freeValue := rfl

@[simp] theorem State.reg_setPatch (s : State) (p : Nat) (v : Patch) (k : Nat) : (s.setPatch p v).reg k = s.reg k := rfl
@[simp] theorem State.get_setPatch (s : State) (p : Nat) (v : Patch) (g : Field) : (s.setPatch p v).get g = s.get g := rfl
@[simp] theorem State.flag_setPatch (s : State) (p : Nat) (v : Patch) (g : Field) : (s.setPatch p v).flag g = s.flag g := rfl
@[simp] theorem State.part_setPatch (s : State) (p : Nat) (v : Patch) (k : Nat) : (s.setPatch p v).part k = s.part k := rfl
@[simp] theorem State.seq_setPatch (s : State) (p : Nat) (v : Patch) (k : Nat) : (s.setPatch p v).seq k = s.seq k := rfl
@[simp] theorem State.ring_setPatch (s : State) (p : Nat) (v : Patch) (k : Nat) : (s.setPatch p v).ring k = s.ring k := rfl
@[simp] theorem State.stg_setPatch (s : State) (p : Nat) (v : Patch) (k : Nat) : (s.setPatch p v).stg k = s.stg k := rfl
@[simp] theorem State.fence_setPatch (s : State) (p : Nat) (v : Patch) (k : Nat) : (s.setPatch p v).fence k = s.fence k := rfl
@[simp] theorem State.port_setPatch (s : State) (p : Nat) (v : Patch) (k : Nat) : (s.setPatch p v).port k = s.port k := rfl
@[simp] theorem State.recov_setPatch (s : State) (p : Nat) (v : Patch) (k : Nat) : (s.setPatch p v).recov k = s.recov k := rfl
@[simp] theorem State.peMemory_setPatch (s : State) (p : Nat) (v : Patch) (k : Nat) : (s.setPatch p v).peMemory k = s.peMemory k := rfl
@[simp] theorem State.pe_setPatch (s : State) (p : Nat) (v : Patch) (k : Nat) : (s.setPatch p v).pe k = s.pe k := rfl
@[simp] theorem State.freeValue_setPatch (s : State) (p : Nat) (v : Patch) : (s.setPatch p v).freeValue = s.freeValue := rfl

@[simp] theorem State.reg_setRing (s : State) (p : Nat) (v : Ring) (k : Nat) : (s.setRing p v).reg k = s.reg k := rfl
@[simp] theorem State.get_setRing (s : State) (p : Nat) (v : Ring) (g : Field) : (s.setRing p v).get g = s.get g := rfl
@[simp] theorem State.flag_setRing (s : State) (p : Nat) (v : Ring) (g : Field) : (s.setRing p v).flag g = s.flag g := rfl
@[simp] theorem State.part_setRing (s : State) (p : Nat) (v : Ring) (k : Nat) : (s.setRing p v).part k = s.part k := rfl
@[simp] theorem State.seq_setRing (s : State) (p : Nat) (v : Ring) (k : Nat) : (s.setRing p v).seq k = s.seq k := rfl
@[simp] theorem State.patch_setRing (s : State) (p : Nat) (v : Ring) (k : Nat) : (s.setRing p v).patch k = s.patch k := rfl
@[simp] theorem State.stg_setRing (s : State) (p : Nat) (v : Ring) (k : Nat) : (s.setRing p v).stg k = s.stg k := rfl
@[simp] theorem State.fence_setRing (s : State) (p : Nat) (v : Ring) (k : Nat) : (s.setRing p v).fence k = s.fence k := rfl
@[simp] theorem State.port_setRing (s : State) (p : Nat) (v : Ring) (k : Nat) : (s.setRing p v).port k = s.port k := rfl
@[simp] theorem State.recov_setRing (s : State) (p : Nat) (v : Ring) (k : Nat) : (s.setRing p v).recov k = s.recov k := rfl
@[simp] theorem State.peMemory_setRing (s : State) (p : Nat) (v : Ring) (k : Nat) : (s.setRing p v).peMemory k = s.peMemory k := rfl
@[simp] theorem State.pe_setRing (s : State) (p : Nat) (v : Ring) (k : Nat) : (s.setRing p v).pe k = s.pe k := rfl
@[simp] theorem State.freeValue_setRing (s : State) (p : Nat) (v : Ring) : (s.setRing p v).freeValue = s.freeValue := rfl

@[simp] theorem State.reg_setFence (s : State) (n : Nat) (v : Fence) (k : Nat) : (s.setFence n v).reg k = s.reg k := rfl
@[simp] theorem State.get_setFence (s : State) (n : Nat) (v : Fence) (g : Field) : (s.setFence n v).get g = s.get g := rfl
@[simp] theorem State.flag_setFence (s : State) (n : Nat) (v : Fence) (g : Field) : (s.setFence n v).flag g = s.flag g := rfl
@[simp] theorem State.part_setFence (s : State) (n : Nat) (v : Fence) (k : Nat) : (s.setFence n v).part k = s.part k := rfl
@[simp] theorem State.seq_setFence (s : State) (n : Nat) (v : Fence) (k : Nat) : (s.setFence n v).seq k = s.seq k := rfl
@[simp] theorem State.patch_setFence (s : State) (n : Nat) (v : Fence) (k : Nat) : (s.setFence n v).patch k = s.patch k := rfl
@[simp] theorem State.ring_setFence (s : State) (n : Nat) (v : Fence) (k : Nat) : (s.setFence n v).ring k = s.ring k := rfl
@[simp] theorem State.stg_setFence (s : State) (n : Nat) (v : Fence) (k : Nat) : (s.setFence n v).stg k = s.stg k := rfl
@[simp] theorem State.port_setFence (s : State) (n : Nat) (v : Fence) (k : Nat) : (s.setFence n v).port k = s.port k := rfl
@[simp] theorem State.recov_setFence (s : State) (n : Nat) (v : Fence) (k : Nat) : (s.setFence n v).recov k = s.recov k := rfl
@[simp] theorem State.peMemory_setFence (s : State) (n : Nat) (v : Fence) (k : Nat) : (s.setFence n v).peMemory k = s.peMemory k := rfl
@[simp] theorem State.pe_setFence (s : State) (n : Nat) (v : Fence) (k : Nat) : (s.setFence n v).pe k = s.pe k := rfl
@[simp] theorem State.freeValue_setFence (s : State) (n : Nat) (v : Fence) : (s.setFence n v).freeValue = s.freeValue := rfl

@[simp] theorem State.reg_setPort (s : State) (n : Nat) (v : Port) (k : Nat) : (s.setPort n v).reg k = s.reg k := rfl
@[simp] theorem State.get_setPort (s : State) (n : Nat) (v : Port) (g : Field) : (s.setPort n v).get g = s.get g := rfl
@[simp] theorem State.flag_setPort (s : State) (n : Nat) (v : Port) (g : Field) : (s.setPort n v).flag g = s.flag g := rfl
@[simp] theorem State.part_setPort (s : State) (n : Nat) (v : Port) (k : Nat) : (s.setPort n v).part k = s.part k := rfl
@[simp] theorem State.seq_setPort (s : State) (n : Nat) (v : Port) (k : Nat) : (s.setPort n v).seq k = s.seq k := rfl
@[simp] theorem State.patch_setPort (s : State) (n : Nat) (v : Port) (k : Nat) : (s.setPort n v).patch k = s.patch k := rfl
@[simp] theorem State.ring_setPort (s : State) (n : Nat) (v : Port) (k : Nat) : (s.setPort n v).ring k = s.ring k := rfl
@[simp] theorem State.stg_setPort (s : State) (n : Nat) (v : Port) (k : Nat) : (s.setPort n v).stg k = s.stg k := rfl
@[simp] theorem State.fence_setPort (s : State) (n : Nat) (v : Port) (k : Nat) : (s.setPort n v).fence k = s.fence k := rfl
@[simp] theorem State.recov_setPort (s : State) (n : Nat) (v : Port) (k : Nat) : (s.setPort n v).recov k = s.recov k := rfl
@[simp] theorem State.peMemory_setPort (s : State) (n : Nat) (v : Port) (k : Nat) : (s.setPort n v).peMemory k = s.peMemory k := rfl
@[simp] theorem State.pe_setPort (s : State) (n : Nat) (v : Port) (k : Nat) : (s.setPort n v).pe k = s.pe k := rfl
@[simp] theorem State.freeValue_setPort (s : State) (n : Nat) (v : Port) : (s.setPort n v).freeValue = s.freeValue := rfl

@[simp] theorem State.reg_setRecov (s : State) (p : Nat) (v : Option Recovery) (k : Nat) : (s.setRecov p v).reg k = s.reg k := rfl
@[simp] theorem State.get_setRecov (s : State) (p : Nat) (v : Option Recovery) (g : Field) : (s.setRecov p v).get g = s.get g := rfl
@[simp] theorem State.flag_setRecov (s : State) (p : Nat) (v : Option Recovery) (g : Field) : (s.setRecov p v).flag g = s.flag g := rfl
@[simp] theorem State.part_setRecov (s : State) (p : Nat) (v : Option Recovery) (k : Nat) : (s.setRecov p v).part k = s.part k := rfl
@[simp] theorem State.seq_setRecov (s : State) (p : Nat) (v : Option Recovery) (k : Nat) : (s.setRecov p v).seq k = s.seq k := rfl
@[simp] theorem State.patch_setRecov (s : State) (p : Nat) (v : Option Recovery) (k : Nat) : (s.setRecov p v).patch k = s.patch k := rfl
@[simp] theorem State.ring_setRecov (s : State) (p : Nat) (v : Option Recovery) (k : Nat) : (s.setRecov p v).ring k = s.ring k := rfl
@[simp] theorem State.stg_setRecov (s : State) (p : Nat) (v : Option Recovery) (k : Nat) : (s.setRecov p v).stg k = s.stg k := rfl
@[simp] theorem State.fence_setRecov (s : State) (p : Nat) (v : Option Recovery) (k : Nat) : (s.setRecov p v).fence k = s.fence k := rfl
@[simp] theorem State.port_setRecov (s : State) (p : Nat) (v : Option Recovery) (k : Nat) : (s.setRecov p v).port k = s.port k := rfl
@[simp] theorem State.peMemory_setRecov (s : State) (p : Nat) (v : Option Recovery) (k : Nat) : (s.setRecov p v).peMemory k = s.peMemory k := rfl
@[simp] theorem State.pe_setRecov (s : State) (p : Nat) (v : Option Recovery) (k : Nat) : (s.setRecov p v).pe k = s.pe k := rfl
@[simp] theorem State.freeValue_setRecov (s : State) (p : Nat) (v : Option Recovery) : (s.setRecov p v).freeValue = s.freeValue := rfl

@[simp] theorem State.reg_detect (s : State) (f : FaultInfo) (k : Nat) : (s.detect f).reg k = s.reg k := rfl
@[simp] theorem State.get_detect (s : State) (f : FaultInfo) (g : Field) : (s.detect f).get g = s.get g := rfl
@[simp] theorem State.flag_detect (s : State) (f : FaultInfo) (g : Field) : (s.detect f).flag g = s.flag g := rfl
@[simp] theorem State.part_detect (s : State) (f : FaultInfo) (k : Nat) : (s.detect f).part k = s.part k := rfl
@[simp] theorem State.seq_detect (s : State) (f : FaultInfo) (k : Nat) : (s.detect f).seq k = s.seq k := rfl
@[simp] theorem State.patch_detect (s : State) (f : FaultInfo) (k : Nat) : (s.detect f).patch k = s.patch k := rfl
@[simp] theorem State.ring_detect (s : State) (f : FaultInfo) (k : Nat) : (s.detect f).ring k = s.ring k := rfl
@[simp] theorem State.stg_detect (s : State) (f : FaultInfo) (k : Nat) : (s.detect f).stg k = s.stg k := rfl
@[simp] theorem State.fence_detect (s : State) (f : FaultInfo) (k : Nat) : (s.detect f).fence k = s.fence k := rfl
@[simp] theorem State.port_detect (s : State) (f : FaultInfo) (k : Nat) : (s.detect f).port k = s.port k := rfl
@[simp] theorem State.recov_detect (s : State) (f : FaultInfo) (k : Nat) : (s.detect f).recov k = s.recov k := rfl
@[simp] theorem State.peMemory_detect (s : State) (f : FaultInfo) (k : Nat) : (s.detect f).peMemory k = s.peMemory k := rfl
@[simp] theorem State.pe_detect (s : State) (f : FaultInfo) (k : Nat) : (s.detect f).pe k = s.pe k := rfl
@[simp] theorem State.freeValue_detect (s : State) (f : FaultInfo) : (s.detect f).freeValue = s.freeValue := rfl

@[simp] theorem State.reg_send (s : State) (o : Out) (k : Nat) : (s.send o).reg k = s.reg k := rfl
@[simp] theorem State.get_send (s : State) (o : Out) (g : Field) : (s.send o).get g = s.get g := rfl
@[simp] theorem State.flag_send (s : State) (o : Out) (g : Field) : (s.send o).flag g = s.flag g := rfl
@[simp] theorem State.part_send (s : State) (o : Out) (k : Nat) : (s.send o).part k = s.part k := rfl
@[simp] theorem State.seq_send (s : State) (o : Out) (k : Nat) : (s.send o).seq k = s.seq k := rfl
@[simp] theorem State.patch_send (s : State) (o : Out) (k : Nat) : (s.send o).patch k = s.patch k := rfl
@[simp] theorem State.ring_send (s : State) (o : Out) (k : Nat) : (s.send o).ring k = s.ring k := rfl
@[simp] theorem State.stg_send (s : State) (o : Out) (k : Nat) : (s.send o).stg k = s.stg k := rfl
@[simp] theorem State.fence_send (s : State) (o : Out) (k : Nat) : (s.send o).fence k = s.fence k := rfl
@[simp] theorem State.port_send (s : State) (o : Out) (k : Nat) : (s.send o).port k = s.port k := rfl
@[simp] theorem State.recov_send (s : State) (o : Out) (k : Nat) : (s.send o).recov k = s.recov k := rfl
@[simp] theorem State.peMemory_send (s : State) (o : Out) (k : Nat) : (s.send o).peMemory k = s.peMemory k := rfl
@[simp] theorem State.pe_send (s : State) (o : Out) (k : Nat) : (s.send o).pe k = s.pe k := rfl
@[simp] theorem State.freeValue_send (s : State) (o : Out) : (s.send o).freeValue = s.freeValue := rfl

@[simp] theorem State.reg_useFree (s : State) (k : Nat) : s.useFree.reg k = s.reg k := rfl
@[simp] theorem State.get_useFree (s : State) (g : Field) : s.useFree.get g = s.get g := rfl
@[simp] theorem State.flag_useFree (s : State) (g : Field) : s.useFree.flag g = s.flag g := rfl
@[simp] theorem State.part_useFree (s : State) (k : Nat) : s.useFree.part k = s.part k := rfl
@[simp] theorem State.seq_useFree (s : State) (k : Nat) : s.useFree.seq k = s.seq k := rfl
@[simp] theorem State.patch_useFree (s : State) (k : Nat) : s.useFree.patch k = s.patch k := rfl
@[simp] theorem State.ring_useFree (s : State) (k : Nat) : s.useFree.ring k = s.ring k := rfl
@[simp] theorem State.stg_useFree (s : State) (k : Nat) : s.useFree.stg k = s.stg k := rfl
@[simp] theorem State.fence_useFree (s : State) (k : Nat) : s.useFree.fence k = s.fence k := rfl
@[simp] theorem State.port_useFree (s : State) (k : Nat) : s.useFree.port k = s.port k := rfl
@[simp] theorem State.recov_useFree (s : State) (k : Nat) : s.useFree.recov k = s.recov k := rfl
@[simp] theorem State.peMemory_useFree (s : State) (k : Nat) : s.useFree.peMemory k = s.peMemory k := rfl
@[simp] theorem State.pe_useFree (s : State) (k : Nat) : s.useFree.pe k = s.pe k := rfl

/-! ## The unit just replaced, and another one -/

@[simp] theorem State.part_setPart_same (s : State) (p : Nat) (v : Part) : (s.setPart p v).part p = v := by simp [State.part, State.setPart]
theorem State.part_setPart_other (s : State) (v : Part) {p q : Nat} (h : q ≠ p) : (s.setPart p v).part q = s.part q := SMap.get_put_other _ _ _ _ h
@[simp] theorem State.seq_setSeq_same (s : State) (p : Nat) (v : Seq) : (s.setSeq p v).seq p = v := by simp [State.seq, State.setSeq]
theorem State.seq_setSeq_other (s : State) (v : Seq) {p q : Nat} (h : q ≠ p) : (s.setSeq p v).seq q = s.seq q := SMap.get_put_other _ _ _ _ h
@[simp] theorem State.patch_setPatch_same (s : State) (p : Nat) (v : Patch) : (s.setPatch p v).patch p = v := by simp [State.patch, State.setPatch]
theorem State.patch_setPatch_other (s : State) (v : Patch) {p q : Nat} (h : q ≠ p) : (s.setPatch p v).patch q = s.patch q := SMap.get_put_other _ _ _ _ h
@[simp] theorem State.ring_setRing_same (s : State) (p : Nat) (v : Ring) : (s.setRing p v).ring p = v := by simp [State.ring, State.setRing]
theorem State.ring_setRing_other (s : State) (v : Ring) {p q : Nat} (h : q ≠ p) : (s.setRing p v).ring q = s.ring q := SMap.get_put_other _ _ _ _ h
@[simp] theorem State.fence_setFence_same (s : State) (p : Nat) (v : Fence) : (s.setFence p v).fence p = v := by simp [State.fence, State.setFence]
theorem State.fence_setFence_other (s : State) (v : Fence) {p q : Nat} (h : q ≠ p) : (s.setFence p v).fence q = s.fence q := SMap.get_put_other _ _ _ _ h
@[simp] theorem State.port_setPort_same (s : State) (p : Nat) (v : Port) : (s.setPort p v).port p = v := by simp [State.port, State.setPort]
theorem State.port_setPort_other (s : State) (v : Port) {p q : Nat} (h : q ≠ p) : (s.setPort p v).port q = s.port q := SMap.get_put_other _ _ _ _ h
@[simp] theorem State.recov_setRecov_same (s : State) (p : Nat) (v : Option Recovery) : (s.setRecov p v).recov p = v := by simp [State.recov, State.setRecov]
theorem State.recov_setRecov_other (s : State) (v : Option Recovery) {p q : Nat} (h : q ≠ p) : (s.setRecov p v).recov q = s.recov q := SMap.get_put_other _ _ _ _ h
@[simp] theorem State.out_send (s : State) (o : Out) : (s.send o).out = s.out ++ [o] := rfl
@[simp] theorem State.detected_detect (s : State) (f : FaultInfo) : (s.detect f).detected = s.detected ++ [f] := rfl
@[simp] theorem State.free_useFree (s : State) : s.useFree.free = s.free + 1 := rfl

end Sys2Proof.Machine
end

