-- ==== Sys2Proof/Laws/Keeps.lean ====
section
/-!
SUPPORT. What every operation of the module keeps: the queue as it is, what was sent in its order, the count of free values rising, and
every memory in canonical form. `Keeps s t` says it of two states; each operation has one lemma, in the files that import this one.
-/
namespace Sys2Proof.Machine

/-- From `s` to `t` the queue is the same, output and free values only grow, and memories in canonical form stay so. -/
structure Keeps (s t : State) : Prop where
  queue : t.pending = s.pending
  since : Since s t
  mem : s.memWf = true → t.memWf = true

theorem Keeps.refl (s : State) : Keeps s s := ⟨rfl, ⟨List.prefix_rfl, Nat.le_refl _⟩, id⟩

theorem Keeps.trans {s t u : State} (h : Keeps s t) (k : Keeps t u) : Keeps s u :=
  ⟨k.queue.trans h.queue, ⟨h.since.out.trans k.since.out, Nat.le_trans h.since.free k.since.free⟩, fun w => k.mem (h.mem w)⟩

/-- A state made from `t` by replacing fields keeps what `t` keeps, if each replaced memory stays canonical. -/
theorem Keeps.upd {a t : State} {regs shadow peMem pes parts seqs imem hearth lastPort spineBad hbm patches mesh net maint cordBad links flows fences staging saved dma edge kdl
    ports fabric detected recovery recLog softRepair march loader flash nvm sec dbg rst rings ep out free}
    (h : Keeps a t) (ho : t.out <+: out) (hf : t.free ≤ free)
    (h1 : Memory.wf t.imem = true → Memory.wf imem = true) (h2 : Memory.wf t.hearth = true → Memory.wf hearth = true)
    (h3 : Memory.wf t.hbm = true → Memory.wf hbm = true) (h4 : Memory.wf t.nvm = true → Memory.wf nvm = true)
    (h5 : Memory.wf t.flash = true → Memory.wf flash = true)
    (h6 : SMap.wf (fun _ => 0) t.peMem = true → SMap.wf (fun _ => 0) peMem = true)
    (h7 : SMap.wf (fun _ => PeRegs.reset) t.pes = true → SMap.wf (fun _ => PeRegs.reset) pes = true)
    (h8 : SMap.wf resetValue t.regs = true → SMap.wf resetValue regs = true) :
    Keeps a ⟨regs, shadow, peMem, pes, parts, seqs, imem, hearth, lastPort, spineBad, hbm, patches, mesh, net, maint, cordBad, links, flows, fences, staging, saved, dma, edge, kdl,
      ports, fabric, detected, recovery, recLog, softRepair, march, loader, flash, nvm, sec, dbg, rst, rings, ep, out, free, t.pending⟩ := by
  refine h.trans ⟨rfl, ⟨ho, hf⟩, ?_⟩
  simp only [State.memWf, Bool.and_eq_true]
  rintro ⟨⟨⟨⟨⟨⟨⟨w1, w2⟩, w3⟩, w4⟩, w5⟩, w6⟩, w7⟩, w8⟩
  exact ⟨⟨⟨⟨⟨⟨⟨h1 w1, h2 w2⟩, h3 w3⟩, h4 w4⟩, h5 w5⟩, h6 w6⟩, h7 w7⟩, h8 w8⟩

/-- The same where no memory is replaced. -/
theorem Keeps.fields {a t : State} {shadow parts seqs lastPort spineBad patches mesh net maint cordBad links flows fences staging saved dma edge kdl
    ports fabric detected recovery recLog softRepair march loader sec dbg rst rings ep} (h : Keeps a t) :
    Keeps a ⟨t.regs, shadow, t.peMem, t.pes, parts, seqs, t.imem, t.hearth, lastPort, spineBad, t.hbm, patches, mesh, net, maint, cordBad, links, flows, fences, staging, saved, dma,
      edge, kdl, ports, fabric, detected, recovery, recLog, softRepair, march, loader, t.flash, t.nvm, sec, dbg, rst, rings, ep, t.out,
      t.free, t.pending⟩ :=
  h.upd List.prefix_rfl (Nat.le_refl _) id id id id id id id id

theorem Keeps.foldl {α : Type} {a s : State} {f : State → α → State} (hf : ∀ t x, Keeps t (f t x)) (l : List α) (h : Keeps a s) :
    Keeps a (l.foldl f s) := by
  induction l generalizing s with
  | nil => exact h
  | cons x l ih => exact ih (h.trans (hf s x))

theorem Keeps.foldl_fst {α β : Type} {a : State} {s : State × β} {f : State × β → α → State × β} (hf : ∀ t x, Keeps t.1 (f t x).1) (l : List α)
    (h : Keeps a s.1) : Keeps a (l.foldl f s).1 := by
  induction l generalizing s with
  | nil => exact h
  | cons x l ih => exact ih (h.trans (hf s x))

theorem State.each_keeps {a s : State} {f : Nat → State → State} (hf : ∀ i t, Keeps t (f i t)) (n : Nat) (h : Keeps a s) :
    Keeps a (s.each n f) := Keeps.foldl (fun t i => hf i t) _ h

theorem Keeps.ite {a s t : State} {c : Prop} [Decidable c] (h : Keeps a s) (k : Keeps a t) : Keeps a (if c then s else t) := by
  split <;> assumption

/-- The outcome is a next state that keeps what `a` has. -/
def ResKeeps (a : State) (r : Host.Outcome State Fault Refusal) : Prop := ∃ t, r = .next t ∧ Keeps a t

theorem ResKeeps.ite {a : State} {c : Prop} [Decidable c] {r q : Host.Outcome State Fault Refusal} (h : ResKeeps a r)
    (k : ResKeeps a q) : ResKeeps a (if c then r else q) := by split <;> assumption
theorem ResKeeps.next {a t : State} (h : Keeps a t) : ResKeeps a (.next t) := ⟨t, rfl, h⟩

end Sys2Proof.Machine
end

