-- ==== Sys2Proof/Laws/KeepsOps.lean ====
section
/-!
SUPPORT. What each operation of Machine/Ops.lean keeps.
-/
namespace Sys2Proof.Machine

theorem State.setReg_keeps {a s : State} (off : Nat) (v : W64) (h : Keeps a s) : Keeps a (s.setReg off v) :=
  h.upd List.prefix_rfl (Nat.le_refl _) id id id id id id id (fun w => SMap.wf_put _ _ w)

theorem State.set_keeps {z s : State} (f : Field) (v : Nat) (hk : Keeps z s) : Keeps z (State.set s f v) := by
  unfold State.set
  with_reducible repeat' first | exact hk | exact Keeps.refl _ | apply State.setReg_keeps | apply Keeps.ite | split | (intro v; try dsimp only)

theorem State.count_keeps {z s : State} (f : Field) (n : Nat) (hk : Keeps z s) : Keeps z (State.count s f n) := by
  unfold State.count
  with_reducible repeat' first | exact hk | exact Keeps.refl _ | apply State.set_keeps | apply Keeps.ite | split | (intro v; try dsimp only)

theorem State.bump_keeps {z s : State} (f : Field) (n : Nat) (hk : Keeps z s) : Keeps z (State.bump s f n) := by
  unfold State.bump
  with_reducible repeat' first | exact hk | exact Keeps.refl _ | apply State.set_keeps | apply Keeps.ite | split | (intro v; try dsimp only)

theorem State.resetRegs_keeps {z s : State} (reach : Nat) (inside : Nat → Bool) (hk : Keeps z s) : Keeps z (State.resetRegs s reach inside) := by
  unfold State.resetRegs
  try dsimp only
  repeat' first | with_reducible exact hk | with_reducible exact Keeps.refl _ | with_reducible apply Keeps.ite | split | with_reducible apply Keeps.fields | with_reducible apply Keeps.upd | exact List.prefix_rfl | exact Nat.le_refl _ | exact id | exact fun w => SMap.wf_put _ _ w | exact fun w => SMap.wf_update _ _ w | exact fun w => SMap.wf_filter _ w | exact fun w => wf_writeBytes _ _ w | exact fun _ => rfl | exact fun w => SMap.wf_map_filter (fun e => by split <;> rfl) w | (intro v; try dsimp only)

theorem State.setPart_keeps {z s : State} (p : Nat) (v : Part) (hk : Keeps z s) : Keeps z (State.setPart s p v) := by
  unfold State.setPart
  try dsimp only
  repeat' first | with_reducible exact hk | with_reducible exact Keeps.refl _ | with_reducible apply Keeps.ite | split | with_reducible apply Keeps.fields | (intro v; try dsimp only)

theorem State.setSeq_keeps {z s : State} (p : Nat) (v : Seq) (hk : Keeps z s) : Keeps z (State.setSeq s p v) := by
  unfold State.setSeq
  try dsimp only
  repeat' first | with_reducible exact hk | with_reducible exact Keeps.refl _ | with_reducible apply Keeps.ite | split | with_reducible apply Keeps.fields | (intro v; try dsimp only)

theorem State.setPatch_keeps {z s : State} (p : Nat) (v : Patch) (hk : Keeps z s) : Keeps z (State.setPatch s p v) := by
  unfold State.setPatch
  try dsimp only
  repeat' first | with_reducible exact hk | with_reducible exact Keeps.refl _ | with_reducible apply Keeps.ite | split | with_reducible apply Keeps.fields | (intro v; try dsimp only)

theorem State.setRing_keeps {z s : State} (p : Nat) (v : Ring) (hk : Keeps z s) : Keeps z (State.setRing s p v) := by
  unfold State.setRing
  try dsimp only
  repeat' first | with_reducible exact hk | with_reducible exact Keeps.refl _ | with_reducible apply Keeps.ite | split | with_reducible apply Keeps.fields | (intro v; try dsimp only)

theorem State.setStg_keeps {z s : State} (e : Nat) (l : List Transfer) (hk : Keeps z s) : Keeps z (State.setStg s e l) := by
  unfold State.setStg
  try dsimp only
  repeat' first | with_reducible exact hk | with_reducible exact Keeps.refl _ | with_reducible apply State.set_keeps | with_reducible apply Keeps.ite | split | with_reducible apply Keeps.fields | (intro v; try dsimp only)

theorem State.setFence_keeps {z s : State} (n : Nat) (v : Fence) (hk : Keeps z s) : Keeps z (State.setFence s n v) := by
  unfold State.setFence
  try dsimp only
  repeat' first | with_reducible exact hk | with_reducible exact Keeps.refl _ | with_reducible apply Keeps.ite | split | with_reducible apply Keeps.fields | (intro v; try dsimp only)

theorem State.setPort_keeps {z s : State} (n : Nat) (v : Port) (hk : Keeps z s) : Keeps z (State.setPort s n v) := by
  unfold State.setPort
  try dsimp only
  repeat' first | with_reducible exact hk | with_reducible exact Keeps.refl _ | with_reducible apply Keeps.ite | split | with_reducible apply Keeps.fields | (intro v; try dsimp only)

theorem State.setRecov_keeps {z s : State} (p : Nat) (v : Option Recovery) (hk : Keeps z s) : Keeps z (State.setRecov s p v) := by
  unfold State.setRecov
  try dsimp only
  repeat' first | with_reducible exact hk | with_reducible exact Keeps.refl _ | with_reducible apply Keeps.ite | split | with_reducible apply Keeps.fields | (intro v; try dsimp only)

theorem State.detect_keeps {z s : State} (f : FaultInfo) (hk : Keeps z s) : Keeps z (State.detect s f) := by
  unfold State.detect
  try dsimp only
  repeat' first | with_reducible exact hk | with_reducible exact Keeps.refl _ | with_reducible apply Keeps.ite | split | with_reducible apply Keeps.fields | (intro v; try dsimp only)

theorem State.send_keeps {a s : State} (o : Out) (h : Keeps a s) : Keeps a (s.send o) :=
  h.upd (List.prefix_append _ _) (Nat.le_refl _) id id id id id id id id

theorem State.useFree_keeps {a s : State} (h : Keeps a s) : Keeps a s.useFree :=
  h.upd List.prefix_rfl (Nat.le_succ _) id id id id id id id id

theorem State.message_keeps {z s : State} (fn vec : Nat) (hk : Keeps z s) : Keeps z (State.message s fn vec) := by
  unfold State.message
  try dsimp only
  repeat' first | with_reducible exact hk | with_reducible exact Keeps.refl _ | with_reducible apply State.set_keeps | with_reducible apply State.send_keeps | with_reducible apply Keeps.ite | split | with_reducible apply Keeps.fields | (intro v; try dsimp only)

theorem State.setFlag_keeps {z s : State} (q n : Nat) (v : Bool) (hk : Keeps z s) : Keeps z (State.setFlag s q n v) := by
  unfold State.setFlag
  try dsimp only
  repeat' first | with_reducible exact hk | with_reducible exact Keeps.refl _ | with_reducible apply State.set_keeps | with_reducible apply State.setSeq_keeps | with_reducible apply Keeps.ite | split | with_reducible apply Keeps.fields | (intro v; try dsimp only)

theorem State.messageAfter_keeps {z s : State} (fn vec : Nat) (qs : List Nat) (hk : Keeps z s) : Keeps z (State.messageAfter s fn vec qs) := by
  unfold State.messageAfter
  try dsimp only
  repeat' first | with_reducible exact hk | with_reducible exact Keeps.refl _ | with_reducible apply State.message_keeps | with_reducible apply Keeps.ite | split | with_reducible apply Keeps.fields | (intro v; try dsimp only)

theorem State.mirrored_keeps {z s : State} (q : Nat) (hk : Keeps z s) : Keeps z (State.mirrored s q) := by
  unfold State.mirrored
  try dsimp only
  repeat' first | with_reducible exact hk | with_reducible exact Keeps.refl _ | with_reducible apply State.setSeq_keeps | with_reducible apply State.message_keeps | (with_reducible apply Keeps.foldl; intro t x; try dsimp only) | (with_reducible apply Keeps.foldl_fst; intro t x; try dsimp only) | with_reducible apply Keeps.ite | split | with_reducible apply Keeps.fields | (intro v; try dsimp only)

theorem State.raise_keeps {z s : State} (i : Nat) (hk : Keeps z s) : Keeps z (State.raise s i) := by
  unfold State.raise
  try dsimp only
  with_reducible repeat' first | exact hk | exact Keeps.refl _ | apply State.set_keeps | apply State.setFlag_keeps | apply State.messageAfter_keeps | (apply State.each_keeps; intro i t; try dsimp only) | apply Keeps.ite | split | (intro v; try dsimp only)

theorem State.detectAll_keeps {z s : State} (fs : List FaultInfo) (hk : Keeps z s) : Keeps z (State.detectAll s fs) := by
  unfold State.detectAll
  try dsimp only
  with_reducible repeat' first | exact hk | exact Keeps.refl _ | apply State.detect_keeps | apply State.raise_keeps | (apply Keeps.foldl; intro t x; try dsimp only) | (apply Keeps.foldl_fst; intro t x; try dsimp only) | apply Keeps.ite | split | (intro v; try dsimp only)

theorem State.writeCompletion_keeps {z s : State} (p : Nat) (c : Completion) (hk : Keeps z s) : Keeps z (State.writeCompletion s p c) := by
  unfold State.writeCompletion
  try dsimp only
  with_reducible repeat' first | exact hk | exact Keeps.refl _ | apply State.set_keeps | apply State.send_keeps | apply State.raise_keeps | apply Keeps.ite | split | (intro v; try dsimp only)

theorem State.postHeld_keeps {z s : State} (p : Nat) (c : Completion) (hk : Keeps z s) : Keeps z (State.postHeld s p c) := by
  unfold State.postHeld
  try dsimp only
  repeat' first | with_reducible exact hk | with_reducible exact Keeps.refl _ | with_reducible apply State.setRing_keeps | with_reducible apply State.writeCompletion_keeps | with_reducible apply Keeps.ite | split | with_reducible apply Keeps.fields | (intro v; try dsimp only)

theorem State.failJob_keeps {z s : State} (p : Nat) (fault : Nat) (hk : Keeps z s) : Keeps z (State.failJob s p fault) := by
  unfold State.failJob
  try dsimp only
  repeat' first | with_reducible exact hk | with_reducible exact Keeps.refl _ | with_reducible apply State.setSeq_keeps | with_reducible apply State.setRing_keeps | with_reducible apply State.useFree_keeps | with_reducible apply State.postHeld_keeps | with_reducible apply Keeps.ite | split | with_reducible apply Keeps.fields | with_reducible apply Keeps.upd | exact List.prefix_rfl | exact Nat.le_refl _ | exact id | exact fun w => SMap.wf_put _ _ w | exact fun w => SMap.wf_update _ _ w | exact fun w => SMap.wf_filter _ w | exact fun w => wf_writeBytes _ _ w | exact fun _ => rfl | exact fun w => SMap.wf_map_filter (fun e => by split <;> rfl) w | (intro v; try dsimp only)

theorem State.wdReload_keeps {z s : State} (p : Nat) (hk : Keeps z s) : Keeps z (State.wdReload s p) := by
  unfold State.wdReload
  with_reducible repeat' first | exact hk | exact Keeps.refl _ | apply State.set_keeps | apply Keeps.ite | split | (intro v; try dsimp only)

theorem State.setRsv_keeps {z s : State} (q : Nat) (v : Bool) (hk : Keeps z s) : Keeps z (State.setRsv s q v) := by
  unfold State.setRsv
  with_reducible repeat' first | exact hk | exact Keeps.refl _ | apply State.set_keeps | apply Keeps.ite | split | (intro v; try dsimp only)

theorem State.setFlc_keeps {z s : State} (q : Nat) (v : Bool) (hk : Keeps z s) : Keeps z (State.setFlc s q v) := by
  unfold State.setFlc
  with_reducible repeat' first | exact hk | exact Keeps.refl _ | apply State.set_keeps | apply Keeps.ite | split | (intro v; try dsimp only)

theorem State.loseRsv_keeps {z s : State} (a n : Nat) (hk : Keeps z s) : Keeps z (State.loseRsv s a n) := by
  unfold State.loseRsv
  with_reducible repeat' first | exact hk | exact Keeps.refl _ | apply State.setRsv_keeps | (apply State.each_keeps; intro i t; try dsimp only) | apply Keeps.ite | split | (intro v; try dsimp only)

theorem State.hearthPut_keeps {z s : State} (a : Nat) (bs : List Byte) (hk : Keeps z s) : Keeps z (State.hearthPut s a bs) := by
  unfold State.hearthPut
  try dsimp only
  repeat' first | with_reducible exact hk | with_reducible exact Keeps.refl _ | with_reducible apply State.loseRsv_keeps | with_reducible apply Keeps.ite | split | with_reducible apply Keeps.fields | with_reducible apply Keeps.upd | exact List.prefix_rfl | exact Nat.le_refl _ | exact id | exact fun w => SMap.wf_put _ _ w | exact fun w => SMap.wf_update _ _ w | exact fun w => SMap.wf_filter _ w | exact fun w => wf_writeBytes _ _ w | exact fun _ => rfl | exact fun w => SMap.wf_map_filter (fun e => by split <;> rfl) w | (intro v; try dsimp only)

theorem State.scratchMeet_keeps {z s : State} (q : Nat) (hk : Keeps z s) : Keeps z (State.scratchMeet s q) := by
  unfold State.scratchMeet
  try dsimp only
  repeat' first | with_reducible exact hk | with_reducible exact Keeps.refl _ | with_reducible apply State.count_keeps | with_reducible apply State.raise_keeps | with_reducible apply Keeps.ite | split | with_reducible apply Keeps.fields | (intro v; try dsimp only)

theorem State.hearthWrite_keeps {z s : State} (a : Nat) (bs : List Byte) (hk : Keeps z s) : Keeps z (State.hearthWrite s a bs) := by
  unfold State.hearthWrite
  try dsimp only
  repeat' first | with_reducible exact hk | with_reducible exact Keeps.refl _ | with_reducible apply State.useFree_keeps | with_reducible apply State.hearthPut_keeps | with_reducible apply State.scratchMeet_keeps | with_reducible apply Keeps.ite | split | with_reducible apply Keeps.fields | with_reducible apply Keeps.upd | exact List.prefix_rfl | exact Nat.le_refl _ | exact id | exact fun w => SMap.wf_put _ _ w | exact fun w => SMap.wf_update _ _ w | exact fun w => SMap.wf_filter _ w | exact fun w => wf_writeBytes _ _ w | exact fun _ => rfl | exact fun w => SMap.wf_map_filter (fun e => by split <;> rfl) w | (intro v; try dsimp only)

theorem State.seqPut_keeps {z s : State} (p a : Nat) (bs : List Byte) (hk : Keeps z s) : Keeps z (State.seqPut s p a bs) := by
  unfold State.seqPut
  try dsimp only
  repeat' first | with_reducible exact hk | with_reducible exact Keeps.refl _ | with_reducible apply State.useFree_keeps | with_reducible apply State.hearthPut_keeps | with_reducible apply State.scratchMeet_keeps | with_reducible apply Keeps.ite | split | with_reducible apply Keeps.fields | with_reducible apply Keeps.upd | exact List.prefix_rfl | exact Nat.le_refl _ | exact id | exact fun w => SMap.wf_put _ _ w | exact fun w => SMap.wf_update _ _ w | exact fun w => SMap.wf_filter _ w | exact fun w => wf_writeBytes _ _ w | exact fun _ => rfl | exact fun w => SMap.wf_map_filter (fun e => by split <;> rfl) w | (intro v; try dsimp only)

theorem State.turfError_keeps {z s : State} (t : Nat) (f : Field) (hk : Keeps z s) : Keeps z (State.turfError s t f) := by
  unfold State.turfError
  with_reducible repeat' first | exact hk | exact Keeps.refl _ | apply State.set_keeps | apply State.raise_keeps | apply Keeps.ite | split | (intro v; try dsimp only)

theorem State.violation_keeps {z s : State} (p kind step : Nat) (eng : Bool) (unit : Nat) (hk : Keeps z s) : Keeps z (State.violation s p kind step eng unit) := by
  unfold State.violation
  try dsimp only
  repeat' first | with_reducible exact hk | with_reducible exact Keeps.refl _ | with_reducible apply State.set_keeps | with_reducible apply State.setSeq_keeps | with_reducible apply State.raise_keeps | with_reducible apply Keeps.ite | split | with_reducible apply Keeps.fields | (intro v; try dsimp only)

end Sys2Proof.Machine
end

