-- ==== Sys2Proof/Laws/KeepsFreeze.lean ====
section
/-!
SUPPORT. What each operation of Machine/Freeze.lean keeps.
-/
namespace Sys2Proof.Machine

theorem State.setKeng_keeps {z s : State} (e : Nat) (v : KEng) (hk : Keeps z s) : Keeps z (State.setKeng s e v) := by
  unfold State.setKeng
  try dsimp only
  repeat' first | with_reducible exact hk | with_reducible exact Keeps.refl _ | with_reducible apply Keeps.ite | split | with_reducible apply Keeps.fields | (intro v; try dsimp only)

theorem State.setKch_keeps {z s : State} (c : Nat) (v : KChan) (hk : Keeps z s) : Keeps z (State.setKch s c v) := by
  unfold State.setKch
  try dsimp only
  repeat' first | with_reducible exact hk | with_reducible exact Keeps.refl _ | with_reducible apply State.set_keeps | with_reducible apply Keeps.ite | split | with_reducible apply Keeps.fields | (intro v; try dsimp only)

theorem State.kBegin_keeps {z s : State} (e : Nat) (hk : Keeps z s) : Keeps z (State.kBegin s e) := by
  unfold State.kBegin
  try dsimp only
  repeat' first | with_reducible exact hk | with_reducible exact Keeps.refl _ | with_reducible apply State.set_keeps | with_reducible apply State.setKeng_keeps | with_reducible apply State.setKch_keeps | (with_reducible apply Keeps.foldl; intro t x; try dsimp only) | (with_reducible apply Keeps.foldl_fst; intro t x; try dsimp only) | with_reducible apply Keeps.ite | split | with_reducible apply Keeps.fields | (intro v; try dsimp only)

theorem State.kFreeze_keeps {z s : State} (e : Nat) (on : Bool) (hk : Keeps z s) : Keeps z (State.kFreeze s e on) := by
  unfold State.kFreeze
  try dsimp only
  repeat' first | with_reducible exact hk | with_reducible exact Keeps.refl _ | with_reducible apply State.set_keeps | with_reducible apply State.setKeng_keeps | with_reducible apply State.kBegin_keeps | with_reducible apply Keeps.ite | split | with_reducible apply Keeps.fields | (intro v; try dsimp only)

theorem State.showClocks_keeps {z s : State}  (hk : Keeps z s) : Keeps z (State.showClocks s) := by
  unfold State.showClocks
  try dsimp only
  with_reducible repeat' first | exact hk | exact Keeps.refl _ | apply State.set_keeps | apply Keeps.ite | split | (intro v; try dsimp only)

theorem State.edgeState_keeps {z s : State} (v : Nat) (hk : Keeps z s) : Keeps z (State.edgeState s v) := by
  unfold State.edgeState
  with_reducible repeat' first | exact hk | exact Keeps.refl _ | apply State.set_keeps | apply State.showClocks_keeps | apply Keeps.ite | split | (intro v; try dsimp only)

theorem State.takeCapture_keeps {z s : State}  (hk : Keeps z s) : Keeps z (State.takeCapture s) := by
  unfold State.takeCapture
  try dsimp only
  repeat' first | with_reducible exact hk | with_reducible exact Keeps.refl _ | with_reducible apply State.set_keeps | with_reducible apply Keeps.ite | split | with_reducible apply Keeps.fields | (intro v; try dsimp only)

theorem State.freezeEdge_keeps {z s : State} (on : Bool) (hk : Keeps z s) : Keeps z (State.freezeEdge s on) := by
  unfold State.freezeEdge
  try dsimp only
  repeat' first | with_reducible exact hk | with_reducible exact Keeps.refl _ | with_reducible apply State.set_keeps | with_reducible apply State.showClocks_keeps | with_reducible apply State.edgeState_keeps | with_reducible apply State.takeCapture_keeps | with_reducible apply Keeps.ite | split | with_reducible apply Keeps.fields | (intro v; try dsimp only)

theorem State.freezeBlocks_keeps {z s : State} (v : Nat) (hk : Keeps z s) : Keeps z (State.freezeBlocks s v) := by
  unfold State.freezeBlocks
  try dsimp only
  with_reducible repeat' first | exact hk | exact Keeps.refl _ | apply State.set_keeps | apply State.kFreeze_keeps | apply State.freezeEdge_keeps | (apply State.each_keeps; intro i t; try dsimp only) | apply Keeps.ite | split | (intro v; try dsimp only)

theorem State.endHalt_keeps {z s : State} (p : Nat) (hk : Keeps z s) : Keeps z (State.endHalt s p) := by
  unfold State.endHalt
  try dsimp only
  repeat' first | with_reducible exact hk | with_reducible exact Keeps.refl _ | with_reducible apply State.setReg_keeps | with_reducible apply State.set_keeps | with_reducible apply State.freezeBlocks_keeps | with_reducible apply Keeps.ite | split | with_reducible apply Keeps.fields | (intro v; try dsimp only)

theorem State.haltFreezes_keeps {z s : State} (p : Nat) (hk : Keeps z s) : Keeps z (State.haltFreezes s p) := by
  unfold State.haltFreezes
  try dsimp only
  repeat' first | with_reducible exact hk | with_reducible exact Keeps.refl _ | with_reducible apply State.setReg_keeps | with_reducible apply State.freezeBlocks_keeps | with_reducible apply Keeps.ite | split | with_reducible apply Keeps.fields | (intro v; try dsimp only)

theorem State.haltSeq_keeps {z s : State} (p left : Nat) (hk : Keeps z s) : Keeps z (State.haltSeq s p left) := by
  unfold State.haltSeq
  try dsimp only
  repeat' first | with_reducible exact hk | with_reducible exact Keeps.refl _ | with_reducible apply State.set_keeps | with_reducible apply State.setSeq_keeps | with_reducible apply State.raise_keeps | with_reducible apply State.setRsv_keeps | with_reducible apply State.haltFreezes_keeps | with_reducible apply Keeps.ite | split | with_reducible apply Keeps.fields | (intro v; try dsimp only)

theorem State.stopIn_keeps {z s : State} (p st : Nat) (hk : Keeps z s) : Keeps z (State.stopIn s p st) := by
  unfold State.stopIn
  with_reducible repeat' first | exact hk | exact Keeps.refl _ | apply State.set_keeps | apply State.haltSeq_keeps | apply Keeps.ite | split | (intro v; try dsimp only)

theorem State.seqFault_keeps {z s : State} (p code reason aop pc : Nat) (hk : Keeps z s) : Keeps z (State.seqFault s p code reason aop pc) := by
  unfold State.seqFault
  try dsimp only
  repeat' first | with_reducible exact hk | with_reducible exact Keeps.refl _ | with_reducible apply State.set_keeps | with_reducible apply State.setSeq_keeps | with_reducible apply State.raise_keeps | with_reducible apply State.failJob_keeps | with_reducible apply State.stopIn_keeps | with_reducible apply Keeps.ite | split | with_reducible apply Keeps.fields | (intro v; try dsimp only)

end Sys2Proof.Machine
end

