-- ==== Sys2Proof/Laws/KeepsSequencer.lean ====
section
/-!
SUPPORT. What each operation of Machine/Sequencer.lean keeps.
-/
namespace Sys2Proof.Machine

/-- What an instruction's outcome keeps, where it gives a state. -/
def SeqResKeeps (a : State) : SeqRes → Prop
  | .stay => True
  | .fault _ _ => True
  | .hold t => Keeps a t
  | .done t _ => Keeps a t

theorem SeqResKeeps.done {a t : State} {n : Option Nat} (h : Keeps a t) : SeqResKeeps a (.done t n) := h
theorem SeqResKeeps.ite {a : State} {c : Prop} [Decidable c] {r q : SeqRes} (h : SeqResKeeps a r) (k : SeqResKeeps a q) :
    SeqResKeeps a (if c then r else q) := by split <;> assumption
theorem SeqResKeeps.hold {a t : State} (h : Keeps a t) : SeqResKeeps a (.hold t) := h

/-- The same of a check that ends an instruction's body early. -/
def ErrKeeps {α : Type} (a : State) (x : Except SeqRes α) : Prop := ∀ r, x = .error r → SeqResKeeps a r

theorem ErrKeeps.ok {α : Type} {a : State} (v : α) : ErrKeeps a (.ok v) := fun _ h => nomatch h
theorem seqRes_ok {a : State} {r : SeqRes} (h : SeqResKeeps a r) : SeqResKeeps a (seqRes (.ok r)) := h
theorem seqRes_error {a : State} {r : SeqRes} (h : SeqResKeeps a r) : SeqResKeeps a (seqRes (.error r)) := h

theorem seqRes_bind {α : Type} {a : State} {x : Except SeqRes α} {f : α → Except SeqRes SeqRes} (hx : ErrKeeps a x)
    (hf : ∀ v, SeqResKeeps a (seqRes (f v))) : SeqResKeeps a (seqRes (x >>= f)) := by
  cases x with
  | error r => exact hx r rfl
  | ok v => exact hf v

theorem must_err {a : State} (b : Bool) (code reason : Nat) : ErrKeeps a (must b code reason) := by
  intro r h
  unfold must at h
  split at h
  · exact nomatch h
  · cases h; trivial

theorem waitFor_err {a : State} (b : Bool) : ErrKeeps a (waitFor b) := by
  intro r h
  unfold waitFor at h
  split at h
  · exact nomatch h
  · cases h; trivial

theorem State.fetch_err {a : State} (s : State) (p n : Nat) (src : Source) : ErrKeeps a (s.fetch p n src) := by
  intro r h
  unfold State.fetch at h
  split at h
  · cases h; trivial
  · split at h
    · cases h; trivial
    · exact nomatch h

theorem State.dest_err {a : State} (s : State) (p n at_ : Nat) : ErrKeeps a (s.dest p n at_) := by
  intro r h
  unfold State.dest at h
  split at h
  · cases h; trivial
  · split at h
    · cases h; trivial
    · exact nomatch h

theorem State.setPtr_keeps {z s : State} (p i : Nat) (v : Int) (hk : Keeps z s) : Keeps z (State.setPtr s p i v) := by
  unfold State.setPtr
  with_reducible repeat' first | exact hk | exact Keeps.refl _ | apply State.set_keeps | apply Keeps.ite | split | (intro v; try dsimp only)

theorem State.specStep_keeps {z s : State} (p : Nat) (sp : Spec) (size : Nat) (hk : Keeps z s) : Keeps z (State.specStep s p sp size) := by
  unfold State.specStep
  try dsimp only
  repeat' first | with_reducible exact hk | with_reducible exact Keeps.refl _ | with_reducible apply State.setPtr_keeps | with_reducible apply Keeps.ite | split | with_reducible apply Keeps.fields | with_reducible apply Keeps.upd | exact List.prefix_rfl | exact Nat.le_refl _ | exact id | exact fun w => SMap.wf_put _ _ w | exact fun w => SMap.wf_update _ _ w | exact fun w => SMap.wf_filter _ w | exact fun w => wf_writeBytes _ _ w | exact fun _ => rfl | exact fun w => SMap.wf_map_filter (fun e => by split <;> rfl) w | (intro v; try dsimp only)

theorem State.specSteps_keeps {z s : State} (p : Nat) (l : List (Spec × Nat)) (hk : Keeps z s) : Keeps z (State.specSteps s p l) := by
  unfold State.specSteps
  with_reducible repeat' first | exact hk | exact Keeps.refl _ | apply State.specStep_keeps | (apply Keeps.foldl; intro t x; try dsimp only) | (apply Keeps.foldl_fst; intro t x; try dsimp only) | apply Keeps.ite | split | (intro v; try dsimp only)

theorem State.setPc_keeps {z s : State} (p a : Nat) (hk : Keeps z s) : Keeps z (State.setPc s p a) := by
  unfold State.setPc
  with_reducible repeat' first | exact hk | exact Keeps.refl _ | apply State.set_keeps | apply Keeps.ite | split | (intro v; try dsimp only)

theorem State.seqStore_keeps {z s : State} (p h : Nat) (bs : List Byte) (hk : Keeps z s) : Keeps z (State.seqStore s p h bs) := by
  unfold State.seqStore
  try dsimp only
  with_reducible repeat' first | exact hk | exact Keeps.refl _ | apply State.set_keeps | apply State.seqPut_keeps | apply Keeps.ite | split | (intro v; try dsimp only)

theorem State.enterHandler_keeps {z s : State} (p word3 : Nat) (hk : Keeps z s) : Keeps z (State.enterHandler s p word3) := by
  unfold State.enterHandler
  try dsimp only
  repeat' first | with_reducible exact hk | with_reducible exact Keeps.refl _ | with_reducible apply State.set_keeps | with_reducible apply State.setSeq_keeps | with_reducible apply State.seqFault_keeps | with_reducible apply State.setPtr_keeps | with_reducible apply State.setPc_keeps | with_reducible apply State.seqStore_keeps | with_reducible apply Keeps.ite | split | with_reducible apply Keeps.fields | with_reducible apply Keeps.upd | exact List.prefix_rfl | exact Nat.le_refl _ | exact id | exact fun w => SMap.wf_put _ _ w | exact fun w => SMap.wf_update _ _ w | exact fun w => SMap.wf_filter _ w | exact fun w => wf_writeBytes _ _ w | exact fun _ => rfl | exact fun w => SMap.wf_map_filter (fun e => by split <;> rfl) w | (intro v; try dsimp only)

theorem State.deliverTrap_keeps {z s : State} (p : Nat) (hk : Keeps z s) : Keeps z (State.deliverTrap s p) := by
  unfold State.deliverTrap
  try dsimp only
  repeat' first | with_reducible exact hk | with_reducible exact Keeps.refl _ | with_reducible apply State.setSeq_keeps | with_reducible apply State.seqFault_keeps | with_reducible apply State.enterHandler_keeps | with_reducible apply Keeps.ite | split | with_reducible apply Keeps.fields | (intro v; try dsimp only)

theorem State.takeStop_keeps {z s : State} (p : Nat) (hk : Keeps z s) : Keeps z (State.takeStop s p) := by
  unfold State.takeStop
  try dsimp only
  repeat' first | with_reducible exact hk | with_reducible exact Keeps.refl _ | with_reducible apply State.set_keeps | with_reducible apply State.setSeq_keeps | with_reducible apply State.haltSeq_keeps | with_reducible apply Keeps.ite | split | with_reducible apply Keeps.fields | (intro v; try dsimp only)

theorem State.boundary_keeps {z s : State} (p : Nat) (hk : Keeps z s) : Keeps z (State.boundary s p) := by
  unfold State.boundary
  try dsimp only
  repeat' first | with_reducible exact hk | with_reducible exact Keeps.refl _ | with_reducible apply State.setSeq_keeps | with_reducible apply State.seqFault_keeps | with_reducible apply State.takeStop_keeps | with_reducible apply Keeps.ite | split | with_reducible apply Keeps.fields | with_reducible apply Keeps.upd | exact List.prefix_rfl | exact Nat.le_refl _ | exact id | exact fun w => SMap.wf_put _ _ w | exact fun w => SMap.wf_update _ _ w | exact fun w => SMap.wf_filter _ w | exact fun w => wf_writeBytes _ _ w | exact fun _ => rfl | exact fun w => SMap.wf_map_filter (fun e => by split <;> rfl) w | (intro v; try dsimp only)

theorem State.retire_keeps {z s : State} (p at_ size : Nat) (target : Option Nat) (hk : Keeps z s) : Keeps z (State.retire s p at_ size target) := by
  unfold State.retire
  try dsimp only
  with_reducible repeat' first | exact hk | exact Keeps.refl _ | apply State.set_keeps | apply State.setPc_keeps | apply State.deliverTrap_keeps | apply State.boundary_keeps | apply Keeps.ite | split | (intro v; try dsimp only)

theorem State.runInstr_keeps {z s : State} (p : Nat) (m : Mn) {body : SeqInstr → State → SeqRes} (hb : ∀ i, SeqResKeeps s (body i s))
    (h : Keeps z s) : Keeps z (s.runInstr p m body) := by
  unfold State.runInstr
  split
  · exact h
  · split
    · exact State.seqFault_keeps _ _ _ _ _ h
    · rename_i i _
      split
      · exact h
      · have hi := hb i
        split <;> rename_i heq <;> rw [heq] at hi
        · exact h
        · exact State.seqFault_keeps _ _ _ _ _ h
        · exact h.trans hi
        · exact State.retire_keeps _ _ _ _ (h.trans hi)

end Sys2Proof.Machine
end

