-- ==== Sys2Proof/Laws/KeepsArrayRun.lean ====
section
/-!
SUPPORT. What each operation of Machine/ArrayRun.lean keeps.
-/
namespace Sys2Proof.Machine

theorem State.dispatch_err {a : State} (s : State) (p : Nat) (m : Mn) (i : SeqInstr) : ErrKeeps a (s.dispatch p m i) := by
  intro r h
  unfold State.dispatch at h
  dsimp only at h
  repeat' split at h
  all_goals first | (cases h; trivial) | cases h

theorem State.closeReplay_keeps {z s : State} (p : Nat) (hk : Keeps z s) : Keeps z (State.closeReplay s p) := by
  unfold State.closeReplay
  try dsimp only
  repeat' first | with_reducible exact hk | with_reducible exact Keeps.refl _ | with_reducible apply State.set_keeps | with_reducible apply State.setRecov_keeps | with_reducible apply Keeps.ite | split | with_reducible apply Keeps.fields | with_reducible apply Keeps.upd | exact List.prefix_rfl | exact Nat.le_refl _ | exact id | exact fun w => SMap.wf_put _ _ w | exact fun w => SMap.wf_update _ _ w | exact fun w => SMap.wf_filter _ w | exact fun w => wf_writeBytes _ _ w | exact fun _ => rfl | exact fun w => SMap.wf_map_filter (fun e => by split <;> rfl) w | (intro v; try dsimp only)

theorem State.closeRollback_keeps {z s : State} (p : Nat) (hk : Keeps z s) : Keeps z (State.closeRollback s p) := by
  unfold State.closeRollback
  try dsimp only
  repeat' first | with_reducible exact hk | with_reducible exact Keeps.refl _ | with_reducible apply State.set_keeps | with_reducible apply State.setRecov_keeps | with_reducible apply Keeps.ite | split | with_reducible apply Keeps.fields | with_reducible apply Keeps.upd | exact List.prefix_rfl | exact Nat.le_refl _ | exact id | exact fun w => SMap.wf_put _ _ w | exact fun w => SMap.wf_update _ _ w | exact fun w => SMap.wf_filter _ w | exact fun w => wf_writeBytes _ _ w | exact fun _ => rfl | exact fun w => SMap.wf_map_filter (fun e => by split <;> rfl) w | (intro v; try dsimp only)

theorem State.confirm_keeps {z s : State} (p c : Nat) (hk : Keeps z s) : Keeps z (State.confirm s p c) := by
  unfold State.confirm
  try dsimp only
  repeat' first | with_reducible exact hk | with_reducible exact Keeps.refl _ | with_reducible apply State.setPart_keeps | with_reducible apply State.closeReplay_keeps | with_reducible apply Keeps.ite | split | with_reducible apply Keeps.fields | with_reducible apply Keeps.upd | exact List.prefix_rfl | exact Nat.le_refl _ | exact id | exact fun w => SMap.wf_put _ _ w | exact fun w => SMap.wf_update _ _ w | exact fun w => SMap.wf_filter _ w | exact fun w => wf_writeBytes _ _ w | exact fun _ => rfl | exact fun w => SMap.wf_map_filter (fun e => by split <;> rfl) w | (intro v; try dsimp only)

theorem State.turfSteps_keeps {z s : State} (t n x next : Nat) (hk : Keeps z s) : Keeps z (State.turfSteps s t n x next) := by
  unfold State.turfSteps
  with_reducible repeat' first | exact hk | exact Keeps.refl _ | apply State.set_keeps | apply State.bump_keeps | apply Keeps.ite | split | (intro v; try dsimp only)

theorem State.takeSteps_keeps {z s : State} (p n x : Nat) (hk : Keeps z s) : Keeps z (State.takeSteps s p n x) := by
  unfold State.takeSteps
  try dsimp only
  repeat' first | with_reducible exact hk | with_reducible exact Keeps.refl _ | with_reducible apply State.setPart_keeps | with_reducible apply State.turfSteps_keeps | (with_reducible apply Keeps.foldl; intro t x; try dsimp only) | (with_reducible apply Keeps.foldl_fst; intro t x; try dsimp only) | with_reducible apply Keeps.ite | split | with_reducible apply Keeps.fields | (intro v; try dsimp only)

theorem State.performEmpty_keeps {z s : State} (p : Nat) (m : Mn) (D : Dispatch) (upd : List (Spec × Nat)) (hk : Keeps z s) : Keeps z (State.performEmpty s p m D upd) := by
  unfold State.performEmpty
  try dsimp only
  repeat' first | with_reducible exact hk | with_reducible exact Keeps.refl _ | with_reducible apply State.setPart_keeps | with_reducible apply State.specSteps_keeps | with_reducible apply Keeps.ite | split | with_reducible apply Keeps.fields | (intro v; try dsimp only)

theorem State.setMicro_keeps {z s : State} (p : Nat) (u : Micro) (hk : Keeps z s) : Keeps z (State.setMicro s p u) := by
  unfold State.setMicro
  try dsimp only
  repeat' first | with_reducible exact hk | with_reducible exact Keeps.refl _ | with_reducible apply State.setSeq_keeps | with_reducible apply Keeps.ite | split | with_reducible apply Keeps.fields | (intro v; try dsimp only)

theorem State.openMacro_keeps {z s : State} (p : Nat) (D : Dispatch) (first next : Nat) (hk : Keeps z s) : Keeps z (State.openMacro s p D first next) := by
  unfold State.openMacro
  try dsimp only
  repeat' first | with_reducible exact hk | with_reducible exact Keeps.refl _ | with_reducible apply State.setPart_keeps | with_reducible apply Keeps.ite | split | with_reducible apply Keeps.fields | (intro v; try dsimp only)

theorem State.startMicro_keeps {z s : State} (p : Nat) (D : Dispatch) (size : Nat) (again : Bool) (upd : List (Spec × Nat)) (hk : Keeps z s) : Keeps z (State.startMicro s p D size again upd) := by
  unfold State.startMicro
  try dsimp only
  with_reducible repeat' first | exact hk | exact Keeps.refl _ | apply State.setMicro_keeps | apply State.openMacro_keeps | apply Keeps.ite | split | (intro v; try dsimp only)

theorem newAopBody_keeps {z s : State} (p : Nat) (i : SeqInstr) (hk : Keeps z s) : SeqResKeeps z (newAopBody p i s) := by
  unfold newAopBody
  try dsimp only
  repeat' first | with_reducible exact hk | with_reducible exact Keeps.refl _ | with_reducible apply State.performEmpty_keeps | with_reducible apply State.startMicro_keeps | with_reducible apply seqRes_bind | with_reducible apply seqRes_ok | with_reducible apply seqRes_error | with_reducible apply ErrKeeps.ok | with_reducible apply State.fetch_err | with_reducible apply State.dest_err | with_reducible apply must_err | with_reducible apply waitFor_err | exact trivial | with_reducible apply SeqResKeeps.done | with_reducible apply SeqResKeeps.hold | (intro v; try dsimp only) | exact State.dispatch_err _ _ _ _ _ (by assumption) | with_reducible apply SeqResKeeps.ite | with_reducible apply Keeps.ite | split | with_reducible apply Keeps.fields | with_reducible apply Keeps.upd | exact List.prefix_rfl | exact Nat.le_refl _ | exact id | exact fun w => SMap.wf_put _ _ w | exact fun w => SMap.wf_update _ _ w | exact fun w => SMap.wf_filter _ w | exact fun w => wf_writeBytes _ _ w | exact fun _ => rfl | exact fun w => SMap.wf_map_filter (fun e => by split <;> rfl) w | (intro v; try dsimp only)

end Sys2Proof.Machine
end

