-- ==== Sys2Proof/Laws/KeepsSteps.lean ====
section
/-!
SUPPORT. What each operation of Machine/Steps.lean keeps.
-/
namespace Sys2Proof.Machine

theorem State.hand_keeps {z s : State} (p : Nat) (b : Burst) (hk : Keeps z s) : Keeps z (State.hand s p b) := by
  unfold State.hand
  try dsimp only
  repeat' first | with_reducible exact hk | with_reducible exact Keeps.refl _ | with_reducible apply State.bump_keeps | with_reducible apply State.setPart_keeps | with_reducible apply Keeps.ite | split | with_reducible apply Keeps.fields | (intro v; try dsimp only)

theorem State.writeRow_keeps {z s : State} (l : Landing) (hk : Keeps z s) : Keeps z (State.writeRow s l) := by
  unfold State.writeRow
  try dsimp only
  repeat' first | with_reducible exact hk | with_reducible exact Keeps.refl _ | with_reducible apply Keeps.ite | split | with_reducible apply Keeps.fields | with_reducible apply Keeps.upd | exact List.prefix_rfl | exact Nat.le_refl _ | exact id | exact fun w => SMap.wf_put _ _ w | exact fun w => SMap.wf_update _ _ w | exact fun w => SMap.wf_filter _ w | exact fun w => wf_writeBytes _ _ w | exact fun _ => rfl | exact fun w => SMap.wf_map_filter (fun e => by split <;> rfl) w | (intro v; try dsimp only)

theorem State.collide_keeps {z s : State} (p n : Nat) (l : Landing) (hk : Keeps z s) : Keeps z (State.collide s p n l) := by
  unfold State.collide
  try dsimp only
  repeat' first | with_reducible exact hk | with_reducible exact Keeps.refl _ | with_reducible apply State.set_keeps | with_reducible apply State.count_keeps | with_reducible apply State.setPart_keeps | with_reducible apply State.setStg_keeps | with_reducible apply State.turfError_keeps | with_reducible apply State.violation_keeps | with_reducible apply Keeps.ite | split | with_reducible apply Keeps.fields | with_reducible apply Keeps.upd | exact List.prefix_rfl | exact Nat.le_refl _ | exact id | exact fun w => SMap.wf_put _ _ w | exact fun w => SMap.wf_update _ _ w | exact fun w => SMap.wf_filter _ w | exact fun w => wf_writeBytes _ _ w | exact fun _ => rfl | exact fun w => SMap.wf_map_filter (fun e => by split <;> rfl) w | (intro v; try dsimp only)

theorem State.land_keeps {z s : State} (p n : Nat) (writes : Option Nat) (hk : Keeps z s) : Keeps z (State.land s p n writes) := by
  unfold State.land
  try dsimp only
  repeat' first | with_reducible exact hk | with_reducible exact Keeps.refl _ | with_reducible apply State.setPart_keeps | with_reducible apply State.writeRow_keeps | with_reducible apply State.collide_keeps | (with_reducible apply Keeps.foldl; intro t x; try dsimp only) | (with_reducible apply Keeps.foldl_fst; intro t x; try dsimp only) | with_reducible apply Keeps.ite | split | with_reducible apply Keeps.fields | (intro v; try dsimp only)

theorem State.snapshot_keeps {z s : State} (p : Nat) (b : Burst) (hk : Keeps z s) : Keeps z (State.snapshot s p b) := by
  unfold State.snapshot
  try dsimp only
  repeat' first | with_reducible exact hk | with_reducible exact Keeps.refl _ | with_reducible apply State.setPart_keeps | with_reducible apply Keeps.ite | split | with_reducible apply Keeps.fields | (intro v; try dsimp only)

theorem State.stepPes_keeps {z t : State} (s r : State) (p : Nat) (v : StepEnv) (hk : Keeps z t) : Keeps z (State.stepPes t s r p v) := by
  unfold State.stepPes
  exact hk.upd List.prefix_rfl (Nat.le_refl _) id id id id id (fun w => SMap.wf_update _ _ w) (fun w => SMap.wf_update _ _ w) id

theorem State.advanceBuffer_keeps {z s : State} (p : Nat) (b : Burst) (hk : Keeps z s) : Keeps z (State.advanceBuffer s p b) := by
  unfold State.advanceBuffer
  try dsimp only
  repeat' first | with_reducible exact hk | with_reducible exact Keeps.refl _ | with_reducible apply State.set_keeps | with_reducible apply State.count_keeps | with_reducible apply State.setPart_keeps | (with_reducible apply Keeps.foldl; intro t x; try dsimp only) | (with_reducible apply Keeps.foldl_fst; intro t x; try dsimp only) | with_reducible apply Keeps.ite | split | with_reducible apply Keeps.fields | (intro v; try dsimp only)

theorem State.settleStreams_keeps {z s : State} (p first : Nat) (hk : Keeps z s) : Keeps z (State.settleStreams s p first) := by
  unfold State.settleStreams
  try dsimp only
  repeat' first | with_reducible exact hk | with_reducible exact Keeps.refl _ | with_reducible apply State.setPart_keeps | with_reducible apply Keeps.ite | split | with_reducible apply Keeps.fields | with_reducible apply Keeps.upd | exact List.prefix_rfl | exact Nat.le_refl _ | exact id | exact fun w => SMap.wf_put _ _ w | exact fun w => SMap.wf_update _ _ w | exact fun w => SMap.wf_filter _ w | exact fun w => wf_writeBytes _ _ w | exact fun _ => rfl | exact fun w => SMap.wf_map_filter (fun e => by split <;> rfl) w | (intro v; try dsimp only)

theorem State.failFlue_keeps {z s : State} (p : Nat) (hit : Nat → Bool) (hk : Keeps z s) : Keeps z (State.failFlue s p hit) := by
  unfold State.failFlue
  try dsimp only
  repeat' first | with_reducible exact hk | with_reducible exact Keeps.refl _ | with_reducible apply State.setPart_keeps | with_reducible apply Keeps.ite | split | with_reducible apply Keeps.fields | with_reducible apply Keeps.upd | exact List.prefix_rfl | exact Nat.le_refl _ | exact id | exact fun w => SMap.wf_put _ _ w | exact fun w => SMap.wf_update _ _ w | exact fun w => SMap.wf_filter _ w | exact fun w => wf_writeBytes _ _ w | exact fun _ => rfl | exact fun w => SMap.wf_map_filter (fun e => by split <;> rfl) w | (intro v; try dsimp only)

theorem State.pickStep_keeps {z s : State} (d : Nat) (hk : Keeps z s) : Keeps z (State.pickStep s d) := by
  unfold State.pickStep
  try dsimp only
  repeat' first | with_reducible exact hk | with_reducible exact Keeps.refl _ | with_reducible apply State.setFence_keeps | with_reducible apply Keeps.ite | split | with_reducible apply Keeps.fields | (intro v; try dsimp only)

theorem State.pickFences_keeps {z s : State} (p : Nat) (hk : Keeps z s) : Keeps z (State.pickFences s p) := by
  unfold State.pickFences
  with_reducible repeat' first | exact hk | exact Keeps.refl _ | apply State.pickStep_keeps | (apply Keeps.foldl; intro t x; try dsimp only) | (apply Keeps.foldl_fst; intro t x; try dsimp only) | apply Keeps.ite | split | (intro v; try dsimp only)

theorem State.romIssue_keeps {z s : State} (p : Nat) (m : Mn) (D : Dispatch) (size : Nat) (again : Bool) (upd : List (Spec × Nat)) (hk : Keeps z s) : SeqResKeeps z (State.romIssue s p m D size again upd) := by
  unfold State.romIssue
  try dsimp only
  repeat' first | with_reducible exact hk | with_reducible exact Keeps.refl _ | with_reducible apply State.specSteps_keeps | with_reducible apply State.setMicro_keeps | with_reducible apply State.openMacro_keeps | with_reducible apply State.hand_keeps | with_reducible apply seqRes_bind | with_reducible apply seqRes_ok | with_reducible apply seqRes_error | with_reducible apply ErrKeeps.ok | with_reducible apply State.fetch_err | with_reducible apply State.dest_err | with_reducible apply must_err | with_reducible apply waitFor_err | exact trivial | with_reducible apply SeqResKeeps.done | with_reducible apply SeqResKeeps.hold | (intro v; try dsimp only) | exact State.dispatch_err _ _ _ _ _ (by assumption) | with_reducible apply SeqResKeeps.ite | with_reducible apply Keeps.ite | split | with_reducible apply Keeps.fields | with_reducible apply Keeps.upd | exact List.prefix_rfl | exact Nat.le_refl _ | exact id | exact fun w => SMap.wf_put _ _ w | exact fun w => SMap.wf_update _ _ w | exact fun w => SMap.wf_filter _ w | exact fun w => wf_writeBytes _ _ w | exact fun _ => rfl | exact fun w => SMap.wf_map_filter (fun e => by split <;> rfl) w | (intro v; try dsimp only)

theorem arrayBody_keeps {z s : State} (p : Nat) (m : Mn) (i : SeqInstr) (hk : Keeps z s) : SeqResKeeps z (arrayBody p m i s) := by
  unfold arrayBody
  try dsimp only
  repeat' first | with_reducible exact hk | with_reducible exact Keeps.refl _ | with_reducible apply State.performEmpty_keeps | with_reducible apply newAopBody_keeps | with_reducible apply State.romIssue_keeps | with_reducible apply seqRes_bind | with_reducible apply seqRes_ok | with_reducible apply seqRes_error | with_reducible apply ErrKeeps.ok | with_reducible apply State.fetch_err | with_reducible apply State.dest_err | with_reducible apply must_err | with_reducible apply waitFor_err | exact trivial | with_reducible apply SeqResKeeps.done | with_reducible apply SeqResKeeps.hold | (intro v; try dsimp only) | exact State.dispatch_err _ _ _ _ _ (by assumption) | with_reducible apply SeqResKeeps.ite | with_reducible apply Keeps.ite | split | with_reducible apply Keeps.fields | with_reducible apply Keeps.upd | exact List.prefix_rfl | exact Nat.le_refl _ | exact id | exact fun w => SMap.wf_put _ _ w | exact fun w => SMap.wf_update _ _ w | exact fun w => SMap.wf_filter _ w | exact fun w => wf_writeBytes _ _ w | exact fun _ => rfl | exact fun w => SMap.wf_map_filter (fun e => by split <;> rfl) w | (intro v; try dsimp only)

theorem State.landHidden_keeps {z s : State} (p n : Nat) (m : Mn) (D : Dispatch) (first : Nat) (l : Landing) (hk : Keeps z s) : Keeps z (State.landHidden s p n m D first l) := by
  unfold State.landHidden
  try dsimp only
  repeat' first | with_reducible exact hk | with_reducible exact Keeps.refl _ | with_reducible apply State.setPart_keeps | with_reducible apply State.useFree_keeps | with_reducible apply State.writeRow_keeps | with_reducible apply State.collide_keeps | with_reducible apply Keeps.ite | split | with_reducible apply Keeps.fields | (intro v; try dsimp only)

theorem State.hiddenEffect_keeps {z s : State} (p : Nat) (m : Mn) (D : Dispatch) (first : Nat) (hk : Keeps z s) : Keeps z (State.hiddenEffect s p m D first) := by
  unfold State.hiddenEffect
  try dsimp only
  repeat' first | with_reducible exact hk | with_reducible exact Keeps.refl _ | with_reducible apply State.setPart_keeps | with_reducible apply State.useFree_keeps | with_reducible apply Keeps.ite | split | with_reducible apply Keeps.fields | with_reducible apply Keeps.upd | exact List.prefix_rfl | exact Nat.le_refl _ | exact id | exact fun w => SMap.wf_put _ _ w | exact fun w => SMap.wf_update _ _ w | exact fun w => SMap.wf_filter _ w | exact fun w => wf_writeBytes _ _ w | exact fun _ => rfl | exact fun w => SMap.wf_map_filter (fun e => by split <;> rfl) w | (intro v; try dsimp only)

theorem State.stepHidden_keeps {z s : State} (p : Nat) (b : Burst) (hk : Keeps z s) : Keeps z (State.stepHidden s p b) := by
  unfold State.stepHidden
  try dsimp only
  repeat' first | with_reducible exact hk | with_reducible exact Keeps.refl _ | with_reducible apply State.setPart_keeps | with_reducible apply State.takeSteps_keeps | with_reducible apply State.snapshot_keeps | with_reducible apply State.landHidden_keeps | with_reducible apply State.hiddenEffect_keeps | (with_reducible apply Keeps.foldl; intro t x; try dsimp only) | (with_reducible apply Keeps.foldl_fst; intro t x; try dsimp only) | with_reducible apply Keeps.ite | split | with_reducible apply Keeps.fields | with_reducible apply Keeps.upd | exact List.prefix_rfl | exact Nat.le_refl _ | exact id | exact fun w => SMap.wf_put _ _ w | exact fun w => SMap.wf_update _ _ w | exact fun w => SMap.wf_filter _ w | exact fun w => wf_writeBytes _ _ w | exact fun _ => rfl | exact fun w => SMap.wf_map_filter (fun e => by split <;> rfl) w | (intro v; try dsimp only)

theorem State.wakeTurf_keeps {z s : State} (t : Nat) (hk : Keeps z s) : Keeps z (State.wakeTurf s t) := by
  unfold State.wakeTurf
  with_reducible repeat' first | exact hk | exact Keeps.refl _ | apply State.set_keeps | apply Keeps.ite | split | (intro v; try dsimp only)

theorem State.putRow_keeps {z s : State} (l : Landing) (hk : Keeps z s) : Keeps z (State.putRow s l) := by
  unfold State.putRow
  try dsimp only
  repeat' first | with_reducible exact hk | with_reducible exact Keeps.refl _ | with_reducible apply State.setPart_keeps | with_reducible apply State.writeRow_keeps | with_reducible apply State.wakeTurf_keeps | with_reducible apply Keeps.ite | split | with_reducible apply Keeps.fields | with_reducible apply Keeps.upd | exact List.prefix_rfl | exact Nat.le_refl _ | exact id | exact fun w => SMap.wf_put _ _ w | exact fun w => SMap.wf_update _ _ w | exact fun w => SMap.wf_filter _ w | exact fun w => wf_writeBytes _ _ w | exact fun _ => rfl | exact fun w => SMap.wf_map_filter (fun e => by split <;> rfl) w | (intro v; try dsimp only)

theorem State.takeRow_keeps {z s : State} (step : Option (Nat × Nat)) (l : Landing) (hk : Keeps z s) : Keeps z (State.takeRow s step l) := by
  unfold State.takeRow
  try dsimp only
  repeat' first | with_reducible exact hk | with_reducible exact Keeps.refl _ | with_reducible apply State.setPart_keeps | with_reducible apply State.putRow_keeps | with_reducible apply Keeps.ite | split | with_reducible apply Keeps.fields | with_reducible apply Keeps.upd | exact List.prefix_rfl | exact Nat.le_refl _ | exact id | exact fun w => SMap.wf_put _ _ w | exact fun w => SMap.wf_update _ _ w | exact fun w => SMap.wf_filter _ w | exact fun w => wf_writeBytes _ _ w | exact fun _ => rfl | exact fun w => SMap.wf_map_filter (fun e => by split <;> rfl) w | (intro v; try dsimp only)

theorem State.meshBeat_keeps {z s : State} (step : Option (Nat × Nat)) (bad : Option (Packet × Nat)) (hk : Keeps z s) : Keeps z (State.meshBeat s step bad) := by
  unfold State.meshBeat
  try dsimp only
  repeat' first | with_reducible exact hk | with_reducible exact Keeps.refl _ | with_reducible apply State.takeRow_keeps | (with_reducible apply Keeps.foldl; intro t x; try dsimp only) | (with_reducible apply Keeps.foldl_fst; intro t x; try dsimp only) | with_reducible apply Keeps.ite | split | with_reducible apply Keeps.fields | (intro v; try dsimp only)

theorem State.stepBeats_keeps {z : State} (p : Nat) : ∀ (b n : Nat) {s : State}, Keeps z s → Keeps z (s.stepBeats p b n)
  | 0, _, _, hk => hk
  | b + 1, n, s, hk => by
    unfold State.stepBeats
    exact Keeps.ite hk (State.stepBeats_keeps p b (n + 1) (State.meshBeat_keeps _ _ hk))

theorem State.beats_keeps {z s : State} (p n b : Nat) (hk : Keeps z s) : Keeps z (State.beats s p n b) := by
  unfold State.beats
  try dsimp only
  repeat' first | with_reducible exact hk | with_reducible exact Keeps.refl _ | with_reducible apply State.stepBeats_keeps | with_reducible apply Keeps.ite | split | with_reducible apply Keeps.fields | (intro v; try dsimp only)

theorem State.enter_keeps {z s : State} (k : Packet) (hk : Keeps z s) : Keeps z (State.enter s k) := by
  unfold State.enter
  try dsimp only
  repeat' first | with_reducible exact hk | with_reducible exact Keeps.refl _ | with_reducible apply Keeps.ite | split | with_reducible apply Keeps.fields | (intro v; try dsimp only)

theorem State.carryOn_keeps {z : State} (k : Packet) (bad : Option (Packet × Nat)) : ∀ (b : Nat) {s : State}, Keeps z s → Keeps z (State.carryOn k bad b s)
  | 0, _, hk => hk
  | b + 1, s, hk => by
    unfold State.carryOn
    exact Keeps.ite hk (State.carryOn_keeps k bad b (State.meshBeat_keeps _ _ hk))

theorem State.carry_keeps {z s : State} (k : Packet) (good : Option Nat) (hk : Keeps z s) : Keeps z (State.carry s k good) := by
  unfold State.carry
  try dsimp only
  repeat' first | with_reducible exact hk | with_reducible exact Keeps.refl _ | with_reducible apply State.enter_keeps | with_reducible apply State.carryOn_keeps | with_reducible apply Keeps.ite | split | with_reducible apply Keeps.fields | (intro v; try dsimp only)

theorem State.settleFlits_keeps {z s : State} (k : Packet) (hk : Keeps z s) : Keeps z (State.settleFlits s k) := by
  unfold State.settleFlits
  try dsimp only
  repeat' first | with_reducible exact hk | with_reducible exact Keeps.refl _ | with_reducible apply Keeps.ite | split | with_reducible apply Keeps.fields | with_reducible apply Keeps.upd | exact List.prefix_rfl | exact Nat.le_refl _ | exact id | exact fun w => SMap.wf_put _ _ w | exact fun w => SMap.wf_update _ _ w | exact fun w => SMap.wf_filter _ w | exact fun w => wf_writeBytes _ _ w | exact fun _ => rfl | exact fun w => SMap.wf_map_filter (fun e => by split <;> rfl) w | (intro v; try dsimp only)

theorem State.stepSeen_keeps {z s : State} (p : Nat) (b : Burst) (hk : Keeps z s) : Keeps z (State.stepSeen s p b) := by
  unfold State.stepSeen
  exact State.takeSteps_keeps _ _ _ (State.setPart_keeps _ _ (State.stepPes_keeps _ _ _ _
    (State.land_keeps _ _ _ (State.land_keeps _ _ _ (State.land_keeps _ _ _ (State.land_keeps _ _ _ (State.snapshot_keeps _ _ hk)))))))

theorem State.stepOnce_keeps {z s : State} (p : Nat) (b : Burst) (hk : Keeps z s) : Keeps z (State.stepOnce s p b) := by
  unfold State.stepOnce
  try dsimp only
  with_reducible repeat' first | exact hk | exact Keeps.refl _ | apply State.advanceBuffer_keeps | apply State.settleStreams_keeps | apply State.pickFences_keeps | apply State.stepHidden_keeps | apply State.beats_keeps | apply State.stepSeen_keeps | apply Keeps.ite | split | (intro v; try dsimp only)

theorem State.traceBurst_keeps {z s : State} (p : Nat) (b : Burst) (first : Nat) (hk : Keeps z s) : Keeps z (State.traceBurst s p b first) := by
  unfold State.traceBurst
  try dsimp only
  repeat' first | with_reducible exact hk | with_reducible exact Keeps.refl _ | with_reducible apply State.set_keeps | with_reducible apply Keeps.ite | split | with_reducible apply Keeps.fields | (intro v; try dsimp only)

theorem State.countWait_keeps {z s : State} (p : Nat) (hk : Keeps z s) : Keeps z (State.countWait s p) := by
  unfold State.countWait
  try dsimp only
  with_reducible repeat' first | exact hk | exact Keeps.refl _ | apply State.bump_keeps | apply State.useFree_keeps | (apply Keeps.foldl; intro t x; try dsimp only) | (apply Keeps.foldl_fst; intro t x; try dsimp only) | apply Keeps.ite | split | (intro v; try dsimp only)

theorem State.advance_keeps {z s : State} (p : Nat) (hk : Keeps z s) : Keeps z (State.advance s p) := by
  unfold State.advance
  try dsimp only
  with_reducible repeat' first | exact hk | exact Keeps.refl _ | apply State.confirm_keeps | apply Keeps.ite | split | (intro v; try dsimp only)

theorem execStep_keeps {z s : State} (p : SeqId) (hk : Keeps z s) : ResKeeps z (execStep p s) := by
  unfold execStep
  try dsimp only
  repeat' first | with_reducible exact hk | with_reducible exact Keeps.refl _ | with_reducible apply State.stepOnce_keeps | with_reducible apply State.countWait_keeps | with_reducible apply State.advance_keeps | with_reducible apply ResKeeps.next | with_reducible apply ResKeeps.ite | with_reducible apply Keeps.ite | split | with_reducible apply Keeps.fields | with_reducible apply Keeps.upd | exact List.prefix_rfl | exact Nat.le_refl _ | exact id | exact fun w => SMap.wf_put _ _ w | exact fun w => SMap.wf_update _ _ w | exact fun w => SMap.wf_filter _ w | exact fun w => wf_writeBytes _ _ w | exact fun _ => rfl | exact fun w => SMap.wf_map_filter (fun e => by split <;> rfl) w | (intro v; try dsimp only)

theorem execRetentionEntry_keeps {z s : State} (t : TurfId) (hk : Keeps z s) : ResKeeps z (execRetentionEntry t s) := by
  unfold execRetentionEntry
  with_reducible repeat' first | exact hk | exact Keeps.refl _ | apply State.set_keeps | apply ResKeeps.next | apply ResKeeps.ite | apply Keeps.ite | split | (intro v; try dsimp only)

theorem execRetentionWake_keeps {z s : State} (t : TurfId) (hk : Keeps z s) : ResKeeps z (execRetentionWake t s) := by
  unfold execRetentionWake
  with_reducible repeat' first | exact hk | exact Keeps.refl _ | apply State.set_keeps | apply ResKeeps.next | apply ResKeeps.ite | apply Keeps.ite | split | (intro v; try dsimp only)

theorem execPaceWindow_keeps {z s : State} (t : TurfId) (steps : Nat) (hk : Keeps z s) : ResKeeps z (execPaceWindow t steps s) := by
  unfold execPaceWindow
  try dsimp only
  with_reducible repeat' first | exact hk | exact Keeps.refl _ | apply State.set_keeps | apply State.bump_keeps | apply State.useFree_keeps | apply State.turfError_keeps | apply State.violation_keeps | apply ResKeeps.next | apply ResKeeps.ite | apply Keeps.ite | split | (intro v; try dsimp only)

theorem execPaceClear_keeps {z s : State} (t : TurfId) (hk : Keeps z s) : ResKeeps z (execPaceClear t s) := by
  unfold execPaceClear
  with_reducible repeat' first | exact hk | exact Keeps.refl _ | apply State.set_keeps | apply ResKeeps.next | apply ResKeeps.ite | apply Keeps.ite | split | (intro v; try dsimp only)

end Sys2Proof.Machine
end

