-- ==== Sys2Proof/Laws/KeepsArrayFp.lean ====
section
/-!
SUPPORT. What each operation of Machine/ArrayFp.lean keeps.
-/
namespace Sys2Proof.Machine

theorem execFadd_keeps {z s : State} (p : SeqId) (hk : Keeps z s) : ResKeeps z (execFadd p s) := by
  unfold execFadd
  repeat' first | with_reducible exact hk | with_reducible exact Keeps.refl _ | with_reducible apply State.runInstr_keeps | with_reducible apply arrayBody_keeps | with_reducible apply ResKeeps.next | with_reducible apply seqRes_bind | with_reducible apply seqRes_ok | with_reducible apply seqRes_error | with_reducible apply ErrKeeps.ok | with_reducible apply State.fetch_err | with_reducible apply State.dest_err | with_reducible apply must_err | with_reducible apply waitFor_err | exact trivial | with_reducible apply SeqResKeeps.done | with_reducible apply SeqResKeeps.hold | (intro v; try dsimp only) | exact State.dispatch_err _ _ _ _ _ (by assumption) | with_reducible apply ResKeeps.ite | with_reducible apply Keeps.ite | split | (intro v; try dsimp only)

theorem execFsub_keeps {z s : State} (p : SeqId) (hk : Keeps z s) : ResKeeps z (execFsub p s) := by
  unfold execFsub
  repeat' first | with_reducible exact hk | with_reducible exact Keeps.refl _ | with_reducible apply State.runInstr_keeps | with_reducible apply arrayBody_keeps | with_reducible apply ResKeeps.next | with_reducible apply seqRes_bind | with_reducible apply seqRes_ok | with_reducible apply seqRes_error | with_reducible apply ErrKeeps.ok | with_reducible apply State.fetch_err | with_reducible apply State.dest_err | with_reducible apply must_err | with_reducible apply waitFor_err | exact trivial | with_reducible apply SeqResKeeps.done | with_reducible apply SeqResKeeps.hold | (intro v; try dsimp only) | exact State.dispatch_err _ _ _ _ _ (by assumption) | with_reducible apply ResKeeps.ite | with_reducible apply Keeps.ite | split | (intro v; try dsimp only)

theorem execFmul_keeps {z s : State} (p : SeqId) (hk : Keeps z s) : ResKeeps z (execFmul p s) := by
  unfold execFmul
  repeat' first | with_reducible exact hk | with_reducible exact Keeps.refl _ | with_reducible apply State.runInstr_keeps | with_reducible apply arrayBody_keeps | with_reducible apply ResKeeps.next | with_reducible apply seqRes_bind | with_reducible apply seqRes_ok | with_reducible apply seqRes_error | with_reducible apply ErrKeeps.ok | with_reducible apply State.fetch_err | with_reducible apply State.dest_err | with_reducible apply must_err | with_reducible apply waitFor_err | exact trivial | with_reducible apply SeqResKeeps.done | with_reducible apply SeqResKeeps.hold | (intro v; try dsimp only) | exact State.dispatch_err _ _ _ _ _ (by assumption) | with_reducible apply ResKeeps.ite | with_reducible apply Keeps.ite | split | (intro v; try dsimp only)

theorem execFdiv_keeps {z s : State} (p : SeqId) (hk : Keeps z s) : ResKeeps z (execFdiv p s) := by
  unfold execFdiv
  repeat' first | with_reducible exact hk | with_reducible exact Keeps.refl _ | with_reducible apply State.runInstr_keeps | with_reducible apply arrayBody_keeps | with_reducible apply ResKeeps.next | with_reducible apply seqRes_bind | with_reducible apply seqRes_ok | with_reducible apply seqRes_error | with_reducible apply ErrKeeps.ok | with_reducible apply State.fetch_err | with_reducible apply State.dest_err | with_reducible apply must_err | with_reducible apply waitFor_err | exact trivial | with_reducible apply SeqResKeeps.done | with_reducible apply SeqResKeeps.hold | (intro v; try dsimp only) | exact State.dispatch_err _ _ _ _ _ (by assumption) | with_reducible apply ResKeeps.ite | with_reducible apply Keeps.ite | split | (intro v; try dsimp only)

theorem execFsqrt_keeps {z s : State} (p : SeqId) (hk : Keeps z s) : ResKeeps z (execFsqrt p s) := by
  unfold execFsqrt
  repeat' first | with_reducible exact hk | with_reducible exact Keeps.refl _ | with_reducible apply State.runInstr_keeps | with_reducible apply arrayBody_keeps | with_reducible apply ResKeeps.next | with_reducible apply seqRes_bind | with_reducible apply seqRes_ok | with_reducible apply seqRes_error | with_reducible apply ErrKeeps.ok | with_reducible apply State.fetch_err | with_reducible apply State.dest_err | with_reducible apply must_err | with_reducible apply waitFor_err | exact trivial | with_reducible apply SeqResKeeps.done | with_reducible apply SeqResKeeps.hold | (intro v; try dsimp only) | exact State.dispatch_err _ _ _ _ _ (by assumption) | with_reducible apply ResKeeps.ite | with_reducible apply Keeps.ite | split | (intro v; try dsimp only)

theorem execFfma_keeps {z s : State} (p : SeqId) (hk : Keeps z s) : ResKeeps z (execFfma p s) := by
  unfold execFfma
  repeat' first | with_reducible exact hk | with_reducible exact Keeps.refl _ | with_reducible apply State.runInstr_keeps | with_reducible apply arrayBody_keeps | with_reducible apply ResKeeps.next | with_reducible apply seqRes_bind | with_reducible apply seqRes_ok | with_reducible apply seqRes_error | with_reducible apply ErrKeeps.ok | with_reducible apply State.fetch_err | with_reducible apply State.dest_err | with_reducible apply must_err | with_reducible apply waitFor_err | exact trivial | with_reducible apply SeqResKeeps.done | with_reducible apply SeqResKeeps.hold | (intro v; try dsimp only) | exact State.dispatch_err _ _ _ _ _ (by assumption) | with_reducible apply ResKeeps.ite | with_reducible apply Keeps.ite | split | (intro v; try dsimp only)

theorem execFmulx_keeps {z s : State} (p : SeqId) (hk : Keeps z s) : ResKeeps z (execFmulx p s) := by
  unfold execFmulx
  repeat' first | with_reducible exact hk | with_reducible exact Keeps.refl _ | with_reducible apply State.runInstr_keeps | with_reducible apply arrayBody_keeps | with_reducible apply ResKeeps.next | with_reducible apply seqRes_bind | with_reducible apply seqRes_ok | with_reducible apply seqRes_error | with_reducible apply ErrKeeps.ok | with_reducible apply State.fetch_err | with_reducible apply State.dest_err | with_reducible apply must_err | with_reducible apply waitFor_err | exact trivial | with_reducible apply SeqResKeeps.done | with_reducible apply SeqResKeeps.hold | (intro v; try dsimp only) | exact State.dispatch_err _ _ _ _ _ (by assumption) | with_reducible apply ResKeeps.ite | with_reducible apply Keeps.ite | split | (intro v; try dsimp only)

theorem execFcvt_keeps {z s : State} (p : SeqId) (hk : Keeps z s) : ResKeeps z (execFcvt p s) := by
  unfold execFcvt
  repeat' first | with_reducible exact hk | with_reducible exact Keeps.refl _ | with_reducible apply State.runInstr_keeps | with_reducible apply arrayBody_keeps | with_reducible apply ResKeeps.next | with_reducible apply seqRes_bind | with_reducible apply seqRes_ok | with_reducible apply seqRes_error | with_reducible apply ErrKeeps.ok | with_reducible apply State.fetch_err | with_reducible apply State.dest_err | with_reducible apply must_err | with_reducible apply waitFor_err | exact trivial | with_reducible apply SeqResKeeps.done | with_reducible apply SeqResKeeps.hold | (intro v; try dsimp only) | exact State.dispatch_err _ _ _ _ _ (by assumption) | with_reducible apply ResKeeps.ite | with_reducible apply Keeps.ite | split | (intro v; try dsimp only)

theorem execFtol_keeps {z s : State} (p : SeqId) (hk : Keeps z s) : ResKeeps z (execFtol p s) := by
  unfold execFtol
  repeat' first | with_reducible exact hk | with_reducible exact Keeps.refl _ | with_reducible apply State.runInstr_keeps | with_reducible apply arrayBody_keeps | with_reducible apply ResKeeps.next | with_reducible apply seqRes_bind | with_reducible apply seqRes_ok | with_reducible apply seqRes_error | with_reducible apply ErrKeeps.ok | with_reducible apply State.fetch_err | with_reducible apply State.dest_err | with_reducible apply must_err | with_reducible apply waitFor_err | exact trivial | with_reducible apply SeqResKeeps.done | with_reducible apply SeqResKeeps.hold | (intro v; try dsimp only) | exact State.dispatch_err _ _ _ _ _ (by assumption) | with_reducible apply ResKeeps.ite | with_reducible apply Keeps.ite | split | (intro v; try dsimp only)

theorem execLtof_keeps {z s : State} (p : SeqId) (hk : Keeps z s) : ResKeeps z (execLtof p s) := by
  unfold execLtof
  repeat' first | with_reducible exact hk | with_reducible exact Keeps.refl _ | with_reducible apply State.runInstr_keeps | with_reducible apply arrayBody_keeps | with_reducible apply ResKeeps.next | with_reducible apply seqRes_bind | with_reducible apply seqRes_ok | with_reducible apply seqRes_error | with_reducible apply ErrKeeps.ok | with_reducible apply State.fetch_err | with_reducible apply State.dest_err | with_reducible apply must_err | with_reducible apply waitFor_err | exact trivial | with_reducible apply SeqResKeeps.done | with_reducible apply SeqResKeeps.hold | (intro v; try dsimp only) | exact State.dispatch_err _ _ _ _ _ (by assumption) | with_reducible apply ResKeeps.ite | with_reducible apply Keeps.ite | split | (intro v; try dsimp only)

theorem execFcmp_keeps {z s : State} (p : SeqId) (hk : Keeps z s) : ResKeeps z (execFcmp p s) := by
  unfold execFcmp
  repeat' first | with_reducible exact hk | with_reducible exact Keeps.refl _ | with_reducible apply State.runInstr_keeps | with_reducible apply arrayBody_keeps | with_reducible apply ResKeeps.next | with_reducible apply seqRes_bind | with_reducible apply seqRes_ok | with_reducible apply seqRes_error | with_reducible apply ErrKeeps.ok | with_reducible apply State.fetch_err | with_reducible apply State.dest_err | with_reducible apply must_err | with_reducible apply waitFor_err | exact trivial | with_reducible apply SeqResKeeps.done | with_reducible apply SeqResKeeps.hold | (intro v; try dsimp only) | exact State.dispatch_err _ _ _ _ _ (by assumption) | with_reducible apply ResKeeps.ite | with_reducible apply Keeps.ite | split | (intro v; try dsimp only)

theorem execFcmps_keeps {z s : State} (p : SeqId) (hk : Keeps z s) : ResKeeps z (execFcmps p s) := by
  unfold execFcmps
  repeat' first | with_reducible exact hk | with_reducible exact Keeps.refl _ | with_reducible apply State.runInstr_keeps | with_reducible apply arrayBody_keeps | with_reducible apply ResKeeps.next | with_reducible apply seqRes_bind | with_reducible apply seqRes_ok | with_reducible apply seqRes_error | with_reducible apply ErrKeeps.ok | with_reducible apply State.fetch_err | with_reducible apply State.dest_err | with_reducible apply must_err | with_reducible apply waitFor_err | exact trivial | with_reducible apply SeqResKeeps.done | with_reducible apply SeqResKeeps.hold | (intro v; try dsimp only) | exact State.dispatch_err _ _ _ _ _ (by assumption) | with_reducible apply ResKeeps.ite | with_reducible apply Keeps.ite | split | (intro v; try dsimp only)

theorem execFcls_keeps {z s : State} (p : SeqId) (hk : Keeps z s) : ResKeeps z (execFcls p s) := by
  unfold execFcls
  repeat' first | with_reducible exact hk | with_reducible exact Keeps.refl _ | with_reducible apply State.runInstr_keeps | with_reducible apply arrayBody_keeps | with_reducible apply ResKeeps.next | with_reducible apply seqRes_bind | with_reducible apply seqRes_ok | with_reducible apply seqRes_error | with_reducible apply ErrKeeps.ok | with_reducible apply State.fetch_err | with_reducible apply State.dest_err | with_reducible apply must_err | with_reducible apply waitFor_err | exact trivial | with_reducible apply SeqResKeeps.done | with_reducible apply SeqResKeeps.hold | (intro v; try dsimp only) | exact State.dispatch_err _ _ _ _ _ (by assumption) | with_reducible apply ResKeeps.ite | with_reducible apply Keeps.ite | split | (intro v; try dsimp only)

theorem execFneg_keeps {z s : State} (p : SeqId) (hk : Keeps z s) : ResKeeps z (execFneg p s) := by
  unfold execFneg
  repeat' first | with_reducible exact hk | with_reducible exact Keeps.refl _ | with_reducible apply State.runInstr_keeps | with_reducible apply arrayBody_keeps | with_reducible apply ResKeeps.next | with_reducible apply seqRes_bind | with_reducible apply seqRes_ok | with_reducible apply seqRes_error | with_reducible apply ErrKeeps.ok | with_reducible apply State.fetch_err | with_reducible apply State.dest_err | with_reducible apply must_err | with_reducible apply waitFor_err | exact trivial | with_reducible apply SeqResKeeps.done | with_reducible apply SeqResKeeps.hold | (intro v; try dsimp only) | exact State.dispatch_err _ _ _ _ _ (by assumption) | with_reducible apply ResKeeps.ite | with_reducible apply Keeps.ite | split | (intro v; try dsimp only)

theorem execFabs_keeps {z s : State} (p : SeqId) (hk : Keeps z s) : ResKeeps z (execFabs p s) := by
  unfold execFabs
  repeat' first | with_reducible exact hk | with_reducible exact Keeps.refl _ | with_reducible apply State.runInstr_keeps | with_reducible apply arrayBody_keeps | with_reducible apply ResKeeps.next | with_reducible apply seqRes_bind | with_reducible apply seqRes_ok | with_reducible apply seqRes_error | with_reducible apply ErrKeeps.ok | with_reducible apply State.fetch_err | with_reducible apply State.dest_err | with_reducible apply must_err | with_reducible apply waitFor_err | exact trivial | with_reducible apply SeqResKeeps.done | with_reducible apply SeqResKeeps.hold | (intro v; try dsimp only) | exact State.dispatch_err _ _ _ _ _ (by assumption) | with_reducible apply ResKeeps.ite | with_reducible apply Keeps.ite | split | (intro v; try dsimp only)

theorem execEclr_keeps {z s : State} (p : SeqId) (hk : Keeps z s) : ResKeeps z (execEclr p s) := by
  unfold execEclr
  repeat' first | with_reducible exact hk | with_reducible exact Keeps.refl _ | with_reducible apply State.runInstr_keeps | with_reducible apply arrayBody_keeps | with_reducible apply ResKeeps.next | with_reducible apply seqRes_bind | with_reducible apply seqRes_ok | with_reducible apply seqRes_error | with_reducible apply ErrKeeps.ok | with_reducible apply State.fetch_err | with_reducible apply State.dest_err | with_reducible apply must_err | with_reducible apply waitFor_err | exact trivial | with_reducible apply SeqResKeeps.done | with_reducible apply SeqResKeeps.hold | (intro v; try dsimp only) | exact State.dispatch_err _ _ _ _ _ (by assumption) | with_reducible apply ResKeeps.ite | with_reducible apply Keeps.ite | split | (intro v; try dsimp only)

end Sys2Proof.Machine
end

