-- ==== Sys2Proof/Laws/KeepsArrayInt.lean ====
section
/-!
SUPPORT. What each operation of Machine/ArrayInt.lean keeps.
-/
namespace Sys2Proof.Machine

theorem execMov_keeps {z s : State} (p : SeqId) (hk : Keeps z s) : ResKeeps z (execMov p s) := by
  unfold execMov
  repeat' first | with_reducible exact hk | with_reducible exact Keeps.refl _ | with_reducible apply State.runInstr_keeps | with_reducible apply arrayBody_keeps | with_reducible apply ResKeeps.next | with_reducible apply seqRes_bind | with_reducible apply seqRes_ok | with_reducible apply seqRes_error | with_reducible apply ErrKeeps.ok | with_reducible apply State.fetch_err | with_reducible apply State.dest_err | with_reducible apply must_err | with_reducible apply waitFor_err | exact trivial | with_reducible apply SeqResKeeps.done | with_reducible apply SeqResKeeps.hold | (intro v; try dsimp only) | exact State.dispatch_err _ _ _ _ _ (by assumption) | with_reducible apply ResKeeps.ite | with_reducible apply Keeps.ite | split | (intro v; try dsimp only)

theorem execExtu_keeps {z s : State} (p : SeqId) (hk : Keeps z s) : ResKeeps z (execExtu p s) := by
  unfold execExtu
  repeat' first | with_reducible exact hk | with_reducible exact Keeps.refl _ | with_reducible apply State.runInstr_keeps | with_reducible apply arrayBody_keeps | with_reducible apply ResKeeps.next | with_reducible apply seqRes_bind | with_reducible apply seqRes_ok | with_reducible apply seqRes_error | with_reducible apply ErrKeeps.ok | with_reducible apply State.fetch_err | with_reducible apply State.dest_err | with_reducible apply must_err | with_reducible apply waitFor_err | exact trivial | with_reducible apply SeqResKeeps.done | with_reducible apply SeqResKeeps.hold | (intro v; try dsimp only) | exact State.dispatch_err _ _ _ _ _ (by assumption) | with_reducible apply ResKeeps.ite | with_reducible apply Keeps.ite | split | (intro v; try dsimp only)

theorem execExts_keeps {z s : State} (p : SeqId) (hk : Keeps z s) : ResKeeps z (execExts p s) := by
  unfold execExts
  repeat' first | with_reducible exact hk | with_reducible exact Keeps.refl _ | with_reducible apply State.runInstr_keeps | with_reducible apply arrayBody_keeps | with_reducible apply ResKeeps.next | with_reducible apply seqRes_bind | with_reducible apply seqRes_ok | with_reducible apply seqRes_error | with_reducible apply ErrKeeps.ok | with_reducible apply State.fetch_err | with_reducible apply State.dest_err | with_reducible apply must_err | with_reducible apply waitFor_err | exact trivial | with_reducible apply SeqResKeeps.done | with_reducible apply SeqResKeeps.hold | (intro v; try dsimp only) | exact State.dispatch_err _ _ _ _ _ (by assumption) | with_reducible apply ResKeeps.ite | with_reducible apply Keeps.ite | split | (intro v; try dsimp only)

theorem execBool_keeps {z s : State} (p : SeqId) (hk : Keeps z s) : ResKeeps z (execBool p s) := by
  unfold execBool
  repeat' first | with_reducible exact hk | with_reducible exact Keeps.refl _ | with_reducible apply State.runInstr_keeps | with_reducible apply arrayBody_keeps | with_reducible apply ResKeeps.next | with_reducible apply seqRes_bind | with_reducible apply seqRes_ok | with_reducible apply seqRes_error | with_reducible apply ErrKeeps.ok | with_reducible apply State.fetch_err | with_reducible apply State.dest_err | with_reducible apply must_err | with_reducible apply waitFor_err | exact trivial | with_reducible apply SeqResKeeps.done | with_reducible apply SeqResKeeps.hold | (intro v; try dsimp only) | exact State.dispatch_err _ _ _ _ _ (by assumption) | with_reducible apply ResKeeps.ite | with_reducible apply Keeps.ite | split | (intro v; try dsimp only)

theorem execAdd_keeps {z s : State} (p : SeqId) (hk : Keeps z s) : ResKeeps z (execAdd p s) := by
  unfold execAdd
  repeat' first | with_reducible exact hk | with_reducible exact Keeps.refl _ | with_reducible apply State.runInstr_keeps | with_reducible apply arrayBody_keeps | with_reducible apply ResKeeps.next | with_reducible apply seqRes_bind | with_reducible apply seqRes_ok | with_reducible apply seqRes_error | with_reducible apply ErrKeeps.ok | with_reducible apply State.fetch_err | with_reducible apply State.dest_err | with_reducible apply must_err | with_reducible apply waitFor_err | exact trivial | with_reducible apply SeqResKeeps.done | with_reducible apply SeqResKeeps.hold | (intro v; try dsimp only) | exact State.dispatch_err _ _ _ _ _ (by assumption) | with_reducible apply ResKeeps.ite | with_reducible apply Keeps.ite | split | (intro v; try dsimp only)

theorem execSub_keeps {z s : State} (p : SeqId) (hk : Keeps z s) : ResKeeps z (execSub p s) := by
  unfold execSub
  repeat' first | with_reducible exact hk | with_reducible exact Keeps.refl _ | with_reducible apply State.runInstr_keeps | with_reducible apply arrayBody_keeps | with_reducible apply ResKeeps.next | with_reducible apply seqRes_bind | with_reducible apply seqRes_ok | with_reducible apply seqRes_error | with_reducible apply ErrKeeps.ok | with_reducible apply State.fetch_err | with_reducible apply State.dest_err | with_reducible apply must_err | with_reducible apply waitFor_err | exact trivial | with_reducible apply SeqResKeeps.done | with_reducible apply SeqResKeeps.hold | (intro v; try dsimp only) | exact State.dispatch_err _ _ _ _ _ (by assumption) | with_reducible apply ResKeeps.ite | with_reducible apply Keeps.ite | split | (intro v; try dsimp only)

theorem execAddv_keeps {z s : State} (p : SeqId) (hk : Keeps z s) : ResKeeps z (execAddv p s) := by
  unfold execAddv
  repeat' first | with_reducible exact hk | with_reducible exact Keeps.refl _ | with_reducible apply State.runInstr_keeps | with_reducible apply arrayBody_keeps | with_reducible apply ResKeeps.next | with_reducible apply seqRes_bind | with_reducible apply seqRes_ok | with_reducible apply seqRes_error | with_reducible apply ErrKeeps.ok | with_reducible apply State.fetch_err | with_reducible apply State.dest_err | with_reducible apply must_err | with_reducible apply waitFor_err | exact trivial | with_reducible apply SeqResKeeps.done | with_reducible apply SeqResKeeps.hold | (intro v; try dsimp only) | exact State.dispatch_err _ _ _ _ _ (by assumption) | with_reducible apply ResKeeps.ite | with_reducible apply Keeps.ite | split | (intro v; try dsimp only)

theorem execSubv_keeps {z s : State} (p : SeqId) (hk : Keeps z s) : ResKeeps z (execSubv p s) := by
  unfold execSubv
  repeat' first | with_reducible exact hk | with_reducible exact Keeps.refl _ | with_reducible apply State.runInstr_keeps | with_reducible apply arrayBody_keeps | with_reducible apply ResKeeps.next | with_reducible apply seqRes_bind | with_reducible apply seqRes_ok | with_reducible apply seqRes_error | with_reducible apply ErrKeeps.ok | with_reducible apply State.fetch_err | with_reducible apply State.dest_err | with_reducible apply must_err | with_reducible apply waitFor_err | exact trivial | with_reducible apply SeqResKeeps.done | with_reducible apply SeqResKeeps.hold | (intro v; try dsimp only) | exact State.dispatch_err _ _ _ _ _ (by assumption) | with_reducible apply ResKeeps.ite | with_reducible apply Keeps.ite | split | (intro v; try dsimp only)

theorem execCmpu_keeps {z s : State} (p : SeqId) (hk : Keeps z s) : ResKeeps z (execCmpu p s) := by
  unfold execCmpu
  repeat' first | with_reducible exact hk | with_reducible exact Keeps.refl _ | with_reducible apply State.runInstr_keeps | with_reducible apply arrayBody_keeps | with_reducible apply ResKeeps.next | with_reducible apply seqRes_bind | with_reducible apply seqRes_ok | with_reducible apply seqRes_error | with_reducible apply ErrKeeps.ok | with_reducible apply State.fetch_err | with_reducible apply State.dest_err | with_reducible apply must_err | with_reducible apply waitFor_err | exact trivial | with_reducible apply SeqResKeeps.done | with_reducible apply SeqResKeeps.hold | (intro v; try dsimp only) | exact State.dispatch_err _ _ _ _ _ (by assumption) | with_reducible apply ResKeeps.ite | with_reducible apply Keeps.ite | split | (intro v; try dsimp only)

theorem execCmps_keeps {z s : State} (p : SeqId) (hk : Keeps z s) : ResKeeps z (execCmps p s) := by
  unfold execCmps
  repeat' first | with_reducible exact hk | with_reducible exact Keeps.refl _ | with_reducible apply State.runInstr_keeps | with_reducible apply arrayBody_keeps | with_reducible apply ResKeeps.next | with_reducible apply seqRes_bind | with_reducible apply seqRes_ok | with_reducible apply seqRes_error | with_reducible apply ErrKeeps.ok | with_reducible apply State.fetch_err | with_reducible apply State.dest_err | with_reducible apply must_err | with_reducible apply waitFor_err | exact trivial | with_reducible apply SeqResKeeps.done | with_reducible apply SeqResKeeps.hold | (intro v; try dsimp only) | exact State.dispatch_err _ _ _ _ _ (by assumption) | with_reducible apply ResKeeps.ite | with_reducible apply Keeps.ite | split | (intro v; try dsimp only)

theorem execShl_keeps {z s : State} (p : SeqId) (hk : Keeps z s) : ResKeeps z (execShl p s) := by
  unfold execShl
  repeat' first | with_reducible exact hk | with_reducible exact Keeps.refl _ | with_reducible apply State.runInstr_keeps | with_reducible apply arrayBody_keeps | with_reducible apply ResKeeps.next | with_reducible apply seqRes_bind | with_reducible apply seqRes_ok | with_reducible apply seqRes_error | with_reducible apply ErrKeeps.ok | with_reducible apply State.fetch_err | with_reducible apply State.dest_err | with_reducible apply must_err | with_reducible apply waitFor_err | exact trivial | with_reducible apply SeqResKeeps.done | with_reducible apply SeqResKeeps.hold | (intro v; try dsimp only) | exact State.dispatch_err _ _ _ _ _ (by assumption) | with_reducible apply ResKeeps.ite | with_reducible apply Keeps.ite | split | (intro v; try dsimp only)

theorem execShru_keeps {z s : State} (p : SeqId) (hk : Keeps z s) : ResKeeps z (execShru p s) := by
  unfold execShru
  repeat' first | with_reducible exact hk | with_reducible exact Keeps.refl _ | with_reducible apply State.runInstr_keeps | with_reducible apply arrayBody_keeps | with_reducible apply ResKeeps.next | with_reducible apply seqRes_bind | with_reducible apply seqRes_ok | with_reducible apply seqRes_error | with_reducible apply ErrKeeps.ok | with_reducible apply State.fetch_err | with_reducible apply State.dest_err | with_reducible apply must_err | with_reducible apply waitFor_err | exact trivial | with_reducible apply SeqResKeeps.done | with_reducible apply SeqResKeeps.hold | (intro v; try dsimp only) | exact State.dispatch_err _ _ _ _ _ (by assumption) | with_reducible apply ResKeeps.ite | with_reducible apply Keeps.ite | split | (intro v; try dsimp only)

theorem execShrs_keeps {z s : State} (p : SeqId) (hk : Keeps z s) : ResKeeps z (execShrs p s) := by
  unfold execShrs
  repeat' first | with_reducible exact hk | with_reducible exact Keeps.refl _ | with_reducible apply State.runInstr_keeps | with_reducible apply arrayBody_keeps | with_reducible apply ResKeeps.next | with_reducible apply seqRes_bind | with_reducible apply seqRes_ok | with_reducible apply seqRes_error | with_reducible apply ErrKeeps.ok | with_reducible apply State.fetch_err | with_reducible apply State.dest_err | with_reducible apply must_err | with_reducible apply waitFor_err | exact trivial | with_reducible apply SeqResKeeps.done | with_reducible apply SeqResKeeps.hold | (intro v; try dsimp only) | exact State.dispatch_err _ _ _ _ _ (by assumption) | with_reducible apply ResKeeps.ite | with_reducible apply Keeps.ite | split | (intro v; try dsimp only)

theorem execMulu_keeps {z s : State} (p : SeqId) (hk : Keeps z s) : ResKeeps z (execMulu p s) := by
  unfold execMulu
  repeat' first | with_reducible exact hk | with_reducible exact Keeps.refl _ | with_reducible apply State.runInstr_keeps | with_reducible apply arrayBody_keeps | with_reducible apply ResKeeps.next | with_reducible apply seqRes_bind | with_reducible apply seqRes_ok | with_reducible apply seqRes_error | with_reducible apply ErrKeeps.ok | with_reducible apply State.fetch_err | with_reducible apply State.dest_err | with_reducible apply must_err | with_reducible apply waitFor_err | exact trivial | with_reducible apply SeqResKeeps.done | with_reducible apply SeqResKeeps.hold | (intro v; try dsimp only) | exact State.dispatch_err _ _ _ _ _ (by assumption) | with_reducible apply ResKeeps.ite | with_reducible apply Keeps.ite | split | (intro v; try dsimp only)

theorem execMuls_keeps {z s : State} (p : SeqId) (hk : Keeps z s) : ResKeeps z (execMuls p s) := by
  unfold execMuls
  repeat' first | with_reducible exact hk | with_reducible exact Keeps.refl _ | with_reducible apply State.runInstr_keeps | with_reducible apply arrayBody_keeps | with_reducible apply ResKeeps.next | with_reducible apply seqRes_bind | with_reducible apply seqRes_ok | with_reducible apply seqRes_error | with_reducible apply ErrKeeps.ok | with_reducible apply State.fetch_err | with_reducible apply State.dest_err | with_reducible apply must_err | with_reducible apply waitFor_err | exact trivial | with_reducible apply SeqResKeeps.done | with_reducible apply SeqResKeeps.hold | (intro v; try dsimp only) | exact State.dispatch_err _ _ _ _ _ (by assumption) | with_reducible apply ResKeeps.ite | with_reducible apply Keeps.ite | split | (intro v; try dsimp only)

theorem execDivu_keeps {z s : State} (p : SeqId) (hk : Keeps z s) : ResKeeps z (execDivu p s) := by
  unfold execDivu
  repeat' first | with_reducible exact hk | with_reducible exact Keeps.refl _ | with_reducible apply State.runInstr_keeps | with_reducible apply arrayBody_keeps | with_reducible apply ResKeeps.next | with_reducible apply seqRes_bind | with_reducible apply seqRes_ok | with_reducible apply seqRes_error | with_reducible apply ErrKeeps.ok | with_reducible apply State.fetch_err | with_reducible apply State.dest_err | with_reducible apply must_err | with_reducible apply waitFor_err | exact trivial | with_reducible apply SeqResKeeps.done | with_reducible apply SeqResKeeps.hold | (intro v; try dsimp only) | exact State.dispatch_err _ _ _ _ _ (by assumption) | with_reducible apply ResKeeps.ite | with_reducible apply Keeps.ite | split | (intro v; try dsimp only)

theorem execDivs_keeps {z s : State} (p : SeqId) (hk : Keeps z s) : ResKeeps z (execDivs p s) := by
  unfold execDivs
  repeat' first | with_reducible exact hk | with_reducible exact Keeps.refl _ | with_reducible apply State.runInstr_keeps | with_reducible apply arrayBody_keeps | with_reducible apply ResKeeps.next | with_reducible apply seqRes_bind | with_reducible apply seqRes_ok | with_reducible apply seqRes_error | with_reducible apply ErrKeeps.ok | with_reducible apply State.fetch_err | with_reducible apply State.dest_err | with_reducible apply must_err | with_reducible apply waitFor_err | exact trivial | with_reducible apply SeqResKeeps.done | with_reducible apply SeqResKeeps.hold | (intro v; try dsimp only) | exact State.dispatch_err _ _ _ _ _ (by assumption) | with_reducible apply ResKeeps.ite | with_reducible apply Keeps.ite | split | (intro v; try dsimp only)

theorem execFset_keeps {z s : State} (p : SeqId) (hk : Keeps z s) : ResKeeps z (execFset p s) := by
  unfold execFset
  repeat' first | with_reducible exact hk | with_reducible exact Keeps.refl _ | with_reducible apply State.runInstr_keeps | with_reducible apply arrayBody_keeps | with_reducible apply ResKeeps.next | with_reducible apply seqRes_bind | with_reducible apply seqRes_ok | with_reducible apply seqRes_error | with_reducible apply ErrKeeps.ok | with_reducible apply State.fetch_err | with_reducible apply State.dest_err | with_reducible apply must_err | with_reducible apply waitFor_err | exact trivial | with_reducible apply SeqResKeeps.done | with_reducible apply SeqResKeeps.hold | (intro v; try dsimp only) | exact State.dispatch_err _ _ _ _ _ (by assumption) | with_reducible apply ResKeeps.ite | with_reducible apply Keeps.ite | split | (intro v; try dsimp only)

theorem execSprd_keeps {z s : State} (p : SeqId) (hk : Keeps z s) : ResKeeps z (execSprd p s) := by
  unfold execSprd
  repeat' first | with_reducible exact hk | with_reducible exact Keeps.refl _ | with_reducible apply State.runInstr_keeps | with_reducible apply arrayBody_keeps | with_reducible apply ResKeeps.next | with_reducible apply seqRes_bind | with_reducible apply seqRes_ok | with_reducible apply seqRes_error | with_reducible apply ErrKeeps.ok | with_reducible apply State.fetch_err | with_reducible apply State.dest_err | with_reducible apply must_err | with_reducible apply waitFor_err | exact trivial | with_reducible apply SeqResKeeps.done | with_reducible apply SeqResKeeps.hold | (intro v; try dsimp only) | exact State.dispatch_err _ _ _ _ _ (by assumption) | with_reducible apply ResKeeps.ite | with_reducible apply Keeps.ite | split | (intro v; try dsimp only)

theorem execIdle_keeps {z s : State} (p : SeqId) (hk : Keeps z s) : ResKeeps z (execIdle p s) := by
  unfold execIdle
  repeat' first | with_reducible exact hk | with_reducible exact Keeps.refl _ | with_reducible apply State.runInstr_keeps | with_reducible apply arrayBody_keeps | with_reducible apply ResKeeps.next | with_reducible apply seqRes_bind | with_reducible apply seqRes_ok | with_reducible apply seqRes_error | with_reducible apply ErrKeeps.ok | with_reducible apply State.fetch_err | with_reducible apply State.dest_err | with_reducible apply must_err | with_reducible apply waitFor_err | exact trivial | with_reducible apply SeqResKeeps.done | with_reducible apply SeqResKeeps.hold | (intro v; try dsimp only) | exact State.dispatch_err _ _ _ _ _ (by assumption) | with_reducible apply ResKeeps.ite | with_reducible apply Keeps.ite | split | (intro v; try dsimp only)

end Sys2Proof.Machine
end

