-- ==== Sys2Proof/Laws/KeepsContainer.lean ====
section
/-!
SUPPORT. What each operation of Machine/Container.lean keeps.
-/
namespace Sys2Proof.Machine

theorem State.setSifHash_keeps {z s : State} (bs : List Byte) (hk : Keeps z s) : Keeps z (State.setSifHash s bs) := by
  unfold State.setSifHash
  with_reducible repeat' first | exact hk | exact Keeps.refl _ | apply State.set_keeps | (apply State.each_keeps; intro i t; try dsimp only) | apply Keeps.ite | split | (intro v; try dsimp only)

end Sys2Proof.Machine
end

