-- ==== Sys2Proof/Laws/KeepsMesh.lean ====
section
/-!
SUPPORT. What each operation of Machine/Mesh.lean keeps.
-/
namespace Sys2Proof.Machine

theorem State.inject_keeps {z s : State} (k : Packet) (hk : Keeps z s) : Keeps z (State.inject s k) := by
  unfold State.inject
  try dsimp only
  repeat' first | with_reducible exact hk | with_reducible exact Keeps.refl _ | with_reducible apply State.enter_keeps | with_reducible apply Keeps.ite | split | with_reducible apply Keeps.fields | (intro v; try dsimp only)

theorem State.injectAtGateway_keeps {z s : State} (k : Packet) (hk : Keeps z s) : Keeps z (State.injectAtGateway s k) := by
  unfold State.injectAtGateway
  try dsimp only
  repeat' first | with_reducible exact hk | with_reducible exact Keeps.refl _ | with_reducible apply State.inject_keeps | with_reducible apply Keeps.ite | split | with_reducible apply Keeps.fields | (intro v; try dsimp only)

theorem State.injectRead_keeps {z s : State} (k : Packet) (n : Nat) (hk : Keeps z s) : Keeps z (State.injectRead s k n) := by
  unfold State.injectRead
  try dsimp only
  repeat' first | with_reducible exact hk | with_reducible exact Keeps.refl _ | with_reducible apply State.inject_keeps | with_reducible apply Keeps.ite | split | with_reducible apply Keeps.fields | (intro v; try dsimp only)

theorem State.consume_keeps {z s : State} (k : Packet) (hk : Keeps z s) : Keeps z (State.consume s k) := by
  unfold State.consume
  try dsimp only
  repeat' first | with_reducible exact hk | with_reducible exact Keeps.refl _ | with_reducible apply Keeps.ite | split | with_reducible apply Keeps.fields | (intro v; try dsimp only)

theorem State.answerErr_keeps {z s : State} (k : Packet) (code : Nat) (hk : Keeps z s) : Keeps z (State.answerErr s k code) := by
  unfold State.answerErr
  with_reducible repeat' first | exact hk | exact Keeps.refl _ | apply State.inject_keeps | apply Keeps.ite | split | (intro v; try dsimp only)

theorem State.fabricAnswer_keeps {z s : State} (k : Packet) (cmd code : Nat) (hk : Keeps z s) : Keeps z (State.fabricAnswer s k cmd code) := by
  unfold State.fabricAnswer
  try dsimp only
  repeat' first | with_reducible exact hk | with_reducible exact Keeps.refl _ | with_reducible apply State.inject_keeps | with_reducible apply Keeps.ite | split | with_reducible apply Keeps.fields | (intro v; try dsimp only)

theorem State.answerLost_keeps {z s : State} (k : Packet) (code : Nat) (hk : Keeps z s) : Keeps z (State.answerLost s k code) := by
  unfold State.answerLost
  with_reducible repeat' first | exact hk | exact Keeps.refl _ | apply State.inject_keeps | apply Keeps.ite | split | (intro v; try dsimp only)

theorem State.meshErr_keeps {z s : State} (kind tile port : Nat) (hk : Keeps z s) : Keeps z (State.meshErr s kind tile port) := by
  unfold State.meshErr
  try dsimp only
  with_reducible repeat' first | exact hk | exact Keeps.refl _ | apply State.set_keeps | apply State.raise_keeps | apply Keeps.ite | split | (intro v; try dsimp only)

theorem State.arrive_keeps {z s : State} (k : Packet) (cls cmd : Nat) (body : State → State) (hb : ∀ t, Keeps t (body t)) (hk : Keeps z s) : Keeps z (State.arrive s k cls cmd body) := by
  unfold State.arrive
  try dsimp only
  repeat' first | with_reducible exact hk | with_reducible exact Keeps.refl _ | with_reducible apply State.count_keeps | with_reducible apply State.carry_keeps | with_reducible apply State.settleFlits_keeps | with_reducible apply State.answerErr_keeps | with_reducible apply State.meshErr_keeps | with_reducible apply Keeps.ite | refine Keeps.trans ?_ (hb _) | split | with_reducible apply Keeps.fields | (intro v; try dsimp only)

theorem State.writeFlits_keeps {z s : State} (k : Packet) (n : Nat) (hk : Keeps z s) : Keeps z (State.writeFlits s k n) := by
  unfold State.writeFlits
  with_reducible repeat' first | exact hk | exact Keeps.refl _ | apply State.putRow_keeps | (apply Keeps.foldl; intro t x; try dsimp only) | (apply Keeps.foldl_fst; intro t x; try dsimp only) | apply Keeps.ite | split | (intro v; try dsimp only)

theorem State.keepFlits_keeps {z s : State} (k : Packet) (hk : Keeps z s) : Keeps z (State.keepFlits s k) := by
  unfold State.keepFlits
  try dsimp only
  repeat' first | with_reducible exact hk | with_reducible exact Keeps.refl _ | (with_reducible apply Keeps.foldl; intro t x; try dsimp only) | (with_reducible apply Keeps.foldl_fst; intro t x; try dsimp only) | with_reducible apply Keeps.ite | split | with_reducible apply Keeps.fields | (intro v; try dsimp only)

theorem State.onRead_keeps {z s : State} (k : Packet) (hk : Keeps z s) : Keeps z (State.onRead s k) := by
  unfold State.onRead
  with_reducible repeat' first | exact hk | exact Keeps.refl _ | apply State.useFree_keeps | apply State.wakeTurf_keeps | apply State.inject_keeps | apply State.injectRead_keeps | apply State.arrive_keeps | apply Keeps.ite | split | (intro v; try dsimp only)

theorem execRead_keeps {z s : State} (k : Packet) (hk : Keeps z s) : ResKeeps z (execRead k s) := by
  unfold execRead
  with_reducible repeat' first | exact hk | exact Keeps.refl _ | apply State.onRead_keeps | apply ResKeeps.next | apply ResKeeps.ite | apply Keeps.ite | split | (intro v; try dsimp only)

theorem State.takeData_keeps {z s : State} (k : Packet) (hk : Keeps z s) : Keeps z (State.takeData s k) := by
  unfold State.takeData
  with_reducible repeat' first | exact hk | exact Keeps.refl _ | apply State.writeFlits_keeps | apply State.keepFlits_keeps | apply Keeps.ite | split | (intro v; try dsimp only)

theorem State.onWrite_keeps {z s : State} (k : Packet) (hk : Keeps z s) : Keeps z (State.onWrite s k) := by
  unfold State.onWrite
  with_reducible repeat' first | exact hk | exact Keeps.refl _ | apply State.inject_keeps | apply State.arrive_keeps | apply State.takeData_keeps | apply Keeps.ite | split | (intro v; try dsimp only)

theorem execWrite_keeps {z s : State} (k : Packet) (hk : Keeps z s) : ResKeeps z (execWrite k s) := by
  unfold execWrite
  with_reducible repeat' first | exact hk | exact Keeps.refl _ | apply State.onWrite_keeps | apply ResKeeps.next | apply ResKeeps.ite | apply Keeps.ite | split | (intro v; try dsimp only)

theorem State.onSdata_keeps {z s : State} (k : Packet) (hk : Keeps z s) : Keeps z (State.onSdata s k) := by
  unfold State.onSdata
  with_reducible repeat' first | exact hk | exact Keeps.refl _ | apply State.arrive_keeps | apply State.takeData_keeps | apply Keeps.ite | split | (intro v; try dsimp only)

theorem execSdata_keeps {z s : State} (k : Packet) (hk : Keeps z s) : ResKeeps z (execSdata k s) := by
  unfold execSdata
  with_reducible repeat' first | exact hk | exact Keeps.refl _ | apply State.onSdata_keeps | apply ResKeeps.next | apply ResKeeps.ite | apply Keeps.ite | split | (intro v; try dsimp only)

theorem State.putTransfer_keeps {z s : State} (e : Nat) (x : Transfer) (hk : Keeps z s) : Keeps z (State.putTransfer s e x) := by
  unfold State.putTransfer
  with_reducible repeat' first | exact hk | exact Keeps.refl _ | apply State.setStg_keeps | apply Keeps.ite | split | (intro v; try dsimp only)

theorem State.engineReturn_keeps {z s : State} (k : Packet) (bad : Bool) (hk : Keeps z s) : Keeps z (State.engineReturn s k bad) := by
  unfold State.engineReturn
  try dsimp only
  repeat' first | with_reducible exact hk | with_reducible exact Keeps.refl _ | with_reducible apply State.putTransfer_keeps | (with_reducible apply Keeps.foldl; intro t x; try dsimp only) | (with_reducible apply Keeps.foldl_fst; intro t x; try dsimp only) | with_reducible apply Keeps.ite | split | with_reducible apply Keeps.fields | with_reducible apply Keeps.upd | exact List.prefix_rfl | exact Nat.le_refl _ | exact id | exact fun w => SMap.wf_put _ _ w | exact fun w => SMap.wf_update _ _ w | exact fun w => SMap.wf_filter _ w | exact fun w => wf_writeBytes _ _ w | exact fun _ => rfl | exact fun w => SMap.wf_map_filter (fun e => by split <;> rfl) w | (intro v; try dsimp only)

theorem State.arm_keeps {z s : State} (k : Packet) (hk : Keeps z s) : Keeps z (State.arm s k) := by
  unfold State.arm
  try dsimp only
  repeat' first | with_reducible exact hk | with_reducible exact Keeps.refl _ | with_reducible apply State.putTransfer_keeps | with_reducible apply Keeps.ite | split | with_reducible apply Keeps.fields | with_reducible apply Keeps.upd | exact List.prefix_rfl | exact Nat.le_refl _ | exact id | exact fun w => SMap.wf_put _ _ w | exact fun w => SMap.wf_update _ _ w | exact fun w => SMap.wf_filter _ w | exact fun w => wf_writeBytes _ _ w | exact fun _ => rfl | exact fun w => SMap.wf_map_filter (fun e => by split <;> rfl) w | (intro v; try dsimp only)

theorem State.gatewayReturn_keeps {z s : State} (k : Packet) (hk : Keeps z s) : Keeps z (State.gatewayReturn s k) := by
  unfold State.gatewayReturn
  try dsimp only
  repeat' first | with_reducible exact hk | with_reducible exact Keeps.refl _ | with_reducible apply Keeps.ite | split | with_reducible apply Keeps.fields | with_reducible apply Keeps.upd | exact List.prefix_rfl | exact Nat.le_refl _ | exact id | exact fun w => SMap.wf_put _ _ w | exact fun w => SMap.wf_update _ _ w | exact fun w => SMap.wf_filter _ w | exact fun w => wf_writeBytes _ _ w | exact fun _ => rfl | exact fun w => SMap.wf_map_filter (fun e => by split <;> rfl) w | (intro v; try dsimp only)

theorem State.takeResponse_keeps {z s : State} (k : Packet) (hk : Keeps z s) : Keeps z (State.takeResponse s k) := by
  unfold State.takeResponse
  with_reducible repeat' first | exact hk | exact Keeps.refl _ | apply State.consume_keeps | apply State.engineReturn_keeps | apply State.gatewayReturn_keeps | apply Keeps.ite | split | (intro v; try dsimp only)

theorem State.onRdata_keeps {z s : State} (k : Packet) (hk : Keeps z s) : Keeps z (State.onRdata s k) := by
  unfold State.onRdata
  with_reducible repeat' first | exact hk | exact Keeps.refl _ | apply State.arrive_keeps | apply State.takeResponse_keeps | apply Keeps.ite | split | (intro v; try dsimp only)

theorem execRdata_keeps {z s : State} (k : Packet) (hk : Keeps z s) : ResKeeps z (execRdata k s) := by
  unfold execRdata
  with_reducible repeat' first | exact hk | exact Keeps.refl _ | apply State.onRdata_keeps | apply ResKeeps.next | apply ResKeeps.ite | apply Keeps.ite | split | (intro v; try dsimp only)

theorem State.onWack_keeps {z s : State} (k : Packet) (hk : Keeps z s) : Keeps z (State.onWack s k) := by
  unfold State.onWack
  with_reducible repeat' first | exact hk | exact Keeps.refl _ | apply State.arrive_keeps | apply State.takeResponse_keeps | apply Keeps.ite | split | (intro v; try dsimp only)

theorem execWack_keeps {z s : State} (k : Packet) (hk : Keeps z s) : ResKeeps z (execWack k s) := by
  unfold execWack
  with_reducible repeat' first | exact hk | exact Keeps.refl _ | apply State.onWack_keeps | apply ResKeeps.next | apply ResKeeps.ite | apply Keeps.ite | split | (intro v; try dsimp only)

theorem State.onErr_keeps {z s : State} (k : Packet) (hk : Keeps z s) : Keeps z (State.onErr s k) := by
  unfold State.onErr
  with_reducible repeat' first | exact hk | exact Keeps.refl _ | apply State.arrive_keeps | apply State.takeResponse_keeps | apply Keeps.ite | split | (intro v; try dsimp only)

theorem execErr_keeps {z s : State} (k : Packet) (hk : Keeps z s) : ResKeeps z (execErr k s) := by
  unfold execErr
  with_reducible repeat' first | exact hk | exact Keeps.refl _ | apply State.onErr_keeps | apply ResKeeps.next | apply ResKeeps.ite | apply Keeps.ite | split | (intro v; try dsimp only)

theorem State.onPing_keeps {z s : State} (k : Packet) (hk : Keeps z s) : Keeps z (State.onPing s k) := by
  unfold State.onPing
  with_reducible repeat' first | exact hk | exact Keeps.refl _ | apply State.inject_keeps | apply State.arrive_keeps | apply Keeps.ite | split | (intro v; try dsimp only)

theorem execPing_keeps {z s : State} (k : Packet) (hk : Keeps z s) : ResKeeps z (execPing k s) := by
  unfold execPing
  with_reducible repeat' first | exact hk | exact Keeps.refl _ | apply State.onPing_keeps | apply ResKeeps.next | apply ResKeeps.ite | apply Keeps.ite | split | (intro v; try dsimp only)

theorem State.onMread_keeps {z s : State} (k : Packet) (hk : Keeps z s) : Keeps z (State.onMread s k) := by
  unfold State.onMread
  with_reducible repeat' first | exact hk | exact Keeps.refl _ | apply State.useFree_keeps | apply State.inject_keeps | apply State.arrive_keeps | apply Keeps.ite | split | (intro v; try dsimp only)

theorem execMread_keeps {z s : State} (k : Packet) (hk : Keeps z s) : ResKeeps z (execMread k s) := by
  unfold execMread
  with_reducible repeat' first | exact hk | exact Keeps.refl _ | apply State.onMread_keeps | apply ResKeeps.next | apply ResKeeps.ite | apply Keeps.ite | split | (intro v; try dsimp only)

theorem State.onMwrite_keeps {z s : State} (k : Packet) (hk : Keeps z s) : Keeps z (State.onMwrite s k) := by
  unfold State.onMwrite
  with_reducible repeat' first | exact hk | exact Keeps.refl _ | apply State.inject_keeps | apply State.arrive_keeps | apply State.keepFlits_keeps | apply State.arm_keeps | apply Keeps.ite | split | (intro v; try dsimp only)

theorem execMwrite_keeps {z s : State} (k : Packet) (hk : Keeps z s) : ResKeeps z (execMwrite k s) := by
  unfold execMwrite
  with_reducible repeat' first | exact hk | exact Keeps.refl _ | apply State.onMwrite_keeps | apply ResKeeps.next | apply ResKeeps.ite | apply Keeps.ite | split | (intro v; try dsimp only)

theorem State.onBadcmd_keeps {z s : State} (k : Packet) (hk : Keeps z s) : Keeps z (State.onBadcmd s k) := by
  unfold State.onBadcmd
  with_reducible repeat' first | exact hk | exact Keeps.refl _ | apply State.count_keeps | apply State.answerErr_keeps | apply State.meshErr_keeps | apply State.arrive_keeps | apply Keeps.ite | split | (intro v; try dsimp only)

theorem execBadcmd_keeps {z s : State} (k : Packet) (hk : Keeps z s) : ResKeeps z (execBadcmd k s) := by
  unfold execBadcmd
  with_reducible repeat' first | exact hk | exact Keeps.refl _ | apply State.onBadcmd_keeps | apply ResKeeps.next | apply ResKeeps.ite | apply Keeps.ite | split | (intro v; try dsimp only)

theorem State.deliver_keeps {z s : State} (k : Packet) (hk : Keeps z s) : Keeps z (s.deliver k) := by
  unfold State.deliver
  split
  · exact State.onRead_keeps k hk
  · exact State.onWrite_keeps k hk
  · exact State.onRdata_keeps k hk
  · exact State.onWack_keeps k hk
  · exact State.onErr_keeps k hk
  · exact State.onSdata_keeps k hk
  · exact State.onPing_keeps k hk
  · exact State.onMread_keeps k hk
  · exact State.onMwrite_keeps k hk
  · exact State.arrive_keeps k 3 0xC8 _ (fun t => Keeps.refl t) hk
  · exact State.onBadcmd_keeps k hk

theorem State.clearWay_keeps {z : State} (k : Packet) : ∀ (n : Nat) {s : State}, Keeps z s → Keeps z (State.clearWay k n s)
  | 0, _, hk => hk
  | n + 1, s, hk => by
    unfold State.clearWay
    split
    · exact State.clearWay_keeps k n (State.deliver_keeps _ hk)
    · exact hk

theorem State.ask_keeps {z s : State} (k : Packet) (hk : Keeps z s) : Keeps z (State.ask s k).1 := by
  unfold State.ask
  try dsimp only
  repeat' first | with_reducible exact hk | with_reducible exact Keeps.refl _ | with_reducible apply State.carry_keeps | with_reducible apply State.settleFlits_keeps | with_reducible apply State.inject_keeps | with_reducible apply State.consume_keeps | with_reducible apply State.deliver_keeps | with_reducible apply State.clearWay_keeps | with_reducible apply Keeps.ite | with_reducible apply Keeps.ite | split | with_reducible apply Keeps.fields | with_reducible apply Keeps.upd | exact List.prefix_rfl | exact Nat.le_refl _ | exact id | exact fun w => SMap.wf_put _ _ w | exact fun w => SMap.wf_update _ _ w | exact fun w => SMap.wf_filter _ w | exact fun w => wf_writeBytes _ _ w | exact fun _ => rfl | exact fun w => SMap.wf_map_filter (fun e => by split <;> rfl) w | (intro v; try dsimp only)

theorem State.fetchRows_keeps {z : State} (o : Origin) (tile bit row : Nat) : ∀ (n rows g : Nat) {s : State}, Keeps z s →
    Keeps z (State.fetchRows o tile bit row n rows g s).1
  | 0, _, _, _, hk => hk
  | n + 1, rows, g, s, hk => by
    unfold State.fetchRows
    dsimp only
    split
    · exact hk
    · exact State.fetchRows_keeps o tile bit row n _ _ (State.ask_keeps _ hk)

theorem State.storeRows_keeps {z : State} (o : Origin) (tile bit row : Nat) : ∀ (n : Nat) (rows : List W64) (g : Nat) {s : State}, Keeps z s →
    Keeps z (State.storeRows o tile bit row n rows g s)
  | 0, _, _, _, hk => hk
  | n + 1, rows, g, s, hk => by
    unfold State.storeRows
    refine Keeps.ite hk ?_
    dsimp only
    refine State.storeRows_keeps o tile bit row n _ _ (State.ask_keeps _ ?_)
    split
    · exact hk
    · exact State.fetchRows_keeps o tile bit row _ _ _ hk

theorem State.goodFlits_keeps {z s : State} (k : Packet) (n : Nat) (hk : Keeps z s) : Keeps z (State.goodFlits s k n) := by
  unfold State.goodFlits
  try dsimp only
  with_reducible repeat' first | exact hk | exact Keeps.refl _ | apply State.writeFlits_keeps | apply State.keepFlits_keeps | apply State.engineReturn_keeps | apply Keeps.ite | split | (intro v; try dsimp only)

theorem execPoisonedFlit_keeps {z s : State} (k0 : Packet) (tile : TileId) (port : Fin 8) (crc header : Bool) (hk : Keeps z s) : ResKeeps z (execPoisonedFlit k0 tile port crc header s) := by
  unfold execPoisonedFlit
  try dsimp only
  repeat' first | with_reducible exact hk | with_reducible exact Keeps.refl _ | with_reducible apply State.useFree_keeps | with_reducible apply State.detectAll_keeps | with_reducible apply State.carry_keeps | with_reducible apply State.settleFlits_keeps | with_reducible apply State.answerErr_keeps | with_reducible apply State.meshErr_keeps | with_reducible apply State.goodFlits_keeps | with_reducible apply ResKeeps.next | with_reducible apply ResKeeps.ite | with_reducible apply Keeps.ite | split | with_reducible apply Keeps.fields | with_reducible apply Keeps.upd | exact List.prefix_rfl | exact Nat.le_refl _ | exact id | exact fun w => SMap.wf_put _ _ w | exact fun w => SMap.wf_update _ _ w | exact fun w => SMap.wf_filter _ w | exact fun w => wf_writeBytes _ _ w | exact fun _ => rfl | exact fun w => SMap.wf_map_filter (fun e => by split <;> rfl) w | (intro v; try dsimp only)

end Sys2Proof.Machine
end

