-- ==== Sys2Proof/Laws/KeepsFences.lean ====
section
/-!
SUPPORT. What each operation of Machine/Fences.lean keeps.
-/
namespace Sys2Proof.Machine

theorem State.showFence_keeps {z s : State} (d : Nat) (hk : Keeps z s) : Keeps z (State.showFence s d) := by
  unfold State.showFence
  with_reducible repeat' first | exact hk | exact Keeps.refl _ | apply State.set_keeps | apply Keeps.ite | split | (intro v; try dsimp only)

theorem State.holdFence_keeps {z s : State} (d : Nat) (f : Fence → Fence) (hk : Keeps z s) : Keeps z (State.holdFence s d f) := by
  unfold State.holdFence
  try dsimp only
  with_reducible repeat' first | exact hk | exact Keeps.refl _ | apply State.set_keeps | apply State.setFence_keeps | apply State.pickStep_keeps | apply State.showFence_keeps | apply Keeps.ite | split | (intro v; try dsimp only)

theorem State.releaseFence_keeps {z s : State} (d : Nat) (f : Fence → Fence) (hk : Keeps z s) : Keeps z (State.releaseFence s d f) := by
  unfold State.releaseFence
  try dsimp only
  with_reducible repeat' first | exact hk | exact Keeps.refl _ | apply State.set_keeps | apply State.setFence_keeps | apply State.showFence_keeps | apply Keeps.ite | split | (intro v; try dsimp only)

theorem execFenceRequest_keeps {z s : State} (d : Fin 88) (hk : Keeps z s) : ResKeeps z (execFenceRequest d s) := by
  unfold execFenceRequest
  try dsimp only
  repeat' first | with_reducible exact hk | with_reducible exact Keeps.refl _ | with_reducible apply State.holdFence_keeps | with_reducible apply ResKeeps.next | with_reducible apply ResKeeps.ite | with_reducible apply Keeps.ite | split | with_reducible apply Keeps.fields | (intro v; try dsimp only)

theorem execFenceStopComplete_keeps {z s : State} (d : Fin 88) (hk : Keeps z s) : ResKeeps z (execFenceStopComplete d s) := by
  unfold execFenceStopComplete
  try dsimp only
  with_reducible repeat' first | exact hk | exact Keeps.refl _ | apply State.set_keeps | apply State.pickStep_keeps | apply ResKeeps.next | apply ResKeeps.ite | apply Keeps.ite | split | (intro v; try dsimp only)

theorem State.edgeFenced_keeps {z s : State}  (hk : Keeps z s) : Keeps z (State.edgeFenced s) := by
  unfold State.edgeFenced
  try dsimp only
  repeat' first | with_reducible exact hk | with_reducible exact Keeps.refl _ | with_reducible apply State.set_keeps | with_reducible apply State.edgeState_keeps | with_reducible apply Keeps.ite | split | with_reducible apply Keeps.fields | (intro v; try dsimp only)

theorem State.enterFenced_keeps {z s : State} (d : Nat) (hk : Keeps z s) : Keeps z (State.enterFenced s d) := by
  unfold State.enterFenced
  try dsimp only
  with_reducible repeat' first | exact hk | exact Keeps.refl _ | apply State.set_keeps | apply State.raise_keeps | apply State.edgeFenced_keeps | apply Keeps.ite | split | (intro v; try dsimp only)

theorem execFenceDrainComplete_keeps {z s : State} (d : Fin 88) (hk : Keeps z s) : ResKeeps z (execFenceDrainComplete d s) := by
  unfold execFenceDrainComplete
  try dsimp only
  with_reducible repeat' first | exact hk | exact Keeps.refl _ | apply State.meshBeat_keeps | apply State.enterFenced_keeps | apply ResKeeps.next | apply ResKeeps.ite | apply Keeps.ite | split | (intro v; try dsimp only)

theorem State.switchOff_keeps {z s : State} (t : Nat) (hk : Keeps z s) : Keeps z (State.switchOff s t) := by
  unfold State.switchOff
  try dsimp only
  repeat' first | with_reducible exact hk | with_reducible exact Keeps.refl _ | with_reducible apply Keeps.ite | split | with_reducible apply Keeps.fields | with_reducible apply Keeps.upd | exact List.prefix_rfl | exact Nat.le_refl _ | exact id | exact fun w => SMap.wf_put _ _ w | exact fun w => SMap.wf_update _ _ w | exact fun w => SMap.wf_filter _ w | exact fun w => wf_writeBytes _ _ w | exact fun _ => rfl | exact fun w => SMap.wf_map_filter (fun e => by split <;> rfl) w | (intro v; try dsimp only)

theorem State.switchOn_keeps {z s : State} (t : Nat) (hk : Keeps z s) : Keeps z (State.switchOn s t) := by
  unfold State.switchOn
  with_reducible repeat' first | exact hk | exact Keeps.refl _ | apply State.set_keeps | apply Keeps.ite | split | (intro v; try dsimp only)

theorem execFenceClamp_keeps {z s : State} (d : Fin 88) (hk : Keeps z s) : ResKeeps z (execFenceClamp d s) := by
  unfold execFenceClamp
  try dsimp only
  with_reducible repeat' first | exact hk | exact Keeps.refl _ | apply State.set_keeps | apply State.switchOff_keeps | apply ResKeeps.next | apply ResKeeps.ite | apply Keeps.ite | split | (intro v; try dsimp only)

theorem State.discardQueue_keeps {z s : State} (n : Nat) (hk : Keeps z s) : Keeps z (State.discardQueue s n) := by
  unfold State.discardQueue
  try dsimp only
  repeat' first | with_reducible exact hk | with_reducible exact Keeps.refl _ | with_reducible apply State.count_keeps | with_reducible apply State.setPort_keeps | with_reducible apply State.fabricAnswer_keeps | (with_reducible apply Keeps.foldl; intro t x; try dsimp only) | (with_reducible apply Keeps.foldl_fst; intro t x; try dsimp only) | with_reducible apply Keeps.ite | split | with_reducible apply Keeps.fields | (intro v; try dsimp only)

theorem State.discardDomain_keeps {z s0 : State} (d : Nat) (hk : Keeps z s0) : Keeps z (State.discardDomain s0 d) := by
  unfold State.discardDomain
  try dsimp only
  repeat' first | with_reducible exact hk | with_reducible exact Keeps.refl _ | with_reducible apply State.count_keeps | with_reducible apply State.answerErr_keeps | with_reducible apply State.answerLost_keeps | with_reducible apply State.discardQueue_keeps | (with_reducible apply Keeps.foldl; intro t x; try dsimp only) | (with_reducible apply Keeps.foldl_fst; intro t x; try dsimp only) | with_reducible apply Keeps.ite | split | with_reducible apply Keeps.fields | with_reducible apply Keeps.upd | exact List.prefix_rfl | exact Nat.le_refl _ | exact id | exact fun w => SMap.wf_put _ _ w | exact fun w => SMap.wf_update _ _ w | exact fun w => SMap.wf_filter _ w | exact fun w => wf_writeBytes _ _ w | exact fun _ => rfl | exact fun w => SMap.wf_map_filter (fun e => by split <;> rfl) w | (intro v; try dsimp only)

theorem State.failStreams_keeps {z s : State} (t : Nat) (hk : Keeps z s) : Keeps z (State.failStreams s t) := by
  unfold State.failStreams
  try dsimp only
  with_reducible repeat' first | exact hk | exact Keeps.refl _ | apply State.detect_keeps | apply State.failFlue_keeps | apply Keeps.ite | split | (intro v; try dsimp only)

theorem State.forceFence_keeps {z s : State} (d : Nat) (hk : Keeps z s) : Keeps z (State.forceFence s d) := by
  unfold State.forceFence
  try dsimp only
  repeat' first | with_reducible exact hk | with_reducible exact Keeps.refl _ | with_reducible apply State.set_keeps | with_reducible apply State.setFence_keeps | with_reducible apply State.enterFenced_keeps | with_reducible apply State.discardDomain_keeps | with_reducible apply State.failStreams_keeps | with_reducible apply Keeps.ite | split | with_reducible apply Keeps.fields | (intro v; try dsimp only)

theorem execFenceTimeout_keeps {z s : State} (d : Fin 88) (hk : Keeps z s) : ResKeeps z (execFenceTimeout d s) := by
  unfold execFenceTimeout
  with_reducible repeat' first | exact hk | exact Keeps.refl _ | apply State.forceFence_keeps | apply ResKeeps.next | apply ResKeeps.ite | apply Keeps.ite | split | (intro v; try dsimp only)

theorem execFenceRelease_keeps {z s : State} (d : Fin 88) (hk : Keeps z s) : ResKeeps z (execFenceRelease d s) := by
  unfold execFenceRelease
  try dsimp only
  repeat' first | with_reducible exact hk | with_reducible exact Keeps.refl _ | with_reducible apply State.releaseFence_keeps | with_reducible apply ResKeeps.next | with_reducible apply ResKeeps.ite | with_reducible apply Keeps.ite | split | with_reducible apply Keeps.fields | (intro v; try dsimp only)

theorem execTurfRejoin_keeps {z s : State} (t : TurfId) (hk : Keeps z s) : ResKeeps z (execTurfRejoin t s) := by
  unfold execTurfRejoin
  try dsimp only
  repeat' first | with_reducible exact hk | with_reducible exact Keeps.refl _ | with_reducible apply State.set_keeps | with_reducible apply State.setFence_keeps | with_reducible apply ResKeeps.next | with_reducible apply ResKeeps.ite | with_reducible apply Keeps.ite | split | with_reducible apply Keeps.fields | (intro v; try dsimp only)

end Sys2Proof.Machine
end

