-- ==== Sys2Proof/Laws/KeepsHbm.lean ====
section
/-!
SUPPORT. What each operation of Machine/Hbm.lean keeps.
-/
namespace Sys2Proof.Machine

theorem State.hbmTouch_keeps {z s : State} (a n : Nat) (hk : Keeps z s) : Keeps z (State.hbmTouch s a n) := by
  unfold State.hbmTouch
  with_reducible repeat' first | exact hk | exact Keeps.refl _ | apply State.set_keeps | (apply State.each_keeps; intro i t; try dsimp only) | apply Keeps.ite | split | (intro v; try dsimp only)

theorem State.hbmWrite_keeps {z s : State} (a : Nat) (bs : List Byte) (hk : Keeps z s) : Keeps z (State.hbmWrite s a bs) := by
  unfold State.hbmWrite
  try dsimp only
  repeat' first | with_reducible exact hk | with_reducible exact Keeps.refl _ | with_reducible apply State.hbmTouch_keeps | with_reducible apply Keeps.ite | split | with_reducible apply Keeps.fields | with_reducible apply Keeps.upd | exact List.prefix_rfl | exact Nat.le_refl _ | exact id | exact fun w => SMap.wf_put _ _ w | exact fun w => SMap.wf_update _ _ w | exact fun w => SMap.wf_filter _ w | exact fun w => wf_writeBytes _ _ w | exact fun _ => rfl | exact fun w => SMap.wf_map_filter (fun e => by split <;> rfl) w | (intro v; try dsimp only)

theorem State.loseStack_keeps {z s : State} (st : Nat) (hk : Keeps z s) : Keeps z (State.loseStack s st) := by
  unfold State.loseStack
  try dsimp only
  repeat' first | with_reducible exact hk | with_reducible exact Keeps.refl _ | with_reducible apply Keeps.ite | split | with_reducible apply Keeps.fields | with_reducible apply Keeps.upd | exact List.prefix_rfl | exact Nat.le_refl _ | exact id | exact fun w => SMap.wf_put _ _ w | exact fun w => SMap.wf_update _ _ w | exact fun w => SMap.wf_filter _ w | exact fun w => wf_writeBytes _ _ w | exact fun _ => rfl | exact fun w => SMap.wf_map_filter (fun e => by split <;> rfl) w | (intro v; try dsimp only)

theorem State.hbmErr_keeps {z s : State} (st : Nat) (f : Field) (hk : Keeps z s) : Keeps z (State.hbmErr s st f) := by
  unfold State.hbmErr
  with_reducible repeat' first | exact hk | exact Keeps.refl _ | apply State.set_keeps | apply State.raise_keeps | apply Keeps.ite | split | (intro v; try dsimp only)

theorem State.hbmErrorAt_keeps {z s : State} (at_ : Nat) (hk : Keeps z s) : Keeps z (State.hbmErrorAt s at_) := by
  unfold State.hbmErrorAt
  try dsimp only
  with_reducible repeat' first | exact hk | exact Keeps.refl _ | apply State.set_keeps | apply State.count_keeps | apply State.hbmErr_keeps | apply Keeps.ite | split | (intro v; try dsimp only)

theorem State.hbmDataError_keeps {z s : State} (a n : Nat) (hk : Keeps z s) : Keeps z (State.hbmDataError s a n) := by
  unfold State.hbmDataError
  with_reducible repeat' first | exact hk | exact Keeps.refl _ | apply State.useFree_keeps | apply State.hbmErrorAt_keeps | apply Keeps.ite | split | (intro v; try dsimp only)

theorem State.stackSense_keeps {z s : State} (st : Nat) (hk : Keeps z s) : Keeps z (State.stackSense s st) := by
  unfold State.stackSense
  try dsimp only
  with_reducible repeat' first | exact hk | exact Keeps.refl _ | apply State.set_keeps | apply State.count_keeps | apply State.useFree_keeps | apply State.hbmErr_keeps | apply Keeps.ite | split | (intro v; try dsimp only)

theorem execSelfRefreshEntry_keeps {z s : State} (n : Fin 8) (hk : Keeps z s) : ResKeeps z (execSelfRefreshEntry n s) := by
  unfold execSelfRefreshEntry
  with_reducible repeat' first | exact hk | exact Keeps.refl _ | apply State.set_keeps | apply ResKeeps.next | apply ResKeeps.ite | apply Keeps.ite | split | (intro v; try dsimp only)

theorem execSelfRefreshExit_keeps {z s : State} (n : Fin 8) (hk : Keeps z s) : ResKeeps z (execSelfRefreshExit n s) := by
  unfold execSelfRefreshExit
  with_reducible repeat' first | exact hk | exact Keeps.refl _ | apply State.set_keeps | apply ResKeeps.next | apply ResKeeps.ite | apply Keeps.ite | split | (intro v; try dsimp only)

theorem execHbmPowerOff_keeps {z s : State} (n : Fin 8) (hk : Keeps z s) : ResKeeps z (execHbmPowerOff n s) := by
  unfold execHbmPowerOff
  with_reducible repeat' first | exact hk | exact Keeps.refl _ | apply State.set_keeps | apply State.loseStack_keeps | apply ResKeeps.next | apply ResKeeps.ite | apply Keeps.ite | split | (intro v; try dsimp only)

theorem State.stackTrained_keeps {z s : State} (n : Nat) (rate : Option (Fin 3)) (failedSome : Bool) (hk : Keeps z s) : Keeps z (State.stackTrained s n rate failedSome) := by
  unfold State.stackTrained
  try dsimp only
  repeat' first | with_reducible exact hk | with_reducible exact Keeps.refl _ | with_reducible apply State.set_keeps | with_reducible apply State.loseStack_keeps | with_reducible apply State.hbmErr_keeps | with_reducible apply Keeps.ite | split | with_reducible apply Keeps.fields | with_reducible apply Keeps.upd | exact List.prefix_rfl | exact Nat.le_refl _ | exact id | exact fun w => SMap.wf_put _ _ w | exact fun w => SMap.wf_update _ _ w | exact fun w => SMap.wf_filter _ w | exact fun w => wf_writeBytes _ _ w | exact fun _ => rfl | exact fun w => SMap.wf_map_filter (fun e => by split <;> rfl) w | (intro v; try dsimp only)

theorem execHbmRetrainComplete_keeps {z s : State} (r : Retrain) (hk : Keeps z s) : ResKeeps z (execHbmRetrainComplete r s) := by
  unfold execHbmRetrainComplete
  with_reducible repeat' first | exact hk | exact Keeps.refl _ | apply State.stackTrained_keeps | apply ResKeeps.next | apply ResKeeps.ite | apply Keeps.ite | split | (intro v; try dsimp only)

end Sys2Proof.Machine
end

