-- ==== Sys2Proof/Laws/KeepsSeqControl.lean ====
section
/-!
SUPPORT. What each operation of Machine/SeqControl.lean keeps.
-/
namespace Sys2Proof.Machine

theorem jumpTarget_err {a : State} (at_ : Nat) (disp : Int) : ErrKeeps a (jumpTarget at_ disp) := by
  intro r h
  unfold jumpTarget at h
  dsimp only at h
  split at h
  · exact nomatch h
  · cases h; trivial

theorem State.setLengths_bind {a s : State} {p x y : Nat} {f : State → Except SeqRes SeqRes} (hk : Keeps a s)
    (hf : ∀ t, Keeps a t → SeqResKeeps a (seqRes (f t))) : SeqResKeeps a (seqRes (s.setLengths p x y >>= f)) := by
  unfold State.setLengths
  split
  · exact hf _ (State.set_keeps _ _ (State.set_keeps _ _ hk))
  · trivial

theorem execNop_keeps {z s : State} (p : SeqId) (hk : Keeps z s) : ResKeeps z (execNop p s) := by
  unfold execNop
  repeat' first | with_reducible exact hk | with_reducible exact Keeps.refl _ | with_reducible apply State.runInstr_keeps | with_reducible apply ResKeeps.next | with_reducible apply seqRes_bind | with_reducible apply seqRes_ok | with_reducible apply seqRes_error | with_reducible apply ErrKeeps.ok | with_reducible apply State.fetch_err | with_reducible apply State.dest_err | with_reducible apply must_err | with_reducible apply waitFor_err | exact trivial | with_reducible apply SeqResKeeps.done | with_reducible apply SeqResKeeps.hold | (intro v; try dsimp only) | exact State.dispatch_err _ _ _ _ _ (by assumption) | with_reducible apply ResKeeps.ite | with_reducible apply Keeps.ite | split | (intro v; try dsimp only)

theorem repBody_keeps {z s : State} (p : Nat) (i : SeqInstr) (hk : Keeps z s) : SeqResKeeps z (repBody p i s) := by
  unfold repBody
  try dsimp only
  repeat' first | with_reducible exact hk | with_reducible exact Keeps.refl _ | with_reducible apply State.set_keeps | with_reducible apply State.specStep_keeps | with_reducible apply seqRes_bind | with_reducible apply seqRes_ok | with_reducible apply seqRes_error | with_reducible apply ErrKeeps.ok | with_reducible apply State.fetch_err | with_reducible apply State.dest_err | with_reducible apply must_err | with_reducible apply waitFor_err | with_reducible apply jumpTarget_err | exact trivial | with_reducible apply SeqResKeeps.done | with_reducible apply SeqResKeeps.hold | (intro v; try dsimp only) | exact State.dispatch_err _ _ _ _ _ (by assumption) | with_reducible apply SeqResKeeps.ite | with_reducible apply Keeps.ite | split | (intro v; try dsimp only)

theorem execRep_keeps {z s : State} (p : SeqId) (hk : Keeps z s) : ResKeeps z (execRep p s) := by
  unfold execRep
  repeat' first | with_reducible exact hk | with_reducible exact Keeps.refl _ | with_reducible apply State.runInstr_keeps | with_reducible apply repBody_keeps | with_reducible apply ResKeeps.next | with_reducible apply seqRes_bind | with_reducible apply seqRes_ok | with_reducible apply seqRes_error | with_reducible apply ErrKeeps.ok | with_reducible apply State.fetch_err | with_reducible apply State.dest_err | with_reducible apply must_err | with_reducible apply waitFor_err | exact trivial | with_reducible apply SeqResKeeps.done | with_reducible apply SeqResKeeps.hold | (intro v; try dsimp only) | exact State.dispatch_err _ _ _ _ _ (by assumption) | with_reducible apply ResKeeps.ite | with_reducible apply Keeps.ite | split | (intro v; try dsimp only)

theorem branchBody_keeps {z s : State} (p : Nat) (i : SeqInstr) (hk : Keeps z s) : SeqResKeeps z (branchBody p i s) := by
  unfold branchBody
  try dsimp only
  repeat' first | with_reducible exact hk | with_reducible exact Keeps.refl _ | with_reducible apply seqRes_bind | with_reducible apply seqRes_ok | with_reducible apply seqRes_error | with_reducible apply ErrKeeps.ok | with_reducible apply State.fetch_err | with_reducible apply State.dest_err | with_reducible apply must_err | with_reducible apply waitFor_err | with_reducible apply jumpTarget_err | exact trivial | with_reducible apply SeqResKeeps.done | with_reducible apply SeqResKeeps.hold | (intro v; try dsimp only) | exact State.dispatch_err _ _ _ _ _ (by assumption) | with_reducible apply SeqResKeeps.ite | with_reducible apply Keeps.ite | split | (intro v; try dsimp only)

theorem execB_keeps {z s : State} (p : SeqId) (hk : Keeps z s) : ResKeeps z (execB p s) := by
  unfold execB
  repeat' first | with_reducible exact hk | with_reducible exact Keeps.refl _ | with_reducible apply State.runInstr_keeps | with_reducible apply branchBody_keeps | with_reducible apply ResKeeps.next | with_reducible apply seqRes_bind | with_reducible apply seqRes_ok | with_reducible apply seqRes_error | with_reducible apply ErrKeeps.ok | with_reducible apply State.fetch_err | with_reducible apply State.dest_err | with_reducible apply must_err | with_reducible apply waitFor_err | exact trivial | with_reducible apply SeqResKeeps.done | with_reducible apply SeqResKeeps.hold | (intro v; try dsimp only) | exact State.dispatch_err _ _ _ _ _ (by assumption) | with_reducible apply ResKeeps.ite | with_reducible apply Keeps.ite | split | (intro v; try dsimp only)

theorem callBody_keeps {z s : State} (p : Nat) (i : SeqInstr) (hk : Keeps z s) : SeqResKeeps z (callBody p i s) := by
  unfold callBody
  try dsimp only
  repeat' first | with_reducible exact hk | with_reducible exact Keeps.refl _ | with_reducible apply State.setPtr_keeps | with_reducible apply State.seqStore_keeps | with_reducible apply seqRes_bind | with_reducible apply seqRes_ok | with_reducible apply seqRes_error | with_reducible apply ErrKeeps.ok | with_reducible apply State.fetch_err | with_reducible apply State.dest_err | with_reducible apply must_err | with_reducible apply waitFor_err | with_reducible apply jumpTarget_err | exact trivial | with_reducible apply SeqResKeeps.done | with_reducible apply SeqResKeeps.hold | (intro v; try dsimp only) | exact State.dispatch_err _ _ _ _ _ (by assumption) | with_reducible apply SeqResKeeps.ite | with_reducible apply Keeps.ite | split | (intro v; try dsimp only)

theorem execCall_keeps {z s : State} (p : SeqId) (hk : Keeps z s) : ResKeeps z (execCall p s) := by
  unfold execCall
  repeat' first | with_reducible exact hk | with_reducible exact Keeps.refl _ | with_reducible apply State.runInstr_keeps | with_reducible apply callBody_keeps | with_reducible apply ResKeeps.next | with_reducible apply seqRes_bind | with_reducible apply seqRes_ok | with_reducible apply seqRes_error | with_reducible apply ErrKeeps.ok | with_reducible apply State.fetch_err | with_reducible apply State.dest_err | with_reducible apply must_err | with_reducible apply waitFor_err | exact trivial | with_reducible apply SeqResKeeps.done | with_reducible apply SeqResKeeps.hold | (intro v; try dsimp only) | exact State.dispatch_err _ _ _ _ _ (by assumption) | with_reducible apply ResKeeps.ite | with_reducible apply Keeps.ite | split | (intro v; try dsimp only)

theorem retBody_keeps {z s : State} (p : Nat) (x1 : SeqInstr) (hk : Keeps z s) : SeqResKeeps z (retBody p x1 s) := by
  unfold retBody
  try dsimp only
  repeat' first | with_reducible exact hk | with_reducible exact Keeps.refl _ | with_reducible apply State.setPtr_keeps | with_reducible apply seqRes_bind | with_reducible apply seqRes_ok | with_reducible apply seqRes_error | with_reducible apply ErrKeeps.ok | with_reducible apply State.fetch_err | with_reducible apply State.dest_err | with_reducible apply must_err | with_reducible apply waitFor_err | with_reducible apply jumpTarget_err | exact trivial | with_reducible apply SeqResKeeps.done | with_reducible apply SeqResKeeps.hold | (intro v; try dsimp only) | exact State.dispatch_err _ _ _ _ _ (by assumption) | with_reducible apply SeqResKeeps.ite | with_reducible apply Keeps.ite | split | (intro v; try dsimp only)

theorem execRet_keeps {z s : State} (p : SeqId) (hk : Keeps z s) : ResKeeps z (execRet p s) := by
  unfold execRet
  repeat' first | with_reducible exact hk | with_reducible exact Keeps.refl _ | with_reducible apply State.runInstr_keeps | with_reducible apply retBody_keeps | with_reducible apply ResKeeps.next | with_reducible apply seqRes_bind | with_reducible apply seqRes_ok | with_reducible apply seqRes_error | with_reducible apply ErrKeeps.ok | with_reducible apply State.fetch_err | with_reducible apply State.dest_err | with_reducible apply must_err | with_reducible apply waitFor_err | exact trivial | with_reducible apply SeqResKeeps.done | with_reducible apply SeqResKeeps.hold | (intro v; try dsimp only) | exact State.dispatch_err _ _ _ _ _ (by assumption) | with_reducible apply ResKeeps.ite | with_reducible apply Keeps.ite | split | (intro v; try dsimp only)

theorem iretBody_keeps {z s : State} (p : Nat) (x1 : SeqInstr) (hk : Keeps z s) : SeqResKeeps z (iretBody p x1 s) := by
  unfold iretBody
  try dsimp only
  repeat' first | with_reducible exact hk | with_reducible exact Keeps.refl _ | with_reducible apply State.set_keeps | with_reducible apply State.setSeq_keeps | with_reducible apply State.setFlc_keeps | with_reducible apply State.setPtr_keeps | with_reducible apply State.setPc_keeps | with_reducible apply State.takeStop_keeps | with_reducible apply seqRes_bind | with_reducible apply seqRes_ok | with_reducible apply seqRes_error | with_reducible apply ErrKeeps.ok | with_reducible apply State.fetch_err | with_reducible apply State.dest_err | with_reducible apply must_err | with_reducible apply waitFor_err | with_reducible apply jumpTarget_err | exact trivial | with_reducible apply SeqResKeeps.done | with_reducible apply SeqResKeeps.hold | (intro v; try dsimp only) | exact State.dispatch_err _ _ _ _ _ (by assumption) | with_reducible apply SeqResKeeps.ite | with_reducible apply Keeps.ite | split | with_reducible apply Keeps.fields | (intro v; try dsimp only)

theorem execIret_keeps {z s : State} (p : SeqId) (hk : Keeps z s) : ResKeeps z (execIret p s) := by
  unfold execIret
  repeat' first | with_reducible exact hk | with_reducible exact Keeps.refl _ | with_reducible apply State.runInstr_keeps | with_reducible apply iretBody_keeps | with_reducible apply ResKeeps.next | with_reducible apply seqRes_bind | with_reducible apply seqRes_ok | with_reducible apply seqRes_error | with_reducible apply ErrKeeps.ok | with_reducible apply State.fetch_err | with_reducible apply State.dest_err | with_reducible apply must_err | with_reducible apply waitFor_err | exact trivial | with_reducible apply SeqResKeeps.done | with_reducible apply SeqResKeeps.hold | (intro v; try dsimp only) | exact State.dispatch_err _ _ _ _ _ (by assumption) | with_reducible apply ResKeeps.ite | with_reducible apply Keeps.ite | split | (intro v; try dsimp only)

theorem waitBody_keeps {z s : State} (p : Nat) (i : SeqInstr) (hk : Keeps z s) : SeqResKeeps z (waitBody p i s) := by
  unfold waitBody
  try dsimp only
  repeat' first | with_reducible exact hk | with_reducible exact Keeps.refl _ | with_reducible apply State.set_keeps | with_reducible apply State.setSeq_keeps | with_reducible apply State.setFlag_keeps | with_reducible apply State.takeStop_keeps | with_reducible apply seqRes_bind | with_reducible apply seqRes_ok | with_reducible apply seqRes_error | with_reducible apply ErrKeeps.ok | with_reducible apply State.fetch_err | with_reducible apply State.dest_err | with_reducible apply must_err | with_reducible apply waitFor_err | with_reducible apply jumpTarget_err | exact trivial | with_reducible apply SeqResKeeps.done | with_reducible apply SeqResKeeps.hold | (intro v; try dsimp only) | exact State.dispatch_err _ _ _ _ _ (by assumption) | with_reducible apply SeqResKeeps.ite | with_reducible apply Keeps.ite | split | with_reducible apply Keeps.fields | (intro v; try dsimp only)

theorem execWait_keeps {z s : State} (p : SeqId) (hk : Keeps z s) : ResKeeps z (execWait p s) := by
  unfold execWait
  repeat' first | with_reducible exact hk | with_reducible exact Keeps.refl _ | with_reducible apply State.runInstr_keeps | with_reducible apply waitBody_keeps | with_reducible apply ResKeeps.next | with_reducible apply seqRes_bind | with_reducible apply seqRes_ok | with_reducible apply seqRes_error | with_reducible apply ErrKeeps.ok | with_reducible apply State.fetch_err | with_reducible apply State.dest_err | with_reducible apply must_err | with_reducible apply waitFor_err | exact trivial | with_reducible apply SeqResKeeps.done | with_reducible apply SeqResKeeps.hold | (intro v; try dsimp only) | exact State.dispatch_err _ _ _ _ _ (by assumption) | with_reducible apply ResKeeps.ite | with_reducible apply Keeps.ite | split | (intro v; try dsimp only)

theorem execWaitFlagSatisfied_keeps {z s : State} (p : SeqId) (hk : Keeps z s) : ResKeeps z (execWaitFlagSatisfied p s) := by
  unfold execWaitFlagSatisfied
  try dsimp only
  repeat' first | with_reducible exact hk | with_reducible exact Keeps.refl _ | with_reducible apply State.set_keeps | with_reducible apply State.setSeq_keeps | with_reducible apply State.setFlag_keeps | with_reducible apply State.setPc_keeps | with_reducible apply State.takeStop_keeps | with_reducible apply ResKeeps.next | with_reducible apply ResKeeps.ite | with_reducible apply Keeps.ite | split | with_reducible apply Keeps.fields | with_reducible apply Keeps.upd | exact List.prefix_rfl | exact Nat.le_refl _ | exact id | exact fun w => SMap.wf_put _ _ w | exact fun w => SMap.wf_update _ _ w | exact fun w => SMap.wf_filter _ w | exact fun w => wf_writeBytes _ _ w | exact fun _ => rfl | exact fun w => SMap.wf_map_filter (fun e => by split <;> rfl) w | (intro v; try dsimp only)

theorem sigBody_keeps {z s : State} (p : Nat) (i : SeqInstr) (hk : Keeps z s) : SeqResKeeps z (sigBody p i s) := by
  unfold sigBody
  try dsimp only
  repeat' first | with_reducible exact hk | with_reducible exact Keeps.refl _ | with_reducible apply State.set_keeps | with_reducible apply State.raise_keeps | with_reducible apply State.wdReload_keeps | with_reducible apply seqRes_bind | with_reducible apply seqRes_ok | with_reducible apply seqRes_error | with_reducible apply ErrKeeps.ok | with_reducible apply State.fetch_err | with_reducible apply State.dest_err | with_reducible apply must_err | with_reducible apply waitFor_err | with_reducible apply jumpTarget_err | exact trivial | with_reducible apply SeqResKeeps.done | with_reducible apply SeqResKeeps.hold | (intro v; try dsimp only) | exact State.dispatch_err _ _ _ _ _ (by assumption) | with_reducible apply SeqResKeeps.ite | with_reducible apply Keeps.ite | split | (intro v; try dsimp only)

theorem execSig_keeps {z s : State} (p : SeqId) (hk : Keeps z s) : ResKeeps z (execSig p s) := by
  unfold execSig
  repeat' first | with_reducible exact hk | with_reducible exact Keeps.refl _ | with_reducible apply State.runInstr_keeps | with_reducible apply sigBody_keeps | with_reducible apply ResKeeps.next | with_reducible apply seqRes_bind | with_reducible apply seqRes_ok | with_reducible apply seqRes_error | with_reducible apply ErrKeeps.ok | with_reducible apply State.fetch_err | with_reducible apply State.dest_err | with_reducible apply must_err | with_reducible apply waitFor_err | exact trivial | with_reducible apply SeqResKeeps.done | with_reducible apply SeqResKeeps.hold | (intro v; try dsimp only) | exact State.dispatch_err _ _ _ _ _ (by assumption) | with_reducible apply ResKeeps.ite | with_reducible apply Keeps.ite | split | (intro v; try dsimp only)

theorem jobsBody_keeps {z s : State} (p : Nat) (x1 : SeqInstr) (hk : Keeps z s) : SeqResKeeps z (jobsBody p x1 s) := by
  unfold jobsBody
  try dsimp only
  repeat' first | with_reducible exact hk | with_reducible exact Keeps.refl _ | with_reducible apply State.setReg_keeps | with_reducible apply State.setSeq_keeps | with_reducible apply seqRes_bind | with_reducible apply seqRes_ok | with_reducible apply seqRes_error | with_reducible apply ErrKeeps.ok | with_reducible apply State.fetch_err | with_reducible apply State.dest_err | with_reducible apply must_err | with_reducible apply waitFor_err | with_reducible apply jumpTarget_err | exact trivial | with_reducible apply SeqResKeeps.done | with_reducible apply SeqResKeeps.hold | (intro v; try dsimp only) | exact State.dispatch_err _ _ _ _ _ (by assumption) | with_reducible apply SeqResKeeps.ite | with_reducible apply Keeps.ite | split | with_reducible apply Keeps.fields | (intro v; try dsimp only)

theorem execJobs_keeps {z s : State} (p : SeqId) (hk : Keeps z s) : ResKeeps z (execJobs p s) := by
  unfold execJobs
  repeat' first | with_reducible exact hk | with_reducible exact Keeps.refl _ | with_reducible apply State.runInstr_keeps | with_reducible apply jobsBody_keeps | with_reducible apply ResKeeps.next | with_reducible apply seqRes_bind | with_reducible apply seqRes_ok | with_reducible apply seqRes_error | with_reducible apply ErrKeeps.ok | with_reducible apply State.fetch_err | with_reducible apply State.dest_err | with_reducible apply must_err | with_reducible apply waitFor_err | exact trivial | with_reducible apply SeqResKeeps.done | with_reducible apply SeqResKeeps.hold | (intro v; try dsimp only) | exact State.dispatch_err _ _ _ _ _ (by assumption) | with_reducible apply ResKeeps.ite | with_reducible apply Keeps.ite | split | (intro v; try dsimp only)

theorem jobeBody_keeps {z s : State} (p : Nat) (i : SeqInstr) (hk : Keeps z s) : SeqResKeeps z (jobeBody p i s) := by
  unfold jobeBody
  try dsimp only
  repeat' first | with_reducible exact hk | with_reducible exact Keeps.refl _ | with_reducible apply State.set_keeps | with_reducible apply State.setSeq_keeps | with_reducible apply State.setRing_keeps | with_reducible apply State.writeCompletion_keeps | with_reducible apply State.wdReload_keeps | with_reducible apply State.specStep_keeps | with_reducible apply State.confirm_keeps | with_reducible apply seqRes_bind | with_reducible apply seqRes_ok | with_reducible apply seqRes_error | with_reducible apply ErrKeeps.ok | with_reducible apply State.fetch_err | with_reducible apply State.dest_err | with_reducible apply must_err | with_reducible apply waitFor_err | with_reducible apply jumpTarget_err | exact trivial | with_reducible apply SeqResKeeps.done | with_reducible apply SeqResKeeps.hold | (intro v; try dsimp only) | exact State.dispatch_err _ _ _ _ _ (by assumption) | with_reducible apply SeqResKeeps.ite | with_reducible apply Keeps.ite | split | with_reducible apply Keeps.fields | (intro v; try dsimp only)

theorem execJobe_keeps {z s : State} (p : SeqId) (hk : Keeps z s) : ResKeeps z (execJobe p s) := by
  unfold execJobe
  repeat' first | with_reducible exact hk | with_reducible exact Keeps.refl _ | with_reducible apply State.runInstr_keeps | with_reducible apply jobeBody_keeps | with_reducible apply ResKeeps.next | with_reducible apply seqRes_bind | with_reducible apply seqRes_ok | with_reducible apply seqRes_error | with_reducible apply ErrKeeps.ok | with_reducible apply State.fetch_err | with_reducible apply State.dest_err | with_reducible apply must_err | with_reducible apply waitFor_err | exact trivial | with_reducible apply SeqResKeeps.done | with_reducible apply SeqResKeeps.hold | (intro v; try dsimp only) | exact State.dispatch_err _ _ _ _ _ (by assumption) | with_reducible apply ResKeeps.ite | with_reducible apply Keeps.ite | split | (intro v; try dsimp only)

theorem State.setPdesc_keeps {z s : State} (p i v : Nat) (hk : Keeps z s) : Keeps z (State.setPdesc s p i v) := by
  unfold State.setPdesc
  with_reducible repeat' first | exact hk | exact Keeps.refl _ | apply State.set_keeps | apply Keeps.ite | split | (intro v; try dsimp only)

theorem ldpBody_keeps {z s : State} (p : Nat) (i : SeqInstr) (hk : Keeps z s) : SeqResKeeps z (ldpBody p i s) := by
  unfold ldpBody
  try dsimp only
  repeat' first | with_reducible exact hk | with_reducible exact Keeps.refl _ | with_reducible apply State.setPtr_keeps | with_reducible apply State.specStep_keeps | with_reducible apply State.setPdesc_keeps | with_reducible apply seqRes_bind | with_reducible apply seqRes_ok | with_reducible apply seqRes_error | with_reducible apply ErrKeeps.ok | with_reducible apply State.fetch_err | with_reducible apply State.dest_err | with_reducible apply must_err | with_reducible apply waitFor_err | with_reducible apply jumpTarget_err | exact trivial | with_reducible apply SeqResKeeps.done | with_reducible apply SeqResKeeps.hold | (intro v; try dsimp only) | exact State.dispatch_err _ _ _ _ _ (by assumption) | with_reducible apply SeqResKeeps.ite | with_reducible apply Keeps.ite | split | (intro v; try dsimp only)

theorem execLdp_keeps {z s : State} (p : SeqId) (hk : Keeps z s) : ResKeeps z (execLdp p s) := by
  unfold execLdp
  repeat' first | with_reducible exact hk | with_reducible exact Keeps.refl _ | with_reducible apply State.runInstr_keeps | with_reducible apply ldpBody_keeps | with_reducible apply ResKeeps.next | with_reducible apply seqRes_bind | with_reducible apply seqRes_ok | with_reducible apply seqRes_error | with_reducible apply ErrKeeps.ok | with_reducible apply State.fetch_err | with_reducible apply State.dest_err | with_reducible apply must_err | with_reducible apply waitFor_err | exact trivial | with_reducible apply SeqResKeeps.done | with_reducible apply SeqResKeeps.hold | (intro v; try dsimp only) | exact State.dispatch_err _ _ _ _ _ (by assumption) | with_reducible apply ResKeeps.ite | with_reducible apply Keeps.ite | split | (intro v; try dsimp only)

theorem stpBody_keeps {z s : State} (p : Nat) (i : SeqInstr) (hk : Keeps z s) : SeqResKeeps z (stpBody p i s) := by
  unfold stpBody
  try dsimp only
  repeat' first | with_reducible exact hk | with_reducible exact Keeps.refl _ | with_reducible apply State.specStep_keeps | with_reducible apply State.seqStore_keeps | with_reducible apply seqRes_bind | with_reducible apply seqRes_ok | with_reducible apply seqRes_error | with_reducible apply ErrKeeps.ok | with_reducible apply State.fetch_err | with_reducible apply State.dest_err | with_reducible apply must_err | with_reducible apply waitFor_err | with_reducible apply jumpTarget_err | exact trivial | with_reducible apply SeqResKeeps.done | with_reducible apply SeqResKeeps.hold | (intro v; try dsimp only) | exact State.dispatch_err _ _ _ _ _ (by assumption) | with_reducible apply SeqResKeeps.ite | with_reducible apply Keeps.ite | split | (intro v; try dsimp only)

theorem execStp_keeps {z s : State} (p : SeqId) (hk : Keeps z s) : ResKeeps z (execStp p s) := by
  unfold execStp
  repeat' first | with_reducible exact hk | with_reducible exact Keeps.refl _ | with_reducible apply State.runInstr_keeps | with_reducible apply stpBody_keeps | with_reducible apply ResKeeps.next | with_reducible apply seqRes_bind | with_reducible apply seqRes_ok | with_reducible apply seqRes_error | with_reducible apply ErrKeeps.ok | with_reducible apply State.fetch_err | with_reducible apply State.dest_err | with_reducible apply must_err | with_reducible apply waitFor_err | exact trivial | with_reducible apply SeqResKeeps.done | with_reducible apply SeqResKeeps.hold | (intro v; try dsimp only) | exact State.dispatch_err _ _ _ _ _ (by assumption) | with_reducible apply ResKeeps.ite | with_reducible apply Keeps.ite | split | (intro v; try dsimp only)

theorem psetBody_keeps {z s : State} (p : Nat) (i : SeqInstr) (hk : Keeps z s) : SeqResKeeps z (psetBody p i s) := by
  unfold psetBody
  try dsimp only
  repeat' first | with_reducible exact hk | with_reducible exact Keeps.refl _ | with_reducible apply State.setPtr_keeps | with_reducible apply State.specStep_keeps | with_reducible apply seqRes_bind | with_reducible apply seqRes_ok | with_reducible apply seqRes_error | with_reducible apply ErrKeeps.ok | with_reducible apply State.fetch_err | with_reducible apply State.dest_err | with_reducible apply must_err | with_reducible apply waitFor_err | with_reducible apply jumpTarget_err | exact trivial | with_reducible apply SeqResKeeps.done | with_reducible apply SeqResKeeps.hold | (intro v; try dsimp only) | exact State.dispatch_err _ _ _ _ _ (by assumption) | with_reducible apply SeqResKeeps.ite | with_reducible apply Keeps.ite | split | (intro v; try dsimp only)

theorem execPset_keeps {z s : State} (p : SeqId) (hk : Keeps z s) : ResKeeps z (execPset p s) := by
  unfold execPset
  repeat' first | with_reducible exact hk | with_reducible exact Keeps.refl _ | with_reducible apply State.runInstr_keeps | with_reducible apply psetBody_keeps | with_reducible apply ResKeeps.next | with_reducible apply seqRes_bind | with_reducible apply seqRes_ok | with_reducible apply seqRes_error | with_reducible apply ErrKeeps.ok | with_reducible apply State.fetch_err | with_reducible apply State.dest_err | with_reducible apply must_err | with_reducible apply waitFor_err | exact trivial | with_reducible apply SeqResKeeps.done | with_reducible apply SeqResKeeps.hold | (intro v; try dsimp only) | exact State.dispatch_err _ _ _ _ _ (by assumption) | with_reducible apply ResKeeps.ite | with_reducible apply Keeps.ite | split | (intro v; try dsimp only)

theorem paddBody_keeps {z s : State} (p : Nat) (i : SeqInstr) (hk : Keeps z s) : SeqResKeeps z (paddBody p i s) := by
  unfold paddBody
  try dsimp only
  repeat' first | with_reducible exact hk | with_reducible exact Keeps.refl _ | with_reducible apply State.setPtr_keeps | with_reducible apply State.specStep_keeps | with_reducible apply seqRes_bind | with_reducible apply seqRes_ok | with_reducible apply seqRes_error | with_reducible apply ErrKeeps.ok | with_reducible apply State.fetch_err | with_reducible apply State.dest_err | with_reducible apply must_err | with_reducible apply waitFor_err | with_reducible apply jumpTarget_err | exact trivial | with_reducible apply SeqResKeeps.done | with_reducible apply SeqResKeeps.hold | (intro v; try dsimp only) | exact State.dispatch_err _ _ _ _ _ (by assumption) | with_reducible apply SeqResKeeps.ite | with_reducible apply Keeps.ite | split | (intro v; try dsimp only)

theorem execPadd_keeps {z s : State} (p : SeqId) (hk : Keeps z s) : ResKeeps z (execPadd p s) := by
  unfold execPadd
  repeat' first | with_reducible exact hk | with_reducible exact Keeps.refl _ | with_reducible apply State.runInstr_keeps | with_reducible apply paddBody_keeps | with_reducible apply ResKeeps.next | with_reducible apply seqRes_bind | with_reducible apply seqRes_ok | with_reducible apply seqRes_error | with_reducible apply ErrKeeps.ok | with_reducible apply State.fetch_err | with_reducible apply State.dest_err | with_reducible apply must_err | with_reducible apply waitFor_err | exact trivial | with_reducible apply SeqResKeeps.done | with_reducible apply SeqResKeeps.hold | (intro v; try dsimp only) | exact State.dispatch_err _ _ _ _ _ (by assumption) | with_reducible apply ResKeeps.ite | with_reducible apply Keeps.ite | split | (intro v; try dsimp only)

theorem snumBody_keeps {z s : State} (p : Nat) (i : SeqInstr) (hk : Keeps z s) : SeqResKeeps z (snumBody p i s) := by
  unfold snumBody
  try dsimp only
  repeat' first | with_reducible exact hk | with_reducible exact Keeps.refl _ | with_reducible apply State.setPart_keeps | with_reducible apply State.specStep_keeps | with_reducible apply State.seqStore_keeps | with_reducible apply seqRes_bind | with_reducible apply seqRes_ok | with_reducible apply seqRes_error | with_reducible apply ErrKeeps.ok | with_reducible apply State.fetch_err | with_reducible apply State.dest_err | with_reducible apply must_err | with_reducible apply waitFor_err | with_reducible apply jumpTarget_err | exact trivial | with_reducible apply SeqResKeeps.done | with_reducible apply SeqResKeeps.hold | (intro v; try dsimp only) | exact State.dispatch_err _ _ _ _ _ (by assumption) | with_reducible apply SeqResKeeps.ite | with_reducible apply Keeps.ite | split | with_reducible apply Keeps.fields | (intro v; try dsimp only)

theorem execSnum_keeps {z s : State} (p : SeqId) (hk : Keeps z s) : ResKeeps z (execSnum p s) := by
  unfold execSnum
  repeat' first | with_reducible exact hk | with_reducible exact Keeps.refl _ | with_reducible apply State.runInstr_keeps | with_reducible apply snumBody_keeps | with_reducible apply ResKeeps.next | with_reducible apply seqRes_bind | with_reducible apply seqRes_ok | with_reducible apply seqRes_error | with_reducible apply ErrKeeps.ok | with_reducible apply State.fetch_err | with_reducible apply State.dest_err | with_reducible apply must_err | with_reducible apply waitFor_err | exact trivial | with_reducible apply SeqResKeeps.done | with_reducible apply SeqResKeeps.hold | (intro v; try dsimp only) | exact State.dispatch_err _ _ _ _ _ (by assumption) | with_reducible apply ResKeeps.ite | with_reducible apply Keeps.ite | split | (intro v; try dsimp only)

theorem setlBody_keeps {z s : State} (p : Nat) (i : SeqInstr) (hk : Keeps z s) : SeqResKeeps z (setlBody p i s) := by
  unfold setlBody
  exact State.setLengths_bind hk (fun _ h => h)

theorem execSetl_keeps {z s : State} (p : SeqId) (hk : Keeps z s) : ResKeeps z (execSetl p s) := by
  unfold execSetl
  repeat' first | with_reducible exact hk | with_reducible exact Keeps.refl _ | with_reducible apply State.runInstr_keeps | with_reducible apply setlBody_keeps | with_reducible apply ResKeeps.next | with_reducible apply seqRes_bind | with_reducible apply seqRes_ok | with_reducible apply seqRes_error | with_reducible apply ErrKeeps.ok | with_reducible apply State.fetch_err | with_reducible apply State.dest_err | with_reducible apply must_err | with_reducible apply waitFor_err | exact trivial | with_reducible apply SeqResKeeps.done | with_reducible apply SeqResKeeps.hold | (intro v; try dsimp only) | exact State.dispatch_err _ _ _ _ _ (by assumption) | with_reducible apply ResKeeps.ite | with_reducible apply Keeps.ite | split | (intro v; try dsimp only)

theorem setlmBody_keeps {z s : State} (p : Nat) (i : SeqInstr) (hk : Keeps z s) : SeqResKeeps z (setlmBody p i s) := by
  unfold setlmBody
  refine seqRes_bind (State.fetch_err _ _ _ _) (fun v => seqRes_bind (State.fetch_err _ _ _ _) (fun w => ?_))
  exact State.setLengths_bind hk (fun _ h => State.specSteps_keeps _ _ h)

theorem execSetlm_keeps {z s : State} (p : SeqId) (hk : Keeps z s) : ResKeeps z (execSetlm p s) := by
  unfold execSetlm
  repeat' first | with_reducible exact hk | with_reducible exact Keeps.refl _ | with_reducible apply State.runInstr_keeps | with_reducible apply setlmBody_keeps | with_reducible apply ResKeeps.next | with_reducible apply seqRes_bind | with_reducible apply seqRes_ok | with_reducible apply seqRes_error | with_reducible apply ErrKeeps.ok | with_reducible apply State.fetch_err | with_reducible apply State.dest_err | with_reducible apply must_err | with_reducible apply waitFor_err | exact trivial | with_reducible apply SeqResKeeps.done | with_reducible apply SeqResKeeps.hold | (intro v; try dsimp only) | exact State.dispatch_err _ _ _ _ _ (by assumption) | with_reducible apply ResKeeps.ite | with_reducible apply Keeps.ite | split | (intro v; try dsimp only)

theorem execHalt_keeps {z s : State} (p : SeqId) (hk : Keeps z s) : ResKeeps z (execHalt p s) := by
  unfold execHalt
  repeat' first | with_reducible exact hk | with_reducible exact Keeps.refl _ | with_reducible apply State.stopIn_keeps | with_reducible apply State.setPc_keeps | with_reducible apply State.runInstr_keeps | with_reducible apply ResKeeps.next | with_reducible apply seqRes_bind | with_reducible apply seqRes_ok | with_reducible apply seqRes_error | with_reducible apply ErrKeeps.ok | with_reducible apply State.fetch_err | with_reducible apply State.dest_err | with_reducible apply must_err | with_reducible apply waitFor_err | exact trivial | with_reducible apply SeqResKeeps.done | with_reducible apply SeqResKeeps.hold | (intro v; try dsimp only) | exact State.dispatch_err _ _ _ _ _ (by assumption) | with_reducible apply ResKeeps.ite | with_reducible apply Keeps.ite | split | (intro v; try dsimp only)

theorem State.startSeq_keeps {z s : State} (p : Nat) (hk : Keeps z s) : Keeps z (State.startSeq s p) := by
  unfold State.startSeq
  try dsimp only
  repeat' first | with_reducible exact hk | with_reducible exact Keeps.refl _ | with_reducible apply State.set_keeps | with_reducible apply State.setSeq_keeps | with_reducible apply State.setPc_keeps | with_reducible apply Keeps.ite | split | with_reducible apply Keeps.fields | (intro v; try dsimp only)

theorem execStart_keeps {z s : State} (p : SeqId) (hk : Keeps z s) : ResKeeps z (execStart p s) := by
  unfold execStart
  with_reducible repeat' first | exact hk | exact Keeps.refl _ | apply State.startSeq_keeps | apply ResKeeps.next | apply ResKeeps.ite | apply Keeps.ite | split | (intro v; try dsimp only)

theorem execStop_keeps {z s : State} (p : SeqId) (hk : Keeps z s) : ResKeeps z (execStop p s) := by
  unfold execStop
  try dsimp only
  repeat' first | with_reducible exact hk | with_reducible exact Keeps.refl _ | with_reducible apply State.setSeq_keeps | with_reducible apply State.takeStop_keeps | with_reducible apply ResKeeps.next | with_reducible apply ResKeeps.ite | with_reducible apply Keeps.ite | split | with_reducible apply Keeps.fields | (intro v; try dsimp only)

theorem execClrf_keeps {z s : State} (p : SeqId) (hk : Keeps z s) : ResKeeps z (execClrf p s) := by
  unfold execClrf
  with_reducible repeat' first | exact hk | exact Keeps.refl _ | apply State.set_keeps | apply ResKeeps.next | apply ResKeeps.ite | apply Keeps.ite | split | (intro v; try dsimp only)

theorem execInterruptEntry_keeps {z s : State} (p : SeqId) (hk : Keeps z s) : ResKeeps z (execInterruptEntry p s) := by
  unfold execInterruptEntry
  with_reducible repeat' first | exact hk | exact Keeps.refl _ | apply State.enterHandler_keeps | apply ResKeeps.next | apply ResKeeps.ite | apply Keeps.ite | split | (intro v; try dsimp only)

end Sys2Proof.Machine
end

