-- ==== Sys2Proof/Laws/KeepsStaging.lean ====
section
/-!
SUPPORT. What each operation of Machine/Staging.lean keeps.
-/
namespace Sys2Proof.Machine

theorem stgqBody_keeps {z s : State} (p : Nat) (i : SeqInstr) (hk : Keeps z s) : SeqResKeeps z (stgqBody p i s) := by
  unfold stgqBody
  try dsimp only
  repeat' first | with_reducible exact hk | with_reducible exact Keeps.refl _ | with_reducible apply State.setSeq_keeps | with_reducible apply State.specStep_keeps | with_reducible apply seqRes_bind | with_reducible apply seqRes_ok | with_reducible apply seqRes_error | with_reducible apply ErrKeeps.ok | with_reducible apply State.fetch_err | with_reducible apply State.dest_err | with_reducible apply must_err | with_reducible apply waitFor_err | with_reducible apply jumpTarget_err | exact trivial | with_reducible apply SeqResKeeps.done | with_reducible apply SeqResKeeps.hold | (intro v; try dsimp only) | exact State.dispatch_err _ _ _ _ _ (by assumption) | with_reducible apply SeqResKeeps.ite | with_reducible apply Keeps.ite | split | with_reducible apply Keeps.fields | (intro v; try dsimp only)

theorem execStgq_keeps {z s : State} (p : SeqId) (hk : Keeps z s) : ResKeeps z (execStgq p s) := by
  unfold execStgq
  repeat' first | with_reducible exact hk | with_reducible exact Keeps.refl _ | with_reducible apply State.runInstr_keeps | with_reducible apply stgqBody_keeps | with_reducible apply ResKeeps.next | with_reducible apply seqRes_bind | with_reducible apply seqRes_ok | with_reducible apply seqRes_error | with_reducible apply ErrKeeps.ok | with_reducible apply State.fetch_err | with_reducible apply State.dest_err | with_reducible apply must_err | with_reducible apply waitFor_err | exact trivial | with_reducible apply SeqResKeeps.done | with_reducible apply SeqResKeeps.hold | (intro v; try dsimp only) | exact State.dispatch_err _ _ _ _ _ (by assumption) | with_reducible apply ResKeeps.ite | with_reducible apply Keeps.ite | split | (intro v; try dsimp only)

theorem State.stgEvent_keeps {z s : State} (e : Nat) (hk : Keeps z s) : Keeps z (State.stgEvent s e) := by
  unfold State.stgEvent
  with_reducible repeat' first | exact hk | exact Keeps.refl _ | apply State.raise_keeps | apply Keeps.ite | split | (intro v; try dsimp only)

theorem State.refuseStg_keeps {z s : State} (p e code : Nat) (hk : Keeps z s) : Keeps z (State.refuseStg s p e code) := by
  unfold State.refuseStg
  try dsimp only
  repeat' first | with_reducible exact hk | with_reducible exact Keeps.refl _ | with_reducible apply State.set_keeps | with_reducible apply State.setSeq_keeps | with_reducible apply State.violation_keeps | with_reducible apply State.stgEvent_keeps | with_reducible apply Keeps.ite | split | with_reducible apply Keeps.fields | (intro v; try dsimp only)

theorem State.stgDone_keeps {z s : State} (e : Nat) (evt : Bool) (hk : Keeps z s) : Keeps z (State.stgDone s e evt) := by
  unfold State.stgDone
  try dsimp only
  with_reducible repeat' first | exact hk | exact Keeps.refl _ | apply State.bump_keeps | apply State.stgEvent_keeps | apply Keeps.ite | split | (intro v; try dsimp only)

theorem State.memWrite_keeps {z s : State} (mem a : Nat) (bs : List Byte) (hk : Keeps z s) : Keeps z (State.memWrite s mem a bs) := by
  unfold State.memWrite
  try dsimp only
  repeat' first | with_reducible exact hk | with_reducible exact Keeps.refl _ | with_reducible apply State.send_keeps | with_reducible apply State.hearthWrite_keeps | with_reducible apply State.hbmWrite_keeps | with_reducible apply Keeps.ite | split | with_reducible apply Keeps.fields | with_reducible apply Keeps.upd | exact List.prefix_rfl | exact Nat.le_refl _ | exact id | exact fun w => SMap.wf_put _ _ w | exact fun w => SMap.wf_update _ _ w | exact fun w => SMap.wf_filter _ w | exact fun w => wf_writeBytes _ _ w | exact fun _ => rfl | exact fun w => SMap.wf_map_filter (fun e => by split <;> rfl) w | (intro v; try dsimp only)

theorem State.memWriteSome_keeps {z s : State} (mem a : Nat) (bs : List Byte) (whole : Bool) (hk : Keeps z s) : Keeps z (State.memWriteSome s mem a bs whole) := by
  unfold State.memWriteSome
  try dsimp only
  with_reducible repeat' first | exact hk | exact Keeps.refl _ | apply State.useFree_keeps | apply State.memWrite_keeps | (apply Keeps.foldl; intro t x; try dsimp only) | (apply Keeps.foldl_fst; intro t x; try dsimp only) | apply Keeps.ite | split | (intro v; try dsimp only)

theorem State.acceptStg_keeps {z s : State} (p e : Nat) (d : StgDesc) (hk : Keeps z s) : Keeps z (State.acceptStg s p e d) := by
  unfold State.acceptStg
  try dsimp only
  repeat' first | with_reducible exact hk | with_reducible exact Keeps.refl _ | with_reducible apply State.setSeq_keeps | with_reducible apply State.setStg_keeps | with_reducible apply State.useFree_keeps | with_reducible apply State.inject_keeps | with_reducible apply State.hbmTouch_keeps | (with_reducible apply Keeps.foldl; intro t x; try dsimp only) | (with_reducible apply Keeps.foldl_fst; intro t x; try dsimp only) | with_reducible apply Keeps.ite | split | with_reducible apply Keeps.fields | with_reducible apply Keeps.upd | exact List.prefix_rfl | exact Nat.le_refl _ | exact id | exact fun w => SMap.wf_put _ _ w | exact fun w => SMap.wf_update _ _ w | exact fun w => SMap.wf_filter _ w | exact fun w => wf_writeBytes _ _ w | exact fun _ => rfl | exact fun w => SMap.wf_map_filter (fun e => by split <;> rfl) w | (intro v; try dsimp only)

theorem execDescriptorAccept_keeps {z s : State} (e : Fin 8) (p : SeqId) (hk : Keeps z s) : ResKeeps z (execDescriptorAccept e p s) := by
  unfold execDescriptorAccept
  try dsimp only
  repeat' first | with_reducible exact hk | with_reducible exact Keeps.refl _ | with_reducible apply State.setSeq_keeps | with_reducible apply State.refuseStg_keeps | with_reducible apply State.stgDone_keeps | with_reducible apply State.acceptStg_keeps | with_reducible apply ResKeeps.next | with_reducible apply ResKeeps.ite | with_reducible apply Keeps.ite | split | with_reducible apply Keeps.fields | with_reducible apply Keeps.upd | exact List.prefix_rfl | exact Nat.le_refl _ | exact id | exact fun w => SMap.wf_put _ _ w | exact fun w => SMap.wf_update _ _ w | exact fun w => SMap.wf_filter _ w | exact fun w => wf_writeBytes _ _ w | exact fun _ => rfl | exact fun w => SMap.wf_map_filter (fun e => by split <;> rfl) w | (intro v; try dsimp only)

theorem State.dropPackets_keeps {z s : State} (e slot : Nat) (hk : Keeps z s) : Keeps z (State.dropPackets s e slot) := by
  unfold State.dropPackets
  try dsimp only
  repeat' first | with_reducible exact hk | with_reducible exact Keeps.refl _ | with_reducible apply Keeps.ite | split | with_reducible apply Keeps.fields | with_reducible apply Keeps.upd | exact List.prefix_rfl | exact Nat.le_refl _ | exact id | exact fun w => SMap.wf_put _ _ w | exact fun w => SMap.wf_update _ _ w | exact fun w => SMap.wf_filter _ w | exact fun w => wf_writeBytes _ _ w | exact fun _ => rfl | exact fun w => SMap.wf_map_filter (fun e => by split <;> rfl) w | (intro v; try dsimp only)

theorem State.flush_keeps {z : State} (e slot : Nat) : ∀ (n : Nat) {s : State}, Keeps z s → Keeps z (State.flush e slot n s)
  | 0, _, hk => hk
  | n + 1, s, hk => by
    unfold State.flush
    split
    · exact hk
    · exact State.flush_keeps e slot n (State.deliver_keeps _ (State.clearWay_keeps _ _ hk))

theorem State.loseSome_keeps {z s : State} (e slot : Nat) (hk : Keeps z s) : Keeps z (State.loseSome s e slot) := by
  unfold State.loseSome
  try dsimp only
  repeat' first | with_reducible exact hk | with_reducible exact Keeps.refl _ | with_reducible apply State.useFree_keeps | with_reducible apply Keeps.ite | split | with_reducible apply Keeps.fields | (intro v; try dsimp only)

theorem State.storeOut_keeps {z s : State} (e : Nat) (x : Transfer) (ok : Bool) (hk : Keeps z s) : Keeps z (State.storeOut s e x ok) := by
  unfold State.storeOut
  try dsimp only
  with_reducible repeat' first | exact hk | exact Keeps.refl _ | apply State.memWriteSome_keeps | apply Keeps.ite | split | (intro v; try dsimp only)

theorem State.hbmFault_keeps {z s : State} (own : List SeqId) (a n : Nat) (hk : Keeps z s) : Keeps z (State.hbmFault s own a n) := by
  unfold State.hbmFault
  try dsimp only
  with_reducible repeat' first | exact hk | exact Keeps.refl _ | apply State.detectAll_keeps | apply State.hbmDataError_keeps | apply Keeps.ite | split | (intro v; try dsimp only)

theorem State.reportAer_keeps {z s : State} (r : Delivery) (hk : Keeps z s) : Keeps z (State.reportAer s r) := by
  unfold State.reportAer
  with_reducible repeat' first | exact hk | exact Keeps.refl _ | apply State.send_keeps | apply Keeps.ite | split | (intro v; try dsimp only)

theorem State.stgFault_keeps {z s : State} (e : Nat) (x : Transfer) (d : Delivery) (hk : Keeps z s) : Keeps z (State.stgFault s e x d) := by
  unfold State.stgFault
  try dsimp only
  repeat' first | with_reducible exact hk | with_reducible exact Keeps.refl _ | with_reducible apply State.detect_keeps | with_reducible apply State.useFree_keeps | with_reducible apply State.turfError_keeps | with_reducible apply State.hbmFault_keeps | with_reducible apply Keeps.ite | split | with_reducible apply Keeps.fields | with_reducible apply Keeps.upd | exact List.prefix_rfl | exact Nat.le_refl _ | exact id | exact fun w => SMap.wf_put _ _ w | exact fun w => SMap.wf_update _ _ w | exact fun w => SMap.wf_filter _ w | exact fun w => wf_writeBytes _ _ w | exact fun _ => rfl | exact fun w => SMap.wf_map_filter (fun e => by split <;> rfl) w | (intro v; try dsimp only)

theorem State.endTransfer_keeps {z s : State} (e : Nat) (x : Transfer) (bytes : List Byte) (r : Delivery) (hk : Keeps z s) : Keeps z (State.endTransfer s e x bytes r) := by
  unfold State.endTransfer
  try dsimp only
  with_reducible repeat' first | exact hk | exact Keeps.refl _ | apply State.set_keeps | apply State.setStg_keeps | apply State.inject_keeps | apply State.hbmTouch_keeps | apply State.stgDone_keeps | apply State.dropPackets_keeps | apply State.flush_keeps | apply State.loseSome_keeps | apply State.storeOut_keeps | apply State.stgFault_keeps | (apply Keeps.foldl; intro t x; try dsimp only) | (apply Keeps.foldl_fst; intro t x; try dsimp only) | apply Keeps.ite | split | (intro v; try dsimp only)

theorem execTransferComplete_keeps {z s : State} (e : Fin 8) (slot : Nat) (bytes : List Byte) (d : Delivery) (hk : Keeps z s) : ResKeeps z (execTransferComplete e slot bytes d s) := by
  unfold execTransferComplete
  try dsimp only
  repeat' first | with_reducible exact hk | with_reducible exact Keeps.refl _ | with_reducible apply State.reportAer_keeps | with_reducible apply State.endTransfer_keeps | with_reducible apply ResKeeps.next | with_reducible apply ResKeeps.ite | with_reducible apply Keeps.ite | split | with_reducible apply Keeps.fields | with_reducible apply Keeps.upd | exact List.prefix_rfl | exact Nat.le_refl _ | exact id | exact fun w => SMap.wf_put _ _ w | exact fun w => SMap.wf_update _ _ w | exact fun w => SMap.wf_filter _ w | exact fun w => wf_writeBytes _ _ w | exact fun _ => rfl | exact fun w => SMap.wf_map_filter (fun e => by split <;> rfl) w | (intro v; try dsimp only)

theorem State.resendBest_keeps {z s : State} (e : Nat) (x : Transfer) (hk : Keeps z s) : Keeps z (State.resendBest s e x) := by
  unfold State.resendBest
  try dsimp only
  repeat' first | with_reducible exact hk | with_reducible exact Keeps.refl _ | with_reducible apply State.putTransfer_keeps | with_reducible apply State.storeRows_keeps | (with_reducible apply Keeps.foldl; intro t x; try dsimp only) | (with_reducible apply Keeps.foldl_fst; intro t x; try dsimp only) | with_reducible apply Keeps.ite | split | with_reducible apply Keeps.fields | (intro v; try dsimp only)

theorem execStagingResend_keeps {z s : State} (e : Fin 8) (slot : Nat) (hk : Keeps z s) : ResKeeps z (execStagingResend e slot s) := by
  unfold execStagingResend
  try dsimp only
  repeat' first | with_reducible exact hk | with_reducible exact Keeps.refl _ | with_reducible apply State.set_keeps | with_reducible apply State.count_keeps | with_reducible apply State.putTransfer_keeps | with_reducible apply State.resendBest_keeps | with_reducible apply ResKeeps.next | with_reducible apply ResKeeps.ite | with_reducible apply Keeps.ite | split | with_reducible apply Keeps.fields | with_reducible apply Keeps.upd | exact List.prefix_rfl | exact Nat.le_refl _ | exact id | exact fun w => SMap.wf_put _ _ w | exact fun w => SMap.wf_update _ _ w | exact fun w => SMap.wf_filter _ w | exact fun w => wf_writeBytes _ _ w | exact fun _ => rfl | exact fun w => SMap.wf_map_filter (fun e => by split <;> rfl) w | (intro v; try dsimp only)

theorem State.cordMiss_keeps {z s : State} (p n tile port : Nat) (hk : Keeps z s) : Keeps z (State.cordMiss s p n tile port) := by
  unfold State.cordMiss
  with_reducible repeat' first | exact hk | exact Keeps.refl _ | apply State.count_keeps | apply State.violation_keeps | apply State.meshErr_keeps | apply Keeps.ite | split | (intro v; try dsimp only)

theorem State.reached_keeps {z s : State} (p f n : Nat) (bad : Bool) (hk : Keeps z s) : Keeps z (State.reached s p f n bad) := by
  unfold State.reached
  try dsimp only
  repeat' first | with_reducible exact hk | with_reducible exact Keeps.refl _ | with_reducible apply State.putTransfer_keeps | with_reducible apply Keeps.ite | split | with_reducible apply Keeps.fields | with_reducible apply Keeps.upd | exact List.prefix_rfl | exact Nat.le_refl _ | exact id | exact fun w => SMap.wf_put _ _ w | exact fun w => SMap.wf_update _ _ w | exact fun w => SMap.wf_filter _ w | exact fun w => wf_writeBytes _ _ w | exact fun _ => rfl | exact fun w => SMap.wf_map_filter (fun e => by split <;> rfl) w | (intro v; try dsimp only)

theorem State.flowTakes_keeps {z s : State} (l : LinkFlit) (head : FlowRx → Packet → FlowRx) {body : FlowRx → State → State}
    (hb : ∀ r t, Keeps t (body r t)) (hk : Keeps z s) : Keeps z (s.flowTakes l head body) := by
  unfold State.flowTakes
  dsimp only
  split
  · exact State.reached_keeps _ _ _ _ hk.fields
  · have h {v : FlowRx} : Keeps z (({ s with flows := SMap.put FlowRx.reset s.flows (4096 * l.part + l.flow) v } : State).reached l.part
      l.flow l.due l.bad) := State.reached_keeps _ _ _ _ hk.fields
    split
    · exact h
    · exact h.trans (hb _ _)

theorem State.exitT_keeps {z s : State} (l : LinkFlit) (hk : Keeps z s) : Keeps z (s.exitT l) := by
  unfold State.exitT
  refine State.flowTakes_keeps l _ (fun r t => ?_) hk
  cases s.bound l.part l.flow
  · exact Keeps.ite (State.setPart_keeps _ _ (Keeps.refl t)) (Keeps.foldl (fun u x => State.putRow_keeps x (Keeps.refl u)) _ (Keeps.refl t))
  · exact Keeps.ite (State.setPart_keeps _ _ (State.setStg_keeps _ _ (Keeps.refl t)))
      (Keeps.foldl (fun u x => State.putRow_keeps x (Keeps.refl u)) _ (State.setStg_keeps _ _ (Keeps.refl t)))

theorem State.exitX_keeps {z s : State} (l : LinkFlit) (hk : Keeps z s) : Keeps z (s.exitX l) := by
  unfold State.exitX
  refine State.flowTakes_keeps l _ (fun r t => ?_) hk
  dsimp only
  split
  · exact Keeps.refl t
  · exact State.putTransfer_keeps _ _ (Keeps.refl t)

theorem State.routeFlit_keeps {z s : State} (en : Nat) (l : LinkFlit) (hk : Keeps z s) : Keeps z (State.routeFlit s en l) := by
  unfold State.routeFlit
  try dsimp only
  repeat' first | with_reducible exact hk | with_reducible exact Keeps.refl _ | with_reducible apply State.cordMiss_keeps | with_reducible apply State.exitT_keeps | with_reducible apply State.exitX_keeps | with_reducible apply Keeps.ite | split | with_reducible apply Keeps.fields | (intro v; try dsimp only)

theorem execReservedFlitArrival_keeps {z s : State} (tile : TileId) (port : Fin 8) (p : SeqId) (flit : W256) (hk : Keeps z s) : ResKeeps z (execReservedFlitArrival tile port p flit s) := by
  unfold execReservedFlitArrival
  try dsimp only
  repeat' first | with_reducible exact hk | with_reducible exact Keeps.refl _ | with_reducible apply State.useFree_keeps | with_reducible apply State.putTransfer_keeps | with_reducible apply State.hbmTouch_keeps | with_reducible apply State.cordMiss_keeps | with_reducible apply State.routeFlit_keeps | with_reducible apply ResKeeps.next | with_reducible apply ResKeeps.ite | with_reducible apply Keeps.ite | split | with_reducible apply Keeps.fields | with_reducible apply Keeps.upd | exact List.prefix_rfl | exact Nat.le_refl _ | exact id | exact fun w => SMap.wf_put _ _ w | exact fun w => SMap.wf_update _ _ w | exact fun w => SMap.wf_filter _ w | exact fun w => wf_writeBytes _ _ w | exact fun _ => rfl | exact fun w => SMap.wf_map_filter (fun e => by split <;> rfl) w | (intro v; try dsimp only)

theorem State.writePart_keeps {z s : State} (header : List Byte) (p die base bit0 len : Nat) (hk : Keeps z s) : Keeps z (State.writePart s header p die base bit0 len) := by
  unfold State.writePart
  try dsimp only
  with_reducible repeat' first | exact hk | exact Keeps.refl _ | apply State.fetchRows_keeps | apply State.hbmWrite_keeps | (apply Keeps.foldl; intro t x; try dsimp only) | (apply Keeps.foldl_fst; intro t x; try dsimp only) | apply Keeps.ite | split | (intro v; try dsimp only)

theorem execCheckpoint_keeps {z s : State} (p : SeqId) (hk : Keeps z s) : ResKeeps z (execCheckpoint p s) := by
  unfold execCheckpoint
  try dsimp only
  repeat' first | with_reducible exact hk | with_reducible exact Keeps.refl _ | with_reducible apply State.set_keeps | with_reducible apply State.setSeq_keeps | with_reducible apply State.useFree_keeps | with_reducible apply State.writePart_keeps | with_reducible apply ResKeeps.next | (with_reducible apply Keeps.foldl; intro t x; try dsimp only) | (with_reducible apply Keeps.foldl_fst; intro t x; try dsimp only) | with_reducible apply ResKeeps.ite | with_reducible apply Keeps.ite | split | with_reducible apply Keeps.fields | with_reducible apply Keeps.upd | exact List.prefix_rfl | exact Nat.le_refl _ | exact id | exact fun w => SMap.wf_put _ _ w | exact fun w => SMap.wf_update _ _ w | exact fun w => SMap.wf_filter _ w | exact fun w => wf_writeBytes _ _ w | exact fun _ => rfl | exact fun w => SMap.wf_map_filter (fun e => by split <;> rfl) w | (intro v; try dsimp only)

theorem execCheckpointComplete_keeps {z s : State} (p : SeqId) (hk : Keeps z s) : ResKeeps z (execCheckpointComplete p s) := by
  unfold execCheckpointComplete
  try dsimp only
  repeat' first | with_reducible exact hk | with_reducible exact Keeps.refl _ | with_reducible apply State.set_keeps | with_reducible apply State.setSeq_keeps | with_reducible apply State.setStg_keeps | with_reducible apply State.stgDone_keeps | with_reducible apply ResKeeps.next | with_reducible apply ResKeeps.ite | with_reducible apply Keeps.ite | split | with_reducible apply Keeps.fields | with_reducible apply Keeps.upd | exact List.prefix_rfl | exact Nat.le_refl _ | exact id | exact fun w => SMap.wf_put _ _ w | exact fun w => SMap.wf_update _ _ w | exact fun w => SMap.wf_filter _ w | exact fun w => wf_writeBytes _ _ w | exact fun _ => rfl | exact fun w => SMap.wf_map_filter (fun e => by split <;> rfl) w | (intro v; try dsimp only)

end Sys2Proof.Machine
end

