-- ==== Sys2Proof/Laws/KeepsDma.lean ====
section
/-!
SUPPORT. What each operation of Machine/Dma.lean keeps.
-/
namespace Sys2Proof.Machine

theorem State.planeFetch_keeps {z s : State} (c a n : Nat) (hk : Keeps z s) : Keeps z (State.planeFetch s c a n).1 := by
  unfold State.planeFetch
  try dsimp only
  with_reducible repeat' first | exact hk | exact Keeps.refl _ | apply State.fetchRows_keeps | (apply Keeps.foldl; intro t x; try dsimp only) | (apply Keeps.foldl_fst; intro t x; try dsimp only) | apply Keeps.ite | apply Keeps.ite | split | (intro v; try dsimp only)

theorem State.planeStore_keeps {z s : State} (c a : Nat) (bs : List Byte) (hk : Keeps z s) : Keeps z (State.planeStore s c a bs) := by
  unfold State.planeStore
  try dsimp only
  with_reducible repeat' first | exact hk | exact Keeps.refl _ | apply State.storeRows_keeps | (apply Keeps.foldl; intro t x; try dsimp only) | (apply Keeps.foldl_fst; intro t x; try dsimp only) | apply Keeps.ite | split | (intro v; try dsimp only)

theorem State.spaceFetch_keeps {z s : State} (c space a n : Nat) (hk : Keeps z s) : Keeps z (State.spaceFetch s c space a n).1 := by
  unfold State.spaceFetch
  try dsimp only
  repeat' first | with_reducible exact hk | with_reducible exact Keeps.refl _ | with_reducible apply State.hbmTouch_keeps | with_reducible apply State.planeFetch_keeps | with_reducible apply Keeps.ite | with_reducible apply Keeps.ite | split | with_reducible apply Keeps.fields | with_reducible apply Keeps.upd | exact List.prefix_rfl | exact Nat.le_refl _ | exact id | exact fun w => SMap.wf_put _ _ w | exact fun w => SMap.wf_update _ _ w | exact fun w => SMap.wf_filter _ w | exact fun w => wf_writeBytes _ _ w | exact fun _ => rfl | exact fun w => SMap.wf_map_filter (fun e => by split <;> rfl) w | (intro v; try dsimp only)

theorem State.setStream_keeps {z s : State} (n : Nat) (bs : List Byte) (hk : Keeps z s) : Keeps z (State.setStream s n bs) := by
  unfold State.setStream
  try dsimp only
  repeat' first | with_reducible exact hk | with_reducible exact Keeps.refl _ | with_reducible apply State.set_keeps | with_reducible apply Keeps.ite | split | with_reducible apply Keeps.fields | (intro v; try dsimp only)

theorem State.spaceWrite_keeps {z s : State} (c space a : Nat) (bs : List Byte) (hk : Keeps z s) : Keeps z (State.spaceWrite s c space a bs) := by
  unfold State.spaceWrite
  try dsimp only
  repeat' first | with_reducible exact hk | with_reducible exact Keeps.refl _ | with_reducible apply State.send_keeps | with_reducible apply State.hearthWrite_keeps | with_reducible apply State.hbmWrite_keeps | with_reducible apply State.planeStore_keeps | with_reducible apply State.setStream_keeps | with_reducible apply Keeps.ite | split | with_reducible apply Keeps.fields | with_reducible apply Keeps.upd | exact List.prefix_rfl | exact Nat.le_refl _ | exact id | exact fun w => SMap.wf_put _ _ w | exact fun w => SMap.wf_update _ _ w | exact fun w => SMap.wf_filter _ w | exact fun w => wf_writeBytes _ _ w | exact fun _ => rfl | exact fun w => SMap.wf_map_filter (fun e => by split <;> rfl) w | (intro v; try dsimp only)

theorem State.moved_keeps {z s : State} (c n : Nat) (hk : Keeps z s) : Keeps z (State.moved s c n) := by
  unfold State.moved
  try dsimp only
  repeat' first | with_reducible exact hk | with_reducible exact Keeps.refl _ | with_reducible apply Keeps.ite | split | with_reducible apply Keeps.fields | (intro v; try dsimp only)

theorem State.dmaError_keeps {z s : State} (c code : Nat) (hk : Keeps z s) : Keeps z (State.dmaError s c code) := by
  unfold State.dmaError
  with_reducible repeat' first | exact hk | exact Keeps.refl _ | apply State.set_keeps | apply State.raise_keeps | apply State.moved_keeps | apply Keeps.ite | split | (intro v; try dsimp only)

theorem State.dmaNext_keeps {z s : State} (c : Nat) (d : DmaDesc) (hk : Keeps z s) : Keeps z (State.dmaNext s c d) := by
  unfold State.dmaNext
  try dsimp only
  with_reducible repeat' first | exact hk | exact Keeps.refl _ | apply State.setReg_keeps | apply State.set_keeps | apply State.bump_keeps | apply State.raise_keeps | apply State.moved_keeps | apply Keeps.ite | split | (intro v; try dsimp only)

theorem State.dmaMove_keeps {z s : State} (c : Nat) (d : DmaDesc) (given : List Byte) (off n : Nat) (hk : Keeps z s) : Keeps z (State.dmaMove s c d given off n) := by
  unfold State.dmaMove
  try dsimp only
  with_reducible repeat' first | exact hk | exact Keeps.refl _ | apply State.spaceFetch_keeps | apply State.setStream_keeps | apply State.spaceWrite_keeps | apply Keeps.ite | split | (intro v; try dsimp only)

theorem State.dmaBlocks_keeps {z s : State} (c : Nat) (d : DmaDesc) (given : List Byte) (keep : Nat → Nat × Nat → Bool) (hk : Keeps z s) : Keeps z (State.dmaBlocks s c d given keep) := by
  unfold State.dmaBlocks
  with_reducible repeat' first | exact hk | exact Keeps.refl _ | apply State.dmaMove_keeps | (apply Keeps.foldl; intro t x; try dsimp only) | (apply Keeps.foldl_fst; intro t x; try dsimp only) | apply Keeps.ite | split | (intro v; try dsimp only)

theorem State.dmaSome_keeps {z s : State} (c : Nat) (d : DmaDesc) (given : List Byte) (hk : Keeps z s) : Keeps z (State.dmaSome s c d given) := by
  unfold State.dmaSome
  with_reducible repeat' first | exact hk | exact Keeps.refl _ | apply State.useFree_keeps | apply State.dmaBlocks_keeps | apply Keeps.ite | split | (intro v; try dsimp only)

theorem State.dmaDesc_keeps {z s : State} (c : Nat) (given : List Byte) (hk : Keeps z s) : Keeps z (State.dmaDesc s c given).1 := by
  unfold State.dmaDesc
  try dsimp only
  with_reducible repeat' first | exact hk | exact Keeps.refl _ | apply State.spaceFetch_keeps | apply Keeps.ite | apply Keeps.ite | split | (intro v; try dsimp only)

theorem State.dmaDataFault_keeps {z s : State} (c : Nat) (d : DmaDesc) (hk : Keeps z s) : Keeps z (State.dmaDataFault s c d) := by
  unfold State.dmaDataFault
  try dsimp only
  repeat' first | with_reducible exact hk | with_reducible exact Keeps.refl _ | with_reducible apply State.detect_keeps | with_reducible apply State.useFree_keeps | with_reducible apply State.turfError_keeps | with_reducible apply State.hbmFault_keeps | with_reducible apply Keeps.ite | split | with_reducible apply Keeps.fields | with_reducible apply Keeps.upd | exact List.prefix_rfl | exact Nat.le_refl _ | exact id | exact fun w => SMap.wf_put _ _ w | exact fun w => SMap.wf_update _ _ w | exact fun w => SMap.wf_filter _ w | exact fun w => wf_writeBytes _ _ w | exact fun _ => rfl | exact fun w => SMap.wf_map_filter (fun e => by split <;> rfl) w | (intro v; try dsimp only)

theorem execDmaStart_keeps {z s : State} (c : Fin 16) (hk : Keeps z s) : ResKeeps z (execDmaStart c s) := by
  unfold execDmaStart
  try dsimp only
  with_reducible repeat' first | exact hk | exact Keeps.refl _ | apply State.setReg_keeps | apply State.set_keeps | apply State.moved_keeps | apply ResKeeps.next | apply ResKeeps.ite | apply Keeps.ite | split | (intro v; try dsimp only)

theorem State.dmaStop_keeps {z s : State} (c : Nat) (desc bytes : List Byte) (hk : Keeps z s) : Keeps z (State.dmaStop s c desc bytes) := by
  unfold State.dmaStop
  try dsimp only
  with_reducible repeat' first | exact hk | exact Keeps.refl _ | apply State.set_keeps | apply State.useFree_keeps | apply State.moved_keeps | apply State.dmaBlocks_keeps | apply State.dmaDesc_keeps | apply Keeps.ite | split | (intro v; try dsimp only)

theorem execDmaAbort_keeps {z s : State} (x : DmaStop) (hk : Keeps z s) : ResKeeps z (execDmaAbort x s) := by
  unfold execDmaAbort
  with_reducible repeat' first | exact hk | exact Keeps.refl _ | apply State.dmaStop_keeps | apply ResKeeps.next | apply ResKeeps.ite | apply Keeps.ite | split | (intro v; try dsimp only)

theorem execDmaDescriptorComplete_keeps {z s : State} (c : Fin 16) (desc bytes : List Byte) (r : Delivery) (hk : Keeps z s) : ResKeeps z (execDmaDescriptorComplete c desc bytes r s) := by
  unfold execDmaDescriptorComplete
  try dsimp only
  repeat' first | with_reducible exact hk | with_reducible exact Keeps.refl _ | with_reducible apply State.send_keeps | with_reducible apply State.reportAer_keeps | with_reducible apply State.moved_keeps | with_reducible apply State.dmaError_keeps | with_reducible apply State.dmaNext_keeps | with_reducible apply State.dmaMove_keeps | with_reducible apply State.dmaSome_keeps | with_reducible apply State.dmaDesc_keeps | with_reducible apply State.dmaDataFault_keeps | with_reducible apply ResKeeps.next | with_reducible apply ResKeeps.ite | with_reducible apply Keeps.ite | split | with_reducible apply Keeps.fields | with_reducible apply Keeps.upd | exact List.prefix_rfl | exact Nat.le_refl _ | exact id | exact fun w => SMap.wf_put _ _ w | exact fun w => SMap.wf_update _ _ w | exact fun w => SMap.wf_filter _ w | exact fun w => wf_writeBytes _ _ w | exact fun _ => rfl | exact fun w => SMap.wf_map_filter (fun e => by split <;> rfl) w | (intro v; try dsimp only)

end Sys2Proof.Machine
end

