-- ==== Sys2Proof/Laws/KeepsEdgeLogic.lean ====
section
/-!
SUPPORT. What each operation of Machine/EdgeLogic.lean keeps.
-/
namespace Sys2Proof.Machine

theorem State.edgeClock_keeps {z s : State} (v : EdgeInputs) (ns : List Nat) (hk : Keeps z s) : Keeps z (State.edgeClock s v ns) := by
  unfold State.edgeClock
  try dsimp only
  repeat' first | with_reducible exact hk | with_reducible exact Keeps.refl _ | with_reducible apply State.set_keeps | with_reducible apply State.useFree_keeps | (with_reducible apply Keeps.foldl; intro t x; try dsimp only) | (with_reducible apply Keeps.foldl_fst; intro t x; try dsimp only) | (with_reducible apply State.each_keeps; intro i t; try dsimp only) | with_reducible apply Keeps.ite | split | with_reducible apply Keeps.fields | with_reducible apply Keeps.upd | exact List.prefix_rfl | exact Nat.le_refl _ | exact id | exact fun w => SMap.wf_put _ _ w | exact fun w => SMap.wf_update _ _ w | exact fun w => SMap.wf_filter _ w | exact fun w => wf_writeBytes _ _ w | exact fun _ => rfl | exact fun w => SMap.wf_map_filter (fun e => by split <;> rfl) w | (intro v; try dsimp only)

theorem State.edgeDrive_keeps {z s : State} (v : EdgeInputs) (hk : Keeps z s) : Keeps z (State.edgeDrive s v) := by
  unfold State.edgeDrive
  try dsimp only
  repeat' first | with_reducible exact hk | with_reducible exact Keeps.refl _ | with_reducible apply Keeps.ite | split | with_reducible apply Keeps.fields | with_reducible apply Keeps.upd | exact List.prefix_rfl | exact Nat.le_refl _ | exact id | exact fun w => SMap.wf_put _ _ w | exact fun w => SMap.wf_update _ _ w | exact fun w => SMap.wf_filter _ w | exact fun w => wf_writeBytes _ _ w | exact fun _ => rfl | exact fun w => SMap.wf_map_filter (fun e => by split <;> rfl) w | (intro v; try dsimp only)

theorem State.evRise_keeps {z s : State} (i : Nat) (hk : Keeps z s) : Keeps z (State.evRise s i) := by
  unfold State.evRise
  try dsimp only
  with_reducible repeat' first | exact hk | exact Keeps.refl _ | apply State.raise_keeps | apply Keeps.ite | split | (intro v; try dsimp only)

theorem State.countCapture_keeps {z s : State} (ns : List Nat) (hk : Keeps z s) : Keeps z (State.countCapture s ns) := by
  unfold State.countCapture
  try dsimp only
  repeat' first | with_reducible exact hk | with_reducible exact Keeps.refl _ | with_reducible apply State.takeCapture_keeps | with_reducible apply Keeps.ite | split | with_reducible apply Keeps.fields | with_reducible apply Keeps.upd | exact List.prefix_rfl | exact Nat.le_refl _ | exact id | exact fun w => SMap.wf_put _ _ w | exact fun w => SMap.wf_update _ _ w | exact fun w => SMap.wf_filter _ w | exact fun w => wf_writeBytes _ _ w | exact fun _ => rfl | exact fun w => SMap.wf_map_filter (fun e => by split <;> rfl) w | (intro v; try dsimp only)

theorem State.edgeCycle_keeps {z s : State}  (hk : Keeps z s) : Keeps z (State.edgeCycle s) := by
  unfold State.edgeCycle
  try dsimp only
  repeat' first | with_reducible exact hk | with_reducible exact Keeps.refl _ | with_reducible apply State.useFree_keeps | with_reducible apply State.edgeClock_keeps | with_reducible apply State.edgeDrive_keeps | with_reducible apply State.evRise_keeps | with_reducible apply State.countCapture_keeps | (with_reducible apply State.each_keeps; intro i t; try dsimp only) | with_reducible apply Keeps.ite | split | with_reducible apply Keeps.fields | (intro v; try dsimp only)

end Sys2Proof.Machine
end

