-- ==== Sys2Proof/Laws/KeepsKindling.lean ====
section
/-!
SUPPORT. What each operation of Machine/Kindling.lean keeps.
-/
namespace Sys2Proof.Machine

/-- What a channel's instruction keeps, where it completes. -/
def KOutKeeps (a : State) (r : KOut) : Prop := ∀ o, r = some o → Keeps a o.1

theorem KOutKeeps.none (a : State) : KOutKeeps a none := fun _ h => nomatch h
theorem KOutKeeps.ite {a : State} {c : Prop} [Decidable c] {r q : KOut} (h : KOutKeeps a r) (k : KOutKeeps a q) :
    KOutKeeps a (if c then r else q) := by split <;> assumption
theorem KOutKeeps.some {a t : State} {n : Nat} (h : Keeps a t) : KOutKeeps a (some (t, n)) := by
  intro o ho
  cases ho
  exact h

theorem State.rxPut_keeps {z s : State} (c : Nat) (ws : List W32) (hk : Keeps z s) : Keeps z (State.rxPut s c ws) := by
  unfold State.rxPut
  try dsimp only
  repeat' first | with_reducible exact hk | with_reducible exact Keeps.refl _ | with_reducible apply State.setKch_keeps | with_reducible apply Keeps.ite | split | with_reducible apply Keeps.fields | (intro v; try dsimp only)

theorem State.see_keeps {z s : State} (lines : BitVec 176) (hk : Keeps z s) : Keeps z (State.see s lines) := by
  unfold State.see
  try dsimp only
  repeat' first | with_reducible exact hk | with_reducible exact Keeps.refl _ | with_reducible apply Keeps.ite | split | with_reducible apply Keeps.fields | (intro v; try dsimp only)

theorem State.kWrite_keeps {z s : State} (c i : Nat) (v : Bool) (hk : Keeps z s) : Keeps z (State.kWrite s c i v) := by
  unfold State.kWrite
  try dsimp only
  repeat' first | with_reducible exact hk | with_reducible exact Keeps.refl _ | with_reducible apply State.setKch_keeps | with_reducible apply Keeps.ite | split | with_reducible apply Keeps.fields | (intro v; try dsimp only)

theorem State.kWrites_keeps {z s : State} (c base n : Nat) (f : Nat → Bool) (hk : Keeps z s) : Keeps z (State.kWrites s c base n f) := by
  unfold State.kWrites
  with_reducible repeat' first | exact hk | exact Keeps.refl _ | apply State.kWrite_keeps | (apply Keeps.foldl; intro t x; try dsimp only) | (apply Keeps.foldl_fst; intro t x; try dsimp only) | apply Keeps.ite | split | (intro v; try dsimp only)

theorem State.setTxs_keeps {z s : State} (c v : Nat) (hk : Keeps z s) : Keeps z (State.setTxs s c v) := by
  unfold State.setTxs
  with_reducible repeat' first | exact hk | exact Keeps.refl _ | apply State.set_keeps | apply Keeps.ite | split | (intro v; try dsimp only)

theorem State.takeWord_keeps {z s : State} (c : Nat) (hk : Keeps z s) : Keeps z (State.takeWord s c) := by
  unfold State.takeWord
  try dsimp only
  repeat' first | with_reducible exact hk | with_reducible exact Keeps.refl _ | with_reducible apply State.set_keeps | with_reducible apply State.setKch_keeps | with_reducible apply State.setTxs_keeps | with_reducible apply Keeps.ite | split | with_reducible apply Keeps.fields | with_reducible apply Keeps.upd | exact List.prefix_rfl | exact Nat.le_refl _ | exact id | exact fun w => SMap.wf_put _ _ w | exact fun w => SMap.wf_update _ _ w | exact fun w => SMap.wf_filter _ w | exact fun w => wf_writeBytes _ _ w | exact fun _ => rfl | exact fun w => SMap.wf_map_filter (fun e => by split <;> rfl) w | (intro v; try dsimp only)

theorem State.giveWord_keeps {z s : State} (c : Nat) (hk : Keeps z s) : Keeps z (State.giveWord s c) := by
  unfold State.giveWord
  with_reducible repeat' first | exact hk | exact Keeps.refl _ | apply State.set_keeps | apply State.rxPut_keeps | apply Keeps.ite | split | (intro v; try dsimp only)

theorem kNop_keeps {z s : State} (c _w : Nat) (x1 : BitVec 176) (hk : Keeps z s) : KOutKeeps z (kNop c _w x1 s) := by
  unfold kNop
  with_reducible repeat' first | exact hk | exact Keeps.refl _ | apply KOutKeeps.some | exact KOutKeeps.none _ | apply KOutKeeps.ite | apply Keeps.ite | split | (intro v; try dsimp only)

theorem kBr_keeps {z s : State} (c w : Nat) (lines : BitVec 176) (hk : Keeps z s) : KOutKeeps z (kBr c w lines s) := by
  unfold kBr
  try dsimp only
  repeat' first | with_reducible exact hk | with_reducible exact Keeps.refl _ | with_reducible apply State.set_keeps | with_reducible apply KOutKeeps.some | with_reducible exact KOutKeeps.none _ | with_reducible apply KOutKeeps.ite | with_reducible apply Keeps.ite | split | with_reducible apply Keeps.fields | with_reducible apply Keeps.upd | exact List.prefix_rfl | exact Nat.le_refl _ | exact id | exact fun w => SMap.wf_put _ _ w | exact fun w => SMap.wf_update _ _ w | exact fun w => SMap.wf_filter _ w | exact fun w => wf_writeBytes _ _ w | exact fun _ => rfl | exact fun w => SMap.wf_map_filter (fun e => by split <;> rfl) w | (intro v; try dsimp only)

theorem kWait_keeps {z s : State} (c w : Nat) (lines : BitVec 176) (hk : Keeps z s) : KOutKeeps z (kWait c w lines s) := by
  unfold kWait
  try dsimp only
  repeat' first | with_reducible exact hk | with_reducible exact Keeps.refl _ | with_reducible apply State.set_keeps | with_reducible apply KOutKeeps.some | with_reducible exact KOutKeeps.none _ | with_reducible apply KOutKeeps.ite | with_reducible apply Keeps.ite | split | with_reducible apply Keeps.fields | with_reducible apply Keeps.upd | exact List.prefix_rfl | exact Nat.le_refl _ | exact id | exact fun w => SMap.wf_put _ _ w | exact fun w => SMap.wf_update _ _ w | exact fun w => SMap.wf_filter _ w | exact fun w => wf_writeBytes _ _ w | exact fun _ => rfl | exact fun w => SMap.wf_map_filter (fun e => by split <;> rfl) w | (intro v; try dsimp only)

theorem kSleep_keeps {z s : State} (c w : Nat) (x1 : BitVec 176) (hk : Keeps z s) : KOutKeeps z (kSleep c w x1 s) := by
  unfold kSleep
  with_reducible repeat' first | exact hk | exact Keeps.refl _ | apply State.set_keeps | apply KOutKeeps.some | exact KOutKeeps.none _ | apply KOutKeeps.ite | apply Keeps.ite | split | (intro v; try dsimp only)

theorem kSho_keeps {z s : State} (c w : Nat) (x1 : BitVec 176) (hk : Keeps z s) : KOutKeeps z (kSho c w x1 s) := by
  unfold kSho
  try dsimp only
  with_reducible repeat' first | exact hk | exact Keeps.refl _ | apply State.set_keeps | apply State.kWrites_keeps | apply State.takeWord_keeps | apply KOutKeeps.some | exact KOutKeeps.none _ | apply KOutKeeps.ite | apply Keeps.ite | split | (intro v; try dsimp only)

theorem kShi_keeps {z s : State} (c w : Nat) (lines : BitVec 176) (hk : Keeps z s) : KOutKeeps z (kShi c w lines s) := by
  unfold kShi
  try dsimp only
  with_reducible repeat' first | exact hk | exact Keeps.refl _ | apply State.set_keeps | apply State.giveWord_keeps | apply KOutKeeps.some | exact KOutKeeps.none _ | apply KOutKeeps.ite | apply Keeps.ite | split | (intro v; try dsimp only)

theorem kTake_keeps {z s : State} (c w : Nat) (x1 : BitVec 176) (hk : Keeps z s) : KOutKeeps z (kTake c w x1 s) := by
  unfold kTake
  with_reducible repeat' first | exact hk | exact Keeps.refl _ | apply State.set_keeps | apply State.setTxs_keeps | apply State.takeWord_keeps | apply KOutKeeps.some | exact KOutKeeps.none _ | apply KOutKeeps.ite | apply Keeps.ite | split | (intro v; try dsimp only)

theorem kGive_keeps {z s : State} (c w : Nat) (x1 : BitVec 176) (hk : Keeps z s) : KOutKeeps z (kGive c w x1 s) := by
  unfold kGive
  try dsimp only
  with_reducible repeat' first | exact hk | exact Keeps.refl _ | apply State.set_keeps | apply State.count_keeps | apply State.giveWord_keeps | apply KOutKeeps.some | exact KOutKeeps.none _ | apply KOutKeeps.ite | apply Keeps.ite | split | (intro v; try dsimp only)

theorem kDrv_keeps {z s : State} (c w : Nat) (x1 : BitVec 176) (hk : Keeps z s) : KOutKeeps z (kDrv c w x1 s) := by
  unfold kDrv
  try dsimp only
  with_reducible repeat' first | exact hk | exact Keeps.refl _ | apply State.kWrites_keeps | apply KOutKeeps.some | exact KOutKeeps.none _ | apply KOutKeeps.ite | apply Keeps.ite | split | (intro v; try dsimp only)

theorem kSmp_keeps {z s : State} (c w : Nat) (lines : BitVec 176) (hk : Keeps z s) : KOutKeeps z (kSmp c w lines s) := by
  unfold kSmp
  with_reducible repeat' first | exact hk | exact Keeps.refl _ | apply State.set_keeps | apply KOutKeeps.some | exact KOutKeeps.none _ | apply KOutKeeps.ite | apply Keeps.ite | split | (intro v; try dsimp only)

theorem State.kDirect_keeps {z s : State} (c i : Nat) (v : Bool) (hk : Keeps z s) : Keeps z (State.kDirect s c i v) := by
  unfold State.kDirect
  try dsimp only
  repeat' first | with_reducible exact hk | with_reducible exact Keeps.refl _ | with_reducible apply Keeps.ite | split | with_reducible apply Keeps.fields | (intro v; try dsimp only)

theorem kDir_keeps {z s : State} (c w : Nat) (x1 : BitVec 176) (hk : Keeps z s) : KOutKeeps z (kDir c w x1 s) := by
  unfold kDir
  try dsimp only
  with_reducible repeat' first | exact hk | exact Keeps.refl _ | apply State.kDirect_keeps | apply KOutKeeps.some | exact KOutKeeps.none _ | (apply Keeps.foldl; intro t x; try dsimp only) | (apply Keeps.foldl_fst; intro t x; try dsimp only) | apply KOutKeeps.ite | apply Keeps.ite | split | (intro v; try dsimp only)

theorem kLdi_keeps {z s : State} (c w : Nat) (x1 : BitVec 176) (hk : Keeps z s) : KOutKeeps z (kLdi c w x1 s) := by
  unfold kLdi
  try dsimp only
  repeat' first | with_reducible exact hk | with_reducible exact Keeps.refl _ | with_reducible apply State.set_keeps | with_reducible apply State.setTxs_keeps | with_reducible apply KOutKeeps.some | with_reducible exact KOutKeeps.none _ | with_reducible apply KOutKeeps.ite | with_reducible apply Keeps.ite | split | with_reducible apply Keeps.fields | with_reducible apply Keeps.upd | exact List.prefix_rfl | exact Nat.le_refl _ | exact id | exact fun w => SMap.wf_put _ _ w | exact fun w => SMap.wf_update _ _ w | exact fun w => SMap.wf_filter _ w | exact fun w => wf_writeBytes _ _ w | exact fun _ => rfl | exact fun w => SMap.wf_map_filter (fun e => by split <;> rfl) w | (intro v; try dsimp only)

theorem kOpr_keeps {z s : State} (c w : Nat) (x1 : BitVec 176) (hk : Keeps z s) : KOutKeeps z (kOpr c w x1 s) := by
  unfold kOpr
  try dsimp only
  repeat' first | with_reducible exact hk | with_reducible exact Keeps.refl _ | with_reducible apply State.set_keeps | with_reducible apply State.setTxs_keeps | with_reducible apply KOutKeeps.some | with_reducible exact KOutKeeps.none _ | with_reducible apply KOutKeeps.ite | with_reducible apply Keeps.ite | split | with_reducible apply Keeps.fields | with_reducible apply Keeps.upd | exact List.prefix_rfl | exact Nat.le_refl _ | exact id | exact fun w => SMap.wf_put _ _ w | exact fun w => SMap.wf_update _ _ w | exact fun w => SMap.wf_filter _ w | exact fun w => wf_writeBytes _ _ w | exact fun _ => rfl | exact fun w => SMap.wf_map_filter (fun e => by split <;> rfl) w | (intro v; try dsimp only)

theorem kArm_keeps {z s : State} (c w : Nat) (x1 : BitVec 176) (hk : Keeps z s) : KOutKeeps z (kArm c w x1 s) := by
  unfold kArm
  try dsimp only
  with_reducible repeat' first | exact hk | exact Keeps.refl _ | apply State.set_keeps | apply KOutKeeps.some | exact KOutKeeps.none _ | apply KOutKeeps.ite | apply Keeps.ite | split | (intro v; try dsimp only)

theorem kStmp_keeps {z s : State} (c w : Nat) (x1 : BitVec 176) (hk : Keeps z s) : KOutKeeps z (kStmp c w x1 s) := by
  unfold kStmp
  try dsimp only
  with_reducible repeat' first | exact hk | exact Keeps.refl _ | apply State.set_keeps | apply State.count_keeps | apply State.rxPut_keeps | apply KOutKeeps.some | exact KOutKeeps.none _ | apply KOutKeeps.ite | apply Keeps.ite | split | (intro v; try dsimp only)

theorem kEvt_keeps {z s : State} (c _w : Nat) (x1 : BitVec 176) (hk : Keeps z s) : KOutKeeps z (kEvt c _w x1 s) := by
  unfold kEvt
  with_reducible repeat' first | exact hk | exact Keeps.refl _ | apply State.raise_keeps | apply KOutKeeps.some | exact KOutKeeps.none _ | apply KOutKeeps.ite | apply Keeps.ite | split | (intro v; try dsimp only)

theorem State.kPass_keeps {z s : State} (c : Nat) (hk : Keeps z s) : Keeps z (State.kPass s c) := by
  unfold State.kPass
  try dsimp only
  repeat' first | with_reducible exact hk | with_reducible exact Keeps.refl _ | with_reducible apply State.setKeng_keeps | with_reducible apply Keeps.ite | split | with_reducible apply Keeps.fields | with_reducible apply Keeps.upd | exact List.prefix_rfl | exact Nat.le_refl _ | exact id | exact fun w => SMap.wf_put _ _ w | exact fun w => SMap.wf_update _ _ w | exact fun w => SMap.wf_filter _ w | exact fun w => wf_writeBytes _ _ w | exact fun _ => rfl | exact fun w => SMap.wf_map_filter (fun e => by split <;> rfl) w | (intro v; try dsimp only)

theorem State.kParity_keeps {z s : State} (e : Nat) (hk : Keeps z s) : Keeps z (State.kParity s e) := by
  unfold State.kParity
  with_reducible repeat' first | exact hk | exact Keeps.refl _ | apply State.set_keeps | apply State.raise_keeps | apply Keeps.ite | split | (intro v; try dsimp only)

theorem State.kRun_keeps {z s : State} (c op : Nat) {body : Nat → Nat → BitVec 176 → State → KOut}
    (hb : ∀ w l, KOutKeeps s (body c w l s)) (hk : Keeps z s) : Keeps z (s.kRun c op body) := by
  unfold State.kRun
  dsimp only
  split
  · exact State.kParity_keeps _ hk
  · split
    · exact hk
    · split
      · exact hk
      · exact State.kPass_keeps _ (State.set_keeps _ _ (State.set_keeps _ _ (hk.trans (hb _ _ _ (by assumption)))))

theorem execKindlingNop_keeps {z s : State} (c : Fin 128) (hk : Keeps z s) : ResKeeps z (execKindlingNop c s) := by
  unfold execKindlingNop
  with_reducible repeat' first | exact hk | exact Keeps.refl _ | apply kNop_keeps | apply State.kRun_keeps | apply ResKeeps.next | apply ResKeeps.ite | apply Keeps.ite | split | (intro v; try dsimp only)

theorem execBr_keeps {z s : State} (c : Fin 128) (lines : BitVec 176) (hk : Keeps z s) : ResKeeps z (execBr c lines s) := by
  unfold execBr
  with_reducible repeat' first | exact hk | exact Keeps.refl _ | apply State.see_keeps | apply kBr_keeps | apply State.kRun_keeps | apply ResKeeps.next | apply ResKeeps.ite | apply Keeps.ite | split | (intro v; try dsimp only)

theorem execKindlingWait_keeps {z s : State} (c : Fin 128) (lines : BitVec 176) (hk : Keeps z s) : ResKeeps z (execKindlingWait c lines s) := by
  unfold execKindlingWait
  with_reducible repeat' first | exact hk | exact Keeps.refl _ | apply State.see_keeps | apply kWait_keeps | apply State.kRun_keeps | apply ResKeeps.next | apply ResKeeps.ite | apply Keeps.ite | split | (intro v; try dsimp only)

theorem execSleep_keeps {z s : State} (c : Fin 128) (hk : Keeps z s) : ResKeeps z (execSleep c s) := by
  unfold execSleep
  with_reducible repeat' first | exact hk | exact Keeps.refl _ | apply kSleep_keeps | apply State.kRun_keeps | apply ResKeeps.next | apply ResKeeps.ite | apply Keeps.ite | split | (intro v; try dsimp only)

theorem execSho_keeps {z s : State} (c : Fin 128) (hk : Keeps z s) : ResKeeps z (execSho c s) := by
  unfold execSho
  with_reducible repeat' first | exact hk | exact Keeps.refl _ | apply kSho_keeps | apply State.kRun_keeps | apply ResKeeps.next | apply ResKeeps.ite | apply Keeps.ite | split | (intro v; try dsimp only)

theorem execShi_keeps {z s : State} (c : Fin 128) (lines : BitVec 176) (hk : Keeps z s) : ResKeeps z (execShi c lines s) := by
  unfold execShi
  with_reducible repeat' first | exact hk | exact Keeps.refl _ | apply State.see_keeps | apply kShi_keeps | apply State.kRun_keeps | apply ResKeeps.next | apply ResKeeps.ite | apply Keeps.ite | split | (intro v; try dsimp only)

theorem execTake_keeps {z s : State} (c : Fin 128) (hk : Keeps z s) : ResKeeps z (execTake c s) := by
  unfold execTake
  with_reducible repeat' first | exact hk | exact Keeps.refl _ | apply kTake_keeps | apply State.kRun_keeps | apply ResKeeps.next | apply ResKeeps.ite | apply Keeps.ite | split | (intro v; try dsimp only)

theorem execGive_keeps {z s : State} (c : Fin 128) (hk : Keeps z s) : ResKeeps z (execGive c s) := by
  unfold execGive
  with_reducible repeat' first | exact hk | exact Keeps.refl _ | apply kGive_keeps | apply State.kRun_keeps | apply ResKeeps.next | apply ResKeeps.ite | apply Keeps.ite | split | (intro v; try dsimp only)

theorem execDrv_keeps {z s : State} (c : Fin 128) (hk : Keeps z s) : ResKeeps z (execDrv c s) := by
  unfold execDrv
  with_reducible repeat' first | exact hk | exact Keeps.refl _ | apply kDrv_keeps | apply State.kRun_keeps | apply ResKeeps.next | apply ResKeeps.ite | apply Keeps.ite | split | (intro v; try dsimp only)

theorem execSmp_keeps {z s : State} (c : Fin 128) (lines : BitVec 176) (hk : Keeps z s) : ResKeeps z (execSmp c lines s) := by
  unfold execSmp
  with_reducible repeat' first | exact hk | exact Keeps.refl _ | apply State.see_keeps | apply kSmp_keeps | apply State.kRun_keeps | apply ResKeeps.next | apply ResKeeps.ite | apply Keeps.ite | split | (intro v; try dsimp only)

theorem execDir_keeps {z s : State} (c : Fin 128) (hk : Keeps z s) : ResKeeps z (execDir c s) := by
  unfold execDir
  with_reducible repeat' first | exact hk | exact Keeps.refl _ | apply kDir_keeps | apply State.kRun_keeps | apply ResKeeps.next | apply ResKeeps.ite | apply Keeps.ite | split | (intro v; try dsimp only)

theorem execLdi_keeps {z s : State} (c : Fin 128) (hk : Keeps z s) : ResKeeps z (execLdi c s) := by
  unfold execLdi
  with_reducible repeat' first | exact hk | exact Keeps.refl _ | apply kLdi_keeps | apply State.kRun_keeps | apply ResKeeps.next | apply ResKeeps.ite | apply Keeps.ite | split | (intro v; try dsimp only)

theorem execOpr_keeps {z s : State} (c : Fin 128) (hk : Keeps z s) : ResKeeps z (execOpr c s) := by
  unfold execOpr
  with_reducible repeat' first | exact hk | exact Keeps.refl _ | apply kOpr_keeps | apply State.kRun_keeps | apply ResKeeps.next | apply ResKeeps.ite | apply Keeps.ite | split | (intro v; try dsimp only)

theorem execArm_keeps {z s : State} (c : Fin 128) (hk : Keeps z s) : ResKeeps z (execArm c s) := by
  unfold execArm
  with_reducible repeat' first | exact hk | exact Keeps.refl _ | apply kArm_keeps | apply State.kRun_keeps | apply ResKeeps.next | apply ResKeeps.ite | apply Keeps.ite | split | (intro v; try dsimp only)

theorem execStmp_keeps {z s : State} (c : Fin 128) (hk : Keeps z s) : ResKeeps z (execStmp c s) := by
  unfold execStmp
  with_reducible repeat' first | exact hk | exact Keeps.refl _ | apply kStmp_keeps | apply State.kRun_keeps | apply ResKeeps.next | apply ResKeeps.ite | apply Keeps.ite | split | (intro v; try dsimp only)

theorem execEvt_keeps {z s : State} (c : Fin 128) (hk : Keeps z s) : ResKeeps z (execEvt c s) := by
  unfold execEvt
  with_reducible repeat' first | exact hk | exact Keeps.refl _ | apply kEvt_keeps | apply State.kRun_keeps | apply ResKeeps.next | apply ResKeeps.ite | apply Keeps.ite | split | (intro v; try dsimp only)

theorem execSleepTurn_keeps {z s : State} (c : Fin 128) (hk : Keeps z s) : ResKeeps z (execSleepTurn c s) := by
  unfold execSleepTurn
  try dsimp only
  with_reducible repeat' first | exact hk | exact Keeps.refl _ | apply State.set_keeps | apply State.kPass_keeps | apply ResKeeps.next | apply ResKeeps.ite | apply Keeps.ite | split | (intro v; try dsimp only)

theorem execStallTurn_keeps {z s : State} (c : Fin 128) (lines : BitVec 176) (hk : Keeps z s) : ResKeeps z (execStallTurn c lines s) := by
  unfold execStallTurn
  try dsimp only
  with_reducible repeat' first | exact hk | exact Keeps.refl _ | apply State.set_keeps | apply State.see_keeps | apply State.kPass_keeps | apply State.kParity_keeps | apply ResKeeps.next | apply ResKeeps.ite | apply Keeps.ite | split | (intro v; try dsimp only)

theorem State.moveLine_keeps {z s : State} (rising : Bool) (line : Nat) (hk : Keeps z s) : Keeps z (State.moveLine s rising line) := by
  unfold State.moveLine
  try dsimp only
  repeat' first | with_reducible exact hk | with_reducible exact Keeps.refl _ | with_reducible apply Keeps.ite | split | with_reducible apply Keeps.fields | (intro v; try dsimp only)

theorem execEdgeLatch_keeps {z s : State} (c : Fin 128) (rising : Bool) (line : Fin 176) (hk : Keeps z s) : ResKeeps z (execEdgeLatch c rising line s) := by
  unfold execEdgeLatch
  try dsimp only
  repeat' first | with_reducible exact hk | with_reducible exact Keeps.refl _ | with_reducible apply State.set_keeps | with_reducible apply State.setKch_keeps | with_reducible apply State.moveLine_keeps | with_reducible apply ResKeeps.next | with_reducible apply ResKeeps.ite | with_reducible apply Keeps.ite | split | with_reducible apply Keeps.fields | (intro v; try dsimp only)

theorem State.kTick_keeps {z s : State} (c : Nat) (hk : Keeps z s) : Keeps z (State.kTick s c) := by
  unfold State.kTick
  with_reducible repeat' first | exact hk | exact Keeps.refl _ | apply State.set_keeps | apply Keeps.ite | split | (intro v; try dsimp only)

theorem execTick_keeps {z s : State} (c : Fin 128) (hk : Keeps z s) : ResKeeps z (execTick c s) := by
  unfold execTick
  try dsimp only
  repeat' first | with_reducible exact hk | with_reducible exact Keeps.refl _ | with_reducible apply State.setKch_keeps | with_reducible apply State.kTick_keeps | with_reducible apply ResKeeps.next | with_reducible apply ResKeeps.ite | with_reducible apply Keeps.ite | split | with_reducible apply Keeps.fields | (intro v; try dsimp only)

theorem State.kDivide_keeps {z s : State} (c : Nat) (hk : Keeps z s) : Keeps z (State.kDivide s c) := by
  unfold State.kDivide
  try dsimp only
  repeat' first | with_reducible exact hk | with_reducible exact Keeps.refl _ | with_reducible apply State.setKch_keeps | with_reducible apply State.kTick_keeps | with_reducible apply Keeps.ite | split | with_reducible apply Keeps.fields | (intro v; try dsimp only)

theorem State.engineCycle_keeps {z s : State}  (hk : Keeps z s) : Keeps z (State.engineCycle s) := by
  unfold State.engineCycle
  with_reducible repeat' first | exact hk | exact Keeps.refl _ | apply State.bump_keeps | apply State.kDivide_keeps | (apply State.each_keeps; intro i t; try dsimp only) | apply Keeps.ite | split | (intro v; try dsimp only)

theorem State.kStart_keeps {z s : State} (e : Nat) (hk : Keeps z s) : Keeps z (State.kStart s e) := by
  unfold State.kStart
  try dsimp only
  repeat' first | with_reducible exact hk | with_reducible exact Keeps.refl _ | with_reducible apply State.setKeng_keeps | with_reducible apply State.kBegin_keeps | with_reducible apply Keeps.ite | split | with_reducible apply Keeps.fields | with_reducible apply Keeps.upd | exact List.prefix_rfl | exact Nat.le_refl _ | exact id | exact fun w => SMap.wf_put _ _ w | exact fun w => SMap.wf_update _ _ w | exact fun w => SMap.wf_filter _ w | exact fun w => wf_writeBytes _ _ w | exact fun _ => rfl | exact fun w => SMap.wf_map_filter (fun e => by split <;> rfl) w | (intro v; try dsimp only)

theorem State.kStop_keeps {z s : State} (e : Nat) (hk : Keeps z s) : Keeps z (State.kStop s e) := by
  unfold State.kStop
  try dsimp only
  repeat' first | with_reducible exact hk | with_reducible exact Keeps.refl _ | with_reducible apply State.set_keeps | with_reducible apply State.setKeng_keeps | with_reducible apply Keeps.ite | split | with_reducible apply Keeps.fields | (intro v; try dsimp only)

theorem State.kClean_keeps {z s : State} (c : Nat) (hk : Keeps z s) : Keeps z (State.kClean s c) := by
  unfold State.kClean
  try dsimp only
  repeat' first | with_reducible exact hk | with_reducible exact Keeps.refl _ | with_reducible apply State.set_keeps | with_reducible apply State.setKch_keeps | with_reducible apply Keeps.ite | split | with_reducible apply Keeps.fields | (intro v; try dsimp only)

theorem execEngineStop_keeps {z s : State} (e : Fin 4) (hk : Keeps z s) : ResKeeps z (execEngineStop e s) := by
  unfold execEngineStop
  with_reducible repeat' first | exact hk | exact Keeps.refl _ | apply State.kStop_keeps | apply ResKeeps.next | apply ResKeeps.ite | apply Keeps.ite | split | (intro v; try dsimp only)

theorem execCleanStop_keeps {z s : State} (e : Fin 4) (hk : Keeps z s) : ResKeeps z (execCleanStop e s) := by
  unfold execCleanStop
  with_reducible repeat' first | exact hk | exact Keeps.refl _ | apply State.kStop_keeps | apply State.kClean_keeps | apply ResKeeps.next | (apply Keeps.foldl; intro t x; try dsimp only) | (apply Keeps.foldl_fst; intro t x; try dsimp only) | apply ResKeeps.ite | apply Keeps.ite | split | (intro v; try dsimp only)

theorem execEngineStart_keeps {z s : State} (e : Fin 4) (hk : Keeps z s) : ResKeeps z (execEngineStart e s) := by
  unfold execEngineStart
  with_reducible repeat' first | exact hk | exact Keeps.refl _ | apply State.kStart_keeps | apply ResKeeps.next | apply ResKeeps.ite | apply Keeps.ite | split | (intro v; try dsimp only)

theorem execGlobalStart_keeps {z s : State} (mask : BitVec 4) (hk : Keeps z s) : ResKeeps z (execGlobalStart mask s) := by
  unfold execGlobalStart
  with_reducible repeat' first | exact hk | exact Keeps.refl _ | apply State.kStart_keeps | apply ResKeeps.next | (apply State.each_keeps; intro i t; try dsimp only) | apply ResKeeps.ite | apply Keeps.ite | split | (intro v; try dsimp only)

theorem execKindlingFreeze_keeps {z s : State} (e : Fin 4) (on : Bool) (hk : Keeps z s) : ResKeeps z (execKindlingFreeze e on s) := by
  unfold execKindlingFreeze
  with_reducible repeat' first | exact hk | exact Keeps.refl _ | apply State.kFreeze_keeps | apply ResKeeps.next | apply ResKeeps.ite | apply Keeps.ite | split | (intro v; try dsimp only)

theorem execAlign_keeps {z s : State}  (hk : Keeps z s) : ResKeeps z (execAlign s) := by
  unfold execAlign
  try dsimp only
  repeat' first | with_reducible exact hk | with_reducible exact Keeps.refl _ | with_reducible apply State.set_keeps | with_reducible apply ResKeeps.next | with_reducible apply ResKeeps.ite | with_reducible apply Keeps.ite | split | with_reducible apply Keeps.fields | (intro v; try dsimp only)

theorem State.kProgramChange_keeps {z s : State} (e : Nat) (hk : Keeps z s) : Keeps z (State.kProgramChange s e) := by
  unfold State.kProgramChange
  try dsimp only
  repeat' first | with_reducible exact hk | with_reducible exact Keeps.refl _ | with_reducible apply State.set_keeps | with_reducible apply State.setKch_keeps | (with_reducible apply Keeps.foldl; intro t x; try dsimp only) | (with_reducible apply Keeps.foldl_fst; intro t x; try dsimp only) | with_reducible apply Keeps.ite | split | with_reducible apply Keeps.fields | (intro v; try dsimp only)

theorem State.kBlockReset_keeps {z s : State} (e : Nat) (hk : Keeps z s) : Keeps z (State.kBlockReset s e) := by
  unfold State.kBlockReset
  try dsimp only
  repeat' first | with_reducible exact hk | with_reducible exact Keeps.refl _ | with_reducible apply State.set_keeps | with_reducible apply State.resetRegs_keeps | with_reducible apply State.setKeng_keeps | with_reducible apply State.setKch_keeps | with_reducible apply State.kStop_keeps | with_reducible apply State.kClean_keeps | (with_reducible apply Keeps.foldl; intro t x; try dsimp only) | (with_reducible apply Keeps.foldl_fst; intro t x; try dsimp only) | with_reducible apply Keeps.ite | split | with_reducible apply Keeps.fields | (intro v; try dsimp only)

theorem execTxEnqueue_keeps {z s : State} (c : Fin 128) (word : W32) (hk : Keeps z s) : ResKeeps z (execTxEnqueue c word s) := by
  unfold execTxEnqueue
  try dsimp only
  repeat' first | with_reducible exact hk | with_reducible exact Keeps.refl _ | with_reducible apply State.set_keeps | with_reducible apply State.setKch_keeps | with_reducible apply ResKeeps.next | with_reducible apply ResKeeps.ite | with_reducible apply Keeps.ite | split | with_reducible apply Keeps.fields | (intro v; try dsimp only)

theorem State.rxTake_keeps {z s : State} (c : Nat) (hk : Keeps z s) : Keeps z (State.rxTake s c) := by
  unfold State.rxTake
  try dsimp only
  repeat' first | with_reducible exact hk | with_reducible exact Keeps.refl _ | with_reducible apply State.set_keeps | with_reducible apply State.setKch_keeps | with_reducible apply Keeps.ite | split | with_reducible apply Keeps.fields | with_reducible apply Keeps.upd | exact List.prefix_rfl | exact Nat.le_refl _ | exact id | exact fun w => SMap.wf_put _ _ w | exact fun w => SMap.wf_update _ _ w | exact fun w => SMap.wf_filter _ w | exact fun w => wf_writeBytes _ _ w | exact fun _ => rfl | exact fun w => SMap.wf_map_filter (fun e => by split <;> rfl) w | (intro v; try dsimp only)

theorem execRxDequeue_keeps {z s : State} (c : Fin 128) (hk : Keeps z s) : ResKeeps z (execRxDequeue c s) := by
  unfold execRxDequeue
  with_reducible repeat' first | exact hk | exact Keeps.refl _ | apply State.send_keeps | apply State.rxTake_keeps | apply ResKeeps.next | apply ResKeeps.ite | apply Keeps.ite | split | (intro v; try dsimp only)

end Sys2Proof.Machine
end

