-- ==== Sys2Proof/Laws/KeepsEdge.lean ====
section
/-!
SUPPORT. What each operation of Machine/Edge.lean keeps.
-/
namespace Sys2Proof.Machine

theorem State.edgeErr_keeps {z s : State} (f : Field) (hk : Keeps z s) : Keeps z (State.edgeErr s f) := by
  unfold State.edgeErr
  with_reducible repeat' first | exact hk | exact Keeps.refl _ | apply State.set_keeps | apply State.raise_keeps | apply Keeps.ite | split | (intro v; try dsimp only)

theorem State.abortCapture_keeps {z s : State}  (hk : Keeps z s) : Keeps z (State.abortCapture s) := by
  unfold State.abortCapture
  try dsimp only
  repeat' first | with_reducible exact hk | with_reducible exact Keeps.refl _ | with_reducible apply State.edgeErr_keeps | with_reducible apply Keeps.ite | split | with_reducible apply Keeps.fields | (intro v; try dsimp only)

theorem execReadbackArm_keeps {z s : State} (clk : Fin 8) (edges : BitVec 16) (hk : Keeps z s) : ResKeeps z (execReadbackArm clk edges s) := by
  unfold execReadbackArm
  try dsimp only
  repeat' first | with_reducible exact hk | with_reducible exact Keeps.refl _ | with_reducible apply State.set_keeps | with_reducible apply State.edgeErr_keeps | with_reducible apply ResKeeps.next | with_reducible apply ResKeeps.ite | with_reducible apply Keeps.ite | split | with_reducible apply Keeps.fields | (intro v; try dsimp only)

theorem State.rbNext_keeps {z s : State}  (hk : Keeps z s) : Keeps z (State.rbNext s) := by
  unfold State.rbNext
  try dsimp only
  with_reducible repeat' first | exact hk | exact Keeps.refl _ | apply State.set_keeps | apply Keeps.ite | split | (intro v; try dsimp only)

theorem execReadbackDataRead_keeps {z s : State}  (hk : Keeps z s) : ResKeeps z (execReadbackDataRead s) := by
  unfold execReadbackDataRead
  with_reducible repeat' first | exact hk | exact Keeps.refl _ | apply State.send_keeps | apply State.rbNext_keeps | apply ResKeeps.next | apply ResKeeps.ite | apply Keeps.ite | split | (intro v; try dsimp only)

theorem execEdgeFreeze_keeps {z s : State} (on : Bool) (hk : Keeps z s) : ResKeeps z (execEdgeFreeze on s) := by
  unfold execEdgeFreeze
  with_reducible repeat' first | exact hk | exact Keeps.refl _ | apply State.freezeEdge_keeps | apply ResKeeps.next | apply ResKeeps.ite | apply Keeps.ite | split | (intro v; try dsimp only)

theorem execClkloss_keeps {z s : State} (n : Fin 8) (hk : Keeps z s) : ResKeeps z (execClkloss n s) := by
  unfold execClkloss
  try dsimp only
  repeat' first | with_reducible exact hk | with_reducible exact Keeps.refl _ | with_reducible apply State.showClocks_keeps | with_reducible apply State.edgeErr_keeps | with_reducible apply ResKeeps.next | with_reducible apply ResKeeps.ite | with_reducible apply Keeps.ite | split | with_reducible apply Keeps.fields | (intro v; try dsimp only)

theorem execEdgeEvent_keeps {z s : State} (i : Fin 32) (hk : Keeps z s) : ResKeeps z (execEdgeEvent i s) := by
  unfold execEdgeEvent
  with_reducible repeat' first | exact hk | exact Keeps.refl _ | apply State.evRise_keeps | apply ResKeeps.next | apply ResKeeps.ite | apply Keeps.ite | split | (intro v; try dsimp only)

theorem execConfigurationMemoryParity_keeps {z s : State}  (hk : Keeps z s) : ResKeeps z (execConfigurationMemoryParity s) := by
  unfold execConfigurationMemoryParity
  try dsimp only
  repeat' first | with_reducible exact hk | with_reducible exact Keeps.refl _ | with_reducible apply State.edgeErr_keeps | with_reducible apply ResKeeps.next | with_reducible apply ResKeeps.ite | with_reducible apply Keeps.ite | split | with_reducible apply Keeps.fields | (intro v; try dsimp only)

theorem State.edgeInit_keeps {z s : State}  (hk : Keeps z s) : Keeps z (State.edgeInit s) := by
  unfold State.edgeInit
  try dsimp only
  repeat' first | with_reducible exact hk | with_reducible exact Keeps.refl _ | with_reducible apply Keeps.ite | split | with_reducible apply Keeps.fields | (intro v; try dsimp only)

theorem State.edgeConfigure_keeps {z s : State} (config : SMap Byte) (hk : Keeps z s) : Keeps z (State.edgeConfigure s config) := by
  unfold State.edgeConfigure
  try dsimp only
  repeat' first | with_reducible exact hk | with_reducible exact Keeps.refl _ | with_reducible apply State.edgeInit_keeps | with_reducible apply Keeps.ite | split | with_reducible apply Keeps.fields | (intro v; try dsimp only)

theorem State.edgeStart_keeps {z s : State}  (hk : Keeps z s) : Keeps z (State.edgeStart s) := by
  unfold State.edgeStart
  try dsimp only
  repeat' first | with_reducible exact hk | with_reducible exact Keeps.refl _ | with_reducible apply State.edgeState_keeps | with_reducible apply State.edgeInit_keeps | with_reducible apply Keeps.ite | split | with_reducible apply Keeps.fields | (intro v; try dsimp only)

theorem State.edgeHold_keeps {z s : State}  (hk : Keeps z s) : Keeps z (State.edgeHold s) := by
  unfold State.edgeHold
  try dsimp only
  repeat' first | with_reducible exact hk | with_reducible exact Keeps.refl _ | with_reducible apply State.edgeState_keeps | with_reducible apply State.abortCapture_keeps | with_reducible apply Keeps.ite | split | with_reducible apply Keeps.fields | (intro v; try dsimp only)

theorem State.edgeEmpty_keeps {z s : State}  (hk : Keeps z s) : Keeps z (State.edgeEmpty s) := by
  unfold State.edgeEmpty
  try dsimp only
  repeat' first | with_reducible exact hk | with_reducible exact Keeps.refl _ | with_reducible apply State.edgeState_keeps | with_reducible apply Keeps.ite | split | with_reducible apply Keeps.fields | (intro v; try dsimp only)

theorem State.idle_keeps {z s : State}  (hk : Keeps z s) : Keeps z (State.idle s) := by
  unfold State.idle
  try dsimp only
  repeat' first | with_reducible exact hk | with_reducible exact Keeps.refl _ | with_reducible apply State.edgeCycle_keeps | with_reducible apply State.engineCycle_keeps | with_reducible apply Keeps.ite | split | with_reducible apply Keeps.fields | (intro v; try dsimp only)

theorem State.awaitCapture_keeps {z : State} : ∀ (n : Nat) {s : State}, Keeps z s → Keeps z (State.awaitCapture n s)
  | 0, _, hk => hk
  | n + 1, s, hk => by
    unfold State.awaitCapture
    exact Keeps.ite (State.awaitCapture_keeps n (State.idle_keeps hk)) hk

theorem execReadbackCapture_keeps {z s : State} (clk : Fin 8) (hk : Keeps z s) : ResKeeps z (execReadbackCapture clk s) := by
  unfold execReadbackCapture
  try dsimp only
  repeat' first | with_reducible exact hk | with_reducible exact Keeps.refl _ | with_reducible apply State.awaitCapture_keeps | with_reducible apply ResKeeps.next | with_reducible apply ResKeeps.ite | with_reducible apply Keeps.ite | split | with_reducible apply Keeps.fields | with_reducible apply Keeps.upd | exact List.prefix_rfl | exact Nat.le_refl _ | exact id | exact fun w => SMap.wf_put _ _ w | exact fun w => SMap.wf_update _ _ w | exact fun w => SMap.wf_filter _ w | exact fun w => wf_writeBytes _ _ w | exact fun _ => rfl | exact fun w => SMap.wf_map_filter (fun e => by split <;> rfl) w | (intro v; try dsimp only)

end Sys2Proof.Machine
end

