-- ==== Sys2Proof/Laws/KeepsLinks.lean ====
section
/-!
SUPPORT. What each operation of Machine/Links.lean keeps.
-/
namespace Sys2Proof.Machine

theorem State.portEvent_keeps {z s : State} (n : Nat) (hk : Keeps z s) : Keeps z (State.portEvent s n) := by
  unfold State.portEvent
  with_reducible repeat' first | exact hk | exact Keeps.refl _ | apply State.raise_keeps | apply Keeps.ite | split | (intro v; try dsimp only)

theorem State.fabErr_keeps {z s : State} (f : Field) (hk : Keeps z s) : Keeps z (State.fabErr s f) := by
  unfold State.fabErr
  with_reducible repeat' first | exact hk | exact Keeps.refl _ | apply State.set_keeps | apply State.raise_keeps | apply Keeps.ite | split | (intro v; try dsimp only)

theorem State.portErr_keeps {z s : State} (n : Nat) (f : Field) (hk : Keeps z s) : Keeps z (State.portErr s n f) := by
  unfold State.portErr
  with_reducible repeat' first | exact hk | exact Keeps.refl _ | apply State.set_keeps | apply State.portEvent_keeps | apply Keeps.ite | split | (intro v; try dsimp only)

theorem State.sendLink_keeps {z s : State} (n : Nat) (m : LinkMsg) (hk : Keeps z s) : Keeps z (State.sendLink s n m) := by
  unfold State.sendLink
  with_reducible repeat' first | exact hk | exact Keeps.refl _ | apply State.send_keeps | apply Keeps.ite | split | (intro v; try dsimp only)

theorem State.flood_keeps {z s : State} (m : LinkMsg) (hk : Keeps z s) : Keeps z (State.flood s m) := by
  unfold State.flood
  with_reducible repeat' first | exact hk | exact Keeps.refl _ | apply State.sendLink_keeps | (apply Keeps.foldl; intro t x; try dsimp only) | (apply Keeps.foldl_fst; intro t x; try dsimp only) | apply Keeps.ite | split | (intro v; try dsimp only)

theorem State.passOn_keeps {z s : State} (m : LinkMsg) (arrival : Option Nat) (hk : Keeps z s) : Keeps z (State.passOn s m arrival) := by
  unfold State.passOn
  with_reducible repeat' first | exact hk | exact Keeps.refl _ | apply State.sendLink_keeps | (apply Keeps.foldl; intro t x; try dsimp only) | (apply Keeps.foldl_fst; intro t x; try dsimp only) | apply Keeps.ite | split | (intro v; try dsimp only)

theorem State.sendFrame_keeps {z s : State} (n : Nat) (hk : Keeps z s) : Keeps z (State.sendFrame s n) := by
  unfold State.sendFrame
  try dsimp only
  repeat' first | with_reducible exact hk | with_reducible exact Keeps.refl _ | with_reducible apply State.setPort_keeps | with_reducible apply State.send_keeps | with_reducible apply Keeps.ite | split | with_reducible apply Keeps.fields | with_reducible apply Keeps.upd | exact List.prefix_rfl | exact Nat.le_refl _ | exact id | exact fun w => SMap.wf_put _ _ w | exact fun w => SMap.wf_update _ _ w | exact fun w => SMap.wf_filter _ w | exact fun w => wf_writeBytes _ _ w | exact fun _ => rfl | exact fun w => SMap.wf_map_filter (fun e => by split <;> rfl) w | (intro v; try dsimp only)

theorem State.pump_keeps {z s : State} (n : Nat) (hk : Keeps z s) : Keeps z (State.pump s n) := by
  unfold State.pump
  with_reducible repeat' first | exact hk | exact Keeps.refl _ | apply State.sendFrame_keeps | (apply Keeps.foldl; intro t x; try dsimp only) | (apply Keeps.foldl_fst; intro t x; try dsimp only) | apply Keeps.ite | split | (intro v; try dsimp only)

theorem State.portSend_keeps {z s : State} (n : Nat) (dl : Bool) (k : Packet) (hk : Keeps z s) : Keeps z (State.portSend s n dl k) := by
  unfold State.portSend
  try dsimp only
  repeat' first | with_reducible exact hk | with_reducible exact Keeps.refl _ | with_reducible apply State.setPort_keeps | with_reducible apply State.pump_keeps | with_reducible apply Keeps.ite | split | with_reducible apply Keeps.fields | (intro v; try dsimp only)

theorem State.putColl_keeps {z s : State} (c : CollCtx) (hk : Keeps z s) : Keeps z (State.putColl s c) := by
  unfold State.putColl
  try dsimp only
  repeat' first | with_reducible exact hk | with_reducible exact Keeps.refl _ | with_reducible apply Keeps.ite | split | with_reducible apply Keeps.fields | (intro v; try dsimp only)

theorem State.collTell_keeps {z s : State} (ns : List Nat) (p : Partial) (code : Nat) (hk : Keeps z s) : Keeps z (State.collTell s ns p code) := by
  unfold State.collTell
  with_reducible repeat' first | exact hk | exact Keeps.refl _ | apply State.portSend_keeps | (apply Keeps.foldl; intro t x; try dsimp only) | (apply Keeps.foldl_fst; intro t x; try dsimp only) | apply Keeps.ite | split | (intro v; try dsimp only)

theorem State.collStatus_keeps {z s : State} (m : CollMember) (cid : W32) (code : Nat) (hk : Keeps z s) : Keeps z (State.collStatus s m cid code) := by
  unfold State.collStatus
  try dsimp only
  repeat' first | with_reducible exact hk | with_reducible exact Keeps.refl _ | with_reducible apply State.raise_keeps | with_reducible apply State.hearthWrite_keeps | with_reducible apply State.fabErr_keeps | with_reducible apply Keeps.ite | split | with_reducible apply Keeps.fields | with_reducible apply Keeps.upd | exact List.prefix_rfl | exact Nat.le_refl _ | exact id | exact fun w => SMap.wf_put _ _ w | exact fun w => SMap.wf_update _ _ w | exact fun w => SMap.wf_filter _ w | exact fun w => wf_writeBytes _ _ w | exact fun _ => rfl | exact fun w => SMap.wf_map_filter (fun e => by split <;> rfl) w | (intro v; try dsimp only)

theorem State.dropColl_keeps {z s : State} (cid : W32) (hk : Keeps z s) : Keeps z (State.dropColl s cid) := by
  unfold State.dropColl
  try dsimp only
  repeat' first | with_reducible exact hk | with_reducible exact Keeps.refl _ | with_reducible apply Keeps.ite | split | with_reducible apply Keeps.fields | (intro v; try dsimp only)

theorem State.collFail_keeps {z s : State} (c : CollCtx) (code : Nat) (arrival : Option Nat) (hk : Keeps z s) : Keeps z (State.collFail s c code arrival) := by
  unfold State.collFail
  with_reducible repeat' first | exact hk | exact Keeps.refl _ | apply State.collTell_keeps | apply State.collStatus_keeps | apply State.dropColl_keeps | (apply Keeps.foldl; intro t x; try dsimp only) | (apply Keeps.foldl_fst; intro t x; try dsimp only) | apply Keeps.ite | split | (intro v; try dsimp only)

theorem State.collDone_keeps {z s : State} (c : CollCtx) (value : Nat) (hk : Keeps z s) : Keeps z (State.collDone s c value) := by
  unfold State.collDone
  try dsimp only
  repeat' first | with_reducible exact hk | with_reducible exact Keeps.refl _ | with_reducible apply State.count_keeps | with_reducible apply State.hearthWrite_keeps | with_reducible apply State.collTell_keeps | with_reducible apply State.collStatus_keeps | with_reducible apply State.dropColl_keeps | (with_reducible apply Keeps.foldl; intro t x; try dsimp only) | (with_reducible apply Keeps.foldl_fst; intro t x; try dsimp only) | with_reducible apply Keeps.ite | split | with_reducible apply Keeps.fields | (intro v; try dsimp only)

theorem State.collAdvance_keeps {z s : State} (c : CollCtx) (hk : Keeps z s) : Keeps z (State.collAdvance s c) := by
  unfold State.collAdvance
  try dsimp only
  repeat' first | with_reducible exact hk | with_reducible exact Keeps.refl _ | with_reducible apply State.count_keeps | with_reducible apply State.portSend_keeps | with_reducible apply State.putColl_keeps | with_reducible apply State.collFail_keeps | with_reducible apply State.collDone_keeps | (with_reducible apply Keeps.foldl; intro t x; try dsimp only) | (with_reducible apply Keeps.foldl_fst; intro t x; try dsimp only) | with_reducible apply Keeps.ite | split | with_reducible apply Keeps.fields | with_reducible apply Keeps.upd | exact List.prefix_rfl | exact Nat.le_refl _ | exact id | exact fun w => SMap.wf_put _ _ w | exact fun w => SMap.wf_update _ _ w | exact fun w => SMap.wf_filter _ w | exact fun w => wf_writeBytes _ _ w | exact fun _ => rfl | exact fun w => SMap.wf_map_filter (fun e => by split <;> rfl) w | (intro v; try dsimp only)

theorem State.collResume_keeps {z s : State}  (hk : Keeps z s) : Keeps z (State.collResume s) := by
  unfold State.collResume
  try dsimp only
  repeat' first | with_reducible exact hk | with_reducible exact Keeps.refl _ | with_reducible apply State.count_keeps | with_reducible apply State.collAdvance_keeps | (with_reducible apply Keeps.foldl; intro t x; try dsimp only) | (with_reducible apply Keeps.foldl_fst; intro t x; try dsimp only) | with_reducible apply Keeps.ite | split | with_reducible apply Keeps.fields | (intro v; try dsimp only)

theorem State.collLinkDown_keeps {z s : State} (n : Nat) (hk : Keeps z s) : Keeps z (State.collLinkDown s n) := by
  unfold State.collLinkDown
  with_reducible repeat' first | exact hk | exact Keeps.refl _ | apply State.collFail_keeps | (apply Keeps.foldl; intro t x; try dsimp only) | (apply Keeps.foldl_fst; intro t x; try dsimp only) | apply Keeps.ite | split | (intro v; try dsimp only)

theorem State.linkDown_keeps {z s : State} (n reason : Nat) (hk : Keeps z s) : Keeps z (State.linkDown s n reason) := by
  unfold State.linkDown
  try dsimp only
  repeat' first | with_reducible exact hk | with_reducible exact Keeps.refl _ | with_reducible apply State.set_keeps | with_reducible apply State.count_keeps | with_reducible apply State.setPort_keeps | with_reducible apply State.portErr_keeps | with_reducible apply State.collLinkDown_keeps | with_reducible apply Keeps.ite | split | with_reducible apply Keeps.fields | with_reducible apply Keeps.upd | exact List.prefix_rfl | exact Nat.le_refl _ | exact id | exact fun w => SMap.wf_put _ _ w | exact fun w => SMap.wf_update _ _ w | exact fun w => SMap.wf_filter _ w | exact fun w => wf_writeBytes _ _ w | exact fun _ => rfl | exact fun w => SMap.wf_map_filter (fun e => by split <;> rfl) w | (intro v; try dsimp only)

theorem State.disablePort_keeps {z s : State} (n : Nat) (hk : Keeps z s) : Keeps z (State.disablePort s n) := by
  unfold State.disablePort
  with_reducible repeat' first | exact hk | exact Keeps.refl _ | apply State.set_keeps | apply State.linkDown_keeps | apply Keeps.ite | split | (intro v; try dsimp only)

theorem State.trainFail_keeps {z s : State} (n reason : Nat) (hk : Keeps z s) : Keeps z (State.trainFail s n reason) := by
  unfold State.trainFail
  with_reducible repeat' first | exact hk | exact Keeps.refl _ | apply State.set_keeps | apply State.portErr_keeps | apply Keeps.ite | split | (intro v; try dsimp only)

theorem execPortEnable_keeps {z s : State} (n : Fin 8) (hk : Keeps z s) : ResKeeps z (execPortEnable n s) := by
  unfold execPortEnable
  with_reducible repeat' first | exact hk | exact Keeps.refl _ | apply State.set_keeps | apply ResKeeps.next | apply ResKeeps.ite | apply Keeps.ite | split | (intro v; try dsimp only)

theorem execPartnerDetected_keeps {z s : State} (n : Fin 8) (hk : Keeps z s) : ResKeeps z (execPartnerDetected n s) := by
  unfold execPartnerDetected
  with_reducible repeat' first | exact hk | exact Keeps.refl _ | apply State.set_keeps | apply ResKeeps.next | apply ResKeeps.ite | apply Keeps.ite | split | (intro v; try dsimp only)

theorem execEqualisationDone_keeps {z s : State} (n : Fin 8) (rate112 : Bool) (lanes : Fin 3) (hk : Keeps z s) : ResKeeps z (execEqualisationDone n rate112 lanes s) := by
  unfold execEqualisationDone
  with_reducible repeat' first | exact hk | exact Keeps.refl _ | apply State.set_keeps | apply ResKeeps.next | apply ResKeeps.ite | apply Keeps.ite | split | (intro v; try dsimp only)

theorem execFrameLock_keeps {z s : State} (n : Fin 8) (hk : Keeps z s) : ResKeeps z (execFrameLock n s) := by
  unfold execFrameLock
  with_reducible repeat' first | exact hk | exact Keeps.refl _ | apply State.set_keeps | apply State.sendLink_keeps | apply ResKeeps.next | apply ResKeeps.ite | apply Keeps.ite | split | (intro v; try dsimp only)

theorem execCap_keeps {z s : State} (n : Fin 8) (msg : CapMsg) (hk : Keeps z s) : ResKeeps z (execCap n msg s) := by
  unfold execCap
  try dsimp only
  repeat' first | with_reducible exact hk | with_reducible exact Keeps.refl _ | with_reducible apply State.set_keeps | with_reducible apply State.setPort_keeps | with_reducible apply State.portEvent_keeps | with_reducible apply State.sendLink_keeps | with_reducible apply State.trainFail_keeps | with_reducible apply ResKeeps.next | with_reducible apply ResKeeps.ite | with_reducible apply Keeps.ite | split | with_reducible apply Keeps.fields | (intro v; try dsimp only)

theorem execTrainingTimeout_keeps {z s : State} (n : Fin 8) (hk : Keeps z s) : ResKeeps z (execTrainingTimeout n s) := by
  unfold execTrainingTimeout
  try dsimp only
  with_reducible repeat' first | exact hk | exact Keeps.refl _ | apply State.trainFail_keeps | apply ResKeeps.next | apply ResKeeps.ite | apply Keeps.ite | split | (intro v; try dsimp only)

theorem execFailedRetry_keeps {z s : State} (n : Fin 8) (hk : Keeps z s) : ResKeeps z (execFailedRetry n s) := by
  unfold execFailedRetry
  with_reducible repeat' first | exact hk | exact Keeps.refl _ | apply State.set_keeps | apply ResKeeps.next | apply ResKeeps.ite | apply Keeps.ite | split | (intro v; try dsimp only)

theorem execLinkDown_keeps {z s : State} (n : Fin 8) (hk : Keeps z s) : ResKeeps z (execLinkDown n s) := by
  unfold execLinkDown
  with_reducible repeat' first | exact hk | exact Keeps.refl _ | apply State.linkDown_keeps | apply ResKeeps.next | apply ResKeeps.ite | apply Keeps.ite | split | (intro v; try dsimp only)

theorem execCablePresentChange_keeps {z s : State} (n : Fin 8) (present : Bool) (hk : Keeps z s) : ResKeeps z (execCablePresentChange n present s) := by
  unfold execCablePresentChange
  try dsimp only
  repeat' first | with_reducible exact hk | with_reducible exact Keeps.refl _ | with_reducible apply State.set_keeps | with_reducible apply State.setPort_keeps | with_reducible apply State.linkDown_keeps | with_reducible apply ResKeeps.next | with_reducible apply ResKeeps.ite | with_reducible apply Keeps.ite | split | with_reducible apply Keeps.fields | (intro v; try dsimp only)

theorem State.takeSlot_keeps {z s : State} (n : Nat) (x : FrameSlot) (hk : Keeps z s) : Keeps z (State.takeSlot s n x) := by
  unfold State.takeSlot
  try dsimp only
  repeat' first | with_reducible exact hk | with_reducible exact Keeps.refl _ | with_reducible apply State.set_keeps | with_reducible apply State.setPort_keeps | with_reducible apply Keeps.ite | split | with_reducible apply Keeps.fields | with_reducible apply Keeps.upd | exact List.prefix_rfl | exact Nat.le_refl _ | exact id | exact fun w => SMap.wf_put _ _ w | exact fun w => SMap.wf_update _ _ w | exact fun w => SMap.wf_filter _ w | exact fun w => wf_writeBytes _ _ w | exact fun _ => rfl | exact fun w => SMap.wf_map_filter (fun e => by split <;> rfl) w | (intro v; try dsimp only)

theorem State.discardFrame_keeps {z s : State} (n : Nat) (bad : Bool) (hk : Keeps z s) : Keeps z (State.discardFrame s n bad) := by
  unfold State.discardFrame
  try dsimp only
  repeat' first | with_reducible exact hk | with_reducible exact Keeps.refl _ | with_reducible apply State.count_keeps | with_reducible apply State.setPort_keeps | with_reducible apply State.sendLink_keeps | with_reducible apply Keeps.ite | split | with_reducible apply Keeps.fields | (intro v; try dsimp only)

theorem State.switchEpoch_keeps {z s : State} (value : Nat) (hk : Keeps z s) : Keeps z (State.switchEpoch s value) := by
  unfold State.switchEpoch
  try dsimp only
  repeat' first | with_reducible exact hk | with_reducible exact Keeps.refl _ | with_reducible apply State.set_keeps | with_reducible apply State.raise_keeps | with_reducible apply State.collFail_keeps | (with_reducible apply Keeps.foldl; intro t x; try dsimp only) | (with_reducible apply Keeps.foldl_fst; intro t x; try dsimp only) | with_reducible apply Keeps.ite | split | with_reducible apply Keeps.fields | with_reducible apply Keeps.upd | exact List.prefix_rfl | exact Nat.le_refl _ | exact id | exact fun w => SMap.wf_put _ _ w | exact fun w => SMap.wf_update _ _ w | exact fun w => SMap.wf_filter _ w | exact fun w => wf_writeBytes _ _ w | exact fun _ => rfl | exact fun w => SMap.wf_map_filter (fun e => by split <;> rfl) w | (intro v; try dsimp only)

theorem State.tryEpoch_keeps {z s : State}  (hk : Keeps z s) : Keeps z (State.tryEpoch s) := by
  unfold State.tryEpoch
  try dsimp only
  repeat' first | with_reducible exact hk | with_reducible exact Keeps.refl _ | with_reducible apply State.switchEpoch_keeps | with_reducible apply Keeps.ite | split | with_reducible apply Keeps.fields | with_reducible apply Keeps.upd | exact List.prefix_rfl | exact Nat.le_refl _ | exact id | exact fun w => SMap.wf_put _ _ w | exact fun w => SMap.wf_update _ _ w | exact fun w => SMap.wf_filter _ w | exact fun w => wf_writeBytes _ _ w | exact fun _ => rfl | exact fun w => SMap.wf_map_filter (fun e => by split <;> rfl) w | (intro v; try dsimp only)

theorem execFrameReceive_keeps {z s : State} (n : Fin 8) (frame : Frame) (hk : Keeps z s) : ResKeeps z (execFrameReceive n frame s) := by
  unfold execFrameReceive
  try dsimp only
  repeat' first | with_reducible exact hk | with_reducible exact Keeps.refl _ | with_reducible apply State.setPort_keeps | with_reducible apply State.pump_keeps | with_reducible apply State.collResume_keeps | with_reducible apply State.takeSlot_keeps | with_reducible apply State.discardFrame_keeps | with_reducible apply State.tryEpoch_keeps | with_reducible apply ResKeeps.next | (with_reducible apply Keeps.foldl; intro t x; try dsimp only) | (with_reducible apply Keeps.foldl_fst; intro t x; try dsimp only) | with_reducible apply ResKeeps.ite | with_reducible apply Keeps.ite | split | with_reducible apply Keeps.fields | with_reducible apply Keeps.upd | exact List.prefix_rfl | exact Nat.le_refl _ | exact id | exact fun w => SMap.wf_put _ _ w | exact fun w => SMap.wf_update _ _ w | exact fun w => SMap.wf_filter _ w | exact fun w => wf_writeBytes _ _ w | exact fun _ => rfl | exact fun w => SMap.wf_map_filter (fun e => by split <;> rfl) w | (intro v; try dsimp only)

theorem execRetry_keeps {z s : State} (n : Fin 8) (seq : BitVec 16) (hk : Keeps z s) : ResKeeps z (execRetry n seq s) := by
  unfold execRetry
  try dsimp only
  repeat' first | with_reducible exact hk | with_reducible exact Keeps.refl _ | with_reducible apply State.count_keeps | with_reducible apply State.setPort_keeps | with_reducible apply State.send_keeps | with_reducible apply State.linkDown_keeps | with_reducible apply ResKeeps.next | (with_reducible apply Keeps.foldl; intro t x; try dsimp only) | (with_reducible apply Keeps.foldl_fst; intro t x; try dsimp only) | with_reducible apply ResKeeps.ite | with_reducible apply Keeps.ite | split | with_reducible apply Keeps.fields | (intro v; try dsimp only)

end Sys2Proof.Machine
end

