-- ==== Sys2Proof/Laws/KeepsPatchSet.lean ====
section
/-!
SUPPORT. What each operation of Machine/PatchSet.lean keeps.
-/
namespace Sys2Proof.Machine

theorem State.applyPatch_keeps {z s : State} (i : List Byte) (hk : Keeps z s) : Keeps z (State.applyPatch s i) := by
  unfold State.applyPatch
  try dsimp only
  repeat' first | with_reducible exact hk | with_reducible exact Keeps.refl _ | with_reducible apply State.setPatch_keeps | (with_reducible apply State.each_keeps; intro i t; try dsimp only) | with_reducible apply Keeps.ite | split | with_reducible apply Keeps.fields | with_reducible apply Keeps.upd | exact List.prefix_rfl | exact Nat.le_refl _ | exact id | exact fun w => SMap.wf_put _ _ w | exact fun w => SMap.wf_update _ _ w | exact fun w => SMap.wf_filter _ w | exact fun w => wf_writeBytes _ _ w | exact fun _ => rfl | exact fun w => SMap.wf_map_filter (fun e => by split <;> rfl) w | (intro v; try dsimp only)

end Sys2Proof.Machine
end

