-- ==== Sys2Proof/Laws/KeepsRegisters.lean ====
section
/-!
SUPPORT. What each operation of Machine/Registers.lean keeps.
-/
namespace Sys2Proof.Machine

theorem State.emptyQueues_keeps {z s : State} (c : Nat) (pair : Bool) (hk : Keeps z s) : Keeps z (State.emptyQueues s c pair) := by
  unfold State.emptyQueues
  try dsimp only
  repeat' first | with_reducible exact hk | with_reducible exact Keeps.refl _ | with_reducible apply State.setKch_keeps | with_reducible apply Keeps.ite | split | with_reducible apply Keeps.fields | (intro v; try dsimp only)

theorem State.afterWrite_keeps {z s : State} (o : State) (off : Nat) (hk : Keeps z s) : Keeps z (State.afterWrite o s off) := by
  unfold State.afterWrite
  try dsimp only
  repeat' first | with_reducible exact hk | with_reducible exact Keeps.refl _ | with_reducible apply State.set_keeps | with_reducible apply State.setSeq_keeps | with_reducible apply State.mirrored_keeps | with_reducible apply State.kFreeze_keeps | with_reducible apply State.freezeEdge_keeps | with_reducible apply State.switchOff_keeps | with_reducible apply State.flood_keeps | with_reducible apply State.disablePort_keeps | with_reducible apply State.loseStack_keeps | with_reducible apply State.emptyQueues_keeps | (with_reducible apply State.each_keeps; intro i t; try dsimp only) | with_reducible apply Keeps.ite | split | with_reducible apply Keeps.fields | (intro v; try dsimp only)

theorem State.holdShadow_keeps {z s : State} (off : Nat) (r : RegRow) (mask v : W64) (hk : Keeps z s) : Keeps z (State.holdShadow s off r mask v) := by
  unfold State.holdShadow
  try dsimp only
  repeat' first | with_reducible exact hk | with_reducible exact Keeps.refl _ | with_reducible apply State.set_keeps | with_reducible apply Keeps.ite | split | with_reducible apply Keeps.fields | (intro v; try dsimp only)

theorem State.regWrite_keeps {z s : State} (off : Nat) (r : RegRow) (mask v : W64) (hk : Keeps z s) : Keeps z (State.regWrite s off r mask v) := by
  unfold State.regWrite
  try dsimp only
  with_reducible repeat' first | exact hk | exact Keeps.refl _ | apply State.setReg_keeps | apply State.set_keeps | apply State.afterWrite_keeps | apply State.holdShadow_keeps | (apply Keeps.foldl; intro t x; try dsimp only) | (apply Keeps.foldl_fst; intro t x; try dsimp only) | apply Keeps.ite | split | (intro v; try dsimp only)

theorem State.msixWrite_keeps {z s : State} (k v : Nat) (hk : Keeps z s) : Keeps z (State.msixWrite s k v) := by
  unfold State.msixWrite
  try dsimp only
  repeat' first | with_reducible exact hk | with_reducible exact Keeps.refl _ | with_reducible apply Keeps.ite | split | with_reducible apply Keeps.fields | (intro v; try dsimp only)

theorem State.wordWrite_keeps {z s : State} (off v : Nat) (hk : Keeps z s) : Keeps z (State.wordWrite s off v) := by
  unfold State.wordWrite
  try dsimp only
  repeat' first | with_reducible exact hk | with_reducible exact Keeps.refl _ | with_reducible apply State.regWrite_keeps | with_reducible apply State.msixWrite_keeps | with_reducible apply Keeps.ite | split | with_reducible apply Keeps.fields | with_reducible apply Keeps.upd | exact List.prefix_rfl | exact Nat.le_refl _ | exact id | exact fun w => SMap.wf_put _ _ w | exact fun w => SMap.wf_update _ _ w | exact fun w => SMap.wf_filter _ w | exact fun w => wf_writeBytes _ _ w | exact fun _ => rfl | exact fun w => SMap.wf_map_filter (fun e => by split <;> rfl) w | (intro v; try dsimp only)

theorem State.barWrite_keeps {z s : State} (off : Nat) (data : List Byte) (hk : Keeps z s) : Keeps z (State.barWrite s off data) := by
  unfold State.barWrite
  try dsimp only
  with_reducible repeat' first | exact hk | exact Keeps.refl _ | apply State.set_keeps | apply State.wordWrite_keeps | (apply Keeps.foldl; intro t x; try dsimp only) | (apply Keeps.foldl_fst; intro t x; try dsimp only) | apply Keeps.ite | split | (intro v; try dsimp only)

theorem State.showOwners_keeps {z s : State}  (hk : Keeps z s) : Keeps z (State.showOwners s) := by
  unfold State.showOwners
  with_reducible repeat' first | exact hk | exact Keeps.refl _ | apply State.set_keeps | (apply State.each_keeps; intro i t; try dsimp only) | apply Keeps.ite | split | (intro v; try dsimp only)

theorem State.sendHeld_keeps {z s : State} (fn : Nat) (hk : Keeps z s) : Keeps z (State.sendHeld s fn) := by
  unfold State.sendHeld
  try dsimp only
  repeat' first | with_reducible exact hk | with_reducible exact Keeps.refl _ | with_reducible apply State.send_keeps | (with_reducible apply Keeps.foldl; intro t x; try dsimp only) | (with_reducible apply Keeps.foldl_fst; intro t x; try dsimp only) | with_reducible apply Keeps.ite | split | with_reducible apply Keeps.fields | (intro v; try dsimp only)

theorem State.configWrite_keeps {z s : State} (fn k v : Nat) (hk : Keeps z s) : Keeps z (State.configWrite s fn k v) := by
  unfold State.configWrite
  try dsimp only
  repeat' first | with_reducible exact hk | with_reducible exact Keeps.refl _ | with_reducible apply State.set_keeps | with_reducible apply State.showOwners_keeps | with_reducible apply State.sendHeld_keeps | with_reducible apply Keeps.ite | split | with_reducible apply Keeps.fields | with_reducible apply Keeps.upd | exact List.prefix_rfl | exact Nat.le_refl _ | exact id | exact fun w => SMap.wf_put _ _ w | exact fun w => SMap.wf_update _ _ w | exact fun w => SMap.wf_filter _ w | exact fun w => wf_writeBytes _ _ w | exact fun _ => rfl | exact fun w => SMap.wf_map_filter (fun e => by split <;> rfl) w | (intro v; try dsimp only)

theorem execRegisterWrite_keeps {z s : State} (_dbg : Bool) (off : Nat) (data : List Byte) (hk : Keeps z s) : ResKeeps z (execRegisterWrite _dbg off data s) := by
  unfold execRegisterWrite
  try dsimp only
  repeat' first | with_reducible exact hk | with_reducible exact Keeps.refl _ | with_reducible apply State.barWrite_keeps | with_reducible apply State.configWrite_keeps | with_reducible apply ResKeeps.next | with_reducible apply ResKeeps.ite | with_reducible apply Keeps.ite | split | with_reducible apply Keeps.fields | (intro v; try dsimp only)

theorem execShadowWrite_keeps {z s : State} (off : Nat) (value : W64) (hk : Keeps z s) : ResKeeps z (execShadowWrite off value s) := by
  unfold execShadowWrite
  try dsimp only
  repeat' first | with_reducible exact hk | with_reducible exact Keeps.refl _ | with_reducible apply State.holdShadow_keeps | with_reducible apply ResKeeps.next | with_reducible apply ResKeeps.ite | with_reducible apply Keeps.ite | split | with_reducible apply Keeps.fields | with_reducible apply Keeps.upd | exact List.prefix_rfl | exact Nat.le_refl _ | exact id | exact fun w => SMap.wf_put _ _ w | exact fun w => SMap.wf_update _ _ w | exact fun w => SMap.wf_filter _ w | exact fun w => wf_writeBytes _ _ w | exact fun _ => rfl | exact fun w => SMap.wf_map_filter (fun e => by split <;> rfl) w | (intro v; try dsimp only)

theorem State.rdNext_keeps {z s : State}  (hk : Keeps z s) : Keeps z (State.rdNext s) := by
  unfold State.rdNext
  with_reducible repeat' first | exact hk | exact Keeps.refl _ | apply State.set_keeps | apply Keeps.ite | split | (intro v; try dsimp only)

theorem State.showRecLog_keeps {z s : State}  (hk : Keeps z s) : Keeps z (State.showRecLog s) := by
  unfold State.showRecLog
  with_reducible repeat' first | exact hk | exact Keeps.refl _ | apply State.setReg_keeps | apply State.set_keeps | apply Keeps.ite | split | (intro v; try dsimp only)

theorem State.recNext_keeps {z s : State}  (hk : Keeps z s) : Keeps z (State.recNext s) := by
  unfold State.recNext
  try dsimp only
  repeat' first | with_reducible exact hk | with_reducible exact Keeps.refl _ | with_reducible apply State.showRecLog_keeps | with_reducible apply Keeps.ite | split | with_reducible apply Keeps.fields | (intro v; try dsimp only)

theorem State.sense_keeps {z s : State} (off : Nat) (hk : Keeps z s) : Keeps z (State.sense s off) := by
  unfold State.sense
  with_reducible repeat' first | exact hk | exact Keeps.refl _ | apply State.set_keeps | apply State.useFree_keeps | apply State.stackSense_keeps | apply Keeps.ite | split | (intro v; try dsimp only)

theorem State.senseAll_keeps {z s : State} (off len : Nat) (hk : Keeps z s) : Keeps z (State.senseAll s off len) := by
  unfold State.senseAll
  with_reducible repeat' first | exact hk | exact Keeps.refl _ | apply State.sense_keeps | (apply Keeps.foldl; intro t x; try dsimp only) | (apply Keeps.foldl_fst; intro t x; try dsimp only) | apply Keeps.ite | split | (intro v; try dsimp only)

theorem State.readClear_keeps {z s : State} (r : RegRow) (off : Nat) (hk : Keeps z s) : Keeps z (State.readClear s r off) := by
  unfold State.readClear
  with_reducible repeat' first | exact hk | exact Keeps.refl _ | apply State.set_keeps | (apply Keeps.foldl; intro t x; try dsimp only) | (apply Keeps.foldl_fst; intro t x; try dsimp only) | apply Keeps.ite | split | (intro v; try dsimp only)

theorem State.readEffect_keeps {z s : State} (r : RegRow) (off : Nat) (hk : Keeps z s) : Keeps z (State.readEffect s r off) := by
  unfold State.readEffect
  try dsimp only
  repeat' first | with_reducible exact hk | with_reducible exact Keeps.refl _ | with_reducible apply State.rxTake_keeps | with_reducible apply State.rbNext_keeps | with_reducible apply State.rdNext_keeps | with_reducible apply State.recNext_keeps | with_reducible apply State.readClear_keeps | with_reducible apply Keeps.ite | split | with_reducible apply Keeps.fields | with_reducible apply Keeps.upd | exact List.prefix_rfl | exact Nat.le_refl _ | exact id | exact fun w => SMap.wf_put _ _ w | exact fun w => SMap.wf_update _ _ w | exact fun w => SMap.wf_filter _ w | exact fun w => wf_writeBytes _ _ w | exact fun _ => rfl | exact fun w => SMap.wf_map_filter (fun e => by split <;> rfl) w | (intro v; try dsimp only)

theorem State.readPart_keeps {z : State} (off len : Nat) (r : State × List Byte) (start : Nat) (hk : Keeps z r.1) :
    Keeps z (State.readPart off len r start).1 := by
  unfold State.readPart
  dsimp only
  have h : Keeps z (if (findWord start).isSome then r.1.sense start else r.1) := by
    split
    · exact State.sense_keeps _ hk
    · exact hk
  split
  · exact State.readEffect_keeps _ _ h
  · exact h

theorem State.barRead_keeps {z s : State} (off len : Nat) (hk : Keeps z s) : Keeps z (s.barRead off len) := by
  unfold State.barRead
  exact State.send_keeps _ (Keeps.foldl_fst (fun t x => State.readPart_keeps off len t x (Keeps.refl t.1)) _ hk)

theorem execReadClear_keeps {z s : State} (off len : Nat) (hk : Keeps z s) : ResKeeps z (execReadClear off len s) := by
  unfold execReadClear
  try dsimp only
  repeat' first | with_reducible exact hk | with_reducible exact Keeps.refl _ | with_reducible apply State.send_keeps | with_reducible apply State.barRead_keeps | with_reducible apply ResKeeps.next | with_reducible apply ResKeeps.ite | with_reducible apply Keeps.ite | split | with_reducible apply Keeps.fields | (intro v; try dsimp only)

theorem State.optionWrite_keeps {z s : State} (off mask value : Nat) (hk : Keeps z s) : Keeps z (State.optionWrite s off mask value) := by
  unfold State.optionWrite
  try dsimp only
  repeat' first | with_reducible exact hk | with_reducible exact Keeps.refl _ | with_reducible apply State.setReg_keeps | with_reducible apply State.afterWrite_keeps | with_reducible apply Keeps.ite | split | with_reducible apply Keeps.fields | with_reducible apply Keeps.upd | exact List.prefix_rfl | exact Nat.le_refl _ | exact id | exact fun w => SMap.wf_put _ _ w | exact fun w => SMap.wf_update _ _ w | exact fun w => SMap.wf_filter _ w | exact fun w => wf_writeBytes _ _ w | exact fun _ => rfl | exact fun w => SMap.wf_map_filter (fun e => by split <;> rfl) w | (intro v; try dsimp only)

end Sys2Proof.Machine
end

