-- ==== Sys2Proof/Laws/KeepsRoute.lean ====
section
/-!
SUPPORT. What each operation of Machine/Route.lean keeps.
-/
namespace Sys2Proof.Machine

theorem State.clearRoutes_keeps {z s : State}  (hk : Keeps z s) : Keeps z (State.clearRoutes s) := by
  unfold State.clearRoutes
  try dsimp only
  repeat' first | with_reducible exact hk | with_reducible exact Keeps.refl _ | with_reducible apply Keeps.ite | split | with_reducible apply Keeps.fields | with_reducible apply Keeps.upd | exact List.prefix_rfl | exact Nat.le_refl _ | exact id | exact fun w => SMap.wf_put _ _ w | exact fun w => SMap.wf_update _ _ w | exact fun w => SMap.wf_filter _ w | exact fun w => wf_writeBytes _ _ w | exact fun _ => rfl | exact fun w => SMap.wf_map_filter (fun e => by split <;> rfl) w | (intro v; try dsimp only)

theorem State.startElection_keeps {z s : State}  (hk : Keeps z s) : Keeps z (State.startElection s) := by
  unfold State.startElection
  try dsimp only
  repeat' first | with_reducible exact hk | with_reducible exact Keeps.refl _ | with_reducible apply State.set_keeps | with_reducible apply State.flood_keeps | with_reducible apply Keeps.ite | split | with_reducible apply Keeps.fields | (intro v; try dsimp only)

theorem State.resetRoute_keeps {z s : State}  (hk : Keeps z s) : Keeps z (State.resetRoute s) := by
  unfold State.resetRoute
  try dsimp only
  repeat' first | with_reducible exact hk | with_reducible exact Keeps.refl _ | with_reducible apply State.set_keeps | with_reducible apply State.disablePort_keeps | with_reducible apply State.clearRoutes_keeps | (with_reducible apply State.each_keeps; intro i t; try dsimp only) | with_reducible apply Keeps.ite | split | with_reducible apply Keeps.fields | (intro v; try dsimp only)

theorem State.applyRoute_keeps {z s : State} (r : List Byte) (hk : Keeps z s) : Keeps z (State.applyRoute s r) := by
  unfold State.applyRoute
  try dsimp only
  repeat' first | with_reducible exact hk | with_reducible exact Keeps.refl _ | with_reducible apply State.set_keeps | with_reducible apply State.raise_keeps | with_reducible apply State.disablePort_keeps | with_reducible apply State.clearRoutes_keeps | with_reducible apply State.startElection_keeps | (with_reducible apply State.each_keeps; intro i t; try dsimp only) | with_reducible apply Keeps.ite | split | with_reducible apply Keeps.fields | with_reducible apply Keeps.upd | exact List.prefix_rfl | exact Nat.le_refl _ | exact id | exact fun w => SMap.wf_put _ _ w | exact fun w => SMap.wf_update _ _ w | exact fun w => SMap.wf_filter _ w | exact fun w => wf_writeBytes _ _ w | exact fun _ => rfl | exact fun w => SMap.wf_map_filter (fun e => by split <;> rfl) w | (intro v; try dsimp only)

end Sys2Proof.Machine
end

