-- ==== Sys2Proof/Laws/KeepsSections.lean ====
section
/-!
SUPPORT. What each operation of Machine/Sections.lean keeps.
-/
namespace Sys2Proof.Machine

theorem State.clearProgram_keeps {z s : State} (e : Nat) (hk : Keeps z s) : Keeps z (State.clearProgram s e) := by
  unfold State.clearProgram
  try dsimp only
  repeat' first | with_reducible exact hk | with_reducible exact Keeps.refl _ | with_reducible apply Keeps.ite | split | with_reducible apply Keeps.fields | with_reducible apply Keeps.upd | exact List.prefix_rfl | exact Nat.le_refl _ | exact id | exact fun w => SMap.wf_put _ _ w | exact fun w => SMap.wf_update _ _ w | exact fun w => SMap.wf_filter _ w | exact fun w => wf_writeBytes _ _ w | exact fun _ => rfl | exact fun w => SMap.wf_map_filter (fun e => by split <;> rfl) w | (intro v; try dsimp only)

theorem State.haltEngine_keeps {z s : State} (e : Nat) (hk : Keeps z s) : Keeps z (State.haltEngine s e) := by
  unfold State.haltEngine
  try dsimp only
  with_reducible repeat' first | exact hk | exact Keeps.refl _ | apply State.set_keeps | apply State.kStop_keeps | apply Keeps.ite | split | (intro v; try dsimp only)

theorem State.putProgram_keeps {z s : State} (e : Nat) (body : List Byte) (hk : Keeps z s) : Keeps z (State.putProgram s e body) := by
  unfold State.putProgram
  try dsimp only
  with_reducible repeat' first | exact hk | exact Keeps.refl _ | apply State.setReg_keeps | apply State.set_keeps | apply State.kProgramChange_keeps | apply State.clearProgram_keeps | apply State.haltEngine_keeps | (apply State.each_keeps; intro i t; try dsimp only) | apply Keeps.ite | split | (intro v; try dsimp only)

end Sys2Proof.Machine
end

