-- ==== Sys2Proof/Laws/KeepsStructure.lean ====
section
/-!
SUPPORT. What each operation of Machine/Structure.lean keeps.
-/
namespace Sys2Proof.Machine

theorem State.putTurf_keeps {z s : State} (t v : Nat) (hk : Keeps z s) : Keeps z (State.putTurf s t v) := by
  unfold State.putTurf
  with_reducible repeat' first | exact hk | exact Keeps.refl _ | apply State.setReg_keeps | apply Keeps.ite | split | (intro v; try dsimp only)

theorem State.putCord_keeps {z s : State} (i : List Byte) (hk : Keeps z s) : Keeps z (State.putCord s i) := by
  unfold State.putCord
  try dsimp only
  repeat' first | with_reducible exact hk | with_reducible exact Keeps.refl _ | with_reducible apply State.setReg_keeps | with_reducible apply State.set_keeps | (with_reducible apply Keeps.foldl; intro t x; try dsimp only) | (with_reducible apply Keeps.foldl_fst; intro t x; try dsimp only) | (with_reducible apply State.each_keeps; intro i t; try dsimp only) | with_reducible apply Keeps.ite | split | with_reducible apply Keeps.fields | with_reducible apply Keeps.upd | exact List.prefix_rfl | exact Nat.le_refl _ | exact id | exact fun w => SMap.wf_put _ _ w | exact fun w => SMap.wf_update _ _ w | exact fun w => SMap.wf_filter _ w | exact fun w => wf_writeBytes _ _ w | exact fun _ => rfl | exact fun w => SMap.wf_map_filter (fun e => by split <;> rfl) w | (intro v; try dsimp only)

theorem State.healSlots_keeps {z s : State} (hit : Nat → Bool) (hk : Keeps z s) : Keeps z (State.healSlots s hit) := by
  unfold State.healSlots
  try dsimp only
  repeat' first | with_reducible exact hk | with_reducible exact Keeps.refl _ | with_reducible apply Keeps.ite | split | with_reducible apply Keeps.fields | (intro v; try dsimp only)

theorem State.putCosts_keeps {z s : State}  (hk : Keeps z s) : Keeps z (State.putCosts s) := by
  unfold State.putCosts
  with_reducible repeat' first | exact hk | exact Keeps.refl _ | apply State.set_keeps | (apply State.each_keeps; intro i t; try dsimp only) | apply Keeps.ite | split | (intro v; try dsimp only)

theorem State.putStructure_keeps {z s : State} (i : List Byte) (hk : Keeps z s) : Keeps z (State.putStructure s i) := by
  unfold State.putStructure
  try dsimp only
  repeat' first | with_reducible exact hk | with_reducible exact Keeps.refl _ | with_reducible apply State.setReg_keeps | with_reducible apply State.putTurf_keeps | with_reducible apply State.putCord_keeps | with_reducible apply State.healSlots_keeps | with_reducible apply State.putCosts_keeps | (with_reducible apply Keeps.foldl; intro t x; try dsimp only) | (with_reducible apply Keeps.foldl_fst; intro t x; try dsimp only) | with_reducible apply Keeps.ite | split | with_reducible apply Keeps.fields | with_reducible apply Keeps.upd | exact List.prefix_rfl | exact Nat.le_refl _ | exact id | exact fun w => SMap.wf_put _ _ w | exact fun w => SMap.wf_update _ _ w | exact fun w => SMap.wf_filter _ w | exact fun w => wf_writeBytes _ _ w | exact fun _ => rfl | exact fun w => SMap.wf_map_filter (fun e => by split <;> rfl) w | (intro v; try dsimp only)

end Sys2Proof.Machine
end

