-- ==== Sys2Proof/Laws/KeepsLoader.lean ====
section
/-!
SUPPORT. What each operation of Machine/Loader.lean keeps.
-/
namespace Sys2Proof.Machine

theorem State.sifRefuse_keeps {z s : State} (r : Refuse) (hk : Keeps z s) : Keeps z (State.sifRefuse s r) := by
  unfold State.sifRefuse
  with_reducible repeat' first | exact hk | exact Keeps.refl _ | apply State.set_keeps | apply State.raise_keeps | apply Keeps.ite | split | (intro v; try dsimp only)

theorem State.armTurf_keeps {z s : State} (t : Nat) (hk : Keeps z s) : Keeps z (State.armTurf s t) := by
  unfold State.armTurf
  try dsimp only
  repeat' first | with_reducible exact hk | with_reducible exact Keeps.refl _ | with_reducible apply State.set_keeps | with_reducible apply State.holdFence_keeps | with_reducible apply State.enterFenced_keeps | with_reducible apply Keeps.ite | split | with_reducible apply Keeps.fields | (intro v; try dsimp only)

theorem State.armLoad_keeps {z s : State} (i : List Byte) (auto : Bool) (hk : Keeps z s) : Keeps z (State.armLoad s i auto) := by
  unfold State.armLoad
  try dsimp only
  repeat' first | with_reducible exact hk | with_reducible exact Keeps.refl _ | with_reducible apply State.set_keeps | with_reducible apply State.kStop_keeps | with_reducible apply State.edgeHold_keeps | with_reducible apply State.armTurf_keeps | (with_reducible apply Keeps.foldl; intro t x; try dsimp only) | (with_reducible apply Keeps.foldl_fst; intro t x; try dsimp only) | (with_reducible apply State.each_keeps; intro i t; try dsimp only) | with_reducible apply Keeps.ite | split | with_reducible apply Keeps.fields | (intro v; try dsimp only)

theorem State.freeTurf_keeps {z s : State} (t : Nat) (hk : Keeps z s) : Keeps z (State.freeTurf s t) := by
  unfold State.freeTurf
  try dsimp only
  repeat' first | with_reducible exact hk | with_reducible exact Keeps.refl _ | with_reducible apply State.set_keeps | with_reducible apply State.setFence_keeps | with_reducible apply State.releaseFence_keeps | with_reducible apply Keeps.ite | split | with_reducible apply Keeps.fields | (intro v; try dsimp only)

theorem State.endLoad_keeps {z s : State} (r : Refuse) (hk : Keeps z s) : Keeps z (State.endLoad s r) := by
  unfold State.endLoad
  try dsimp only
  repeat' first | with_reducible exact hk | with_reducible exact Keeps.refl _ | with_reducible apply State.set_keeps | with_reducible apply State.edgeState_keeps | with_reducible apply State.edgeEmpty_keeps | with_reducible apply State.sifRefuse_keeps | with_reducible apply State.freeTurf_keeps | (with_reducible apply Keeps.foldl; intro t x; try dsimp only) | (with_reducible apply Keeps.foldl_fst; intro t x; try dsimp only) | with_reducible apply Keeps.ite | split | with_reducible apply Keeps.fields | with_reducible apply Keeps.upd | exact List.prefix_rfl | exact Nat.le_refl _ | exact id | exact fun w => SMap.wf_put _ _ w | exact fun w => SMap.wf_update _ _ w | exact fun w => SMap.wf_filter _ w | exact fun w => wf_writeBytes _ _ w | exact fun _ => rfl | exact fun w => SMap.wf_map_filter (fun e => by split <;> rfl) w | (intro v; try dsimp only)

theorem State.beginLoad_keeps {z s : State} (i : List Byte) (len : Nat) (auto : Bool) (hk : Keeps z s) : Keeps z (State.beginLoad s i len auto) := by
  unfold State.beginLoad
  try dsimp only
  with_reducible repeat' first | exact hk | exact Keeps.refl _ | apply State.sifRefuse_keeps | apply State.armLoad_keeps | apply Keeps.ite | split | (intro v; try dsimp only)

theorem execLoad_keeps {z s : State} (auto : Bool) (image : List Byte) (readGood : Bool) (hk : Keeps z s) : ResKeeps z (execLoad auto image readGood s) := by
  unfold execLoad
  try dsimp only
  with_reducible repeat' first | exact hk | exact Keeps.refl _ | apply State.sifRefuse_keeps | apply State.beginLoad_keeps | apply ResKeeps.next | apply ResKeeps.ite | apply Keeps.ite | split | (intro v; try dsimp only)

theorem State.commitLoad_keeps {z s : State}  (hk : Keeps z s) : Keeps z (State.commitLoad s) := by
  unfold State.commitLoad
  try dsimp only
  repeat' first | with_reducible exact hk | with_reducible exact Keeps.refl _ | with_reducible apply State.set_keeps | with_reducible apply State.useFree_keeps | with_reducible apply State.endLoad_keeps | with_reducible apply Keeps.ite | split | with_reducible apply Keeps.fields | with_reducible apply Keeps.upd | exact List.prefix_rfl | exact Nat.le_refl _ | exact id | exact fun w => SMap.wf_put _ _ w | exact fun w => SMap.wf_update _ _ w | exact fun w => SMap.wf_filter _ w | exact fun w => wf_writeBytes _ _ w | exact fun _ => rfl | exact fun w => SMap.wf_map_filter (fun e => by split <;> rfl) w | (intro v; try dsimp only)

theorem State.finishLoad_keeps {z s : State}  (hk : Keeps z s) : Keeps z (State.finishLoad s) := by
  unfold State.finishLoad
  try dsimp only
  repeat' first | with_reducible exact hk | with_reducible exact Keeps.refl _ | with_reducible apply State.set_keeps | with_reducible apply State.raise_keeps | with_reducible apply State.edgeConfigure_keeps | with_reducible apply State.endLoad_keeps | with_reducible apply State.commitLoad_keeps | with_reducible apply Keeps.ite | split | with_reducible apply Keeps.fields | with_reducible apply Keeps.upd | exact List.prefix_rfl | exact Nat.le_refl _ | exact id | exact fun w => SMap.wf_put _ _ w | exact fun w => SMap.wf_update _ _ w | exact fun w => SMap.wf_filter _ w | exact fun w => wf_writeBytes _ _ w | exact fun _ => rfl | exact fun w => SMap.wf_map_filter (fun e => by split <;> rfl) w | (intro v; try dsimp only)

theorem execLoaded_keeps {z s : State}  (hk : Keeps z s) : ResKeeps z (execLoaded s) := by
  unfold execLoaded
  with_reducible repeat' first | exact hk | exact Keeps.refl _ | apply State.finishLoad_keeps | apply ResKeeps.next | apply ResKeeps.ite | apply Keeps.ite | split | (intro v; try dsimp only)

theorem State.applyPrograms_keeps {z s : State} (i : List Byte) (hk : Keeps z s) : Keeps z (State.applyPrograms s i) := by
  unfold State.applyPrograms
  try dsimp only
  repeat' first | with_reducible exact hk | with_reducible exact Keeps.refl _ | with_reducible apply State.kProgramChange_keeps | with_reducible apply State.clearProgram_keeps | with_reducible apply State.haltEngine_keeps | with_reducible apply State.putProgram_keeps | (with_reducible apply State.each_keeps; intro i t; try dsimp only) | with_reducible apply Keeps.ite | split | with_reducible apply Keeps.fields | with_reducible apply Keeps.upd | exact List.prefix_rfl | exact Nat.le_refl _ | exact id | exact fun w => SMap.wf_put _ _ w | exact fun w => SMap.wf_update _ _ w | exact fun w => SMap.wf_filter _ w | exact fun w => wf_writeBytes _ _ w | exact fun _ => rfl | exact fun w => SMap.wf_map_filter (fun e => by split <;> rfl) w | (intro v; try dsimp only)

theorem State.applyEdge_keeps {z s : State} (i old : List Byte) (hk : Keeps z s) : Keeps z (State.applyEdge s i old) := by
  unfold State.applyEdge
  try dsimp only
  repeat' first | with_reducible exact hk | with_reducible exact Keeps.refl _ | with_reducible apply State.edgeState_keeps | with_reducible apply State.edgeStart_keeps | with_reducible apply State.applyPrograms_keeps | with_reducible apply Keeps.ite | split | with_reducible apply Keeps.fields | (intro v; try dsimp only)

theorem State.autostart_keeps {z s : State} (i : List Byte) (hk : Keeps z s) : Keeps z (State.autostart s i) := by
  unfold State.autostart
  with_reducible repeat' first | exact hk | exact Keeps.refl _ | apply State.kStart_keeps | (apply State.each_keeps; intro i t; try dsimp only) | apply Keeps.ite | split | (intro v; try dsimp only)

theorem State.applyFull_keeps {z s : State} (i : List Byte) (hk : Keeps z s) : Keeps z (State.applyFull s i) := by
  unfold State.applyFull
  try dsimp only
  repeat' first | with_reducible exact hk | with_reducible exact Keeps.refl _ | with_reducible apply State.resetRoute_keeps | with_reducible apply State.applyRoute_keeps | with_reducible apply State.applyPatch_keeps | with_reducible apply Keeps.ite | split | with_reducible apply Keeps.fields | with_reducible apply Keeps.upd | exact List.prefix_rfl | exact Nat.le_refl _ | exact id | exact fun w => SMap.wf_put _ _ w | exact fun w => SMap.wf_update _ _ w | exact fun w => SMap.wf_filter _ w | exact fun w => wf_writeBytes _ _ w | exact fun _ => rfl | exact fun w => SMap.wf_map_filter (fun e => by split <;> rfl) w | (intro v; try dsimp only)

theorem State.applyOptions_keeps {z s : State} (i : List Byte) (hk : Keeps z s) : Keeps z (State.applyOptions s i) := by
  unfold State.applyOptions
  try dsimp only
  repeat' first | with_reducible exact hk | with_reducible exact Keeps.refl _ | with_reducible apply State.optionWrite_keeps | (with_reducible apply Keeps.foldl; intro t x; try dsimp only) | (with_reducible apply Keeps.foldl_fst; intro t x; try dsimp only) | with_reducible apply Keeps.ite | split | with_reducible apply Keeps.fields | with_reducible apply Keeps.upd | exact List.prefix_rfl | exact Nat.le_refl _ | exact id | exact fun w => SMap.wf_put _ _ w | exact fun w => SMap.wf_update _ _ w | exact fun w => SMap.wf_filter _ w | exact fun w => wf_writeBytes _ _ w | exact fun _ => rfl | exact fun w => SMap.wf_map_filter (fun e => by split <;> rfl) w | (intro v; try dsimp only)

theorem State.measure_keeps {z s : State} (i : List Byte) (hk : Keeps z s) : Keeps z (State.measure s i) := by
  unfold State.measure
  try dsimp only
  with_reducible repeat' first | exact hk | exact Keeps.refl _ | apply State.setSifHash_keeps | apply Keeps.ite | split | (intro v; try dsimp only)

theorem State.appliedImage_keeps {z s : State} (i : List Byte) (hk : Keeps z s) : Keeps z (State.appliedImage s i) := by
  unfold State.appliedImage
  try dsimp only
  with_reducible repeat' first | exact hk | exact Keeps.refl _ | apply State.set_keeps | apply Keeps.ite | split | (intro v; try dsimp only)

theorem State.applyLoad_keeps {z s : State} (l : Loader) (hk : Keeps z s) : Keeps z (State.applyLoad s l) := by
  unfold State.applyLoad
  try dsimp only
  repeat' first | with_reducible exact hk | with_reducible exact Keeps.refl _ | with_reducible apply State.putStructure_keeps | with_reducible apply State.switchOn_keeps | with_reducible apply State.freeTurf_keeps | with_reducible apply State.applyEdge_keeps | with_reducible apply State.autostart_keeps | with_reducible apply State.applyFull_keeps | with_reducible apply State.applyOptions_keeps | with_reducible apply State.measure_keeps | with_reducible apply State.appliedImage_keeps | (with_reducible apply Keeps.foldl; intro t x; try dsimp only) | (with_reducible apply Keeps.foldl_fst; intro t x; try dsimp only) | with_reducible apply Keeps.ite | split | with_reducible apply Keeps.fields | (intro v; try dsimp only)

theorem execApply_keeps {z s : State}  (hk : Keeps z s) : ResKeeps z (execApply s) := by
  unfold execApply
  try dsimp only
  repeat' first | with_reducible exact hk | with_reducible exact Keeps.refl _ | with_reducible apply State.applyLoad_keeps | with_reducible apply ResKeeps.next | with_reducible apply ResKeeps.ite | with_reducible apply Keeps.ite | split | with_reducible apply Keeps.fields | with_reducible apply Keeps.upd | exact List.prefix_rfl | exact Nat.le_refl _ | exact id | exact fun w => SMap.wf_put _ _ w | exact fun w => SMap.wf_update _ _ w | exact fun w => SMap.wf_filter _ w | exact fun w => wf_writeBytes _ _ w | exact fun _ => rfl | exact fun w => SMap.wf_map_filter (fun e => by split <;> rfl) w | (intro v; try dsimp only)

theorem State.putShadow_keeps {z s : State}  (hk : Keeps z s) : Keeps z (State.putShadow s) := by
  unfold State.putShadow
  with_reducible repeat' first | exact hk | exact Keeps.refl _ | apply State.setReg_keeps | apply State.healSlots_keeps | apply State.putCosts_keeps | (apply Keeps.foldl; intro t x; try dsimp only) | (apply Keeps.foldl_fst; intro t x; try dsimp only) | apply Keeps.ite | split | (intro v; try dsimp only)

theorem State.bareTurfs_keeps {z s : State} (o : State) (hk : Keeps z s) : Keeps z (State.bareTurfs s o) := by
  unfold State.bareTurfs
  try dsimp only
  repeat' first | with_reducible exact hk | with_reducible exact Keeps.refl _ | with_reducible apply State.set_keeps | with_reducible apply State.setFence_keeps | (with_reducible apply State.each_keeps; intro i t; try dsimp only) | with_reducible apply Keeps.ite | split | with_reducible apply Keeps.fields | (intro v; try dsimp only)

theorem State.bareCommit_keeps {z s : State}  (hk : Keeps z s) : Keeps z (State.bareCommit s) := by
  unfold State.bareCommit
  try dsimp only
  repeat' first | with_reducible exact hk | with_reducible exact Keeps.refl _ | with_reducible apply State.set_keeps | with_reducible apply State.disablePort_keeps | with_reducible apply State.sifRefuse_keeps | with_reducible apply State.putShadow_keeps | with_reducible apply State.bareTurfs_keeps | (with_reducible apply State.each_keeps; intro i t; try dsimp only) | with_reducible apply Keeps.ite | split | with_reducible apply Keeps.fields | (intro v; try dsimp only)

theorem execCommit_keeps {z s : State}  (hk : Keeps z s) : ResKeeps z (execCommit s) := by
  unfold execCommit
  try dsimp only
  repeat' first | with_reducible exact hk | with_reducible exact Keeps.refl _ | with_reducible apply State.sifRefuse_keeps | with_reducible apply State.commitLoad_keeps | with_reducible apply State.bareCommit_keeps | with_reducible apply ResKeeps.next | with_reducible apply ResKeeps.ite | with_reducible apply Keeps.ite | split | with_reducible apply Keeps.fields | with_reducible apply Keeps.upd | exact List.prefix_rfl | exact Nat.le_refl _ | exact id | exact fun w => SMap.wf_put _ _ w | exact fun w => SMap.wf_update _ _ w | exact fun w => SMap.wf_filter _ w | exact fun w => wf_writeBytes _ _ w | exact fun _ => rfl | exact fun w => SMap.wf_map_filter (fun e => by split <;> rfl) w | (intro v; try dsimp only)

theorem execBareCommit_keeps {z s : State}  (hk : Keeps z s) : ResKeeps z (execBareCommit s) := by
  unfold execBareCommit
  with_reducible repeat' first | exact hk | exact Keeps.refl _ | apply State.bareCommit_keeps | apply ResKeeps.next | apply ResKeeps.ite | apply Keeps.ite | split | (intro v; try dsimp only)

theorem execAbort_keeps {z s : State}  (hk : Keeps z s) : ResKeeps z (execAbort s) := by
  unfold execAbort
  with_reducible repeat' first | exact hk | exact Keeps.refl _ | apply State.endLoad_keeps | apply ResKeeps.next | apply ResKeeps.ite | apply Keeps.ite | split | (intro v; try dsimp only)

theorem State.withdraw_keeps {z s : State} (t : Nat) (hk : Keeps z s) : Keeps z (State.withdraw s t) := by
  unfold State.withdraw
  try dsimp only
  repeat' first | with_reducible exact hk | with_reducible exact Keeps.refl _ | with_reducible apply State.set_keeps | with_reducible apply State.holdFence_keeps | with_reducible apply Keeps.ite | split | with_reducible apply Keeps.fields | (intro v; try dsimp only)

theorem execWithdrawal_keeps {z s : State} (t : TurfId) (hk : Keeps z s) : ResKeeps z (execWithdrawal t s) := by
  unfold execWithdrawal
  with_reducible repeat' first | exact hk | exact Keeps.refl _ | apply State.withdraw_keeps | apply ResKeeps.next | apply ResKeeps.ite | apply Keeps.ite | split | (intro v; try dsimp only)

theorem execReturn_keeps {z s : State} (t : TurfId) (hk : Keeps z s) : ResKeeps z (execReturn t s) := by
  unfold execReturn
  try dsimp only
  repeat' first | with_reducible exact hk | with_reducible exact Keeps.refl _ | with_reducible apply State.set_keeps | with_reducible apply State.setFence_keeps | with_reducible apply State.releaseFence_keeps | with_reducible apply State.switchOn_keeps | with_reducible apply ResKeeps.next | with_reducible apply ResKeeps.ite | with_reducible apply Keeps.ite | split | with_reducible apply Keeps.fields | (intro v; try dsimp only)

end Sys2Proof.Machine
end

