-- ==== Sys2Proof/Laws/KeepsRings.lean ====
section
/-!
SUPPORT. What each operation of Machine/Rings.lean keeps.
-/
namespace Sys2Proof.Machine

theorem execHivOffer_keeps {z s : State} (value : BitVec 8) (hk : Keeps z s) : ResKeeps z (execHivOffer value s) := by
  unfold execHivOffer
  try dsimp only
  with_reducible repeat' first | exact hk | exact Keeps.refl _ | apply State.set_keeps | apply State.showOwners_keeps | apply ResKeeps.next | apply ResKeeps.ite | apply Keeps.ite | split | (intro v; try dsimp only)

theorem State.ringErr_keeps {z s : State} (p : Nat) (f : Field) (hk : Keeps z s) : Keeps z (State.ringErr s p f) := by
  unfold State.ringErr
  with_reducible repeat' first | exact hk | exact Keeps.refl _ | apply State.set_keeps | apply State.raise_keeps | apply Keeps.ite | split | (intro v; try dsimp only)

theorem State.ringErrs_keeps {z s : State} (p : Nat) (hk : Keeps z s) : Keeps z (State.ringErrs s p) := by
  unfold State.ringErrs
  try dsimp only
  with_reducible repeat' first | exact hk | exact Keeps.refl _ | apply State.ringErr_keeps | apply Keeps.ite | split | (intro v; try dsimp only)

theorem State.openRing_keeps {z s : State} (p : Nat) (hk : Keeps z s) : Keeps z (State.openRing s p) := by
  unfold State.openRing
  try dsimp only
  repeat' first | with_reducible exact hk | with_reducible exact Keeps.refl _ | with_reducible apply State.set_keeps | with_reducible apply State.setRing_keeps | with_reducible apply Keeps.ite | split | with_reducible apply Keeps.fields | with_reducible apply Keeps.upd | exact List.prefix_rfl | exact Nat.le_refl _ | exact id | exact fun w => SMap.wf_put _ _ w | exact fun w => SMap.wf_update _ _ w | exact fun w => SMap.wf_filter _ w | exact fun w => wf_writeBytes _ _ w | exact fun _ => rfl | exact fun w => SMap.wf_map_filter (fun e => by split <;> rfl) w | (intro v; try dsimp only)

theorem execRingEnable_keeps {z s : State} (p : SeqId) (hk : Keeps z s) : ResKeeps z (execRingEnable p s) := by
  unfold execRingEnable
  with_reducible repeat' first | exact hk | exact Keeps.refl _ | apply State.ringErrs_keeps | apply State.openRing_keeps | apply ResKeeps.next | apply ResKeeps.ite | apply Keeps.ite | split | (intro v; try dsimp only)

theorem execRingDisable_keeps {z s : State} (p : SeqId) (hk : Keeps z s) : ResKeeps z (execRingDisable p s) := by
  unfold execRingDisable
  with_reducible repeat' first | exact hk | exact Keeps.refl _ | apply State.set_keeps | apply ResKeeps.next | apply ResKeeps.ite | apply Keeps.ite | split | (intro v; try dsimp only)

theorem execDoorbell_keeps {z s : State} (p : SeqId) (value : W32) (hk : Keeps z s) : ResKeeps z (execDoorbell p value s) := by
  unfold execDoorbell
  try dsimp only
  repeat' first | with_reducible exact hk | with_reducible exact Keeps.refl _ | with_reducible apply State.setRing_keeps | with_reducible apply State.ringErr_keeps | with_reducible apply ResKeeps.next | with_reducible apply ResKeeps.ite | with_reducible apply Keeps.ite | split | with_reducible apply Keeps.fields | (intro v; try dsimp only)

theorem State.advanceHead_keeps {z s : State} (p : Nat) (hk : Keeps z s) : Keeps z (State.advanceHead s p) := by
  unfold State.advanceHead
  with_reducible repeat' first | exact hk | exact Keeps.refl _ | apply State.set_keeps | apply Keeps.ite | split | (intro v; try dsimp only)

theorem execEntryFetch_keeps {z s : State} (p : SeqId) (entry : List Byte) (hk : Keeps z s) : ResKeeps z (execEntryFetch p entry s) := by
  unfold execEntryFetch
  try dsimp only
  repeat' first | with_reducible exact hk | with_reducible exact Keeps.refl _ | with_reducible apply State.setRing_keeps | with_reducible apply State.send_keeps | with_reducible apply State.useFree_keeps | with_reducible apply State.postHeld_keeps | with_reducible apply State.advanceHead_keeps | with_reducible apply ResKeeps.next | with_reducible apply ResKeeps.ite | with_reducible apply Keeps.ite | split | with_reducible apply Keeps.fields | (intro v; try dsimp only)

theorem execMailboxDelivery_keeps {z s : State} (p : SeqId) (hk : Keeps z s) : ResKeeps z (execMailboxDelivery p s) := by
  unfold execMailboxDelivery
  try dsimp only
  repeat' first | with_reducible exact hk | with_reducible exact Keeps.refl _ | with_reducible apply State.setRing_keeps | with_reducible apply State.raise_keeps | with_reducible apply State.hearthWrite_keeps | with_reducible apply State.advanceHead_keeps | with_reducible apply ResKeeps.next | with_reducible apply ResKeeps.ite | with_reducible apply Keeps.ite | split | with_reducible apply Keeps.fields | with_reducible apply Keeps.upd | exact List.prefix_rfl | exact Nat.le_refl _ | exact id | exact fun w => SMap.wf_put _ _ w | exact fun w => SMap.wf_update _ _ w | exact fun w => SMap.wf_filter _ w | exact fun w => wf_writeBytes _ _ w | exact fun _ => rfl | exact fun w => SMap.wf_map_filter (fun e => by split <;> rfl) w | (intro v; try dsimp only)

theorem execLaunch_keeps {z s : State} (p : SeqId) (hk : Keeps z s) : ResKeeps z (execLaunch p s) := by
  unfold execLaunch
  try dsimp only
  repeat' first | with_reducible exact hk | with_reducible exact Keeps.refl _ | with_reducible apply State.set_keeps | with_reducible apply State.setRing_keeps | with_reducible apply State.startSeq_keeps | with_reducible apply ResKeeps.next | with_reducible apply ResKeeps.ite | with_reducible apply Keeps.ite | split | with_reducible apply Keeps.fields | with_reducible apply Keeps.upd | exact List.prefix_rfl | exact Nat.le_refl _ | exact id | exact fun w => SMap.wf_put _ _ w | exact fun w => SMap.wf_update _ _ w | exact fun w => SMap.wf_filter _ w | exact fun w => wf_writeBytes _ _ w | exact fun _ => rfl | exact fun w => SMap.wf_map_filter (fun e => by split <;> rfl) w | (intro v; try dsimp only)

theorem execCompletionWrite_keeps {z s : State} (p : SeqId) (hk : Keeps z s) : ResKeeps z (execCompletionWrite p s) := by
  unfold execCompletionWrite
  try dsimp only
  repeat' first | with_reducible exact hk | with_reducible exact Keeps.refl _ | with_reducible apply State.setRing_keeps | with_reducible apply State.writeCompletion_keeps | with_reducible apply ResKeeps.next | with_reducible apply ResKeeps.ite | with_reducible apply Keeps.ite | split | with_reducible apply Keeps.fields | with_reducible apply Keeps.upd | exact List.prefix_rfl | exact Nat.le_refl _ | exact id | exact fun w => SMap.wf_put _ _ w | exact fun w => SMap.wf_update _ _ w | exact fun w => SMap.wf_filter _ w | exact fun w => wf_writeBytes _ _ w | exact fun _ => rfl | exact fun w => SMap.wf_map_filter (fun e => by split <;> rfl) w | (intro v; try dsimp only)

theorem execCompletionHeadWrite_keeps {z s : State} (p : SeqId) (value : W32) (hk : Keeps z s) : ResKeeps z (execCompletionHeadWrite p value s) := by
  unfold execCompletionHeadWrite
  with_reducible repeat' first | exact hk | exact Keeps.refl _ | apply State.set_keeps | apply ResKeeps.next | apply ResKeeps.ite | apply Keeps.ite | split | (intro v; try dsimp only)

theorem State.resetRing_keeps {z s : State} (p : Nat) (hk : Keeps z s) : Keeps z (State.resetRing s p) := by
  unfold State.resetRing
  try dsimp only
  repeat' first | with_reducible exact hk | with_reducible exact Keeps.refl _ | with_reducible apply State.setRing_keeps | with_reducible apply Keeps.ite | split | with_reducible apply Keeps.fields | with_reducible apply Keeps.upd | exact List.prefix_rfl | exact Nat.le_refl _ | exact id | exact fun w => SMap.wf_put _ _ w | exact fun w => SMap.wf_update _ _ w | exact fun w => SMap.wf_filter _ w | exact fun w => wf_writeBytes _ _ w | exact fun _ => rfl | exact fun w => SMap.wf_map_filter (fun e => by split <;> rfl) w | (intro v; try dsimp only)

end Sys2Proof.Machine
end

