-- ==== Sys2Proof/Laws/KeepsReset.lean ====
section
/-!
SUPPORT. What each operation of Machine/Reset.lean keeps.
-/
namespace Sys2Proof.Machine

theorem State.ashAppend_keeps {z s : State} (src reach target detail : Nat) (aband : Bool) (hk : Keeps z s) : Keeps z (State.ashAppend s src reach target detail aband) := by
  unfold State.ashAppend
  try dsimp only
  repeat' first | with_reducible exact hk | with_reducible exact Keeps.refl _ | with_reducible apply State.set_keeps | with_reducible apply State.count_keeps | with_reducible apply State.useFree_keeps | (with_reducible apply State.each_keeps; intro i t; try dsimp only) | with_reducible apply Keeps.ite | split | with_reducible apply Keeps.fields | with_reducible apply Keeps.upd | exact List.prefix_rfl | exact Nat.le_refl _ | exact id | exact fun w => SMap.wf_put _ _ w | exact fun w => SMap.wf_update _ _ w | exact fun w => SMap.wf_filter _ w | exact fun w => wf_writeBytes _ _ w | exact fun _ => rfl | exact fun w => SMap.wf_map_filter (fun e => by split <;> rfl) w | (intro v; try dsimp only)

theorem State.ashTimeout_keeps {z s : State} (record : Option Nat) (hk : Keeps z s) : Keeps z (State.ashTimeout s record) := by
  unfold State.ashTimeout
  try dsimp only
  repeat' first | with_reducible exact hk | with_reducible exact Keeps.refl _ | with_reducible apply State.set_keeps | with_reducible apply Keeps.ite | split | with_reducible apply Keeps.fields | with_reducible apply Keeps.upd | exact List.prefix_rfl | exact Nat.le_refl _ | exact id | exact fun w => SMap.wf_put _ _ w | exact fun w => SMap.wf_update _ _ w | exact fun w => SMap.wf_filter _ w | exact fun w => wf_writeBytes _ _ w | exact fun _ => rfl | exact fun w => SMap.wf_map_filter (fun e => by split <;> rfl) w | (intro v; try dsimp only)

theorem State.failOn_keeps {z t : State} (e : Nat) (mine : Transfer → Bool) (hk : Keeps z t) : Keeps z (State.failOn t e mine) := by
  unfold State.failOn
  try dsimp only
  repeat' first | with_reducible exact hk | with_reducible exact Keeps.refl _ | with_reducible apply State.set_keeps | with_reducible apply State.setSeq_keeps | with_reducible apply State.setStg_keeps | with_reducible apply State.stgDone_keeps | with_reducible apply State.dropPackets_keeps | (with_reducible apply Keeps.foldl; intro t x; try dsimp only) | (with_reducible apply Keeps.foldl_fst; intro t x; try dsimp only) | with_reducible apply Keeps.ite | split | with_reducible apply Keeps.fields | (intro v; try dsimp only)

theorem State.failTransfers_keeps {z s : State} (p : Nat) (hk : Keeps z s) : Keeps z (State.failTransfers s p) := by
  unfold State.failTransfers
  with_reducible repeat' first | exact hk | exact Keeps.refl _ | apply State.failOn_keeps | (apply State.each_keeps; intro i t; try dsimp only) | apply Keeps.ite | split | (intro v; try dsimp only)

theorem State.failEngine_keeps {z s : State} (e : Nat) (hk : Keeps z s) : Keeps z (State.failEngine s e) := by
  unfold State.failEngine
  with_reducible repeat' first | exact hk | exact Keeps.refl _ | apply State.failOn_keeps | apply Keeps.ite | split | (intro v; try dsimp only)

theorem State.rejoinReset_keeps {z s : State} (t : Nat) (hk : Keeps z s) : Keeps z (State.rejoinReset s t) := by
  unfold State.rejoinReset
  try dsimp only
  repeat' first | with_reducible exact hk | with_reducible exact Keeps.refl _ | with_reducible apply State.set_keeps | with_reducible apply State.setFence_keeps | with_reducible apply State.showFence_keeps | with_reducible apply Keeps.ite | split | with_reducible apply Keeps.fields | (intro v; try dsimp only)

theorem State.clearPartition_keeps {z s : State} (p : Nat) (hk : Keeps z s) : Keeps z (s.clearPartition p) := by
  unfold State.clearPartition
  refine Keeps.foldl (fun t n => State.rejoinReset_keeps n (Keeps.refl t)) _ ?_
  refine State.set_keeps _ _ (State.setRecov_keeps _ _ (State.endHalt_keeps _ (State.setPc_keeps _ _ (State.resetRegs_keeps _ _ ?_))))
  exact (State.setSeq_keeps _ _ (State.setPart_keeps _ _ (State.failTransfers_keeps _ (State.failJob_keeps _ _ hk)))).upd
    List.prefix_rfl (Nat.le_refl _) id id id id id id (fun w => SMap.wf_filter _ w) id

theorem State.clearPort_keeps {z s : State} (n : Nat) (hk : Keeps z s) : Keeps z (State.clearPort s n) := by
  unfold State.clearPort
  try dsimp only
  repeat' first | with_reducible exact hk | with_reducible exact Keeps.refl _ | with_reducible apply State.resetRegs_keeps | with_reducible apply State.setPort_keeps | with_reducible apply State.releaseFence_keeps | with_reducible apply State.linkDown_keeps | with_reducible apply Keeps.ite | split | with_reducible apply Keeps.fields | (intro v; try dsimp only)

theorem State.clearEdge_keeps {z s : State}  (hk : Keeps z s) : Keeps z (State.clearEdge s) := by
  unfold State.clearEdge
  try dsimp only
  repeat' first | with_reducible exact hk | with_reducible exact Keeps.refl _ | with_reducible apply State.resetRegs_keeps | with_reducible apply State.edgeState_keeps | with_reducible apply State.abortCapture_keeps | with_reducible apply State.edgeInit_keeps | with_reducible apply State.edgeStart_keeps | with_reducible apply State.releaseFence_keeps | with_reducible apply State.endLoad_keeps | with_reducible apply Keeps.ite | split | with_reducible apply Keeps.fields | with_reducible apply Keeps.upd | exact List.prefix_rfl | exact Nat.le_refl _ | exact id | exact fun w => SMap.wf_put _ _ w | exact fun w => SMap.wf_update _ _ w | exact fun w => SMap.wf_filter _ w | exact fun w => wf_writeBytes _ _ w | exact fun _ => rfl | exact fun w => SMap.wf_map_filter (fun e => by split <;> rfl) w | (intro v; try dsimp only)

theorem State.clearBlock_keeps {z s : State} (b : Nat) (hk : Keeps z s) : Keeps z (State.clearBlock s b) := by
  unfold State.clearBlock
  try dsimp only
  with_reducible repeat' first | exact hk | exact Keeps.refl _ | apply State.resetRegs_keeps | apply State.kBlockReset_keeps | apply State.moved_keeps | apply State.failEngine_keeps | apply State.clearPort_keeps | apply State.clearEdge_keeps | apply Keeps.ite | split | (intro v; try dsimp only)

theorem State.cutStore_keeps {z s : State}  (hk : Keeps z s) : Keeps z (State.cutStore s) := by
  unfold State.cutStore
  try dsimp only
  repeat' first | with_reducible exact hk | with_reducible exact Keeps.refl _ | with_reducible apply State.useFree_keeps | with_reducible apply Keeps.ite | split | with_reducible apply Keeps.fields | with_reducible apply Keeps.upd | exact List.prefix_rfl | exact Nat.le_refl _ | exact id | exact fun w => SMap.wf_put _ _ w | exact fun w => SMap.wf_update _ _ w | exact fun w => SMap.wf_filter _ w | exact fun w => wf_writeBytes _ _ w | exact fun _ => rfl | exact fun w => SMap.wf_map_filter (fun e => by split <;> rfl) w | (intro v; try dsimp only)

theorem State.clearModule_keeps {z s : State} (reach : Nat) (hk : Keeps z s) : Keeps z (s.clearModule reach) := by
  unfold State.clearModule
  refine State.each_keeps (fun n t => Keeps.ite (State.set_keeps _ _ (Keeps.refl t)) (Keeps.refl t)) _ ?_
  refine (State.resetRegs_keeps reach _ (State.cutStore_keeps hk)).upd List.prefix_rfl (Nat.le_refl _)
    (fun _ => rfl) (fun _ => rfl) ?_ id id (fun _ => rfl) (fun _ => rfl) id
  intro w
  split
  · rfl
  · exact w

theorem State.abandonRecovery_keeps {z s : State} (p : Nat) (hk : Keeps z s) : Keeps z (State.abandonRecovery s p) := by
  unfold State.abandonRecovery
  try dsimp only
  repeat' first | with_reducible exact hk | with_reducible exact Keeps.refl _ | with_reducible apply State.set_keeps | with_reducible apply State.setRecov_keeps | with_reducible apply Keeps.ite | split | with_reducible apply Keeps.fields | with_reducible apply Keeps.upd | exact List.prefix_rfl | exact Nat.le_refl _ | exact id | exact fun w => SMap.wf_put _ _ w | exact fun w => SMap.wf_update _ _ w | exact fun w => SMap.wf_filter _ w | exact fun w => wf_writeBytes _ _ w | exact fun _ => rfl | exact fun w => SMap.wf_map_filter (fun e => by split <;> rfl) w | (intro v; try dsimp only)

theorem State.beginIdle_keeps {z s : State} (key : Nat) (hk : Keeps z s) : Keeps z (State.beginIdle s key) := by
  unfold State.beginIdle
  try dsimp only
  repeat' first | with_reducible exact hk | with_reducible exact Keeps.refl _ | with_reducible apply State.set_keeps | with_reducible apply State.setSeq_keeps | with_reducible apply State.takeStop_keeps | with_reducible apply State.kStop_keeps | with_reducible apply State.holdFence_keeps | with_reducible apply State.edgeFenced_keeps | with_reducible apply State.dmaStop_keeps | with_reducible apply State.abandonRecovery_keeps | (with_reducible apply Keeps.foldl; intro t x; try dsimp only) | (with_reducible apply Keeps.foldl_fst; intro t x; try dsimp only) | with_reducible apply Keeps.ite | split | with_reducible apply Keeps.fields | (intro v; try dsimp only)

theorem State.dropTraffic_keeps {z s : State} (key : Nat) (hk : Keeps z s) : Keeps z (State.dropTraffic s key) := by
  unfold State.dropTraffic
  try dsimp only
  repeat' first | with_reducible exact hk | with_reducible exact Keeps.refl _ | with_reducible apply State.setPart_keeps | with_reducible apply Keeps.ite | split | with_reducible apply Keeps.fields | (intro v; try dsimp only)

theorem State.holdTarget_keeps {z s : State} (key : Nat) (hk : Keeps z s) : Keeps z (State.holdTarget s key) := by
  unfold State.holdTarget
  try dsimp only
  repeat' first | with_reducible exact hk | with_reducible exact Keeps.refl _ | with_reducible apply State.set_keeps | with_reducible apply State.setSeq_keeps | with_reducible apply State.edgeState_keeps | with_reducible apply State.kStop_keeps | with_reducible apply State.linkDown_keeps | with_reducible apply State.dropTraffic_keeps | with_reducible apply Keeps.ite | split | with_reducible apply Keeps.fields | (intro v; try dsimp only)

theorem State.letIn_keeps {z : State} (mine : Packet → Bool) : ∀ (n : Nat) {s : State}, Keeps z s → Keeps z (State.letIn mine n s)
  | 0, _, hk => hk
  | n + 1, s, hk => by
    unfold State.letIn
    exact Keeps.ite (State.letIn_keeps mine n (State.meshBeat_keeps _ _ hk)) hk

theorem State.finishPackets_keeps {z s : State} (key : Nat) (hk : Keeps z s) : Keeps z (State.finishPackets s key) := by
  unfold State.finishPackets
  try dsimp only
  with_reducible repeat' first | exact hk | exact Keeps.refl _ | apply State.letIn_keeps | apply Keeps.ite | split | (intro v; try dsimp only)

theorem State.setTarget_keeps {z s : State} (key : Nat) (x : Option Pending) (hk : Keeps z s) : Keeps z (State.setTarget s key x) := by
  unfold State.setTarget
  try dsimp only
  repeat' first | with_reducible exact hk | with_reducible exact Keeps.refl _ | with_reducible apply Keeps.ite | split | with_reducible apply Keeps.fields | (intro v; try dsimp only)

theorem State.assertModule_keeps {z s : State} (src reach detail : Nat) (hk : Keeps z s) : Keeps z (State.assertModule s src reach detail) := by
  unfold State.assertModule
  try dsimp only
  repeat' first | with_reducible exact hk | with_reducible exact Keeps.refl _ | with_reducible apply State.ashAppend_keeps | with_reducible apply State.clearModule_keeps | with_reducible apply Keeps.ite | split | with_reducible apply Keeps.fields | (intro v; try dsimp only)

theorem State.assertTarget_keeps {z s : State} (src reach key detail : Nat) (hk : Keeps z s) : Keeps z (State.assertTarget s src reach key detail) := by
  unfold State.assertTarget
  try dsimp only
  with_reducible repeat' first | exact hk | exact Keeps.refl _ | apply State.ashAppend_keeps | apply State.beginIdle_keeps | apply State.holdTarget_keeps | apply State.setTarget_keeps | apply Keeps.ite | split | (intro v; try dsimp only)

theorem State.requestReset_keeps {z s : State} (src reach target : Nat) (hk : Keeps z s) : Keeps z (State.requestReset s src reach target) := by
  unfold State.requestReset
  try dsimp only
  repeat' first | with_reducible exact hk | with_reducible exact Keeps.refl _ | with_reducible apply State.assertModule_keeps | with_reducible apply State.assertTarget_keeps | with_reducible apply Keeps.ite | split | with_reducible apply Keeps.fields | with_reducible apply Keeps.upd | exact List.prefix_rfl | exact Nat.le_refl _ | exact id | exact fun w => SMap.wf_put _ _ w | exact fun w => SMap.wf_update _ _ w | exact fun w => SMap.wf_filter _ w | exact fun w => wf_writeBytes _ _ w | exact fun _ => rfl | exact fun w => SMap.wf_map_filter (fun e => by split <;> rfl) w | (intro v; try dsimp only)

end Sys2Proof.Machine
end

