-- ==== Sys2Proof/Laws/KeepsStore.lean ====
section
/-!
SUPPORT. What each operation of Machine/Store.lean keeps.
-/
namespace Sys2Proof.Machine

theorem State.showAreas_keeps {z s : State}  (hk : Keeps z s) : Keeps z (State.showAreas s) := by
  unfold State.showAreas
  try dsimp only
  repeat' first | with_reducible exact hk | with_reducible exact Keeps.refl _ | with_reducible apply State.set_keeps | (with_reducible apply State.each_keeps; intro i t; try dsimp only) | with_reducible apply Keeps.ite | split | with_reducible apply Keeps.fields | with_reducible apply Keeps.upd | exact List.prefix_rfl | exact Nat.le_refl _ | exact id | exact fun w => SMap.wf_put _ _ w | exact fun w => SMap.wf_update _ _ w | exact fun w => SMap.wf_filter _ w | exact fun w => wf_writeBytes _ _ w | exact fun _ => rfl | exact fun w => SMap.wf_map_filter (fun e => by split <;> rfl) w | (intro v; try dsimp only)

theorem State.applyOptionBytes_keeps {z s : State} (bs : List Byte) (hk : Keeps z s) : Keeps z (State.applyOptionBytes s bs) := by
  unfold State.applyOptionBytes
  try dsimp only
  with_reducible repeat' first | exact hk | exact Keeps.refl _ | apply State.set_keeps | (apply State.each_keeps; intro i t; try dsimp only) | apply Keeps.ite | split | (intro v; try dsimp only)

theorem State.loadOptions_keeps {z s : State}  (hk : Keeps z s) : Keeps z (State.loadOptions s) := by
  unfold State.loadOptions
  try dsimp only
  repeat' first | with_reducible exact hk | with_reducible exact Keeps.refl _ | with_reducible apply State.set_keeps | with_reducible apply State.applyOptionBytes_keeps | with_reducible apply Keeps.ite | split | with_reducible apply Keeps.fields | with_reducible apply Keeps.upd | exact List.prefix_rfl | exact Nat.le_refl _ | exact id | exact fun w => SMap.wf_put _ _ w | exact fun w => SMap.wf_update _ _ w | exact fun w => SMap.wf_filter _ w | exact fun w => wf_writeBytes _ _ w | exact fun _ => rfl | exact fun w => SMap.wf_map_filter (fun e => by split <;> rfl) w | (intro v; try dsimp only)

theorem State.showKeys_keeps {z s : State}  (hk : Keeps z s) : Keeps z (State.showKeys s) := by
  unfold State.showKeys
  try dsimp only
  with_reducible repeat' first | exact hk | exact Keeps.refl _ | apply State.setReg_keeps | apply State.set_keeps | (apply State.each_keeps; intro i t; try dsimp only) | apply Keeps.ite | split | (intro v; try dsimp only)

theorem State.loadKeys_keeps {z s : State}  (hk : Keeps z s) : Keeps z (State.loadKeys s) := by
  unfold State.loadKeys
  try dsimp only
  repeat' first | with_reducible exact hk | with_reducible exact Keeps.refl _ | with_reducible apply State.set_keeps | with_reducible apply State.showKeys_keeps | with_reducible apply Keeps.ite | split | with_reducible apply Keeps.fields | (intro v; try dsimp only)

theorem State.endStore_keeps {z s : State} (code : Nat) (hk : Keeps z s) : Keeps z (State.endStore s code) := by
  unfold State.endStore
  with_reducible repeat' first | exact hk | exact Keeps.refl _ | apply State.set_keeps | apply State.raise_keeps | apply Keeps.ite | split | (intro v; try dsimp only)

theorem execStore_keeps {z s : State} (area : BitVec 3) (hk : Keeps z s) : ResKeeps z (execStore area s) := by
  unfold execStore
  try dsimp only
  repeat' first | with_reducible exact hk | with_reducible exact Keeps.refl _ | with_reducible apply State.set_keeps | with_reducible apply State.endStore_keeps | with_reducible apply ResKeeps.next | with_reducible apply ResKeeps.ite | with_reducible apply Keeps.ite | split | with_reducible apply Keeps.fields | with_reducible apply Keeps.upd | exact List.prefix_rfl | exact Nat.le_refl _ | exact id | exact fun w => SMap.wf_put _ _ w | exact fun w => SMap.wf_update _ _ w | exact fun w => SMap.wf_filter _ w | exact fun w => wf_writeBytes _ _ w | exact fun _ => rfl | exact fun w => SMap.wf_map_filter (fun e => by split <;> rfl) w | (intro v; try dsimp only)

theorem State.storeEffect_keeps {z s : State} (j : StoreJob) (hk : Keeps z s) : Keeps z (State.storeEffect s j) := by
  unfold State.storeEffect
  try dsimp only
  repeat' first | with_reducible exact hk | with_reducible exact Keeps.refl _ | with_reducible apply State.set_keeps | with_reducible apply State.showKeys_keeps | with_reducible apply Keeps.ite | split | with_reducible apply Keeps.fields | with_reducible apply Keeps.upd | exact List.prefix_rfl | exact Nat.le_refl _ | exact id | exact fun w => SMap.wf_put _ _ w | exact fun w => SMap.wf_update _ _ w | exact fun w => SMap.wf_filter _ w | exact fun w => wf_writeBytes _ _ w | exact fun _ => rfl | exact fun w => SMap.wf_map_filter (fun e => by split <;> rfl) w | (intro v; try dsimp only)

theorem execStoreComplete_keeps {z s : State} (good : Bool) (hk : Keeps z s) : ResKeeps z (execStoreComplete good s) := by
  unfold execStoreComplete
  try dsimp only
  repeat' first | with_reducible exact hk | with_reducible exact Keeps.refl _ | with_reducible apply State.cutStore_keeps | with_reducible apply State.showAreas_keeps | with_reducible apply State.endStore_keeps | with_reducible apply State.storeEffect_keeps | with_reducible apply ResKeeps.next | with_reducible apply ResKeeps.ite | with_reducible apply Keeps.ite | split | with_reducible apply Keeps.fields | with_reducible apply Keeps.upd | exact List.prefix_rfl | exact Nat.le_refl _ | exact id | exact fun w => SMap.wf_put _ _ w | exact fun w => SMap.wf_update _ _ w | exact fun w => SMap.wf_filter _ w | exact fun w => wf_writeBytes _ _ w | exact fun _ => rfl | exact fun w => SMap.wf_map_filter (fun e => by split <;> rfl) w | (intro v; try dsimp only)

theorem execStoreReadData_keeps {z s : State}  (hk : Keeps z s) : ResKeeps z (execStoreReadData s) := by
  unfold execStoreReadData
  with_reducible repeat' first | exact hk | exact Keeps.refl _ | apply State.send_keeps | apply State.rdNext_keeps | apply ResKeeps.next | apply ResKeeps.ite | apply Keeps.ite | split | (intro v; try dsimp only)

theorem execSvnburn_keeps {z s : State}  (hk : Keeps z s) : ResKeeps z (execSvnburn s) := by
  unfold execSvnburn
  with_reducible repeat' first | exact hk | exact Keeps.refl _ | apply State.set_keeps | apply ResKeeps.next | apply ResKeeps.ite | apply Keeps.ite | split | (intro v; try dsimp only)

theorem State.showEngine_keeps {z s : State}  (hk : Keeps z s) : Keeps z (State.showEngine s) := by
  unfold State.showEngine
  with_reducible repeat' first | exact hk | exact Keeps.refl _ | apply State.set_keeps | apply Keeps.ite | split | (intro v; try dsimp only)

theorem execAttestation_keeps {z s : State}  (hk : Keeps z s) : ResKeeps z (execAttestation s) := by
  unfold execAttestation
  try dsimp only
  repeat' first | with_reducible exact hk | with_reducible exact Keeps.refl _ | with_reducible apply State.set_keeps | with_reducible apply State.showEngine_keeps | with_reducible apply ResKeeps.next | with_reducible apply ResKeeps.ite | with_reducible apply Keeps.ite | split | with_reducible apply Keeps.fields | (intro v; try dsimp only)

theorem execAttestationDone_keeps {z s : State}  (hk : Keeps z s) : ResKeeps z (execAttestationDone s) := by
  unfold execAttestationDone
  try dsimp only
  repeat' first | with_reducible exact hk | with_reducible exact Keeps.refl _ | with_reducible apply State.set_keeps | with_reducible apply State.raise_keeps | with_reducible apply State.showEngine_keeps | with_reducible apply ResKeeps.next | (with_reducible apply State.each_keeps; intro i t; try dsimp only) | with_reducible apply ResKeeps.ite | with_reducible apply Keeps.ite | split | with_reducible apply Keeps.fields | with_reducible apply Keeps.upd | exact List.prefix_rfl | exact Nat.le_refl _ | exact id | exact fun w => SMap.wf_put _ _ w | exact fun w => SMap.wf_update _ _ w | exact fun w => SMap.wf_filter _ w | exact fun w => wf_writeBytes _ _ w | exact fun _ => rfl | exact fun w => SMap.wf_map_filter (fun e => by split <;> rfl) w | (intro v; try dsimp only)

end Sys2Proof.Machine
end

