-- ==== Sys2Proof/Laws/KeepsBoot.lean ====
section
/-!
SUPPORT. What each operation of Machine/Boot.lean keeps.
-/
namespace Sys2Proof.Machine

theorem State.applyFuse_keeps {z s : State} (r : W32) (hk : Keeps z s) : Keeps z (State.applyFuse s r) := by
  unfold State.applyFuse
  try dsimp only
  with_reducible repeat' first | exact hk | exact Keeps.refl _ | apply State.set_keeps | apply Keeps.ite | split | (intro v; try dsimp only)

theorem State.retireTurf_keeps {z s : State} (t : Nat) (hk : Keeps z s) : Keeps z (State.retireTurf s t) := by
  unfold State.retireTurf
  with_reducible repeat' first | exact hk | exact Keeps.refl _ | apply State.set_keeps | apply State.withdraw_keeps | (apply Keeps.foldl; intro t x; try dsimp only) | (apply Keeps.foldl_fst; intro t x; try dsimp only) | apply Keeps.ite | split | (intro v; try dsimp only)

theorem State.applySoft_keeps {z s : State} (r : W64) (hk : Keeps z s) : Keeps z (State.applySoft s r) := by
  unfold State.applySoft
  try dsimp only
  with_reducible repeat' first | exact hk | exact Keeps.refl _ | apply State.set_keeps | apply State.retireTurf_keeps | apply Keeps.ite | split | (intro v; try dsimp only)

theorem State.loadRepairs_keeps {z s : State} (cold : Bool) (hk : Keeps z s) : Keeps z (State.loadRepairs s cold) := by
  unfold State.loadRepairs
  try dsimp only
  repeat' first | with_reducible exact hk | with_reducible exact Keeps.refl _ | with_reducible apply State.applySoft_keeps | (with_reducible apply Keeps.foldl; intro t x; try dsimp only) | (with_reducible apply Keeps.foldl_fst; intro t x; try dsimp only) | with_reducible apply Keeps.ite | split | with_reducible apply Keeps.fields | (intro v; try dsimp only)

theorem State.loadFirmware_keeps {z s : State}  (hk : Keeps z s) : Keeps z (State.loadFirmware s) := by
  unfold State.loadFirmware
  try dsimp only
  repeat' first | with_reducible exact hk | with_reducible exact Keeps.refl _ | with_reducible apply State.set_keeps | with_reducible apply Keeps.ite | split | with_reducible apply Keeps.fields | (intro v; try dsimp only)

theorem State.disableSeq_keeps {z s : State} (p : Nat) (hk : Keeps z s) : Keeps z (State.disableSeq s p) := by
  unfold State.disableSeq
  try dsimp only
  repeat' first | with_reducible exact hk | with_reducible exact Keeps.refl _ | with_reducible apply State.set_keeps | with_reducible apply State.setSeq_keeps | with_reducible apply Keeps.ite | split | with_reducible apply Keeps.fields | (intro v; try dsimp only)

theorem State.sweepError_keeps {z s : State} (p : Nat) (hk : Keeps z s) : Keeps z (State.sweepError s p) := by
  unfold State.sweepError
  try dsimp only
  with_reducible repeat' first | exact hk | exact Keeps.refl _ | apply State.useFree_keeps | apply State.raise_keeps | apply State.ashAppend_keeps | apply State.disableSeq_keeps | apply Keeps.ite | split | (intro v; try dsimp only)

theorem State.romSweep_keeps {z s : State} (bad : BitVec 4) (hk : Keeps z s) : Keeps z (State.romSweep s bad) := by
  unfold State.romSweep
  with_reducible repeat' first | exact hk | exact Keeps.refl _ | apply State.sweepError_keeps | (apply State.each_keeps; intro i t; try dsimp only) | apply Keeps.ite | split | (intro v; try dsimp only)

theorem State.marchTile_keeps {z s : State} (k : Nat) (m : MarchTile) (hk : Keeps z s) : Keeps z (State.marchTile s k m) := by
  unfold State.marchTile
  try dsimp only
  with_reducible repeat' first | exact hk | exact Keeps.refl _ | apply State.set_keeps | apply State.count_keeps | apply Keeps.ite | split | (intro v; try dsimp only)

theorem State.marchResult_keeps {z s : State} (t mode : Nat) (psave : Bool) (found : List (Nat × MarchTile)) (hk : Keeps z s) : Keeps z (State.marchResult s t mode psave found) := by
  unfold State.marchResult
  try dsimp only
  with_reducible repeat' first | exact hk | exact Keeps.refl _ | apply State.set_keeps | apply State.marchTile_keeps | (apply Keeps.foldl; intro t x; try dsimp only) | (apply Keeps.foldl_fst; intro t x; try dsimp only) | apply Keeps.ite | split | (intro v; try dsimp only)

theorem State.startMarch_keeps {z s : State} (found : List (Nat × MarchTile)) (hk : Keeps z s) : Keeps z (s.startMarch found) := by
  unfold State.startMarch
  refine State.raise_keeps _ (State.each_keeps (fun n t => State.marchResult_keeps n 0 false found (Keeps.refl t)) _ ?_)
  exact hk.upd List.prefix_rfl (Nat.le_refl _) id id id id id (fun _ => rfl) id id

theorem State.bootSlot_keeps {z s : State} (base : Nat) (hk : Keeps z s) : Keeps z (s.bootSlot base).1 := by
  unfold State.bootSlot
  dsimp only
  split
  · exact State.sifRefuse_keeps _ hk
  · have h := State.finishLoad_keeps (State.beginLoad_keeps (readBytes s.flash base (natAt (readBytes s.flash base 20) 16 4))
      (natAt (readBytes s.flash base 20) 16 4) true hk)
    revert h
    generalize State.finishLoad _ = u
    generalize State.loader _ = v
    intro h
    rcases v with _ | v
    · exact h
    · rcases u.loader with _ | l
      · exact h
      · exact State.applyLoad_keeps _ h

theorem State.bootImage_keeps {z s : State}  (hk : Keeps z s) : Keeps z (State.bootImage s) := by
  unfold State.bootImage
  try dsimp only
  with_reducible repeat' first | exact hk | exact Keeps.refl _ | apply State.set_keeps | apply State.resetRoute_keeps | apply State.bootSlot_keeps | apply Keeps.ite | split | (intro v; try dsimp only)

theorem State.bootHead_keeps {z s : State} (cold : Bool) (hk : Keeps z s) : Keeps z (State.bootHead s cold) := by
  unfold State.bootHead
  try dsimp only
  with_reducible repeat' first | exact hk | exact Keeps.refl _ | apply State.set_keeps | apply State.showAreas_keeps | apply State.loadOptions_keeps | apply State.loadKeys_keeps | apply State.applyFuse_keeps | apply State.loadRepairs_keeps | apply State.loadFirmware_keeps | (apply State.each_keeps; intro i t; try dsimp only) | apply Keeps.ite | split | (intro v; try dsimp only)

theorem State.bootDone_keeps {z s : State} (reach src : Nat) (hk : Keeps z s) : Keeps z (State.bootDone s reach src) := by
  unfold State.bootDone
  try dsimp only
  repeat' first | with_reducible exact hk | with_reducible exact Keeps.refl _ | with_reducible apply State.set_keeps | with_reducible apply Keeps.ite | split | with_reducible apply Keeps.fields | (intro v; try dsimp only)

theorem State.bootTail_keeps {z s : State} (cold : Bool) (info : BootInfo) (hk : Keeps z s) : Keeps z (State.bootTail s cold info) := by
  unfold State.bootTail
  try dsimp only
  with_reducible repeat' first | exact hk | exact Keeps.refl _ | apply State.romSweep_keeps | apply State.startMarch_keeps | apply State.bootImage_keeps | apply Keeps.ite | split | (intro v; try dsimp only)

theorem execColdBoot_keeps {z s : State} (info : BootInfo) (hk : Keeps z s) : ResKeeps z (execColdBoot info s) := by
  unfold execColdBoot
  try dsimp only
  repeat' first | with_reducible exact hk | with_reducible exact Keeps.refl _ | with_reducible apply State.bootHead_keeps | with_reducible apply State.bootDone_keeps | with_reducible apply State.bootTail_keeps | with_reducible apply ResKeeps.next | with_reducible apply ResKeeps.ite | with_reducible apply Keeps.ite | split | with_reducible apply Keeps.fields | with_reducible apply Keeps.upd | exact List.prefix_rfl | exact Nat.le_refl _ | exact id | exact fun w => SMap.wf_put _ _ w | exact fun w => SMap.wf_update _ _ w | exact fun w => SMap.wf_filter _ w | exact fun w => wf_writeBytes _ _ w | exact fun _ => rfl | exact fun w => SMap.wf_map_filter (fun e => by split <;> rfl) w | (intro v; try dsimp only)

theorem execWarmBoot_keeps {z s : State} (info : BootInfo) (hk : Keeps z s) : ResKeeps z (execWarmBoot info s) := by
  unfold execWarmBoot
  try dsimp only
  repeat' first | with_reducible exact hk | with_reducible exact Keeps.refl _ | with_reducible apply State.bootHead_keeps | with_reducible apply State.bootDone_keeps | with_reducible apply State.bootTail_keeps | with_reducible apply ResKeeps.next | with_reducible apply ResKeeps.ite | with_reducible apply Keeps.ite | split | with_reducible apply Keeps.fields | with_reducible apply Keeps.upd | exact List.prefix_rfl | exact Nat.le_refl _ | exact id | exact fun w => SMap.wf_put _ _ w | exact fun w => SMap.wf_update _ _ w | exact fun w => SMap.wf_filter _ w | exact fun w => wf_writeBytes _ _ w | exact fun _ => rfl | exact fun w => SMap.wf_map_filter (fun e => by split <;> rfl) w | (intro v; try dsimp only)

theorem execHbmTrainingComplete_keeps {z s : State} (n : Fin 8) (rate : Option (Fin 3)) (failedSome : Bool) (hk : Keeps z s) : ResKeeps z (execHbmTrainingComplete n rate failedSome s) := by
  unfold execHbmTrainingComplete
  try dsimp only
  with_reducible repeat' first | exact hk | exact Keeps.refl _ | apply State.set_keeps | apply State.stackTrained_keeps | apply ResKeeps.next | apply ResKeeps.ite | apply Keeps.ite | split | (intro v; try dsimp only)

theorem execReady_keeps {z s : State} (ms : BitVec 16) (hk : Keeps z s) : ResKeeps z (execReady ms s) := by
  unfold execReady
  with_reducible repeat' first | exact hk | exact Keeps.refl _ | apply State.set_keeps | apply ResKeeps.next | apply ResKeeps.ite | apply Keeps.ite | split | (intro v; try dsimp only)

end Sys2Proof.Machine
end

