-- ==== Sys2Proof/Laws/KeepsNetwork.lean ====
section
/-!
SUPPORT. What each operation of Machine/Network.lean keeps.
-/
namespace Sys2Proof.Machine

theorem execKeyFlood_keeps {z s : State} (n : Fin 8) (appointed : Bool) (serial : W64) (hk : Keeps z s) : ResKeeps z (execKeyFlood n appointed serial s) := by
  unfold execKeyFlood
  try dsimp only
  repeat' first | with_reducible exact hk | with_reducible exact Keeps.refl _ | with_reducible apply State.set_keeps | with_reducible apply State.flood_keeps | with_reducible apply ResKeeps.next | with_reducible apply ResKeeps.ite | with_reducible apply Keeps.ite | split | with_reducible apply Keeps.fields | (intro v; try dsimp only)

theorem execHeartbeat_keeps {z s : State}  (hk : Keeps z s) : ResKeeps z (execHeartbeat s) := by
  unfold execHeartbeat
  with_reducible repeat' first | exact hk | exact Keeps.refl _ | apply State.flood_keeps | apply ResKeeps.next | apply ResKeeps.ite | apply Keeps.ite | split | (intro v; try dsimp only)

theorem execElectionTimeout_keeps {z s : State}  (hk : Keeps z s) : ResKeeps z (execElectionTimeout s) := by
  unfold execElectionTimeout
  with_reducible repeat' first | exact hk | exact Keeps.refl _ | apply State.startElection_keeps | apply ResKeeps.next | apply ResKeeps.ite | apply Keeps.ite | split | (intro v; try dsimp only)

theorem State.allReady_keeps {z s : State}  (hk : Keeps z s) : Keeps z (State.allReady s) := by
  unfold State.allReady
  try dsimp only
  repeat' first | with_reducible exact hk | with_reducible exact Keeps.refl _ | with_reducible apply State.flood_keeps | with_reducible apply State.tryEpoch_keeps | with_reducible apply Keeps.ite | split | with_reducible apply Keeps.fields | with_reducible apply Keeps.upd | exact List.prefix_rfl | exact Nat.le_refl _ | exact id | exact fun w => SMap.wf_put _ _ w | exact fun w => SMap.wf_update _ _ w | exact fun w => SMap.wf_filter _ w | exact fun w => wf_writeBytes _ _ w | exact fun _ => rfl | exact fun w => SMap.wf_map_filter (fun e => by split <;> rfl) w | (intro v; try dsimp only)

theorem State.takeMap_keeps {z s : State} (epoch : W32) (root : W64) (ids : FabIds) (edges : List TreeEdge) (hk : Keeps z s) : Keeps z (State.takeMap s epoch root ids edges) := by
  unfold State.takeMap
  try dsimp only
  repeat' first | with_reducible exact hk | with_reducible exact Keeps.refl _ | with_reducible apply State.set_keeps | with_reducible apply State.raise_keeps | with_reducible apply State.sendLink_keeps | with_reducible apply State.clearRoutes_keeps | with_reducible apply State.allReady_keeps | with_reducible apply Keeps.ite | split | with_reducible apply Keeps.fields | with_reducible apply Keeps.upd | exact List.prefix_rfl | exact Nat.le_refl _ | exact id | exact fun w => SMap.wf_put _ _ w | exact fun w => SMap.wf_update _ _ w | exact fun w => SMap.wf_filter _ w | exact fun w => wf_writeBytes _ _ w | exact fun _ => rfl | exact fun w => SMap.wf_map_filter (fun e => by split <;> rfl) w | (intro v; try dsimp only)

theorem execParentMap_keeps {z s : State} (epoch : W32) (root : W64) (ids : FabIds) (edges : List TreeEdge) (arrival : Option (Fin 8)) (hk : Keeps z s) : ResKeeps z (execParentMap epoch root ids edges arrival s) := by
  unfold execParentMap
  with_reducible repeat' first | exact hk | exact Keeps.refl _ | apply State.passOn_keeps | apply State.takeMap_keeps | apply ResKeeps.next | apply ResKeeps.ite | apply Keeps.ite | split | (intro v; try dsimp only)

theorem execRootDeclare_keeps {z s : State}  (hk : Keeps z s) : ResKeeps z (execRootDeclare s) := by
  unfold execRootDeclare
  try dsimp only
  with_reducible repeat' first | exact hk | exact Keeps.refl _ | apply State.set_keeps | apply State.useFree_keeps | apply State.passOn_keeps | apply State.takeMap_keeps | apply ResKeeps.next | apply ResKeeps.ite | apply Keeps.ite | split | (intro v; try dsimp only)

theorem execEpoch_keeps {z s : State} (value : W32) (hk : Keeps z s) : ResKeeps z (execEpoch value s) := by
  unfold execEpoch
  try dsimp only
  repeat' first | with_reducible exact hk | with_reducible exact Keeps.refl _ | with_reducible apply State.flood_keeps | with_reducible apply State.tryEpoch_keeps | with_reducible apply ResKeeps.next | with_reducible apply ResKeeps.ite | with_reducible apply Keeps.ite | split | with_reducible apply Keeps.fields | (intro v; try dsimp only)

theorem execEpochDrainTimeout_keeps {z s : State}  (hk : Keeps z s) : ResKeeps z (execEpochDrainTimeout s) := by
  unfold execEpochDrainTimeout
  try dsimp only
  repeat' first | with_reducible exact hk | with_reducible exact Keeps.refl _ | with_reducible apply State.count_keeps | with_reducible apply State.setPort_keeps | with_reducible apply State.fabErr_keeps | with_reducible apply State.switchEpoch_keeps | with_reducible apply ResKeeps.next | (with_reducible apply State.each_keeps; intro i t; try dsimp only) | with_reducible apply ResKeeps.ite | with_reducible apply Keeps.ite | split | with_reducible apply Keeps.fields | with_reducible apply Keeps.upd | exact List.prefix_rfl | exact Nat.le_refl _ | exact id | exact fun w => SMap.wf_put _ _ w | exact fun w => SMap.wf_update _ _ w | exact fun w => SMap.wf_filter _ w | exact fun w => wf_writeBytes _ _ w | exact fun _ => rfl | exact fun w => SMap.wf_map_filter (fun e => by split <;> rfl) w | (intro v; try dsimp only)

theorem execReadyReport_keeps {z s : State} (serial : W64) (hk : Keeps z s) : ResKeeps z (execReadyReport serial s) := by
  unfold execReadyReport
  try dsimp only
  repeat' first | with_reducible exact hk | with_reducible exact Keeps.refl _ | with_reducible apply State.sendLink_keeps | with_reducible apply State.allReady_keeps | with_reducible apply ResKeeps.next | with_reducible apply ResKeeps.ite | with_reducible apply Keeps.ite | split | with_reducible apply Keeps.fields | with_reducible apply Keeps.upd | exact List.prefix_rfl | exact Nat.le_refl _ | exact id | exact fun w => SMap.wf_put _ _ w | exact fun w => SMap.wf_update _ _ w | exact fun w => SMap.wf_filter _ w | exact fun w => wf_writeBytes _ _ w | exact fun _ => rfl | exact fun w => SMap.wf_map_filter (fun e => by split <;> rfl) w | (intro v; try dsimp only)

theorem State.fabricErr_keeps {z s : State} (k : Packet) (code : Nat) (hk : Keeps z s) : Keeps z (State.fabricErr s k code) := by
  unfold State.fabricErr
  with_reducible repeat' first | exact hk | exact Keeps.refl _ | apply State.fabricAnswer_keeps | apply Keeps.ite | split | (intro v; try dsimp only)

theorem State.noRoute_keeps {z s : State} (k : Packet) (hk : Keeps z s) : Keeps z (State.noRoute s k) := by
  unfold State.noRoute
  with_reducible repeat' first | exact hk | exact Keeps.refl _ | apply State.count_keeps | apply State.fabErr_keeps | apply State.fabricErr_keeps | apply Keeps.ite | split | (intro v; try dsimp only)

theorem State.sendVersioned_keeps {z s : State} (p : Nat) (dl : Bool) (k : Packet) (hk : Keeps z s) : Keeps z (State.sendVersioned s p dl k) := by
  unfold State.sendVersioned
  try dsimp only
  with_reducible repeat' first | exact hk | exact Keeps.refl _ | apply State.count_keeps | apply State.portErr_keeps | apply State.portSend_keeps | apply State.fabricErr_keeps | apply Keeps.ite | split | (intro v; try dsimp only)

theorem State.forward_keeps {z s : State} (arrival : Option Nat) (dl : Bool) (k : Packet) (hk : Keeps z s) : Keeps z (State.forward s arrival dl k) := by
  unfold State.forward
  try dsimp only
  repeat' first | with_reducible exact hk | with_reducible exact Keeps.refl _ | with_reducible apply State.noRoute_keeps | with_reducible apply State.sendVersioned_keeps | with_reducible apply Keeps.ite | split | with_reducible apply Keeps.fields | with_reducible apply Keeps.upd | exact List.prefix_rfl | exact Nat.le_refl _ | exact id | exact fun w => SMap.wf_put _ _ w | exact fun w => SMap.wf_update _ _ w | exact fun w => SMap.wf_filter _ w | exact fun w => wf_writeBytes _ _ w | exact fun _ => rfl | exact fun w => SMap.wf_map_filter (fun e => by split <;> rfl) w | (intro v; try dsimp only)

theorem execFabricForward_keeps {z s : State} (arrival : Option (Fin 8)) (dl : Bool) (k : Packet) (hk : Keeps z s) : ResKeeps z (execFabricForward arrival dl k s) := by
  unfold execFabricForward
  with_reducible repeat' first | exact hk | exact Keeps.refl _ | apply State.forward_keeps | apply ResKeeps.next | apply ResKeeps.ite | apply Keeps.ite | split | (intro v; try dsimp only)

theorem execGatewayDelivery_keeps {z s : State} (k : Packet) (hk : Keeps z s) : ResKeeps z (execGatewayDelivery k s) := by
  unfold execGatewayDelivery
  try dsimp only
  repeat' first | with_reducible exact hk | with_reducible exact Keeps.refl _ | with_reducible apply State.injectAtGateway_keeps | with_reducible apply ResKeeps.next | with_reducible apply ResKeeps.ite | with_reducible apply Keeps.ite | split | with_reducible apply Keeps.fields | with_reducible apply Keeps.upd | exact List.prefix_rfl | exact Nat.le_refl _ | exact id | exact fun w => SMap.wf_put _ _ w | exact fun w => SMap.wf_update _ _ w | exact fun w => SMap.wf_filter _ w | exact fun w => wf_writeBytes _ _ w | exact fun _ => rfl | exact fun w => SMap.wf_map_filter (fun e => by split <;> rfl) w | (intro v; try dsimp only)

theorem execGatewayTimeout_keeps {z s : State} (i : Fin 1024) (hk : Keeps z s) : ResKeeps z (execGatewayTimeout i s) := by
  unfold execGatewayTimeout
  try dsimp only
  repeat' first | with_reducible exact hk | with_reducible exact Keeps.refl _ | with_reducible apply ResKeeps.next | with_reducible apply ResKeeps.ite | with_reducible apply Keeps.ite | split | with_reducible apply Keeps.fields | with_reducible apply Keeps.upd | exact List.prefix_rfl | exact Nat.le_refl _ | exact id | exact fun w => SMap.wf_put _ _ w | exact fun w => SMap.wf_update _ _ w | exact fun w => SMap.wf_filter _ w | exact fun w => wf_writeBytes _ _ w | exact fun _ => rfl | exact fun w => SMap.wf_map_filter (fun e => by split <;> rfl) w | (intro v; try dsimp only)

theorem execBroadcast_keeps {z s : State} (arrival : Option (Fin 8)) (k : Packet) (hk : Keeps z s) : ResKeeps z (execBroadcast arrival k s) := by
  unfold execBroadcast
  try dsimp only
  repeat' first | with_reducible exact hk | with_reducible exact Keeps.refl _ | with_reducible apply State.count_keeps | with_reducible apply State.fabricErr_keeps | with_reducible apply State.sendVersioned_keeps | with_reducible apply ResKeeps.next | (with_reducible apply Keeps.foldl; intro t x; try dsimp only) | (with_reducible apply Keeps.foldl_fst; intro t x; try dsimp only) | with_reducible apply ResKeeps.ite | with_reducible apply Keeps.ite | split | with_reducible apply Keeps.fields | (intro v; try dsimp only)

end Sys2Proof.Machine
end

