-- ==== Sys2Proof/Laws/KeepsCollective.lean ====
section
/-!
SUPPORT. What each operation of Machine/Collective.lean keeps.
-/
namespace Sys2Proof.Machine

theorem State.collEnter_keeps {z s : State} (c : CollCtx) (op r nmem count value : Nat) (hk : Keeps z s) : Keeps z (State.collEnter s c op r nmem count value) := by
  unfold State.collEnter
  with_reducible repeat' first | exact hk | exact Keeps.refl _ | apply State.count_keeps | apply State.fabErr_keeps | apply State.collFail_keeps | apply State.collAdvance_keeps | apply Keeps.ite | split | (intro v; try dsimp only)

theorem execCollectiveSubmit_keeps {z s : State} (p : SeqId) (slot : Fin 16) (hk : Keeps z s) : ResKeeps z (execCollectiveSubmit p slot s) := by
  unfold execCollectiveSubmit
  try dsimp only
  repeat' first | with_reducible exact hk | with_reducible exact Keeps.refl _ | with_reducible apply State.hearthWrite_keeps | with_reducible apply State.collFail_keeps | with_reducible apply State.collEnter_keeps | with_reducible apply ResKeeps.next | with_reducible apply ResKeeps.ite | with_reducible apply Keeps.ite | split | with_reducible apply Keeps.fields | (intro v; try dsimp only)

theorem State.takeColl_keeps {z s : State} (n : Nat) (up : Bool) (p : Partial) (code : Nat) (hk : Keeps z s) : Keeps z (State.takeColl s n up p code) := by
  unfold State.takeColl
  try dsimp only
  repeat' first | with_reducible exact hk | with_reducible exact Keeps.refl _ | with_reducible apply Keeps.ite | split | with_reducible apply Keeps.fields | (intro v; try dsimp only)

theorem execCollectivePartial_keeps {z s : State} (n : Fin 8) (part : Partial) (hk : Keeps z s) : ResKeeps z (execCollectivePartial n part s) := by
  unfold execCollectivePartial
  try dsimp only
  repeat' first | with_reducible exact hk | with_reducible exact Keeps.refl _ | with_reducible apply State.count_keeps | with_reducible apply State.collEnter_keeps | with_reducible apply State.takeColl_keeps | with_reducible apply ResKeeps.next | with_reducible apply ResKeeps.ite | with_reducible apply Keeps.ite | split | with_reducible apply Keeps.fields | (intro v; try dsimp only)

theorem execCollectiveResult_keeps {z s : State} (part : Partial) (res : CollEnd) (hk : Keeps z s) : ResKeeps z (execCollectiveResult part res s) := by
  unfold execCollectiveResult
  try dsimp only
  repeat' first | with_reducible exact hk | with_reducible exact Keeps.refl _ | with_reducible apply State.collTell_keeps | with_reducible apply State.collFail_keeps | with_reducible apply State.collDone_keeps | with_reducible apply State.takeColl_keeps | with_reducible apply ResKeeps.next | with_reducible apply ResKeeps.ite | with_reducible apply Keeps.ite | split | with_reducible apply Keeps.fields | with_reducible apply Keeps.upd | exact List.prefix_rfl | exact Nat.le_refl _ | exact id | exact fun w => SMap.wf_put _ _ w | exact fun w => SMap.wf_update _ _ w | exact fun w => SMap.wf_filter _ w | exact fun w => wf_writeBytes _ _ w | exact fun _ => rfl | exact fun w => SMap.wf_map_filter (fun e => by split <;> rfl) w | (intro v; try dsimp only)

theorem execCollectiveTimeout_keeps {z s : State} (cid : W32) (hk : Keeps z s) : ResKeeps z (execCollectiveTimeout cid s) := by
  unfold execCollectiveTimeout
  try dsimp only
  repeat' first | with_reducible exact hk | with_reducible exact Keeps.refl _ | with_reducible apply State.collFail_keeps | with_reducible apply ResKeeps.next | with_reducible apply ResKeeps.ite | with_reducible apply Keeps.ite | split | with_reducible apply Keeps.fields | with_reducible apply Keeps.upd | exact List.prefix_rfl | exact Nat.le_refl _ | exact id | exact fun w => SMap.wf_put _ _ w | exact fun w => SMap.wf_update _ _ w | exact fun w => SMap.wf_filter _ w | exact fun w => wf_writeBytes _ _ w | exact fun _ => rfl | exact fun w => SMap.wf_map_filter (fun e => by split <;> rfl) w | (intro v; try dsimp only)

end Sys2Proof.Machine
end

