-- ==== Sys2Proof/Laws/KeepsMicrocode.lean ====
section
/-!
SUPPORT. What each operation of Machine/Microcode.lean keeps.
-/
namespace Sys2Proof.Machine

theorem State.endMicro_keeps {z s : State} (p : Nat) (u : Micro) (hk : Keeps z s) : Keeps z (State.endMicro s p u) := by
  unfold State.endMicro
  try dsimp only
  repeat' first | with_reducible exact hk | with_reducible exact Keeps.refl _ | with_reducible apply State.setPart_keeps | with_reducible apply State.setSeq_keeps | with_reducible apply State.specSteps_keeps | with_reducible apply State.boundary_keeps | with_reducible apply State.retire_keeps | with_reducible apply Keeps.ite | split | with_reducible apply Keeps.fields | (intro v; try dsimp only)

theorem State.goOn_keeps {z s : State} (p : Nat) (u : Micro) (hk : Keeps z s) : Keeps z (State.goOn s p u) := by
  unfold State.goOn
  with_reducible repeat' first | exact hk | exact Keeps.refl _ | apply State.setMicro_keeps | apply State.endMicro_keeps | apply Keeps.ite | split | (intro v; try dsimp only)

theorem State.stepWord_keeps {z s : State} (p w : Nat) (u : Micro) (hk : Keeps z s) : Keeps z (State.stepWord s p w u) := by
  unfold State.stepWord
  try dsimp only
  repeat' first | with_reducible exact hk | with_reducible exact Keeps.refl _ | with_reducible apply State.count_keeps | with_reducible apply State.setPart_keeps | with_reducible apply State.hand_keeps | with_reducible apply State.goOn_keeps | with_reducible apply Keeps.ite | split | with_reducible apply Keeps.fields | with_reducible apply Keeps.upd | exact List.prefix_rfl | exact Nat.le_refl _ | exact id | exact fun w => SMap.wf_put _ _ w | exact fun w => SMap.wf_update _ _ w | exact fun w => SMap.wf_filter _ w | exact fun w => wf_writeBytes _ _ w | exact fun _ => rfl | exact fun w => SMap.wf_map_filter (fun e => by split <;> rfl) w | (intro v; try dsimp only)

theorem State.runMicro_keeps {z s : State} (p : Nat) (pick : Nat → Bool) (body : Nat → Micro → State) (hb : ∀ w u, Keeps s (body w u)) (hk : Keeps z s) : Keeps z (State.runMicro s p pick body) := by
  unfold State.runMicro
  try dsimp only
  repeat' first | with_reducible exact hk | with_reducible exact Keeps.refl _ | with_reducible apply Keeps.ite | refine Keeps.trans hk (hb _ _) | split | with_reducible apply Keeps.fields | with_reducible apply Keeps.upd | exact List.prefix_rfl | exact Nat.le_refl _ | exact id | exact fun w => SMap.wf_put _ _ w | exact fun w => SMap.wf_update _ _ w | exact fun w => SMap.wf_filter _ w | exact fun w => wf_writeBytes _ _ w | exact fun _ => rfl | exact fun w => SMap.wf_map_filter (fun e => by split <;> rfl) w | (intro v; try dsimp only)

theorem State.refill_keeps {z s : State} (p : Nat) (hk : Keeps z s) : Keeps z (State.refill s p) := by
  unfold State.refill
  try dsimp only
  repeat' first | with_reducible exact hk | with_reducible exact Keeps.refl _ | with_reducible apply State.hand_keeps | with_reducible apply State.goOn_keeps | with_reducible apply Keeps.ite | split | with_reducible apply Keeps.fields | with_reducible apply Keeps.upd | exact List.prefix_rfl | exact Nat.le_refl _ | exact id | exact fun w => SMap.wf_put _ _ w | exact fun w => SMap.wf_update _ _ w | exact fun w => SMap.wf_filter _ w | exact fun w => wf_writeBytes _ _ w | exact fun _ => rfl | exact fun w => SMap.wf_map_filter (fun e => by split <;> rfl) w | (intro v; try dsimp only)

theorem execBurstIssue_keeps {z s : State} (p : SeqId) (hk : Keeps z s) : ResKeeps z (execBurstIssue p s) := by
  unfold execBurstIssue
  try dsimp only
  repeat' first | with_reducible exact hk | with_reducible exact Keeps.refl _ | with_reducible apply State.setPart_keeps | with_reducible apply State.closeRollback_keeps | with_reducible apply State.confirm_keeps | with_reducible apply State.traceBurst_keeps | with_reducible apply State.refill_keeps | with_reducible apply ResKeeps.next | with_reducible apply ResKeeps.ite | with_reducible apply Keeps.ite | split | with_reducible apply Keeps.fields | with_reducible apply Keeps.upd | exact List.prefix_rfl | exact Nat.le_refl _ | exact id | exact fun w => SMap.wf_put _ _ w | exact fun w => SMap.wf_update _ _ w | exact fun w => SMap.wf_filter _ w | exact fun w => wf_writeBytes _ _ w | exact fun _ => rfl | exact fun w => SMap.wf_map_filter (fun e => by split <;> rfl) w | (intro v; try dsimp only)

theorem State.refuseWidth_keeps {z s : State} (p : Nat) (b : Burst) (hk : Keeps z s) : Keeps z (State.refuseWidth s p b) := by
  unfold State.refuseWidth
  try dsimp only
  repeat' first | with_reducible exact hk | with_reducible exact Keeps.refl _ | with_reducible apply State.set_keeps | with_reducible apply State.setPart_keeps | with_reducible apply State.setSeq_keeps | with_reducible apply State.useFree_keeps | with_reducible apply State.turfError_keeps | with_reducible apply State.boundary_keeps | with_reducible apply State.goOn_keeps | (with_reducible apply Keeps.foldl; intro t x; try dsimp only) | (with_reducible apply Keeps.foldl_fst; intro t x; try dsimp only) | with_reducible apply Keeps.ite | split | with_reducible apply Keeps.fields | with_reducible apply Keeps.upd | exact List.prefix_rfl | exact Nat.le_refl _ | exact id | exact fun w => SMap.wf_put _ _ w | exact fun w => SMap.wf_update _ _ w | exact fun w => SMap.wf_filter _ w | exact fun w => wf_writeBytes _ _ w | exact fun _ => rfl | exact fun w => SMap.wf_map_filter (fun e => by split <;> rfl) w | (intro v; try dsimp only)

theorem execBurstArrival_keeps {z s : State} (p : SeqId) (hk : Keeps z s) : ResKeeps z (execBurstArrival p s) := by
  unfold execBurstArrival
  try dsimp only
  repeat' first | with_reducible exact hk | with_reducible exact Keeps.refl _ | with_reducible apply State.set_keeps | with_reducible apply State.setPart_keeps | with_reducible apply State.refuseWidth_keeps | with_reducible apply ResKeeps.next | (with_reducible apply Keeps.foldl; intro t x; try dsimp only) | (with_reducible apply Keeps.foldl_fst; intro t x; try dsimp only) | with_reducible apply ResKeeps.ite | with_reducible apply Keeps.ite | split | with_reducible apply Keeps.fields | with_reducible apply Keeps.upd | exact List.prefix_rfl | exact Nat.le_refl _ | exact id | exact fun w => SMap.wf_put _ _ w | exact fun w => SMap.wf_update _ _ w | exact fun w => SMap.wf_filter _ w | exact fun w => wf_writeBytes _ _ w | exact fun _ => rfl | exact fun w => SMap.wf_map_filter (fun e => by split <;> rfl) w | (intro v; try dsimp only)

theorem execStepMicroword_keeps {z s : State} (p : SeqId) (hk : Keeps z s) : ResKeeps z (execStepMicroword p s) := by
  unfold execStepMicroword
  with_reducible repeat' first | exact hk | exact Keeps.refl _ | apply State.stepWord_keeps | apply State.runMicro_keeps | apply ResKeeps.next | apply ResKeeps.ite | apply Keeps.ite | split | (intro v; try dsimp only)

theorem execLoop_keeps {z s : State} (p : SeqId) (hk : Keeps z s) : ResKeeps z (execLoop p s) := by
  unfold execLoop
  try dsimp only
  repeat' first | with_reducible exact hk | with_reducible exact Keeps.refl _ | with_reducible apply State.count_keeps | with_reducible apply State.setMicro_keeps | with_reducible apply State.runMicro_keeps | with_reducible apply ResKeeps.next | with_reducible apply ResKeeps.ite | with_reducible apply Keeps.ite | split | with_reducible apply Keeps.fields | (intro v; try dsimp only)

theorem execJump_keeps {z s : State} (p : SeqId) (hk : Keeps z s) : ResKeeps z (execJump p s) := by
  unfold execJump
  try dsimp only
  repeat' first | with_reducible exact hk | with_reducible exact Keeps.refl _ | with_reducible apply State.setMicro_keeps | with_reducible apply State.runMicro_keeps | with_reducible apply ResKeeps.next | with_reducible apply ResKeeps.ite | with_reducible apply Keeps.ite | split | with_reducible apply Keeps.fields | (intro v; try dsimp only)

theorem State.microBranch_keeps {z s : State} (p w : Nat) (u : Micro) (taken : Bool) (hk : Keeps z s) : Keeps z (State.microBranch s p w u taken) := by
  unfold State.microBranch
  try dsimp only
  repeat' first | with_reducible exact hk | with_reducible exact Keeps.refl _ | with_reducible apply State.setMicro_keeps | with_reducible apply Keeps.ite | split | with_reducible apply Keeps.fields | (intro v; try dsimp only)

theorem execBft_keeps {z s : State} (p : SeqId) (hk : Keeps z s) : ResKeeps z (execBft p s) := by
  unfold execBft
  with_reducible repeat' first | exact hk | exact Keeps.refl _ | apply State.runMicro_keeps | apply State.microBranch_keeps | apply ResKeeps.next | apply ResKeeps.ite | apply Keeps.ite | split | (intro v; try dsimp only)

theorem execBff_keeps {z s : State} (p : SeqId) (hk : Keeps z s) : ResKeeps z (execBff p s) := by
  unfold execBff
  with_reducible repeat' first | exact hk | exact Keeps.refl _ | apply State.runMicro_keeps | apply State.microBranch_keeps | apply ResKeeps.next | apply ResKeeps.ite | apply Keeps.ite | split | (intro v; try dsimp only)

theorem execBpt_keeps {z s : State} (p : SeqId) (hk : Keeps z s) : ResKeeps z (execBpt p s) := by
  unfold execBpt
  with_reducible repeat' first | exact hk | exact Keeps.refl _ | apply State.runMicro_keeps | apply State.microBranch_keeps | apply ResKeeps.next | apply ResKeeps.ite | apply Keeps.ite | split | (intro v; try dsimp only)

theorem execMicroCall_keeps {z s : State} (p : SeqId) (hk : Keeps z s) : ResKeeps z (execMicroCall p s) := by
  unfold execMicroCall
  try dsimp only
  repeat' first | with_reducible exact hk | with_reducible exact Keeps.refl _ | with_reducible apply State.setMicro_keeps | with_reducible apply State.runMicro_keeps | with_reducible apply ResKeeps.next | with_reducible apply ResKeeps.ite | with_reducible apply Keeps.ite | split | with_reducible apply Keeps.fields | (intro v; try dsimp only)

theorem execMicroRet_keeps {z s : State} (p : SeqId) (hk : Keeps z s) : ResKeeps z (execMicroRet p s) := by
  unfold execMicroRet
  try dsimp only
  repeat' first | with_reducible exact hk | with_reducible exact Keeps.refl _ | with_reducible apply State.setMicro_keeps | with_reducible apply State.endMicro_keeps | with_reducible apply State.runMicro_keeps | with_reducible apply ResKeeps.next | with_reducible apply ResKeeps.ite | with_reducible apply Keeps.ite | split | with_reducible apply Keeps.fields | with_reducible apply Keeps.upd | exact List.prefix_rfl | exact Nat.le_refl _ | exact id | exact fun w => SMap.wf_put _ _ w | exact fun w => SMap.wf_update _ _ w | exact fun w => SMap.wf_filter _ w | exact fun w => wf_writeBytes _ _ w | exact fun _ => rfl | exact fun w => SMap.wf_map_filter (fun e => by split <;> rfl) w | (intro v; try dsimp only)

theorem execNewAop_keeps {z s : State} (p : SeqId) (hk : Keeps z s) : ResKeeps z (execNewAop p s) := by
  unfold execNewAop
  repeat' first | with_reducible exact hk | with_reducible exact Keeps.refl _ | with_reducible apply State.runInstr_keeps | with_reducible apply newAopBody_keeps | with_reducible apply ResKeeps.next | with_reducible apply seqRes_bind | with_reducible apply seqRes_ok | with_reducible apply seqRes_error | with_reducible apply ErrKeeps.ok | with_reducible apply State.fetch_err | with_reducible apply State.dest_err | with_reducible apply must_err | with_reducible apply waitFor_err | exact trivial | with_reducible apply SeqResKeeps.done | with_reducible apply SeqResKeeps.hold | (intro v; try dsimp only) | exact State.dispatch_err _ _ _ _ _ (by assumption) | with_reducible apply ResKeeps.ite | with_reducible apply Keeps.ite | split | (intro v; try dsimp only)

end Sys2Proof.Machine
end

