-- ==== Sys2Proof/Laws/KeepsSources.lean ====
section
/-!
SUPPORT. What each operation of Machine/Sources.lean keeps.
-/
namespace Sys2Proof.Machine

theorem State.setLevel_keeps {z s : State} (src : Nat) (on : Bool) (hk : Keeps z s) : Keeps z (State.setLevel s src on) := by
  unfold State.setLevel
  try dsimp only
  repeat' first | with_reducible exact hk | with_reducible exact Keeps.refl _ | with_reducible apply Keeps.ite | split | with_reducible apply Keeps.fields | (intro v; try dsimp only)

theorem State.loseAux_keeps {z s : State}  (hk : Keeps z s) : Keeps z (State.loseAux s) := by
  unfold State.loseAux
  try dsimp only
  repeat' first | with_reducible exact hk | with_reducible exact Keeps.refl _ | with_reducible apply State.resetRegs_keeps | with_reducible apply Keeps.ite | split | with_reducible apply Keeps.fields | (intro v; try dsimp only)

theorem execPoweron_keeps {z s : State} (asserted aux : Bool) (hk : Keeps z s) : ResKeeps z (execPoweron asserted aux s) := by
  unfold execPoweron
  try dsimp only
  with_reducible repeat' first | exact hk | exact Keeps.refl _ | apply State.assertModule_keeps | apply State.setLevel_keeps | apply State.loseAux_keeps | apply ResKeeps.next | apply ResKeeps.ite | apply Keeps.ite | split | (intro v; try dsimp only)

theorem execDrwLongLow_keeps {z s : State} (asserted : Bool) (hk : Keeps z s) : ResKeeps z (execDrwLongLow asserted s) := by
  unfold execDrwLongLow
  try dsimp only
  repeat' first | with_reducible exact hk | with_reducible exact Keeps.refl _ | with_reducible apply State.assertModule_keeps | with_reducible apply State.setLevel_keeps | with_reducible apply ResKeeps.next | with_reducible apply ResKeeps.ite | with_reducible apply Keeps.ite | split | with_reducible apply Keeps.fields | (intro v; try dsimp only)

theorem execPerst_keeps {z s : State} (asserted : Bool) (hk : Keeps z s) : ResKeeps z (execPerst asserted s) := by
  unfold execPerst
  with_reducible repeat' first | exact hk | exact Keeps.refl _ | apply State.assertModule_keeps | apply State.setLevel_keeps | apply ResKeeps.next | apply ResKeeps.ite | apply Keeps.ite | split | (intro v; try dsimp only)

theorem execHotReset_keeps {z s : State}  (hk : Keeps z s) : ResKeeps z (execHotReset s) := by
  unfold execHotReset
  with_reducible repeat' first | exact hk | exact Keeps.refl _ | apply State.assertModule_keeps | apply ResKeeps.next | apply ResKeeps.ite | apply Keeps.ite | split | (intro v; try dsimp only)

theorem execLinkDownReset_keeps {z s : State}  (hk : Keeps z s) : ResKeeps z (execLinkDownReset s) := by
  unfold execLinkDownReset
  with_reducible repeat' first | exact hk | exact Keeps.refl _ | apply State.assertModule_keeps | apply ResKeeps.next | apply ResKeeps.ite | apply Keeps.ite | split | (intro v; try dsimp only)

theorem execSoftware_keeps {z s : State} (reach : BitVec 3) (target : Byte) (hk : Keeps z s) : ResKeeps z (execSoftware reach target s) := by
  unfold execSoftware
  with_reducible repeat' first | exact hk | exact Keeps.refl _ | apply State.requestReset_keeps | apply ResKeeps.next | apply ResKeeps.ite | apply Keeps.ite | split | (intro v; try dsimp only)

theorem execControllerStateParity_keeps {z s : State} (firmware : Bool) (addr : BitVec 16) (hk : Keeps z s) : ResKeeps z (execControllerStateParity firmware addr s) := by
  unfold execControllerStateParity
  with_reducible repeat' first | exact hk | exact Keeps.refl _ | apply State.assertModule_keeps | apply ResKeeps.next | apply ResKeeps.ite | apply Keeps.ite | split | (intro v; try dsimp only)

theorem execFlr_keeps {z s : State} (fn : Fin 5) (hk : Keeps z s) : ResKeeps z (execFlr fn s) := by
  unfold execFlr
  try dsimp only
  repeat' first | with_reducible exact hk | with_reducible exact Keeps.refl _ | with_reducible apply State.set_keeps | with_reducible apply State.showOwners_keeps | with_reducible apply State.resetRing_keeps | with_reducible apply State.assertTarget_keeps | with_reducible apply ResKeeps.next | (with_reducible apply State.each_keeps; intro i t; try dsimp only) | with_reducible apply ResKeeps.ite | with_reducible apply Keeps.ite | split | with_reducible apply Keeps.fields | with_reducible apply Keeps.upd | exact List.prefix_rfl | exact Nat.le_refl _ | exact id | exact fun w => SMap.wf_put _ _ w | exact fun w => SMap.wf_update _ _ w | exact fun w => SMap.wf_filter _ w | exact fun w => wf_writeBytes _ _ w | exact fun _ => rfl | exact fun w => SMap.wf_map_filter (fun e => by split <;> rfl) w | (intro v; try dsimp only)

theorem execWatchdog_keeps {z s : State} (p : SeqId) (hk : Keeps z s) : ResKeeps z (execWatchdog p s) := by
  unfold execWatchdog
  try dsimp only
  with_reducible repeat' first | exact hk | exact Keeps.refl _ | apply State.set_keeps | apply State.assertModule_keeps | apply State.assertTarget_keeps | apply ResKeeps.next | apply ResKeeps.ite | apply Keeps.ite | split | (intro v; try dsimp only)

theorem execWatchdogEnable_keeps {z s : State} (p : SeqId) (value : W32) (hk : Keeps z s) : ResKeeps z (execWatchdogEnable p value s) := by
  unfold execWatchdogEnable
  try dsimp only
  with_reducible repeat' first | exact hk | exact Keeps.refl _ | apply State.set_keeps | apply State.wdReload_keeps | apply ResKeeps.next | apply ResKeeps.ite | apply Keeps.ite | split | (intro v; try dsimp only)

theorem execWatchdogKick_keeps {z s : State} (mask : BitVec 4) (hk : Keeps z s) : ResKeeps z (execWatchdogKick mask s) := by
  unfold execWatchdogKick
  with_reducible repeat' first | exact hk | exact Keeps.refl _ | apply State.wdReload_keeps | apply ResKeeps.next | (apply State.each_keeps; intro i t; try dsimp only) | apply ResKeeps.ite | apply Keeps.ite | split | (intro v; try dsimp only)

theorem State.reading_keeps {z s : State} (die v : Nat) (hk : Keeps z s) : Keeps z (State.reading s die v) := by
  unfold State.reading
  try dsimp only
  repeat' first | with_reducible exact hk | with_reducible exact Keeps.refl _ | with_reducible apply State.set_keeps | with_reducible apply State.raise_keeps | with_reducible apply Keeps.ite | split | with_reducible apply Keeps.fields | (intro v; try dsimp only)

theorem execJunctionSensorReading_keeps {z s : State} (die : Fin 5) (reading : Byte) (hk : Keeps z s) : ResKeeps z (execJunctionSensorReading die reading s) := by
  unfold execJunctionSensorReading
  with_reducible repeat' first | exact hk | exact Keeps.refl _ | apply State.reading_keeps | apply ResKeeps.next | apply ResKeeps.ite | apply Keeps.ite | split | (intro v; try dsimp only)

theorem execThermalWarning_keeps {z s : State} (die : Fin 5) (reading : Byte) (hk : Keeps z s) : ResKeeps z (execThermalWarning die reading s) := by
  unfold execThermalWarning
  with_reducible repeat' first | exact hk | exact Keeps.refl _ | apply State.reading_keeps | apply ResKeeps.next | apply ResKeeps.ite | apply Keeps.ite | split | (intro v; try dsimp only)

theorem execThermalTrip_keeps {z s : State} (die : Fin 5) (reading : Byte) (hk : Keeps z s) : ResKeeps z (execThermalTrip die reading s) := by
  unfold execThermalTrip
  try dsimp only
  repeat' first | with_reducible exact hk | with_reducible exact Keeps.refl _ | with_reducible apply State.assertModule_keeps | with_reducible apply State.reading_keeps | with_reducible apply ResKeeps.next | with_reducible apply ResKeeps.ite | with_reducible apply Keeps.ite | split | with_reducible apply Keeps.fields | (intro v; try dsimp only)

theorem execRefclkLoss_keeps {z s : State}  (hk : Keeps z s) : ResKeeps z (execRefclkLoss s) := by
  unfold execRefclkLoss
  try dsimp only
  repeat' first | with_reducible exact hk | with_reducible exact Keeps.refl _ | with_reducible apply State.set_keeps | with_reducible apply ResKeeps.next | with_reducible apply ResKeeps.ite | with_reducible apply Keeps.ite | split | with_reducible apply Keeps.fields | (intro v; try dsimp only)

theorem execRefclkReturn_keeps {z s : State}  (hk : Keeps z s) : ResKeeps z (execRefclkReturn s) := by
  unfold execRefclkReturn
  try dsimp only
  repeat' first | with_reducible exact hk | with_reducible exact Keeps.refl _ | with_reducible apply State.beginIdle_keeps | with_reducible apply ResKeeps.next | (with_reducible apply Keeps.foldl; intro t x; try dsimp only) | (with_reducible apply Keeps.foldl_fst; intro t x; try dsimp only) | with_reducible apply ResKeeps.ite | with_reducible apply Keeps.ite | split | with_reducible apply Keeps.fields | (intro v; try dsimp only)

theorem execIdleReached_keeps {z s : State} (target : ResetTarget) (hk : Keeps z s) : ResKeeps z (execIdleReached target s) := by
  unfold execIdleReached
  try dsimp only
  repeat' first | with_reducible exact hk | with_reducible exact Keeps.refl _ | with_reducible apply State.idle_keeps | with_reducible apply State.finishPackets_keeps | with_reducible apply State.setTarget_keeps | with_reducible apply ResKeeps.next | with_reducible apply ResKeeps.ite | with_reducible apply Keeps.ite | split | with_reducible apply Keeps.fields | with_reducible apply Keeps.upd | exact List.prefix_rfl | exact Nat.le_refl _ | exact id | exact fun w => SMap.wf_put _ _ w | exact fun w => SMap.wf_update _ _ w | exact fun w => SMap.wf_filter _ w | exact fun w => wf_writeBytes _ _ w | exact fun _ => rfl | exact fun w => SMap.wf_map_filter (fun e => by split <;> rfl) w | (intro v; try dsimp only)

theorem execIdleTimeout_keeps {z s : State} (target : ResetTarget) (hk : Keeps z s) : ResKeeps z (execIdleTimeout target s) := by
  unfold execIdleTimeout
  try dsimp only
  repeat' first | with_reducible exact hk | with_reducible exact Keeps.refl _ | with_reducible apply State.idle_keeps | with_reducible apply State.forceFence_keeps | with_reducible apply State.ashTimeout_keeps | with_reducible apply State.dropTraffic_keeps | with_reducible apply State.setTarget_keeps | with_reducible apply ResKeeps.next | (with_reducible apply Keeps.foldl; intro t x; try dsimp only) | (with_reducible apply Keeps.foldl_fst; intro t x; try dsimp only) | with_reducible apply ResKeeps.ite | with_reducible apply Keeps.ite | split | with_reducible apply Keeps.fields | with_reducible apply Keeps.upd | exact List.prefix_rfl | exact Nat.le_refl _ | exact id | exact fun w => SMap.wf_put _ _ w | exact fun w => SMap.wf_update _ _ w | exact fun w => SMap.wf_filter _ w | exact fun w => wf_writeBytes _ _ w | exact fun _ => rfl | exact fun w => SMap.wf_map_filter (fun e => by split <;> rfl) w | (intro v; try dsimp only)

theorem State.releaseTarget_keeps {z s : State} (k : Nat) (x : Pending) (hk : Keeps z s) : Keeps z (State.releaseTarget s k x) := by
  unfold State.releaseTarget
  try dsimp only
  with_reducible repeat' first | exact hk | exact Keeps.refl _ | apply State.set_keeps | apply State.raise_keeps | apply State.clearPartition_keeps | apply State.clearBlock_keeps | apply State.setTarget_keeps | apply Keeps.ite | split | (intro v; try dsimp only)

theorem execResetRelease_keeps {z s : State} (target : ResetTarget) (hk : Keeps z s) : ResKeeps z (execResetRelease target s) := by
  unfold execResetRelease
  try dsimp only
  repeat' first | with_reducible exact hk | with_reducible exact Keeps.refl _ | with_reducible apply State.idle_keeps | with_reducible apply State.clearModule_keeps | with_reducible apply State.releaseTarget_keeps | with_reducible apply ResKeeps.next | with_reducible apply ResKeeps.ite | with_reducible apply Keeps.ite | split | with_reducible apply Keeps.fields | with_reducible apply Keeps.upd | exact List.prefix_rfl | exact Nat.le_refl _ | exact id | exact fun w => SMap.wf_put _ _ w | exact fun w => SMap.wf_update _ _ w | exact fun w => SMap.wf_filter _ w | exact fun w => wf_writeBytes _ _ w | exact fun _ => rfl | exact fun w => SMap.wf_map_filter (fun e => by split <;> rfl) w | (intro v; try dsimp only)

theorem execAshClear_keeps {z s : State}  (hk : Keeps z s) : ResKeeps z (execAshClear s) := by
  unfold execAshClear
  try dsimp only
  repeat' first | with_reducible exact hk | with_reducible exact Keeps.refl _ | with_reducible apply State.set_keeps | with_reducible apply ResKeeps.next | (with_reducible apply State.each_keeps; intro i t; try dsimp only) | with_reducible apply ResKeeps.ite | with_reducible apply Keeps.ite | split | with_reducible apply Keeps.fields | with_reducible apply Keeps.upd | exact List.prefix_rfl | exact Nat.le_refl _ | exact id | exact fun w => SMap.wf_put _ _ w | exact fun w => SMap.wf_update _ _ w | exact fun w => SMap.wf_filter _ w | exact fun w => wf_writeBytes _ _ w | exact fun _ => rfl | exact fun w => SMap.wf_map_filter (fun e => by split <;> rfl) w | (intro v; try dsimp only)

theorem execTurfOff_keeps {z s : State} (t : TurfId) (hk : Keeps z s) : ResKeeps z (execTurfOff t s) := by
  unfold execTurfOff
  with_reducible repeat' first | exact hk | exact Keeps.refl _ | apply State.switchOff_keeps | apply ResKeeps.next | apply ResKeeps.ite | apply Keeps.ite | split | (intro v; try dsimp only)

end Sys2Proof.Machine
end

