-- ==== Sys2Proof/Laws/KeepsRecovery.lean ====
section
/-!
SUPPORT. What each operation of Machine/Recovery.lean keeps.
-/
namespace Sys2Proof.Machine

theorem State.logFault_keeps {z s : State} (f : FaultInfo) (action : Nat) (esc : Bool) (hk : Keeps z s) : Keeps z (State.logFault s f action esc) := by
  unfold State.logFault
  try dsimp only
  repeat' first | with_reducible exact hk | with_reducible exact Keeps.refl _ | with_reducible apply State.set_keeps | with_reducible apply State.raise_keeps | with_reducible apply State.showRecLog_keeps | with_reducible apply Keeps.ite | split | with_reducible apply Keeps.fields | (intro v; try dsimp only)

theorem execRecoveryLogRead_keeps {z s : State}  (hk : Keeps z s) : ResKeeps z (execRecoveryLogRead s) := by
  unfold execRecoveryLogRead
  with_reducible repeat' first | exact hk | exact Keeps.refl _ | apply State.send_keeps | apply State.recNext_keeps | apply ResKeeps.next | apply ResKeeps.ite | apply Keeps.ite | split | (intro v; try dsimp only)

theorem State.startRecovery_keeps {z s : State} (f : FaultInfo) (action : Nat) (esc : Bool) (hk : Keeps z s) : Keeps z (State.startRecovery s f action esc) := by
  unfold State.startRecovery
  try dsimp only
  with_reducible repeat' first | exact hk | exact Keeps.refl _ | apply State.set_keeps | apply State.setRecov_keeps | apply State.assertTarget_keeps | apply Keeps.ite | split | (intro v; try dsimp only)

theorem State.recover_keeps {z s : State} (f : FaultInfo) (hk : Keeps z s) : Keeps z (State.recover s f) := by
  unfold State.recover
  try dsimp only
  repeat' first | with_reducible exact hk | with_reducible exact Keeps.refl _ | with_reducible apply State.setSeq_keeps | with_reducible apply State.ashAppend_keeps | with_reducible apply State.logFault_keeps | with_reducible apply State.startRecovery_keeps | with_reducible apply Keeps.ite | split | with_reducible apply Keeps.fields | with_reducible apply Keeps.upd | exact List.prefix_rfl | exact Nat.le_refl _ | exact id | exact fun w => SMap.wf_put _ _ w | exact fun w => SMap.wf_update _ _ w | exact fun w => SMap.wf_filter _ w | exact fun w => wf_writeBytes _ _ w | exact fun _ => rfl | exact fun w => SMap.wf_map_filter (fun e => by split <;> rfl) w | (intro v; try dsimp only)

theorem State.machineCheck_keeps {z s : State} (f : FaultInfo) (hk : Keeps z s) : Keeps z (State.machineCheck s f) := by
  unfold State.machineCheck
  try dsimp only
  repeat' first | with_reducible exact hk | with_reducible exact Keeps.refl _ | with_reducible apply State.set_keeps | with_reducible apply State.setSeq_keeps | with_reducible apply State.setRecov_keeps | with_reducible apply State.raise_keeps | with_reducible apply State.failJob_keeps | with_reducible apply State.stopIn_keeps | with_reducible apply State.assertModule_keeps | with_reducible apply State.assertTarget_keeps | with_reducible apply State.disableSeq_keeps | with_reducible apply State.logFault_keeps | with_reducible apply Keeps.ite | split | with_reducible apply Keeps.fields | (intro v; try dsimp only)

theorem State.failReader_keeps {z s : State} (unit : Nat) (hk : Keeps z s) : Keeps z (State.failReader s unit) := by
  unfold State.failReader
  try dsimp only
  repeat' first | with_reducible exact hk | with_reducible exact Keeps.refl _ | with_reducible apply State.useFree_keeps | with_reducible apply State.putTransfer_keeps | with_reducible apply State.dmaError_keeps | with_reducible apply Keeps.ite | split | with_reducible apply Keeps.fields | with_reducible apply Keeps.upd | exact List.prefix_rfl | exact Nat.le_refl _ | exact id | exact fun w => SMap.wf_put _ _ w | exact fun w => SMap.wf_update _ _ w | exact fun w => SMap.wf_filter _ w | exact fun w => wf_writeBytes _ _ w | exact fun _ => rfl | exact fun w => SMap.wf_map_filter (fun e => by split <;> rfl) w | (intro v; try dsimp only)

theorem State.flagFault_keeps {z s : State} (f : FaultInfo) (hk : Keeps z s) : Keeps z (State.flagFault s f) := by
  unfold State.flagFault
  try dsimp only
  repeat' first | with_reducible exact hk | with_reducible exact Keeps.refl _ | with_reducible apply State.turfError_keeps | with_reducible apply State.meshErr_keeps | with_reducible apply State.failReader_keeps | with_reducible apply Keeps.ite | split | with_reducible apply Keeps.fields | with_reducible apply Keeps.upd | exact List.prefix_rfl | exact Nat.le_refl _ | exact id | exact fun w => SMap.wf_put _ _ w | exact fun w => SMap.wf_update _ _ w | exact fun w => SMap.wf_filter _ w | exact fun w => wf_writeBytes _ _ w | exact fun _ => rfl | exact fun w => SMap.wf_map_filter (fun e => by split <;> rfl) w | (intro v; try dsimp only)

theorem State.confirmTo_keeps {z s : State} (f : FaultInfo) (hk : Keeps z s) : Keeps z (State.confirmTo s f) := by
  unfold State.confirmTo
  try dsimp only
  repeat' first | with_reducible exact hk | with_reducible exact Keeps.refl _ | with_reducible apply State.confirm_keeps | with_reducible apply Keeps.ite | split | with_reducible apply Keeps.fields | with_reducible apply Keeps.upd | exact List.prefix_rfl | exact Nat.le_refl _ | exact id | exact fun w => SMap.wf_put _ _ w | exact fun w => SMap.wf_update _ _ w | exact fun w => SMap.wf_filter _ w | exact fun w => wf_writeBytes _ _ w | exact fun _ => rfl | exact fun w => SMap.wf_map_filter (fun e => by split <;> rfl) w | (intro v; try dsimp only)

theorem State.markFlue_keeps {z s : State} (f : FaultInfo) (hk : Keeps z s) : Keeps z (State.markFlue s f) := by
  unfold State.markFlue
  try dsimp only
  repeat' first | with_reducible exact hk | with_reducible exact Keeps.refl _ | with_reducible apply State.setPart_keeps | with_reducible apply Keeps.ite | split | with_reducible apply Keeps.fields | with_reducible apply Keeps.upd | exact List.prefix_rfl | exact Nat.le_refl _ | exact id | exact fun w => SMap.wf_put _ _ w | exact fun w => SMap.wf_update _ _ w | exact fun w => SMap.wf_filter _ w | exact fun w => wf_writeBytes _ _ w | exact fun _ => rfl | exact fun w => SMap.wf_map_filter (fun e => by split <;> rfl) w | (intro v; try dsimp only)

theorem State.reportOne_keeps {z s : State} (f : FaultInfo) (hk : Keeps z s) : Keeps z (State.reportOne s f) := by
  unfold State.reportOne
  with_reducible repeat' first | exact hk | exact Keeps.refl _ | apply State.recover_keeps | apply State.machineCheck_keeps | apply State.confirmTo_keeps | apply State.markFlue_keeps | apply Keeps.ite | split | (intro v; try dsimp only)

theorem State.failSpine_keeps {z s : State}  (hk : Keeps z s) : Keeps z (State.failSpine s) := by
  unfold State.failSpine
  try dsimp only
  repeat' first | with_reducible exact hk | with_reducible exact Keeps.refl _ | with_reducible apply State.useFree_keeps | with_reducible apply State.putTransfer_keeps | with_reducible apply State.dmaError_keeps | with_reducible apply Keeps.ite | split | with_reducible apply Keeps.fields | with_reducible apply Keeps.upd | exact List.prefix_rfl | exact Nat.le_refl _ | exact id | exact fun w => SMap.wf_put _ _ w | exact fun w => SMap.wf_update _ _ w | exact fun w => SMap.wf_filter _ w | exact fun w => wf_writeBytes _ _ w | exact fun _ => rfl | exact fun w => SMap.wf_map_filter (fun e => by split <;> rfl) w | (intro v; try dsimp only)

theorem State.blockError_keeps {z s : State} (unit : Nat) (hk : Keeps z s) : Keeps z (State.blockError s unit) := by
  unfold State.blockError
  try dsimp only
  repeat' first | with_reducible exact hk | with_reducible exact Keeps.refl _ | with_reducible apply State.set_keeps | with_reducible apply Keeps.ite | split | with_reducible apply Keeps.fields | (intro v; try dsimp only)

theorem execFaultReport_keeps {z s : State} (f0 : FaultInfo) (hk : Keeps z s) : ResKeeps z (execFaultReport f0 s) := by
  unfold execFaultReport
  try dsimp only
  repeat' first | with_reducible exact hk | with_reducible exact Keeps.refl _ | with_reducible apply State.useFree_keeps | with_reducible apply State.raise_keeps | with_reducible apply State.hbmErrorAt_keeps | with_reducible apply State.flagFault_keeps | with_reducible apply State.reportOne_keeps | with_reducible apply State.failSpine_keeps | with_reducible apply State.blockError_keeps | with_reducible apply ResKeeps.next | (with_reducible apply Keeps.foldl; intro t x; try dsimp only) | (with_reducible apply Keeps.foldl_fst; intro t x; try dsimp only) | with_reducible apply ResKeeps.ite | with_reducible apply Keeps.ite | split | with_reducible apply Keeps.fields | (intro v; try dsimp only)

theorem execRollbackRequest_keeps {z s : State} (mask : BitVec 4) (hk : Keeps z s) : ResKeeps z (execRollbackRequest mask s) := by
  unfold execRollbackRequest
  with_reducible repeat' first | exact hk | exact Keeps.refl _ | apply State.reportOne_keeps | apply ResKeeps.next | (apply Keeps.foldl; intro t x; try dsimp only) | (apply Keeps.foldl_fst; intro t x; try dsimp only) | apply ResKeeps.ite | apply Keeps.ite | split | (intro v; try dsimp only)

theorem State.countReplay_keeps {z s : State} (p : Nat) (hk : Keeps z s) : Keeps z (State.countReplay s p) := by
  unfold State.countReplay
  try dsimp only
  repeat' first | with_reducible exact hk | with_reducible exact Keeps.refl _ | with_reducible apply State.bump_keeps | with_reducible apply State.setSeq_keeps | with_reducible apply Keeps.ite | split | with_reducible apply Keeps.fields | (intro v; try dsimp only)

theorem State.delay_keeps {z s : State} (p n by_ : Nat) (hk : Keeps z s) : Keeps z (State.delay s p n by_) := by
  unfold State.delay
  try dsimp only
  repeat' first | with_reducible exact hk | with_reducible exact Keeps.refl _ | with_reducible apply State.setPart_keeps | with_reducible apply State.setStg_keeps | (with_reducible apply State.each_keeps; intro i t; try dsimp only) | with_reducible apply Keeps.ite | split | with_reducible apply Keeps.fields | with_reducible apply Keeps.upd | exact List.prefix_rfl | exact Nat.le_refl _ | exact id | exact fun w => SMap.wf_put _ _ w | exact fun w => SMap.wf_update _ _ w | exact fun w => SMap.wf_filter _ w | exact fun w => wf_writeBytes _ _ w | exact fun _ => rfl | exact fun w => SMap.wf_map_filter (fun e => by split <;> rfl) w | (intro v; try dsimp only)

theorem State.beginReplay_keeps {z s : State} (p : Nat) (r : Recovery) (hk : Keeps z s) : Keeps z (State.beginReplay s p r) := by
  unfold State.beginReplay
  try dsimp only
  repeat' first | with_reducible exact hk | with_reducible exact Keeps.refl _ | with_reducible apply State.setReg_keeps | with_reducible apply State.set_keeps | with_reducible apply State.setPart_keeps | with_reducible apply State.setSeq_keeps | with_reducible apply State.setRecov_keeps | with_reducible apply State.takeSteps_keeps | with_reducible apply State.beats_keeps | with_reducible apply State.logFault_keeps | with_reducible apply State.startRecovery_keeps | with_reducible apply State.countReplay_keeps | with_reducible apply State.delay_keeps | (with_reducible apply Keeps.foldl; intro t x; try dsimp only) | (with_reducible apply Keeps.foldl_fst; intro t x; try dsimp only) | with_reducible apply Keeps.ite | split | with_reducible apply Keeps.fields | with_reducible apply Keeps.upd | exact List.prefix_rfl | exact Nat.le_refl _ | exact id | exact fun w => SMap.wf_put _ _ w | exact fun w => SMap.wf_update _ _ w | exact fun w => SMap.wf_filter _ w | exact fun w => wf_writeBytes _ _ w | exact fun _ => rfl | exact fun w => SMap.wf_map_filter (fun e => by split <;> rfl) w | (intro v; try dsimp only)

theorem State.reissue_keeps {z s : State} (p : Nat) (r : Recovery) (o : OpenMacro) (rest : List OpenMacro) (hk : Keeps z s) :
    Keeps z (s.reissue p r o rest) := by
  unfold State.reissue
  dsimp only
  refine Keeps.ite (State.setRecov_keeps _ _ ?_) (State.setRecov_keeps _ _ ?_) <;>
  · split
    · exact State.startMicro_keeps _ _ _ _ _ hk
    · rename_i m _
      have h := State.romIssue_keeps p m o.disp ((r.unfinished.filter (fun u => decide (u.first = o.first))).map (·.size) |>.getD 0)
        (r.unfinished.filter (fun u => decide (u.first = o.first))).isNone
        (((r.unfinished.filter (fun u => decide (u.first = o.first))).map (·.upd)).getD []) hk
      split <;> first | (rename_i heq; rw [heq] at h; exact h) | exact hk

theorem execReplay_keeps {z s : State} (p : SeqId) (hk : Keeps z s) : ResKeeps z (execReplay p s) := by
  unfold execReplay
  try dsimp only
  repeat' first | with_reducible exact hk | with_reducible exact Keeps.refl _ | with_reducible apply State.beginReplay_keeps | with_reducible apply State.reissue_keeps | with_reducible apply ResKeeps.next | with_reducible apply ResKeeps.ite | with_reducible apply Keeps.ite | split | with_reducible apply Keeps.fields | with_reducible apply Keeps.upd | exact List.prefix_rfl | exact Nat.le_refl _ | exact id | exact fun w => SMap.wf_put _ _ w | exact fun w => SMap.wf_update _ _ w | exact fun w => SMap.wf_filter _ w | exact fun w => wf_writeBytes _ _ w | exact fun _ => rfl | exact fun w => SMap.wf_map_filter (fun e => by split <;> rfl) w | (intro v; try dsimp only)

theorem State.restorePlanes_keeps {z s : State} (p : Nat) (c : SavedSeq) (hk : Keeps z s) : Keeps z (State.restorePlanes s p c) := by
  unfold State.restorePlanes
  try dsimp only
  with_reducible repeat' first | exact hk | exact Keeps.refl _ | apply State.hearthWrite_keeps | apply State.storeRows_keeps | apply State.hbmTouch_keeps | (apply Keeps.foldl; intro t x; try dsimp only) | (apply Keeps.foldl_fst; intro t x; try dsimp only) | apply Keeps.ite | split | (intro v; try dsimp only)

theorem State.restoreSeq_keeps {z s : State} (p : Nat) (c : SavedSeq) (hk : Keeps z s) : Keeps z (State.restoreSeq s p c) := by
  unfold State.restoreSeq
  try dsimp only
  repeat' first | with_reducible exact hk | with_reducible exact Keeps.refl _ | with_reducible apply State.setReg_keeps | with_reducible apply State.set_keeps | with_reducible apply State.setSeq_keeps | with_reducible apply State.setRsv_keeps | with_reducible apply State.setPc_keeps | (with_reducible apply State.each_keeps; intro i t; try dsimp only) | with_reducible apply Keeps.ite | split | with_reducible apply Keeps.fields | with_reducible apply Keeps.upd | exact List.prefix_rfl | exact Nat.le_refl _ | exact id | exact fun w => SMap.wf_put _ _ w | exact fun w => SMap.wf_update _ _ w | exact fun w => SMap.wf_filter _ w | exact fun w => wf_writeBytes _ _ w | exact fun _ => rfl | exact fun w => SMap.wf_map_filter (fun e => by split <;> rfl) w | (intro v; try dsimp only)

theorem State.countRollback_keeps {z s : State} (p : Nat) (hk : Keeps z s) : Keeps z (State.countRollback s p) := by
  unfold State.countRollback
  try dsimp only
  repeat' first | with_reducible exact hk | with_reducible exact Keeps.refl _ | with_reducible apply State.bump_keeps | with_reducible apply State.setSeq_keeps | with_reducible apply Keeps.ite | split | with_reducible apply Keeps.fields | (intro v; try dsimp only)

theorem State.dropDescriptors_keeps {z s : State} (p : Nat) (hk : Keeps z s) : Keeps z (State.dropDescriptors s p) := by
  unfold State.dropDescriptors
  try dsimp only
  repeat' first | with_reducible exact hk | with_reducible exact Keeps.refl _ | with_reducible apply State.setStg_keeps | with_reducible apply State.dropPackets_keeps | (with_reducible apply Keeps.foldl; intro t x; try dsimp only) | (with_reducible apply Keeps.foldl_fst; intro t x; try dsimp only) | (with_reducible apply State.each_keeps; intro i t; try dsimp only) | with_reducible apply Keeps.ite | split | with_reducible apply Keeps.fields | (intro v; try dsimp only)

theorem State.dropWork_keeps {z s : State} (p : Nat) (hk : Keeps z s) : Keeps z (State.dropWork s p) := by
  unfold State.dropWork
  try dsimp only
  repeat' first | with_reducible exact hk | with_reducible exact Keeps.refl _ | with_reducible apply State.setPart_keeps | with_reducible apply Keeps.ite | split | with_reducible apply Keeps.fields | with_reducible apply Keeps.upd | exact List.prefix_rfl | exact Nat.le_refl _ | exact id | exact fun w => SMap.wf_put _ _ w | exact fun w => SMap.wf_update _ _ w | exact fun w => SMap.wf_filter _ w | exact fun w => wf_writeBytes _ _ w | exact fun _ => rfl | exact fun w => SMap.wf_map_filter (fun e => by split <;> rfl) w | (intro v; try dsimp only)

theorem State.restoreCheckpoint_keeps {z s : State} (p : Nat) (c : SavedSeq) (hk : Keeps z s) : Keeps z (State.restoreCheckpoint s p c) := by
  unfold State.restoreCheckpoint
  try dsimp only
  repeat' first | with_reducible exact hk | with_reducible exact Keeps.refl _ | with_reducible apply State.setReg_keeps | with_reducible apply State.set_keeps | with_reducible apply State.setPart_keeps | with_reducible apply State.takeSteps_keeps | with_reducible apply State.beats_keeps | with_reducible apply State.hbmTouch_keeps | with_reducible apply State.restorePlanes_keeps | with_reducible apply State.restoreSeq_keeps | with_reducible apply State.dropDescriptors_keeps | with_reducible apply State.dropWork_keeps | (with_reducible apply Keeps.foldl; intro t x; try dsimp only) | (with_reducible apply Keeps.foldl_fst; intro t x; try dsimp only) | with_reducible apply Keeps.ite | split | with_reducible apply Keeps.fields | (intro v; try dsimp only)

theorem execRollback_keeps {z s : State} (p : SeqId) (hk : Keeps z s) : ResKeeps z (execRollback p s) := by
  unfold execRollback
  try dsimp only
  repeat' first | with_reducible exact hk | with_reducible exact Keeps.refl _ | with_reducible apply State.setRecov_keeps | with_reducible apply State.startRecovery_keeps | with_reducible apply State.countRollback_keeps | with_reducible apply State.restoreCheckpoint_keeps | with_reducible apply ResKeeps.next | with_reducible apply ResKeeps.ite | with_reducible apply Keeps.ite | split | with_reducible apply Keeps.fields | with_reducible apply Keeps.upd | exact List.prefix_rfl | exact Nat.le_refl _ | exact id | exact fun w => SMap.wf_put _ _ w | exact fun w => SMap.wf_update _ _ w | exact fun w => SMap.wf_filter _ w | exact fun w => wf_writeBytes _ _ w | exact fun _ => rfl | exact fun w => SMap.wf_map_filter (fun e => by split <;> rfl) w | (intro v; try dsimp only)

theorem execRollbackResume_keeps {z s : State} (p : SeqId) (hk : Keeps z s) : ResKeeps z (execRollbackResume p s) := by
  unfold execRollbackResume
  try dsimp only
  repeat' first | with_reducible exact hk | with_reducible exact Keeps.refl _ | with_reducible apply State.set_keeps | with_reducible apply State.setRecov_keeps | with_reducible apply ResKeeps.next | with_reducible apply ResKeeps.ite | with_reducible apply Keeps.ite | split | with_reducible apply Keeps.fields | with_reducible apply Keeps.upd | exact List.prefix_rfl | exact Nat.le_refl _ | exact id | exact fun w => SMap.wf_put _ _ w | exact fun w => SMap.wf_update _ _ w | exact fun w => SMap.wf_filter _ w | exact fun w => wf_writeBytes _ _ w | exact fun _ => rfl | exact fun w => SMap.wf_map_filter (fun e => by split <;> rfl) w | (intro v; try dsimp only)

end Sys2Proof.Machine
end

