-- ==== Sys2Proof/Laws/KeepsWindows.lean ====
section
/-!
SUPPORT. What each operation of Machine/Windows.lean keeps.
-/
namespace Sys2Proof.Machine

theorem State.imemWrite_keeps {z s : State} (p a : Nat) (bs : List Byte) (hk : Keeps z s) : Keeps z (State.imemWrite s p a bs) := by
  unfold State.imemWrite
  try dsimp only
  repeat' first | with_reducible exact hk | with_reducible exact Keeps.refl _ | with_reducible apply State.set_keeps | with_reducible apply Keeps.ite | split | with_reducible apply Keeps.fields | with_reducible apply Keeps.upd | exact List.prefix_rfl | exact Nat.le_refl _ | exact id | exact fun w => SMap.wf_put _ _ w | exact fun w => SMap.wf_update _ _ w | exact fun w => SMap.wf_filter _ w | exact fun w => wf_writeBytes _ _ w | exact fun _ => rfl | exact fun w => SMap.wf_map_filter (fun e => by split <;> rfl) w | (intro v; try dsimp only)

theorem execInstructionMemoryWrite_keeps {z s : State} (p : SeqId) (addr : Nat) (data : List Byte) (hk : Keeps z s) : ResKeeps z (execInstructionMemoryWrite p addr data s) := by
  unfold execInstructionMemoryWrite
  with_reducible repeat' first | exact hk | exact Keeps.refl _ | apply State.imemWrite_keeps | apply ResKeeps.next | apply ResKeeps.ite | apply Keeps.ite | split | (intro v; try dsimp only)

theorem State.windowWrite_keeps {z s : State} (fn : Nat) (at_ : Place) (bs : List Byte) (hk : Keeps z s) : Keeps z (State.windowWrite s fn at_ bs) := by
  unfold State.windowWrite
  try dsimp only
  repeat' first | with_reducible exact hk | with_reducible exact Keeps.refl _ | with_reducible apply State.set_keeps | with_reducible apply State.hearthWrite_keeps | with_reducible apply State.hbmWrite_keeps | with_reducible apply State.msixWrite_keeps | with_reducible apply State.barWrite_keeps | with_reducible apply State.imemWrite_keeps | (with_reducible apply Keeps.foldl; intro t x; try dsimp only) | (with_reducible apply Keeps.foldl_fst; intro t x; try dsimp only) | with_reducible apply Keeps.ite | split | with_reducible apply Keeps.fields | with_reducible apply Keeps.upd | exact List.prefix_rfl | exact Nat.le_refl _ | exact id | exact fun w => SMap.wf_put _ _ w | exact fun w => SMap.wf_update _ _ w | exact fun w => SMap.wf_filter _ w | exact fun w => wf_writeBytes _ _ w | exact fun _ => rfl | exact fun w => SMap.wf_map_filter (fun e => by split <;> rfl) w | (intro v; try dsimp only)

theorem State.windowFetch_keeps {z s : State} (at_ : Place) (n : Nat) (hk : Keeps z s) : Keeps z (State.windowFetch s at_ n).1 := by
  unfold State.windowFetch
  try dsimp only
  repeat' first | with_reducible exact hk | with_reducible exact Keeps.refl _ | with_reducible apply State.useFree_keeps | with_reducible apply State.hbmTouch_keeps | with_reducible apply Keeps.ite | with_reducible apply Keeps.ite | split | with_reducible apply Keeps.fields | with_reducible apply Keeps.upd | exact List.prefix_rfl | exact Nat.le_refl _ | exact id | exact fun w => SMap.wf_put _ _ w | exact fun w => SMap.wf_update _ _ w | exact fun w => SMap.wf_filter _ w | exact fun w => wf_writeBytes _ _ w | exact fun _ => rfl | exact fun w => SMap.wf_map_filter (fun e => by split <;> rfl) w | (intro v; try dsimp only)

theorem State.bar0Read_keeps {z s : State} (fn : Nat) (at_ : Place) (n : Nat) (hk : Keeps z s) : Keeps z (State.bar0Read s fn at_ n) := by
  unfold State.bar0Read
  try dsimp only
  repeat' first | with_reducible exact hk | with_reducible exact Keeps.refl _ | with_reducible apply State.send_keeps | with_reducible apply State.barRead_keeps | with_reducible apply Keeps.ite | split | with_reducible apply Keeps.fields | with_reducible apply Keeps.upd | exact List.prefix_rfl | exact Nat.le_refl _ | exact id | exact fun w => SMap.wf_put _ _ w | exact fun w => SMap.wf_update _ _ w | exact fun w => SMap.wf_filter _ w | exact fun w => wf_writeBytes _ _ w | exact fun _ => rfl | exact fun w => SMap.wf_map_filter (fun e => by split <;> rfl) w | (intro v; try dsimp only)

theorem execWindowAccess_keeps {z s : State} (a : WinAccess) (hk : Keeps z s) : ResKeeps z (execWindowAccess a s) := by
  unfold execWindowAccess
  try dsimp only
  repeat' first | with_reducible exact hk | with_reducible exact Keeps.refl _ | with_reducible apply State.send_keeps | with_reducible apply State.windowWrite_keeps | with_reducible apply State.windowFetch_keeps | with_reducible apply State.bar0Read_keeps | with_reducible apply ResKeeps.next | (with_reducible apply Keeps.foldl; intro t x; try dsimp only) | (with_reducible apply Keeps.foldl_fst; intro t x; try dsimp only) | with_reducible apply ResKeeps.ite | with_reducible apply Keeps.ite | split | with_reducible apply Keeps.fields | (intro v; try dsimp only)

theorem execBar0OversizeAccess_keeps {z s : State} (off len : Nat) (_write : Bool) (hk : Keeps z s) : ResKeeps z (execBar0OversizeAccess off len _write s) := by
  unfold execBar0OversizeAccess
  with_reducible repeat' first | exact hk | exact Keeps.refl _ | apply State.send_keeps | apply ResKeeps.next | apply ResKeeps.ite | apply Keeps.ite | split | (intro v; try dsimp only)

theorem execLinkTrained_keeps {z s : State} (speed : Fin 6) (hk : Keeps z s) : ResKeeps z (execLinkTrained speed s) := by
  unfold execLinkTrained
  try dsimp only
  repeat' first | with_reducible exact hk | with_reducible exact Keeps.refl _ | with_reducible apply State.set_keeps | with_reducible apply ResKeeps.next | with_reducible apply ResKeeps.ite | with_reducible apply Keeps.ite | split | with_reducible apply Keeps.fields | (intro v; try dsimp only)

end Sys2Proof.Machine
end

