-- ==== Sys2Proof/Laws/KeepsDebug.lean ====
section
/-!
SUPPORT. What each operation of Machine/Debug.lean keeps.
-/
namespace Sys2Proof.Machine

theorem State.countFrame_keeps {z s : State}  (hk : Keeps z s) : Keeps z (State.countFrame s) := by
  unfold State.countFrame
  try dsimp only
  repeat' first | with_reducible exact hk | with_reducible exact Keeps.refl _ | with_reducible apply Keeps.ite | split | with_reducible apply Keeps.fields | (intro v; try dsimp only)

theorem State.respond_keeps {z s : State} (status : Nat) (data : List Byte) (hk : Keeps z s) : Keeps z (State.respond s status data) := by
  unfold State.respond
  try dsimp only
  with_reducible repeat' first | exact hk | exact Keeps.refl _ | apply State.send_keeps | apply State.countFrame_keeps | apply Keeps.ite | split | (intro v; try dsimp only)

theorem State.request_keeps {z s : State} (level : Nat) (f : State → State) (hb : ∀ t, Keeps t (f t)) (hk : Keeps z s) : Keeps z (State.request s level f) := by
  unfold State.request
  try dsimp only
  with_reducible repeat' first | exact hk | exact Keeps.refl _ | apply State.countFrame_keeps | apply State.respond_keeps | apply Keeps.ite | refine Keeps.trans ?_ (hb _) | split | (intro v; try dsimp only)

theorem State.openFailed_keeps {z s : State}  (hk : Keeps z s) : Keeps z (State.openFailed s) := by
  unfold State.openFailed
  try dsimp only
  repeat' first | with_reducible exact hk | with_reducible exact Keeps.refl _ | with_reducible apply State.set_keeps | with_reducible apply State.count_keeps | with_reducible apply State.raise_keeps | with_reducible apply State.respond_keeps | with_reducible apply Keeps.ite | split | with_reducible apply Keeps.fields | (intro v; try dsimp only)

theorem State.openSession_keeps {z s : State} (kex : Bool) (level : Nat) (key : List Byte) (hk : Keeps z s) : Keeps z (State.openSession s kex level key) := by
  unfold State.openSession
  try dsimp only
  repeat' first | with_reducible exact hk | with_reducible exact Keeps.refl _ | with_reducible apply State.set_keeps | with_reducible apply State.raise_keeps | with_reducible apply State.respond_keeps | with_reducible apply Keeps.ite | split | with_reducible apply Keeps.fields | (intro v; try dsimp only)

theorem execOpenPw_keeps {z s : State} (password : List Byte) (hk : Keeps z s) : ResKeeps z (execOpenPw password s) := by
  unfold execOpenPw
  try dsimp only
  repeat' first | with_reducible exact hk | with_reducible exact Keeps.refl _ | with_reducible apply State.countFrame_keeps | with_reducible apply State.respond_keeps | with_reducible apply State.openFailed_keeps | with_reducible apply State.openSession_keeps | with_reducible apply ResKeeps.next | with_reducible apply ResKeeps.ite | with_reducible apply Keeps.ite | split | with_reducible apply Keeps.fields | with_reducible apply Keeps.upd | exact List.prefix_rfl | exact Nat.le_refl _ | exact id | exact fun w => SMap.wf_put _ _ w | exact fun w => SMap.wf_update _ _ w | exact fun w => SMap.wf_filter _ w | exact fun w => wf_writeBytes _ _ w | exact fun _ => rfl | exact fun w => SMap.wf_map_filter (fun e => by split <;> rfl) w | (intro v; try dsimp only)

theorem execKexInit_keeps {z s : State} (cert key : List Byte) (level : Nat) (hk : Keeps z s) : ResKeeps z (execKexInit cert key level s) := by
  unfold execKexInit
  try dsimp only
  repeat' first | with_reducible exact hk | with_reducible exact Keeps.refl _ | with_reducible apply State.useFree_keeps | with_reducible apply State.countFrame_keeps | with_reducible apply State.respond_keeps | with_reducible apply State.openFailed_keeps | with_reducible apply ResKeeps.next | with_reducible apply ResKeeps.ite | with_reducible apply Keeps.ite | split | with_reducible apply Keeps.fields | with_reducible apply Keeps.upd | exact List.prefix_rfl | exact Nat.le_refl _ | exact id | exact fun w => SMap.wf_put _ _ w | exact fun w => SMap.wf_update _ _ w | exact fun w => SMap.wf_filter _ w | exact fun w => wf_writeBytes _ _ w | exact fun _ => rfl | exact fun w => SMap.wf_map_filter (fun e => by split <;> rfl) w | (intro v; try dsimp only)

theorem execKexFinish_keeps {z s : State} (signature : List Byte) (hk : Keeps z s) : ResKeeps z (execKexFinish signature s) := by
  unfold execKexFinish
  try dsimp only
  repeat' first | with_reducible exact hk | with_reducible exact Keeps.refl _ | with_reducible apply State.countFrame_keeps | with_reducible apply State.respond_keeps | with_reducible apply State.openFailed_keeps | with_reducible apply State.openSession_keeps | with_reducible apply ResKeeps.next | with_reducible apply ResKeeps.ite | with_reducible apply Keeps.ite | split | with_reducible apply Keeps.fields | with_reducible apply Keeps.upd | exact List.prefix_rfl | exact Nat.le_refl _ | exact id | exact fun w => SMap.wf_put _ _ w | exact fun w => SMap.wf_update _ _ w | exact fun w => SMap.wf_filter _ w | exact fun w => wf_writeBytes _ _ w | exact fun _ => rfl | exact fun w => SMap.wf_map_filter (fun e => by split <;> rfl) w | (intro v; try dsimp only)

theorem State.resumeSeq_keeps {z s : State} (p : Nat) (hk : Keeps z s) : Keeps z (State.resumeSeq s p) := by
  unfold State.resumeSeq
  try dsimp only
  repeat' first | with_reducible exact hk | with_reducible exact Keeps.refl _ | with_reducible apply State.set_keeps | with_reducible apply State.setSeq_keeps | with_reducible apply State.endHalt_keeps | with_reducible apply State.takeStop_keeps | with_reducible apply State.assertTarget_keeps | with_reducible apply Keeps.ite | split | with_reducible apply Keeps.fields | with_reducible apply Keeps.upd | exact List.prefix_rfl | exact Nat.le_refl _ | exact id | exact fun w => SMap.wf_put _ _ w | exact fun w => SMap.wf_update _ _ w | exact fun w => SMap.wf_filter _ w | exact fun w => wf_writeBytes _ _ w | exact fun _ => rfl | exact fun w => SMap.wf_map_filter (fun e => by split <;> rfl) w | (intro v; try dsimp only)

theorem State.closeSession_keeps {z s : State}  (hk : Keeps z s) : Keeps z (State.closeSession s) := by
  unfold State.closeSession
  try dsimp only
  repeat' first | with_reducible exact hk | with_reducible exact Keeps.refl _ | with_reducible apply State.setReg_keeps | with_reducible apply State.set_keeps | with_reducible apply State.setSeq_keeps | with_reducible apply State.raise_keeps | with_reducible apply State.freezeBlocks_keeps | with_reducible apply State.resumeSeq_keeps | (with_reducible apply State.each_keeps; intro i t; try dsimp only) | with_reducible apply Keeps.ite | split | with_reducible apply Keeps.fields | (intro v; try dsimp only)

theorem execClose_keeps {z s : State}  (hk : Keeps z s) : ResKeeps z (execClose s) := by
  unfold execClose
  with_reducible repeat' first | exact hk | exact Keeps.refl _ | apply State.respond_keeps | apply State.request_keeps | apply State.closeSession_keeps | apply ResKeeps.next | apply ResKeeps.ite | apply Keeps.ite | split | (intro v; try dsimp only)

theorem execSessionIdleTimeout_keeps {z s : State}  (hk : Keeps z s) : ResKeeps z (execSessionIdleTimeout s) := by
  unfold execSessionIdleTimeout
  with_reducible repeat' first | exact hk | exact Keeps.refl _ | apply State.closeSession_keeps | apply ResKeeps.next | apply ResKeeps.ite | apply Keeps.ite | split | (intro v; try dsimp only)

theorem execKill_keeps {z s : State}  (hk : Keeps z s) : ResKeeps z (execKill s) := by
  unfold execKill
  with_reducible repeat' first | exact hk | exact Keeps.refl _ | apply State.closeSession_keeps | apply ResKeeps.next | apply ResKeeps.ite | apply Keeps.ite | split | (intro v; try dsimp only)

theorem execDebugStatus_keeps {z s : State}  (hk : Keeps z s) : ResKeeps z (execDebugStatus s) := by
  unfold execDebugStatus
  with_reducible repeat' first | exact hk | exact Keeps.refl _ | apply State.respond_keeps | apply State.request_keeps | apply ResKeeps.next | apply ResKeeps.ite | apply Keeps.ite | split | (intro v; try dsimp only)

theorem State.beforePeek_keeps {z s : State} (space a n : Nat) (hk : Keeps z s) : Keeps z (State.beforePeek s space a n) := by
  unfold State.beforePeek
  with_reducible repeat' first | exact hk | exact Keeps.refl _ | apply State.senseAll_keeps | apply Keeps.ite | split | (intro v; try dsimp only)

theorem State.afterPeek_keeps {z s : State} (space a n : Nat) (hk : Keeps z s) : Keeps z (State.afterPeek s space a n) := by
  unfold State.afterPeek
  with_reducible repeat' first | exact hk | exact Keeps.refl _ | apply State.useFree_keeps | apply State.hbmTouch_keeps | apply Keeps.ite | split | (intro v; try dsimp only)

theorem execDebugRead_keeps {z s : State} (space : Byte) (addr : W64) (len : Nat) (hk : Keeps z s) : ResKeeps z (execDebugRead space addr len s) := by
  unfold execDebugRead
  try dsimp only
  repeat' first | with_reducible exact hk | with_reducible exact Keeps.refl _ | with_reducible apply State.readEffect_keeps | with_reducible apply State.respond_keeps | with_reducible apply State.request_keeps | with_reducible apply State.beforePeek_keeps | with_reducible apply State.afterPeek_keeps | with_reducible apply ResKeeps.next | (with_reducible apply Keeps.foldl; intro t x; try dsimp only) | (with_reducible apply Keeps.foldl_fst; intro t x; try dsimp only) | with_reducible apply ResKeeps.ite | with_reducible apply Keeps.ite | split | with_reducible apply Keeps.fields | with_reducible apply Keeps.upd | exact List.prefix_rfl | exact Nat.le_refl _ | exact id | exact fun w => SMap.wf_put _ _ w | exact fun w => SMap.wf_update _ _ w | exact fun w => SMap.wf_filter _ w | exact fun w => wf_writeBytes _ _ w | exact fun _ => rfl | exact fun w => SMap.wf_map_filter (fun e => by split <;> rfl) w | (intro v; try dsimp only)

theorem State.freezeTurfs_keeps {z s : State} (v : W64) (hk : Keeps z s) : Keeps z (State.freezeTurfs s v) := by
  unfold State.freezeTurfs
  try dsimp only
  repeat' first | with_reducible exact hk | with_reducible exact Keeps.refl _ | with_reducible apply State.setReg_keeps | with_reducible apply Keeps.ite | split | with_reducible apply Keeps.fields | (intro v; try dsimp only)

theorem State.sessionFreeze_keeps {z s : State} (v : Nat) (hk : Keeps z s) : Keeps z (State.sessionFreeze s v) := by
  unfold State.sessionFreeze
  try dsimp only
  repeat' first | with_reducible exact hk | with_reducible exact Keeps.refl _ | with_reducible apply State.freezeBlocks_keeps | with_reducible apply Keeps.ite | split | with_reducible apply Keeps.fields | (intro v; try dsimp only)

theorem execTurfFreeze_keeps {z s : State} (mask : W64) (hk : Keeps z s) : ResKeeps z (execTurfFreeze mask s) := by
  unfold execTurfFreeze
  with_reducible repeat' first | exact hk | exact Keeps.refl _ | apply State.respond_keeps | apply State.request_keeps | apply State.freezeTurfs_keeps | apply ResKeeps.next | apply ResKeeps.ite | apply Keeps.ite | split | (intro v; try dsimp only)

theorem execTurfUnfreeze_keeps {z s : State} (mask : W64) (hk : Keeps z s) : ResKeeps z (execTurfUnfreeze mask s) := by
  unfold execTurfUnfreeze
  with_reducible repeat' first | exact hk | exact Keeps.refl _ | apply State.respond_keeps | apply State.request_keeps | apply State.freezeTurfs_keeps | apply ResKeeps.next | apply ResKeeps.ite | apply Keeps.ite | split | (intro v; try dsimp only)

theorem execBlockFreeze_keeps {z s : State} (value : W32) (hk : Keeps z s) : ResKeeps z (execBlockFreeze value s) := by
  unfold execBlockFreeze
  with_reducible repeat' first | exact hk | exact Keeps.refl _ | apply State.respond_keeps | apply State.request_keeps | apply State.sessionFreeze_keeps | apply ResKeeps.next | apply ResKeeps.ite | apply Keeps.ite | split | (intro v; try dsimp only)

theorem State.debugWord_keeps {z s : State} (off v : Nat) (hk : Keeps z s) : Keeps z (State.debugWord s off v) := by
  unfold State.debugWord
  with_reducible repeat' first | exact hk | exact Keeps.refl _ | apply State.set_keeps | apply State.wordWrite_keeps | apply State.freezeTurfs_keeps | apply State.sessionFreeze_keeps | apply Keeps.ite | split | (intro v; try dsimp only)

theorem State.debugWords_keeps {z s : State} (f : State → Nat → Nat → State) (a : Nat) (bs : List Byte) (hb : ∀ t i j, Keeps t (f t i j)) (hk : Keeps z s) : Keeps z (State.debugWords s f a bs) := by
  unfold State.debugWords
  try dsimp only
  with_reducible repeat' first | exact hk | exact Keeps.refl _ | apply State.set_keeps | (apply Keeps.foldl; intro t x; try dsimp only) | (apply Keeps.foldl_fst; intro t x; try dsimp only) | apply Keeps.ite | refine Keeps.trans ?_ (hb _ _ _) | split | (intro v; try dsimp only)

theorem State.putHearthByte_keeps {z s : State} (o : Nat) (b : Byte) (hk : Keeps z s) : Keeps z (State.putHearthByte s o b) := by
  unfold State.putHearthByte
  try dsimp only
  repeat' first | with_reducible exact hk | with_reducible exact Keeps.refl _ | with_reducible apply State.hearthWrite_keeps | with_reducible apply Keeps.ite | split | with_reducible apply Keeps.fields | with_reducible apply Keeps.upd | exact List.prefix_rfl | exact Nat.le_refl _ | exact id | exact fun w => SMap.wf_put _ _ w | exact fun w => SMap.wf_update _ _ w | exact fun w => SMap.wf_filter _ w | exact fun w => wf_writeBytes _ _ w | exact fun _ => rfl | exact fun w => SMap.wf_map_filter (fun e => by split <;> rfl) w | (intro v; try dsimp only)

theorem State.putSeqWord_keeps {z s : State} (a v : Nat) (hk : Keeps z s) : Keeps z (State.putSeqWord s a v) := by
  unfold State.putSeqWord
  try dsimp only
  repeat' first | with_reducible exact hk | with_reducible exact Keeps.refl _ | with_reducible apply State.setReg_keeps | with_reducible apply State.set_keeps | with_reducible apply State.setSeq_keeps | with_reducible apply State.setRsv_keeps | with_reducible apply State.setFlc_keeps | with_reducible apply Keeps.ite | split | with_reducible apply Keeps.fields | (intro v; try dsimp only)

theorem State.poke_keeps {s t : State} (space at_ : Nat) (bs : List Byte) (h : s.poke space at_ bs = .ok t) : Keeps s t := by
  unfold State.poke at h
  dsimp only at h
  split at h
  · repeat' split at h
    all_goals first | cases h | skip
    exact State.debugWords_keeps _ _ _ (fun t w v => State.debugWord_keeps _ _ (Keeps.refl t)) (Keeps.refl s)
  · split at h <;> cases h
    exact Keeps.foldl (fun t i => State.putHearthByte_keeps _ _ (Keeps.refl t)) _ (Keeps.refl s)
  · split at h <;> cases h
    exact Keeps.ite (State.hbmWrite_keeps _ _ (Keeps.refl s)) (Keeps.refl s)
  · split at h
    · cases h
    · split at h <;> cases h
      exact Keeps.foldl (fun t i => State.writeRow_keeps _ (Keeps.refl t)) _ (Keeps.refl s)
  · cases h
  · cases h
  · cases h
  · repeat' split at h
    all_goals first | cases h | skip
    exact State.debugWords_keeps _ _ _ (fun t w v => State.putSeqWord_keeps _ _ (Keeps.refl t)) (Keeps.refl s)
  · cases h

theorem execDebugWrite_keeps {z s : State} (space : Byte) (addr : W64) (data : List Byte) (hk : Keeps z s) :
    ResKeeps z (execDebugWrite space addr data s) := by
  refine ResKeeps.next (State.request_keeps 2 _ ?_ hk)
  intro t
  refine Keeps.ite (State.respond_keeps _ _ (Keeps.refl t)) ?_
  split
  · exact State.respond_keeps _ _ (State.poke_keeps _ _ _ (by assumption))
  · exact State.respond_keeps _ _ (Keeps.refl t)

theorem State.askHalt_keeps {z s : State} (p : Nat) (hk : Keeps z s) : Keeps z (State.askHalt s p) := by
  unfold State.askHalt
  try dsimp only
  repeat' first | with_reducible exact hk | with_reducible exact Keeps.refl _ | with_reducible apply State.setSeq_keeps | with_reducible apply State.haltSeq_keeps | with_reducible apply State.takeStop_keeps | with_reducible apply Keeps.ite | split | with_reducible apply Keeps.fields | (intro v; try dsimp only)

theorem execDebugHalt_keeps {z s : State} (mask : BitVec 4) (hk : Keeps z s) : ResKeeps z (execDebugHalt mask s) := by
  unfold execDebugHalt
  with_reducible repeat' first | exact hk | exact Keeps.refl _ | apply State.respond_keeps | apply State.request_keeps | apply State.askHalt_keeps | apply ResKeeps.next | (apply State.each_keeps; intro i t; try dsimp only) | apply ResKeeps.ite | apply Keeps.ite | split | (intro v; try dsimp only)

theorem execDebugResume_keeps {z s : State} (mask : BitVec 4) (hk : Keeps z s) : ResKeeps z (execDebugResume mask s) := by
  unfold execDebugResume
  with_reducible repeat' first | exact hk | exact Keeps.refl _ | apply State.respond_keeps | apply State.request_keeps | apply State.resumeSeq_keeps | apply ResKeeps.next | (apply State.each_keeps; intro i t; try dsimp only) | apply ResKeeps.ite | apply Keeps.ite | split | (intro v; try dsimp only)

theorem execDebugStep_keeps {z s : State} (p : SeqId) (hk : Keeps z s) : ResKeeps z (execDebugStep p s) := by
  unfold execDebugStep
  try dsimp only
  repeat' first | with_reducible exact hk | with_reducible exact Keeps.refl _ | with_reducible apply State.set_keeps | with_reducible apply State.setSeq_keeps | with_reducible apply State.respond_keeps | with_reducible apply State.request_keeps | with_reducible apply ResKeeps.next | with_reducible apply ResKeeps.ite | with_reducible apply Keeps.ite | split | with_reducible apply Keeps.fields | (intro v; try dsimp only)

theorem execDebugReset_keeps {z s : State} (reach : BitVec 3) (target : Byte) (hk : Keeps z s) : ResKeeps z (execDebugReset reach target s) := by
  unfold execDebugReset
  with_reducible repeat' first | exact hk | exact Keeps.refl _ | apply State.requestReset_keeps | apply State.respond_keeps | apply State.request_keeps | apply ResKeeps.next | apply ResKeeps.ite | apply Keeps.ite | split | (intro v; try dsimp only)

end Sys2Proof.Machine
end

