-- ==== Sys2Proof/Laws/KeepsEvents.lean ====
section
/-!
SUPPORT. What each operation of Machine/Events.lean keeps.
-/
namespace Sys2Proof.Machine

theorem execEventEnable_keeps {z s : State} (i : Fin 1024) (value : W32) (hk : Keeps z s) : ResKeeps z (execEventEnable i value s) := by
  unfold execEventEnable
  try dsimp only
  with_reducible repeat' first | exact hk | exact Keeps.refl _ | apply State.setReg_keeps | apply State.message_keeps | apply ResKeeps.next | apply ResKeeps.ite | apply Keeps.ite | split | (intro v; try dsimp only)

theorem execPendingClear_keeps {z s : State} (j : Fin 32) (mask : W32) (hk : Keeps z s) : ResKeeps z (execPendingClear j mask s) := by
  unfold execPendingClear
  try dsimp only
  with_reducible repeat' first | exact hk | exact Keeps.refl _ | apply State.setReg_keeps | apply ResKeeps.next | apply ResKeeps.ite | apply Keeps.ite | split | (intro v; try dsimp only)

theorem execVectorUnmask_keeps {z s : State} (fn : Fin 5) (vec : Fin 256) (hk : Keeps z s) : ResKeeps z (execVectorUnmask fn vec s) := by
  unfold execVectorUnmask
  try dsimp only
  repeat' first | with_reducible exact hk | with_reducible exact Keeps.refl _ | with_reducible apply State.sendHeld_keeps | with_reducible apply ResKeeps.next | with_reducible apply ResKeeps.ite | with_reducible apply Keeps.ite | split | with_reducible apply Keeps.fields | (intro v; try dsimp only)

theorem execWaitFlagMirrorWrite_keeps {z s : State} (p : SeqId) (hk : Keeps z s) : ResKeeps z (execWaitFlagMirrorWrite p s) := by
  unfold execWaitFlagMirrorWrite
  with_reducible repeat' first | exact hk | exact Keeps.refl _ | apply State.mirrored_keeps | apply State.hearthWrite_keeps | apply ResKeeps.next | apply ResKeeps.ite | apply Keeps.ite | split | (intro v; try dsimp only)

theorem State.startDialog_keeps {z s : State}  (hk : Keeps z s) : Keeps z (State.startDialog s) := by
  unfold State.startDialog
  try dsimp only
  repeat' first | with_reducible exact hk | with_reducible exact Keeps.refl _ | with_reducible apply Keeps.ite | split | with_reducible apply Keeps.fields | (intro v; try dsimp only)

theorem execPtmTrigger_keeps {z s : State}  (hk : Keeps z s) : ResKeeps z (execPtmTrigger s) := by
  unfold execPtmTrigger
  with_reducible repeat' first | exact hk | exact Keeps.refl _ | apply State.startDialog_keeps | apply ResKeeps.next | apply ResKeeps.ite | apply Keeps.ite | split | (intro v; try dsimp only)

theorem execPtmPeriodExpiry_keeps {z s : State}  (hk : Keeps z s) : ResKeeps z (execPtmPeriodExpiry s) := by
  unfold execPtmPeriodExpiry
  with_reducible repeat' first | exact hk | exact Keeps.refl _ | apply State.startDialog_keeps | apply ResKeeps.next | apply ResKeeps.ite | apply Keeps.ite | split | (intro v; try dsimp only)

theorem execPtmDialogComplete_keeps {z s : State} (t : W64) (hk : Keeps z s) : ResKeeps z (execPtmDialogComplete t s) := by
  unfold execPtmDialogComplete
  try dsimp only
  repeat' first | with_reducible exact hk | with_reducible exact Keeps.refl _ | with_reducible apply State.set_keeps | with_reducible apply ResKeeps.next | with_reducible apply ResKeeps.ite | with_reducible apply Keeps.ite | split | with_reducible apply Keeps.fields | (intro v; try dsimp only)

theorem execCompletionTimeout_keeps {z s : State} (r : Requester) (hk : Keeps z s) : ResKeeps z (execCompletionTimeout r s) := by
  unfold execCompletionTimeout
  try dsimp only
  repeat' first | with_reducible exact hk | with_reducible exact Keeps.refl _ | with_reducible apply State.send_keeps | with_reducible apply State.endTransfer_keeps | with_reducible apply State.dmaError_keeps | with_reducible apply State.dmaDesc_keeps | with_reducible apply ResKeeps.next | with_reducible apply ResKeeps.ite | with_reducible apply Keeps.ite | split | with_reducible apply Keeps.fields | with_reducible apply Keeps.upd | exact List.prefix_rfl | exact Nat.le_refl _ | exact id | exact fun w => SMap.wf_put _ _ w | exact fun w => SMap.wf_update _ _ w | exact fun w => SMap.wf_filter _ w | exact fun w => wf_writeBytes _ _ w | exact fun _ => rfl | exact fun w => SMap.wf_map_filter (fun e => by split <;> rfl) w | (intro v; try dsimp only)

end Sys2Proof.Machine
end

