-- ==== Sys2Proof/Laws/KeepsRepair.lean ====
section
/-!
SUPPORT. What each operation of Machine/Repair.lean keeps.
-/
namespace Sys2Proof.Machine

theorem State.repairCode_keeps {z s : State} (c : Nat) (hk : Keeps z s) : Keeps z (State.repairCode s c) := by
  unfold State.repairCode
  with_reducible repeat' first | exact hk | exact Keeps.refl _ | apply State.set_keeps | apply Keeps.ite | split | (intro v; try dsimp only)

theorem State.appendSoft_keeps {z s : State} (retire : Bool) (tile col : Nat) (hk : Keeps z s) : Keeps z (State.appendSoft s retire tile col) := by
  unfold State.appendSoft
  try dsimp only
  repeat' first | with_reducible exact hk | with_reducible exact Keeps.refl _ | with_reducible apply State.retire_keeps | with_reducible apply Keeps.ite | split | with_reducible apply Keeps.fields | (intro v; try dsimp only)

theorem State.loseTile_keeps {z s : State} (k : Nat) (hk : Keeps z s) : Keeps z (State.loseTile s k) := by
  unfold State.loseTile
  try dsimp only
  repeat' first | with_reducible exact hk | with_reducible exact Keeps.refl _ | with_reducible apply State.useFree_keeps | with_reducible apply Keeps.ite | split | with_reducible apply Keeps.fields | with_reducible apply Keeps.upd | exact List.prefix_rfl | exact Nat.le_refl _ | exact id | exact fun w => SMap.wf_put _ _ w | exact fun w => SMap.wf_update _ _ w | exact fun w => SMap.wf_filter _ w | exact fun w => wf_writeBytes _ _ w | exact fun _ => rfl | exact fun w => SMap.wf_map_filter (fun e => by split <;> rfl) w | (intro v; try dsimp only)

theorem execColumnRepair_keeps {z s : State} (tile : TileId) (col : BitVec 6) (hk : Keeps z s) : ResKeeps z (execColumnRepair tile col s) := by
  unfold execColumnRepair
  try dsimp only
  with_reducible repeat' first | exact hk | exact Keeps.refl _ | apply State.set_keeps | apply State.repairCode_keeps | apply State.appendSoft_keeps | apply State.loseTile_keeps | apply ResKeeps.next | apply ResKeeps.ite | apply Keeps.ite | split | (intro v; try dsimp only)

theorem execRetire_keeps {z s : State} (tile : TileId) (hk : Keeps z s) : ResKeeps z (execRetire tile s) := by
  unfold execRetire
  try dsimp only
  with_reducible repeat' first | exact hk | exact Keeps.refl _ | apply State.retireTurf_keeps | apply State.repairCode_keeps | apply State.appendSoft_keeps | apply ResKeeps.next | apply ResKeeps.ite | apply Keeps.ite | split | (intro v; try dsimp only)

theorem execMarchTestStart_keeps {z s : State} (t : TurfId) (preserving : Bool) (hk : Keeps z s) : ResKeeps z (execMarchTestStart t preserving s) := by
  unfold execMarchTestStart
  try dsimp only
  repeat' first | with_reducible exact hk | with_reducible exact Keeps.refl _ | with_reducible apply State.set_keeps | with_reducible apply State.switchOn_keeps | with_reducible apply ResKeeps.next | with_reducible apply ResKeeps.ite | with_reducible apply Keeps.ite | split | with_reducible apply Keeps.fields | (intro v; try dsimp only)

theorem execMarchTestEnd_keeps {z s : State} (t : TurfId) (psave : Bool) (tiles : List (Nat × MarchTile)) (hk : Keeps z s) : ResKeeps z (execMarchTestEnd t psave tiles s) := by
  unfold execMarchTestEnd
  try dsimp only
  repeat' first | with_reducible exact hk | with_reducible exact Keeps.refl _ | with_reducible apply State.set_keeps | with_reducible apply State.raise_keeps | with_reducible apply State.marchResult_keeps | with_reducible apply ResKeeps.next | with_reducible apply ResKeeps.ite | with_reducible apply Keeps.ite | split | with_reducible apply Keeps.fields | with_reducible apply Keeps.upd | exact List.prefix_rfl | exact Nat.le_refl _ | exact id | exact fun w => SMap.wf_put _ _ w | exact fun w => SMap.wf_update _ _ w | exact fun w => SMap.wf_filter _ w | exact fun w => wf_writeBytes _ _ w | exact fun _ => rfl | exact fun w => SMap.wf_map_filter (fun e => by split <;> rfl) w | (intro v; try dsimp only)

theorem State.rcmdFail_keeps {z s : State} (k : Packet) (code : Nat) (hk : Keeps z s) : Keeps z (State.rcmdFail s k code) := by
  unfold State.rcmdFail
  with_reducible repeat' first | exact hk | exact Keeps.refl _ | apply State.fabErr_keeps | apply State.fabricErr_keeps | apply Keeps.ite | split | (intro v; try dsimp only)

theorem execRcmd_keeps {z s0 : State} (pkt : Packet) (hk : Keeps z s0) : ResKeeps z (execRcmd pkt s0) := by
  unfold execRcmd
  try dsimp only
  repeat' first | with_reducible exact hk | with_reducible exact Keeps.refl _ | with_reducible apply State.showEngine_keeps | with_reducible apply State.rcmdFail_keeps | with_reducible apply ResKeeps.next | with_reducible apply ResKeeps.ite | with_reducible apply Keeps.ite | split | with_reducible apply Keeps.fields | (intro v; try dsimp only)

theorem State.rcmdAct_keeps {z s : State} (r : Rcmd) (hk : Keeps z s) : Keeps z (State.rcmdAct s r) := by
  unfold State.rcmdAct
  try dsimp only
  repeat' first | with_reducible exact hk | with_reducible exact Keeps.refl _ | with_reducible apply State.holdFence_keeps | with_reducible apply State.assertModule_keeps | with_reducible apply State.showEngine_keeps | (with_reducible apply State.each_keeps; intro i t; try dsimp only) | with_reducible apply Keeps.ite | split | with_reducible apply Keeps.fields | (intro v; try dsimp only)

theorem execRcmdVerified_keeps {z s : State} (_good : Bool) (hk : Keeps z s) : ResKeeps z (execRcmdVerified _good s) := by
  unfold execRcmdVerified
  try dsimp only
  repeat' first | with_reducible exact hk | with_reducible exact Keeps.refl _ | with_reducible apply State.set_keeps | with_reducible apply State.fabricAnswer_keeps | with_reducible apply State.showEngine_keeps | with_reducible apply State.forward_keeps | with_reducible apply State.rcmdFail_keeps | with_reducible apply State.rcmdAct_keeps | with_reducible apply ResKeeps.next | with_reducible apply ResKeeps.ite | with_reducible apply Keeps.ite | split | with_reducible apply Keeps.fields | with_reducible apply Keeps.upd | exact List.prefix_rfl | exact Nat.le_refl _ | exact id | exact fun w => SMap.wf_put _ _ w | exact fun w => SMap.wf_update _ _ w | exact fun w => SMap.wf_filter _ w | exact fun w => wf_writeBytes _ _ w | exact fun _ => rfl | exact fun w => SMap.wf_map_filter (fun e => by split <;> rfl) w | (intro v; try dsimp only)

end Sys2Proof.Machine
end

