-- ==== Sys2Proof/Laws/KeepsSmbus.lean ====
section
/-!
SUPPORT. What each operation of Machine/Smbus.lean keeps.
-/
namespace Sys2Proof.Machine

theorem execSmbusStatus_keeps {z s : State}  (hk : Keeps z s) : ResKeeps z (execSmbusStatus s) := by
  unfold execSmbusStatus
  with_reducible repeat' first | exact hk | exact Keeps.refl _ | apply State.send_keeps | apply ResKeeps.next | apply ResKeeps.ite | apply Keeps.ite | split | (intro v; try dsimp only)

theorem execSmbusTemp_keeps {z s : State}  (hk : Keeps z s) : ResKeeps z (execSmbusTemp s) := by
  unfold execSmbusTemp
  with_reducible repeat' first | exact hk | exact Keeps.refl _ | apply State.send_keeps | apply ResKeeps.next | apply ResKeeps.ite | apply Keeps.ite | split | (intro v; try dsimp only)

theorem execSmbusPower_keeps {z s : State}  (hk : Keeps z s) : ResKeeps z (execSmbusPower s) := by
  unfold execSmbusPower
  with_reducible repeat' first | exact hk | exact Keeps.refl _ | apply State.send_keeps | apply ResKeeps.next | apply ResKeeps.ite | apply Keeps.ite | split | (intro v; try dsimp only)

theorem execSmbusSerial_keeps {z s : State}  (hk : Keeps z s) : ResKeeps z (execSmbusSerial s) := by
  unfold execSmbusSerial
  with_reducible repeat' first | exact hk | exact Keeps.refl _ | apply State.send_keeps | apply ResKeeps.next | apply ResKeeps.ite | apply Keeps.ite | split | (intro v; try dsimp only)

theorem execAshlast_keeps {z s : State}  (hk : Keeps z s) : ResKeeps z (execAshlast s) := by
  unfold execAshlast
  try dsimp only
  with_reducible repeat' first | exact hk | exact Keeps.refl _ | apply State.send_keeps | apply ResKeeps.next | apply ResKeeps.ite | apply Keeps.ite | split | (intro v; try dsimp only)

theorem execSmbusUnknownCommand_keeps {z s : State} (code : Byte) (hk : Keeps z s) : ResKeeps z (execSmbusUnknownCommand code s) := by
  unfold execSmbusUnknownCommand
  with_reducible repeat' first | exact hk | exact Keeps.refl _ | apply State.send_keeps | apply ResKeeps.next | apply ResKeeps.ite | apply Keeps.ite | split | (intro v; try dsimp only)

end Sys2Proof.Machine
end

