-- ==== Sys2Proof/Tests/Slice0.lean ====
section
/-!
SUPPORT. Tests of the model: ill-formed commands, single steps on small states with values of the manual, and, for every statement of
Certificates/Slice0/Obligations.lean, a state and operands that meet its hypotheses, clause by clause.
-/
namespace Sys2Proof.Tests
open Sys2Proof Sys2Proof.Machine
-- One kernel evaluation after another: side by side they take more threads than the check's memory limit allows.
set_option Elab.async false

/-! ## Small states -/

/-- `s` with register fields set. -/
def with_ (s : State) (l : List (Field × Nat)) : State := l.foldl (fun t e => t.set e.1 e.2) s
/-- The state after reset with register fields set. -/
def on (l : List (Field × Nat)) : State := with_ State.reset l
/-- Sequencer 0 Running, the 64-bit word `w` at its PC, and register fields set. -/
def code (w : Nat) (l : List (Field × Nat)) : State :=
  { with_ (on [(Reg.SEQ_STATE_STATE 0, 1)]) l with imem := writeBytes [] 0 (leBytes 16 w) }
/-- A short unit: MAJ and the bits above it (R158). -/
def short (maj rest : Nat) : Nat := 2 * maj + 128 * rest
/-- A long unit: MAJ, SZ, MOD, D, A and B (R158). -/
def long (maj sz md d a b : Nat) : Nat := 1 + 4 * maj + 256 * sz + 1024 * md + 65536 * d + 2 ^ 32 * a + 2 ^ 48 * b
/-- A long array unit: AOP, KW, D, X and Y (R158). -/
def body (aop kw d x y : Nat) : Nat := 3 + 4 * aop + 4096 * kw + 65536 * d + 2 ^ 32 * x + 2 ^ 48 * y
/-- The 16-bit specifier IMM `v` (R159). -/
def imm (v : Nat) : Nat := 0xE000 + v
/-- Whether an answer is that value. -/
def gives {ε α : Type} [DecidableEq α] (e : Except ε α) (a : α) : Bool := match e with | .ok b => decide (b = a) | .error _ => false
/-- Whether an answer is a value at all. -/
def good {ε α : Type} (e : Except ε α) : Bool := match e with | .ok _ => true | .error _ => false
/-- Whether it is the turn of an instruction `m` of sequencer 0, no write of the system port being next to its own. -/
def at_ (m : Mn) (s : State) : Bool := s.ready 0 && s.calm && decide ((s.nextInstr 0).map (·.mn) = some m)
/-- The instruction of sequencer 0 whose turn it is. -/
def ins (s : State) : SeqInstr := (s.nextInstr 0).getD (SeqInstr.short0 .nop 0)
/-- A property of the state that a command gives. -/
def after (i : Instr) (s : State) (p : State → Bool) : Bool := match exec i s with | .next t => p t | _ => false
/-- Partition 0 with turf 0 in service. -/
def part0 : List (Field × Nat) := [(Reg.TRF_CFG_ASSIGNED 0, 1), (Reg.TRF_STATE_STATE 0, 1)]

/-! ## Witnesses: the block, the array -/

theorem witness_StepKeepsMemoriesCanonical : State.reset.memWf = true ∧ ∃ t, step State.reset = .next t := ⟨by decide +kernel, _, rfl⟩

theorem witness_CommandsAlwaysComplete : State.reset.pending = [] ∧ ∃ t, exec (.start 0) State.reset = .next t := ⟨rfl, _, rfl⟩

/-- NVM_SRC, an RW register, written at its last offset 0x308004; and the last word below 64 MiB, which is reserved. -/
theorem witness_RegisterWriteFollowsAccessCodes : ∃ r a b start high, findWord 0x308004 = some (r, a, b, start, high) ∧
    State.reset.serves 0x308004 = true ∧ msixWord 0x308004 = none ∧ State.reset.spineBad = false ∧ barredSource start = false ∧ State.reset.barredChannel start = false ∧
    (∀ o t, State.afterWrite o t start = t) ∧ r.fields.Pairwise (fun f g => f.hi < g.lo ∨ g.hi < f.lo) ∧
    (∀ f ∈ r.fields, f.lo ≤ f.hi ∧ f.hi < 64) ∧ fieldMask (if high then 63 else 31) (if high then 32 else 0) &&& r.cmtMask = 0 :=
  ⟨_, _, _, _, _, rfl, by decide +kernel, by decide +kernel, rfl, by decide +kernel, by decide +kernel, fun _ _ => rfl, by decide +kernel,
    by decide +kernel, by decide +kernel⟩

/-- An access that a CRC error on the spine fails. -/
theorem witness_RegisterWriteFollowsAccessCodes_spine : ({ State.reset with spineBad := true } : State).spineBad = true ∧
    barAccess 0x3FFFFFC 4 = true := by decide

/-- HST_SIFSRC, whose fields are CMT, with the loader Idle and not Idle. -/
theorem witness_RegisterWriteFollowsAccessCodes_shadow : ∃ r a b start high, findWord 0x2000004 = some (r, a, b, start, high) ∧
    State.reset.serves 0x2000004 = true ∧ msixWord 0x2000004 = none ∧ barredSource start = false ∧ State.reset.barredChannel start = false ∧
    (∀ o t, State.afterWrite o t start = t) ∧ r.fields.Pairwise (fun f g => f.hi < g.lo ∨ g.hi < f.lo) ∧
    (∀ f ∈ r.fields, f.lo ≤ f.hi ∧ f.hi < 64) ∧ fieldMask (if high then 63 else 31) (if high then 32 else 0) &&& r.cmtMask ≠ 0 ∧
    start ≠ Reg.HST_SIFSTAT_IGNW.off ∧ State.reset.get Reg.HST_SIFSTAT_STATE = 0 ∧ (on [(Reg.HST_SIFSTAT_STATE, 1)]).get Reg.HST_SIFSTAT_STATE ≠ 0 :=
  ⟨_, _, _, _, _, rfl, by decide +kernel, by decide +kernel, by decide +kernel, by decide +kernel, fun _ _ => rfl, by decide +kernel, by decide +kernel,
    by decide +kernel, by decide +kernel, by decide +kernel, by decide +kernel⟩

theorem witness_RegisterReadReturnsThenClears : (∃ r a b start high, findWord 0x2000028 = some (r, a, b, start, high) ∧
      msixWord 0x2000028 = none ∧ ¬(0x209000 ≤ 0x2000028 ∧ 0x2000028 < 0x209020) ∧ r.fields.Pairwise (fun f g => f.hi < g.lo ∨ g.hi < f.lo) ∧
      (∀ f ∈ r.fields, f.lo ≤ f.hi ∧ f.hi < 64) ∧ reportsDevice start = false ∧
      ∀ x ∈ [0x2000028, start], (State.reset.sense start).serves x = true ∧ crxqAt x = none ∧ x ≠ Reg.EDG_RBDATA_DATA.off ∧
        x ≠ Reg.NVM_RDDATA_DATA.off ∧ x ≠ Reg.RST_RECLOG_ENTRY.off) ∧
    State.reset.flag Reg.RST_BOOT_FWFAIL = false ∧ State.reset.moduleReset = false ∧ State.reset.reg Reg.RST_RECLOG_ENTRY.off = State.reset.recLog.headD 0 ∧
    findWord 0x3FFFFFC = none ∧ msixWord 0x3FFFFFC = none ∧ crxqAt 0x3FFFFFC = none :=
  ⟨⟨_, _, _, _, _, rfl, by decide +kernel, by decide +kernel, by decide +kernel, by decide +kernel, by decide +kernel, by decide +kernel⟩,
    by decide +kernel, by decide +kernel, by decide +kernel, by decide +kernel, by decide +kernel, by decide +kernel⟩

theorem witness_ShadowWriteIsHeldForCommit : ∃ r a b, findReg 0x2000004 = some (r, a, b) ∧ (∀ f ∈ r.fields, f.lo ≤ f.hi ∧ f.hi < 64) ∧ r.fields.any (·.cmt) = true ∧
    State.reset.get Reg.HST_SIFSTAT_STATE = 0 ∧ (on [(Reg.HST_SIFSTAT_STATE, 1)]).get Reg.HST_SIFSTAT_STATE ≠ 0 :=
  ⟨_, _, _, rfl, by decide +kernel, by decide +kernel, by decide +kernel, by decide +kernel⟩

/-- ADD D = 16, X = 0, Y = 8 with lengths 8; RCNT of C to word 0; both on turf 0. -/
def addCode : State := code (body 0x020 0 16 0 8) ((Reg.SEQ_LEN_FLA 0, 8) :: (Reg.SEQ_LEN_FLB 0, 8) :: part0)
def rcntCode : State := code (body 0x0D0 0 (imm 0) (imm 0) 1) part0

/-- Whether the instruction is at its turn with its quantities, no patch for its AOP, steps or none, and the bursts of the ROM `n`. -/
def arrayCase (m : Mn) (s : State) (empty : Bool) (n : Nat) : Bool :=
  at_ m s && !s.patchedAop 0 (ins s).aop && (match s.dispatch 0 m (ins s) with
    | .ok D => decide (s.noSteps 0 m D = empty) && decide ((if (s.part 0).stopped then [] else romBursts m D 0).length = n)
    | .error _ => false)

/-- An instruction with one burst, with none once the service has stopped, with two, and without steps. -/
theorem witness_ArrayInstructionTakesEffect : arrayCase .add addCode false 1 = true ∧
    arrayCase .add (addCode.setPart 0 { Part.reset with stopped := true }) false 0 = true ∧
    arrayCase .rcnt rcntCode false 1 = true ∧
    arrayCase .extu (code (body 0x002 0 16 0 0) ((Reg.SEQ_LEN_FLA 0, 8) :: (Reg.SEQ_LEN_FLB 0, 16) :: part0)) false 2 = true ∧
    arrayCase .rcnt (code (body 0x0D0 0 (imm 0) (imm 0) 1) []) true 1 = true := by decide +kernel

/-- Dispatch quantities of 8-bit fields: X at 0, Y at 8, D at 16 with `ld` digits (R206). -/
def dsp (ld : Nat) : Dispatch :=
  ⟨0x020, 0, some 0, some 8, none, some 16, 8, 8, ld, 8, 0, 0, 0, 0, false, 0, 0, false, 0, ⟨8, 24⟩, ⟨8, 24⟩, 0, 0⟩
/-- PE 0 holds X = 0 and Y = 3. -/
def y3 : State := { State.reset with peMem := [(0, 0x300)] }
/-- PE 0 has K = 0. -/
def noK : PeRegs := ⟨false, false, false, false, false, false, false, 0⟩

theorem witness_ArrayIntegerResultsAreWritten : 0 % 2 ^ (dsp 8).kw = 0 ∧ (dsp 8).d = some 16 ∧ (dsp 8).ld ≤ 8192 ∧
    (∀ j, j < 2 ^ (dsp 8).kw → (y3.pe (0 + j)).k = true) ∧ (dsp 16).ld = (dsp 16).lx + (dsp 16).ly ∧ (dsp 16).ld = 2 * (dsp 16).lx ∧
    fieldWord 1 (y3.bundleMem 1 0) (dsp 16).y 8 ≠ 0 ∧ fieldWord 1 (State.reset.bundleMem 1 0) (dsp 16).y 8 = 0 := by decide +kernel

theorem witness_DivisionEdgeResults : (0 < 8 ∧ 200 < 2 ^ 8 ∧ 255 < 2 ^ 8 ∧ 128 = 2 ^ (8 - 1) ∧ 255 = 2 ^ 8 - 1 ∧ 1 < 8) ∧
    0 % 2 ^ (dsp 16).kw = 0 ∧ 0 < 2 ^ (dsp 16).kw ∧ ∀ j, j < 2 ^ (dsp 16).kw → (State.reset.pe (0 + j)).k = true := by decide +kernel

theorem witness_PesWithoutKWriteNothing : (([noK].getD 0 PeRegs.reset).k = false) ∧
    (({ State.reset with pes := [(0, noK)] } : State).pe 0).k = false := by decide +kernel

/-- Partition 0 with a Flue result. -/
def flueState (f : FlueResult) : State := State.reset.setPart 0 { Part.reset with results := [f] }

theorem witness_FlueCombinesExactly : ([3, 0] ≠ [] ∧ (∀ v ∈ [3, 0], v < 2 ^ 2) ∧ 0 < 2) ∧
    ∀ f ∈ [(⟨0, 1, some true, 0, [], false⟩ : FlueResult), ⟨0, 1, none, 0, [7], false⟩, ⟨0, 1, none, 0, [7], true⟩],
      (flueState f).part 0 = { Part.reset with results := [f] } ∧ (flueState f).stepsHeld 0 = false ∧ (flueState f).calm = true := by decide +kernel

/-- A burst of one step of width code `w`. -/
def burst (w : Nat) : Burst := ⟨0, 1, 0, 0, 0, 0, 0, 0, 0, w, 0, 0, false⟩
/-- IDLE 3. -/
def idleCode : State := code (body 0x000 0 (imm 0) (imm 0) (imm 3)) part0
/-- Turf 0 in service, and bursts of partition 0 in its stages. -/
def bursts (issue draught buffer : List Burst) : State := (on part0).setPart 0 { Part.reset with issue := issue, draught := draught, buffer := buffer }

/-- A microroutine of sequencer 0 that has the bursts `todo` still to hand over, and ends with them or goes on. -/
def mic (todo : List Burst) (ends : Bool) : Micro := ⟨dsp 8, 0, none, [], none, none, none, 0, 0, 0, 0, 8, false, todo, ends, []⟩
def under (s : State) (u : Micro) : State := s.setSeq 0 { Seq.reset with micro := some u }

theorem witness_BurstsTravelToTheBuffers : (at_ .idle idleCode = true ∧ good (idleCode.dispatch 0 .idle (ins idleCode)) = true ∧
    idleCode.patchedAop 0 (ins idleCode).aop = false ∧ (idleCode.part 0).stopped = false) ∧
    (let s := bursts [burst 0] [] []; (s.part 0).issue = [burst 0] ∧ (s.part 0).draught.length + (s.part 0).buffer.length < 64 ∧
      s.stepsHeld 0 = false ∧ (∀ o ∈ (s.part 0).opened, o.first < (burst 0).mfirst → o.next ≤ (s.part 0).step) ∧ s.barsStream 0 (burst 0) = false ∧
      ((s.seq 0).micro.map (·.todo)).getD [] = [] ∧ ((under s (mic [burst 1] true)).part 0).issue = [burst 0] ∧
      ((under s (mic [burst 1] true)).seq 0).micro = some (mic [burst 1] true) ∧ (mic [burst 1] true).todo = [burst 1] ∧
      (under s (mic [burst 1] true)).stepsHeld 0 = false ∧ (under s (mic [burst 1] true)).barsStream 0 (burst 0) = false) ∧
    (let s := bursts [] [burst 0] []; (s.part 0).draught = [burst 0] ∧ ∀ u ∈ s.turfsOf 0, (burst 0).width ≤ s.get (Reg.TRF_CFG_MAXW u)) ∧
    (let s := bursts [] [burst 1] []; (s.part 0).draught = [burst 1] ∧ (∃ u ∈ s.turfsOf 0, s.get (Reg.TRF_CFG_MAXW u) < (burst 1).width) ∧
      s.atBoundary 0 = true ∧ (s.seq 0).micro = none ∧ (s.set (Reg.SEQ_STATE_REPACT 0) 1).atBoundary 0 = false ∧
      ((s.set (Reg.SEQ_STATE_REPACT 0) 1).seq 0).micro = none) ∧
    ∀ e ∈ [true, false], let s := under (bursts [] [burst 1] []) (mic [] e)
      (s.part 0).draught = [burst 1] ∧ (∃ u ∈ s.turfsOf 0, s.get (Reg.TRF_CFG_MAXW u) < (burst 1).width) ∧ (s.seq 0).micro = some (mic [] e) ∧
        s.repActive 0 = false ∧ s.atBoundary 0 = false := by decide +kernel

/-- Turf 0 in service, and an ADD of the ROM open whose steps end before `next`, one of them buffered. -/
def hidden (next : Nat) : State :=
  (on part0).setPart 0 { Part.reset with buffer := [{ burst 0 with rom := true }], opened := [⟨dsp 8, 0, next, [], []⟩] }

theorem witness_StepUpdatesEveryPe : ((bursts [] [] [burst 0]).canStep 0 = true ∧ ((bursts [] [] [burst 0]).part 0).buffer = [burst 0] ∧
      (burst 0).rom = false ∧ ((((bursts [] [] [burst 0]).beats 0 0 1).snapshot 0 (burst 0)).part 0).landing = []) ∧
    ∀ next ∈ [1, 2], (hidden next).canStep 0 = true ∧ ((hidden next).part 0).buffer = [{ burst 0 with rom := true }] ∧
      (hidden next).macroOf 0 0 = some (dsp 8) ∧ ((hidden next).part 0).opened.any (fun o => decide (o.first = 0) && decide (o.next = 0 + 1)) = decide (next = 1) ∧
      ((((hidden next).beats 0 0 1).snapshot 0 { burst 0 with rom := true }).part 0).landing = [] ∧ ((hidden next).part 0).touched = [] := by
  decide +kernel

theorem witness_RetentionAndPaceCounters :
    (let s := on [(Reg.TRF_STATE_STATE 63, 1)]; s.get (Reg.TRF_STATE_STATE 63) = 1 ∧ s.get (Reg.TRF_STATE_BURSTS 63) = 0) ∧
    (on [(Reg.TRF_STATE_STATE 63, 2)]).get (Reg.TRF_STATE_STATE 63) = 2 ∧
    State.reset.get (Reg.TRF_PACE_FLOOR_FLOOR 0) = 0 ∧ (on [(Reg.TRF_PACE_FLOOR_FLOOR 0, 5)]).get (Reg.TRF_PACE_FLOOR_FLOOR 0) ≤ 5 ∧
    (on [(Reg.TRF_PACE_FLOOR_FLOOR 0, 5)]).get (Reg.TRF_PACE_FLOOR_FLOOR 0) ≠ 0 ∧ 4 < (on [(Reg.TRF_PACE_FLOOR_FLOOR 0, 5)]).get (Reg.TRF_PACE_FLOOR_FLOOR 0) := by
  decide +kernel

theorem witness_CountersWrapAndDigitsInterleave : 0 < 32 ∧ 31 < 32 ∧ 127 < cdiv 4096 32 := by decide +kernel

/-! ## Witnesses: the sequencers -/

/-- 12-bit specifiers (R159): word `n` of data memory, and IMM `v`. -/
def sa (n : Nat) : Nat := n
def si (v : Nat) : Nat := 0xE00 + v
/-- Short two-operand unit: D and A (R158). -/
def shortDA (maj d a : Nat) : Nat := short maj (d + 4096 * a)
/-- ADD, CMP and MOV, short: word 1 and IMM 5; AND long: word 1 from IMM 3 and IMM 5. -/
def addS : State := code (shortDA 0x11 (sa 1) (si 5)) []
def cmpS : State := code (shortDA 0x1B (sa 1) (si 5)) []
def movS : State := code (shortDA 0x10 (sa 1) (si 5)) []
def andL : State := code (long 0x15 3 0 1 (imm 3) (imm 5)) []
/-- The sources of an instruction as ScalarIntegerInstructions reads them. -/
def srcA (s : State) : Except SeqRes Nat := let i := ins s; s.fetch 0 i.sz (s.source 0 (if i.short then i.d else i.a) i.sz i.sz)
def srcB (s : State) : Except SeqRes Nat := let i := ins s; s.fetch 0 i.sz (s.source 0 (if i.short then i.a else i.b) i.sz i.sz)
def dstD (s : State) (n : Nat) : Except SeqRes Nat := s.dest 0 n (s.specAddr 0 (ins s).d (ins s).sz false)

theorem witness_ScalarIntegerInstructions : (0 < 8 ∧ 255 < 2 ^ 8 ∧ 1 < 2 ^ 8) ∧
    (at_ .sAdd addS && !addS.sstBusy 0 && gives (srcA addS) 0 && gives (srcB addS) 5 && gives (dstD addS 8) 8) = true ∧
    (at_ .cmp cmpS && !cmpS.sstBusy 0 && gives (srcA cmpS) 0 && gives (srcB cmpS) 5) = true ∧
    (at_ .sMov movS && gives (srcB movS) 5 && gives (dstD movS 8) 8) = true ∧
    (at_ .and andL && !andL.sstBusy 0 && gives (srcA andL) 3 && gives (srcB andL) 5 && gives (dstD andL 8) 8) = true := by decide +kernel

/-- A 16-byte result at word 2 from two immediates, at the size `sz`; and the same at byte 1. -/
def wide (maj sz md a b : Nat) : State := code (long maj sz md 2 (imm a) (imm b)) []
def wideOdd (maj : Nat) : State := code (long maj 3 0 0x2000 (imm 1) (imm 1)) [(Reg.SEQ_PADDR_VALUE 0 0, 1)]
def wideOk (m : Mn) (a b : Nat) (s : State) : Bool :=
  at_ m s && !s.sstBusy 0 && decide (s.specAddr 0 (ins s).d (ins s).sz false % 8 = 0) && gives (srcA s) a && gives (srcB s) b && gives (dstD s 16) 16

theorem witness_WideArithmeticResults :
    (∀ e ∈ [(0x1F, Mn.mulw), (0x30, .sDivu), (0x31, .sDivs)], at_ e.2 (wideOdd e.1) = true ∧ (wideOdd e.1).sstBusy 0 = false ∧
      (wideOdd e.1).specAddr 0 (ins (wideOdd e.1)).d (ins (wideOdd e.1)).sz false % 8 ≠ 0) ∧
    (wideOk .mulw 3 5 (wide 0x1F 3 0 3 5) && decide ((ins (wide 0x1F 3 0 3 5)).md = 0)) = true ∧
    (wideOk .mulw 3 5 (wide 0x1F 3 1 3 5) && decide ((ins (wide 0x1F 3 1 3 5)).md = 1)) = true ∧
    wideOk .sDivu 200 7 (wide 0x30 3 0 200 7) = true ∧ wideOk .sDivu 200 0 (wide 0x30 3 0 200 0) = true ∧
    (wideOk .sDivs 156 7 (wide 0x31 0 0 156 7) && decide (¬(signedOf 156 8 = -(2 ^ 7 : Nat) ∧ signedOf 7 8 = -1))) = true ∧
    wideOk .sDivs 156 0 (wide 0x31 0 0 156 0) = true ∧
    (wideOk .sDivs 128 255 (wide 0x31 0 0 128 255) && decide (signedOf 128 8 = -(2 ^ 7 : Nat) ∧ signedOf 255 8 = -1)) = true := by decide +kernel

/-- A result of the FPU and one of the integer unit, outstanding. -/
def outFp : Outstanding := ⟨true, 8, leBytes 8 1, none, none, 1, 0, 0, 0⟩
def outInt : Outstanding := ⟨false, 16, leBytes 16 1, some ⟨true, false, false, false⟩, none, 0, 0, 0, 0⟩
def outs : State := State.reset.setSeq 0 { Seq.reset with outstanding := [outInt, outFp] }
/-- Whether an instruction completes. -/
def isDone : SeqRes → Bool
  | .done _ _ => true
  | _ => false
def faddS : State := code (shortDA 0x20 (sa 1) (sa 2)) []
def fstrS : State := code (short 0x29 (sa 1)) []
def fstwS : State := code (short 0x2A (4096 * si 0)) []
/-- A long FP unit of 8 bytes: word 3 from words 1 and 2; FSQRT has no second source; FCMP, and FCVT of kind 1. -/
def fpL (m : Mn) : State :=
  code (match m with
    | .sFadd => long 0x20 3 0 3 1 2 | .sFsub => long 0x21 3 0 3 1 2 | .sFmul => long 0x22 3 0 3 1 2 | .sFdiv => long 0x23 3 0 3 1 2
    | .sFsqrt => long 0x24 3 0 3 1 (imm 0) | .sFfma => long 0x25 3 0 3 1 2 | .sFcmp => long 0x26 3 0 (imm 0) 1 2
    | _ => long 0x27 3 0 3 1 (imm 1)) []

theorem witness_OutstandingResultsAreWrittenLater :
    (at_ .mulw (wide 0x1F 3 0 3 5) && isDone (wideBody .mulw 0 (ins (wide 0x1F 3 0 3 5)) (wide 0x1F 3 0 3 5))) = true ∧
    (at_ .sFadd faddS && isDone (fpBody .sFadd 0 (ins faddS) faddS)) = true ∧
    (∀ e ∈ fpCommands, let s := fpL e.1; (at_ e.1 s && gives (s.fetch 0 8 (s.source 0 (ins s).a 8 8)) 0 &&
      (decide (e.1 = .sFsqrt) || gives (s.fetch 0 8 (s.source 0 (ins s).b 8 8)) 0) && gives (s.fetch 0 8 (.bytes (s.specAddr 0 (ins s).d 8 false))) 0 &&
      gives (s.dest 0 8 (s.specAddr 0 (ins s).d 8 false)) 24 && decide ((fpFormat (ins s)).w / 8 = 8)) = true) ∧
    (let s := fpL .sFcmp; (at_ .sFcmp s && gives (s.fetch 0 8 (s.source 0 (ins s).a 8 8)) 0 && gives (s.fetch 0 8 (s.source 0 (ins s).b 8 8)) 0) = true) ∧
    (let s := fpL .sFcvt; let w := fcvtBytes (ins s).num (ins s).sz
      (at_ .sFcvt s && gives (s.fetch 0 w.1 (s.source 0 (ins s).a w.1 (ins s).sz)) 0 && gives (s.dest 0 w.2 (s.specAddr 0 (ins s).d (ins s).sz false)) 24) = true) ∧
    (outs.calm = true ∧ (outs.seq 0).outstanding[0]? = some outInt ∧ outInt.fp = false) ∧
    ((outs.seq 0).outstanding[1]? = some outFp ∧ ∀ q ∈ (outs.seq 0).outstanding.take 1, q.fp = false) ∧
    (at_ .fstr fstrS && !fstrS.fpuBusy 0 && !fstrS.trapPending 0 && decide (fstrS.specAddr 0 (ins fstrS).d 8 false % 8 = 0) &&
      gives (fstrS.dest 0 24 (fstrS.specAddr 0 (ins fstrS).d 8 false)) 8) = true ∧
    (at_ .fstw fstwS && !fstwS.fpuBusy 0 && !fstwS.trapPending 0 && gives (fstwS.fetch 0 8 (fstwS.source 0 (ins fstwS).a 8 8)) 0 && fsrLegal 0) = true := by
  decide +kernel

def tasS : State := code (shortDA 0x1C (sa 1) (sa 2)) []
def lrS : State := code (shortDA 0x1D (sa 1) (sa 2)) []
def scL : State := code (long 0x1E 3 0 1 2 (imm 7)) [(Reg.SEQ_RSV_VALID 0, 1)]
def atomicOk (m : Mn) (s : State) : Bool :=
  at_ m s && decide (s.wordAddr 0 (ins s).a % 8 = 0) && gives (s.fetch 0 8 (.bytes (s.wordAddr 0 (ins s).a))) 0 &&
    gives (s.dest 0 8 (s.wordAddr 0 (ins s).a)) 16 && gives (s.dest 0 8 (s.wordAddr 0 (ins s).d)) 8

theorem witness_AtomicsFollowReservation : atomicOk .tas tasS = true ∧
    (atomicOk .lr lrS && !(lrS.seq 0).haltReq && !(lrS.seq 0).stopReq) = true ∧
    (atomicOk .sc scL && gives (scL.fetch 0 8 (scL.source 0 (ins scL).b 8 8)) 7) = true ∧
    ([(0 : Byte)] ≠ [] ∧ (∃ x, 63 ≤ x ∧ x < 63 + [(0 : Byte)].length ∧ x / 64 = State.reset.rsvAt 0)) ∧
    (∀ x, 64 ≤ x → x < 64 + [(0 : Byte)].length → x / 64 ≠ State.reset.rsvAt 0) ∧
    ∀ w ∈ [(⟨some 0, 8, [1]⟩ : PortWrite), ⟨none, 8, [1]⟩], ({ State.reset with lastPort := some w } : State).lastPort = some w :=
  ⟨by decide +kernel, by decide +kernel, by decide +kernel, ⟨by decide +kernel, 63, by decide +kernel⟩, fun x h1 h2 => by
    have hx : x = 64 := by simp at h2; omega
    subst hx; decide, fun _ _ => rfl⟩

def bAl : State := code (short 0x02 (16 * 4)) []
def bEq : State := code (short 0x02 (3 + 16 * 4)) []
def callS : State := code (short 0x03 (16 * 4)) [(Reg.SEQ_PADDR_VALUE 0 15, 0x100)]
def retS : State := code (short 0x04 0) [(Reg.SEQ_PADDR_VALUE 0 15, 0x100)]
def repS (n : Nat) : State := code (short 0x01 (4 * n)) []
/-- No stop and no halt is requested of sequencer 0. -/
def calm (s : State) : Bool := !(s.seq 0).haltReq && !(s.seq 0).stopReq

theorem witness_ControlInstructionsMoveThePc : (at_ .nop (code 0 []) && calm (code 0 [])) = true ∧
    (let s := code (short 0x08 0) []; (at_ .fbar s && calm s && !s.fpuBusy 0 && !s.trapPending 0) = true) ∧
    (at_ .b bAl && calm bAl && !bAl.repActive 0 && bAl.branchReady 0 (ins bAl).num && branchTaken (ins bAl).num (bAl.seq 0).sst false 0 &&
      decide (0 ≤ (bAl.pc 0 : Int) + (ins bAl).disp ∧ (bAl.pc 0 : Int) + (ins bAl).disp < 0x100000)) = true ∧
    (at_ .b bEq && calm bEq && bEq.branchReady 0 (ins bEq).num && !branchTaken (ins bEq).num (bEq.seq 0).sst false 0) = true ∧
    (at_ .call callS && calm callS && !callS.repActive 0 && decide (0 ≤ (callS.pc 0 : Int) + (ins callS).disp) &&
      decide ((callS.pc 0 : Int) + (ins callS).disp < 0x100000) && decide (callS.ptr 0 15 % 8 = 0) &&
      gives (callS.dest 0 8 (encodeInt ((callS.ptr 0 15 : Int) - 8) 64)) 0xF8) = true ∧
    (at_ .ret retS && calm retS && !retS.repActive 0 && decide (retS.ptr 0 15 % 8 = 0) && gives (retS.fetch 0 8 (.bytes (retS.ptr 0 15))) 0) = true ∧
    (at_ .rep (repS 2) && calm (repS 2) && !(repS 2).repActive 0 && decide ((ins (repS 2)).num = 2) && !(ins (repS 2)).src &&
      !repBars ((repS 2).unitAt 0 ((repS 2).pc 0 + 4))) = true ∧
    (at_ .rep (repS 0) && decide ((ins (repS 0)).num = 0) && !repBars ((repS 0).unitAt 0 ((repS 0).pc 0 + 4))) = true := by decide +kernel

/-- IEN set, wait flag 0 set and enabled, P15 at 0x100. -/
def irqS : State := code 0 [(Reg.SEQ_IVEC_IEN 0, 1), (Reg.EVT_SFLAG_FLAG 0 0, 1), (Reg.EVT_SIEN_EN 0 0, 1), (Reg.SEQ_PADDR_VALUE 0 15, 0x100)]
/-- A pending trap with its handler: FSR.PEND and FSR.TH set. -/
def trapS : State := (code 0 [(Reg.SEQ_IVEC_IEN 0, 1), (Reg.SEQ_PADDR_VALUE 0 15, 0x100)]).setSeq 0 { Seq.reset with fsr := 0x80000010 }
/-- The last pass of an uninterruptible REP of NOP, the trap pending. -/
def repTrap : State :=
  (code 0 [(Reg.SEQ_IVEC_IEN 0, 1), (Reg.SEQ_PADDR_VALUE 0 15, 0x100), (Reg.SEQ_STATE_REPACT 0, 1), (Reg.SEQ_REPCNT_COUNT 0, 1)]).setSeq 0
    { Seq.reset with fsr := 0x80000010 }
def iretS : State := code (short 0x05 0) [(Reg.SEQ_PADDR_VALUE 0 15, 0x100)]

theorem witness_InterruptEntryAndReturn :
    (irqS.calm && irqS.interruptible 0 && irqS.flag (Reg.SEQ_IVEC_IEN 0) && irqS.irqPending 0 && !irqS.trapPending 0 && decide (irqS.ptr 0 15 % 8 = 0) &&
      decide (hearthAt 0 (encodeInt ((irqS.ptr 0 15 : Int) - 32) 64) 32 = some 0xE0)) = true ∧
    (trapS.calm && trapS.trapPending 0 && decide (trapS.get (Reg.SEQ_STATE_STATE 0) = seqRunning) && trapS.trapBoundary 0 &&
      decide (getField (trapS.seq 0).fsr 4 4 = 1) && trapS.flag (Reg.SEQ_IVEC_IEN 0) && decide (trapS.ptr 0 15 % 8 = 0) &&
      decide (hearthAt 0 (encodeInt ((trapS.ptr 0 15 : Int) - 32) 64) 32 = some 0xE0)) = true ∧
    (let s := repTrap; s.calm && s.canRun 0 && decide ((s.nextInstr 0).map (·.mn) = some .nop) && decide ((s.seq 0).expander = none) && s.repActive 0 &&
      !s.flag (Reg.SEQ_STATE_REPI 0) && decide (s.get (Reg.SEQ_REPCNT_COUNT 0) ≤ 1) && s.trapPending 0 &&
      decide (getField (s.seq 0).fsr 4 4 = 1) && s.flag (Reg.SEQ_IVEC_IEN 0) && decide (s.ptr 0 15 % 8 = 0) &&
      decide (hearthAt 0 (encodeInt ((s.ptr 0 15 : Int) - 32) 64) 32 = some 0xE0)) = true ∧
    (at_ .iret iretS && calm iretS && decide (iretS.ptr 0 15 % 8 = 0) && !iretS.sstBusy 0 && !iretS.flcBusy 0 &&
      [0, 8, 16, 24].all (fun k => gives (iretS.fetch 0 8 (.bytes (iretS.ptr 0 15 + k))) 0)) = true := by decide +kernel

/-- Ring 0 enabled, one slot occupied. -/
def ring1 : Ring := { Ring.reset with ready := true, rsize := 4, mbn := 2, slots := [5], tail := 1 }
def jobeS : State := (code (short 0x0A (4096 * si 5)) []).setRing 0 ring1
def waitS (l : List (Field × Nat)) : State := code (short 0x06 255) l
def waiting : State := (on [(Reg.SEQ_STATE_STATE 0, 2), (waitFlag 0 255, 1)]).setSeq 0 { Seq.reset with waiting := some 255 }

theorem witness_WaitSignalAndJobs :
    (at_ .wait (waitS [(waitFlag 0 255, 1)]) && calm (waitS []) && (waitS [(waitFlag 0 255, 1)]).flag (waitFlag 0 255) &&
      decide ((ins (waitS [(waitFlag 0 255, 1)])).num = 255)) = true ∧
    (at_ .wait (waitS []) && calm (waitS []) && !(waitS []).flag (waitFlag 0 255)) = true ∧
    (decide ((waiting.seq 0).waiting = some 255) && decide (waiting.get (Reg.SEQ_STATE_STATE 0) = seqWaiting) && waiting.flag (waitFlag 0 255) &&
      calm waiting) = true ∧
    (let s := code (short 0x07 255) []; (at_ .sig s && decide ((ins s).num = 255)) = true) ∧ at_ .jobs (code (short 0x09 0) []) = true ∧
    (at_ .jobe jobeS && gives (jobeS.fetch 0 8 (jobeS.source 0 (ins jobeS).a 8 8)) 5 && (jobeS.part 0).drained && (jobeS.ring 0).ready &&
      !jobeS.ringFull 0 && (jobeS.ring 0).held.isEmpty) = true ∧
    ((State.reset.setSeq 0 { Seq.reset with job := some ⟨0, 0, false⟩ }).seq 0).job = some ⟨0, 0, false⟩ := by decide +kernel

/-- Short pointer unit: P`n` and A (R168). -/
def ptrS (maj n a : Nat) : State := code (short maj (n + 4096 * a)) []
def setlL (a b : Nat) : State := code (1 + 4 * 0x38 + 65536 * a + 2 ^ 32 * b) []
def setlmL (a b : Nat) : State := code (long 0x39 3 0 0 (imm a) (imm b)) []

theorem witness_PointersAndLengths :
    (let s := ptrS 0x0B 15 (sa 2); (at_ .ldp s && decide ((ins s).num = 15) && decide (s.specAddr 0 (ins s).a 8 false % 8 = 0) &&
      gives (s.fetch 0 8 (.bytes 16)) 0 && gives (s.fetch 0 8 (.bytes 24)) 0) = true) ∧
    (let s := ptrS 0x0C 15 (sa 2); (at_ .stp s && decide (s.specAddr 0 (ins s).a 8 false % 8 = 0) && gives (s.dest 0 16 16) 16) = true) ∧
    (let s := ptrS 0x0D 15 (si 5); (at_ .pset s && gives (s.fetch 0 8 (s.source 0 (ins s).a 8 8)) 5) = true) ∧
    (let s := ptrS 0x0E 15 (si 5); (at_ .padd s && gives (s.fetch 0 8 (s.source 0 (ins s).a 8 8)) 5 && decide ((ins s).a = .imm 5)) = true) ∧
    (let s := code (short 0x0F (sa 1)) []; (at_ .snum s && gives (s.dest 0 8 (s.specAddr 0 (ins s).d 8 false)) 8) = true) ∧
    (let s := setlL 8192 1; (at_ .setl s && decide ((ins s).d = .abs 8192) && decide ((ins s).a = .abs 1)) = true) ∧
    (let s := setlmL 7 1; (at_ .setlm s && gives (s.fetch 0 8 (s.source 0 (ins s).a 8 (ins s).sz)) 7 &&
      gives (s.fetch 0 8 (s.source 0 (ins s).b 8 (ins s).sz)) 1) = true) := by decide +kernel

theorem witness_SequencersStartStopAndFault :
    (let s := code (short 0x3F 0) []; (at_ .halt s && calm s && decide (bitAt (s.get Reg.DBG_HALT_HALTED) 0 = 0)) = true) ∧
    (State.reset.get (Reg.SEQ_STATE_STATE 0) = seqStopped ∧ (State.reset.seq 0).disabled = false ∧ State.reset.inReset 0 = false ∧
      ({ State.reset with rst := { State.reset.rst with module := some ⟨3, 3, true, none⟩ } } : State).inReset 0 = true) ∧
    (code 0 []).get (Reg.SEQ_STATE_STATE 0) ≠ seqStopped ∧
    ((code 0 []).get (Reg.SEQ_STATE_STATE 0) = seqRunning ∧ (code 0 []).atBoundary 0 = true ∧ ((code 0 []).seq 0).haltReq = false) ∧
    (let s := on [(Reg.SEQ_STATE_STATE 0, 3), (Reg.SEQ_FAULT_CODE 0, 1)]; s.get (Reg.SEQ_STATE_STATE 0) = seqFaulted ∧
      s.get (Reg.SEQ_FAULT_CODE 0) ≠ 0x07) ∧
    (let s := on [(Reg.SEQ_STATE_STATE 0, 3), (Reg.SEQ_FAULT_CODE 0, 7)]; s.get (Reg.SEQ_STATE_STATE 0) = seqFaulted ∧ s.get (Reg.SEQ_FAULT_CODE 0) = 0x07) ∧
    (bitAt (State.reset.get Reg.DBG_HALT_HALTED) 0 = 0 ∧ 255 < 256 ∧ 7 < 8) ∧
    (let s := code (short 0x1F 0) []; s.canRun 0 = true ∧ s.nextInstr 0 = none) ∧
    (let s := (code 0 []).setSeq 0 { Seq.reset with expander := some 0x20 }; s.canRun 0 = true ∧ (s.nextInstr 0).map (·.mn) = some .nop ∧
      (s.seq 0).expander = some 0x20 ∧ s.repActive 0 = false) := by decide +kernel

theorem witness_OperandAddressesFollowTheirModes : (15 < 16) ∧ (∀ n, (Spec.ind 0 1) ≠ .abs n) ∧
    bitsOf ((on [(Reg.SEQ_PDESC_VALUE 0 0, 2 ^ 32 * 64)]).pdesc 0 0) 55 32 ≠ 0 ∧ bitsOf (State.reset.pdesc 0 0) 55 32 = 0 :=
  ⟨by decide +kernel, fun _ h => (by cases h), by decide +kernel, by decide +kernel⟩

/-! ## Witnesses: microroutines, the mesh, staging, HBM, DMA, the loader, the edge fabric -/

/-- A microroutine of patch microword `w` under way in sequencer 0. -/
def microS (w : W32) (saved : Option Nat) (l : List (Field × Nat)) : State :=
  let u : Micro := ⟨dsp 8, 0x4000, saved, [⟨2, 5, 6, 0⟩], none, none, none, 0, 0, 0, 0, 8, false, [], false, []⟩
  { (on ((Reg.SEQ_STATE_STATE 0, 1) :: l)).setSeq 0 { Seq.reset with micro := some u } with patches := [(0, { Patch.reset with micro := [w] })] }
/-- It is the turn of that microword, the issue stage being empty. -/
def microAt (s : State) : Bool :=
  (match (s.seq 0).micro with | some u => !u.ends && u.todo.isEmpty | none => false) && decide (s.get (Reg.SEQ_STATE_STATE 0) = seqRunning) &&
    !s.issueHeld 0 && !s.stepsHeld 0 && (s.part 0).issue.isEmpty
/-- Control microword `op` with the count or parameter select `sel`. -/
def ctl (op sel : Nat) : W32 := BitVec.ofNat 32 (2 ^ 31 + op * 2 ^ 28 + sel * 2 ^ 24 + 7)

theorem witness_StepMicrowordIssuesItsCount : (∀ w ∈ [0, 2 ^ 29, 2 ^ 30],
    (microAt (microS (BitVec.ofNat 32 w) none []) && decide (bitAt ((microS (BitVec.ofNat 32 w) none []).microword 0 0x4000) 31 = 0) &&
      decide ((microS (BitVec.ofNat 32 w) none []).fetchAddr 0 0x4000 = 0x4000) && (microS (BitVec.ofNat 32 w) none []).plainEnd 0) = true) ∧
    (((microS 0 none []).setPart 0 { Part.reset with issue := romBursts .add (dsp 8) 0 }).part 0).issue ≠ [] := by decide +kernel

/-- A patch that gives an AOP a routine of class 0, and that AOP's instruction at its turn. -/
def patchedS (aop : Nat) : State :=
  { code (body aop 0 16 0 8) ((Reg.SEQ_LEN_FLA 0, 8) :: part0) with patches := [(0, { Patch.reset with dispatch := [(aop, 0x80000000)] })] }

/-- Whether the patched instruction is at its turn, and takes steps or none. -/
def patchedCase (m : Mn) (s : State) (empty : Bool) : Bool :=
  at_ m s && s.patchedAop 0 (ins s).aop && s.plainEnd 0 && (match s.dispatch 0 (s.role 0 (ins s)) (ins s) with
    | .ok D => decide (s.noSteps 0 (s.role 0 (ins s)) D = empty)
    | .error _ => false)

theorem witness_ControlMicrowordsSequenceTheRoutine :
    (patchedCase .newAop (patchedS 0x300) false = true ∧ patchedCase .mov (patchedS 0x001) false = true ∧
      patchedCase .rcnt { code (body 0x0D0 0 (imm 0) (imm 0) 1) [] with patches := [(0, { Patch.reset with dispatch := [(0x0D0, 0x80000000)] })] } true =
        true) ∧
    (∀ op ∈ [0, 1, 2, 3, 4, 5, 6], microAt (microS (ctl op 0) none []) = true ∧ isControl op ((microS (ctl op 0) none []).microword 0 ((microS (ctl op 0) none []).fetchAddr 0 0x4000)) = true) ∧
    (microS (ctl 2 0) none []).flcBusy 0 = false ∧ (microS (ctl 3 0) none [(Reg.SEQ_STATE_FLC 0, 1)]).flcBusy 0 = false ∧
    ((((microS (ctl 6 0) (some 9) []).seq 0).micro.map (·.saved)) = some (some 9)) ∧
    ((((microS (ctl 6 0) none []).seq 0).micro.map (·.saved)) = some none) ∧
    (∃ a b : Nat, (∀ u ∈ ((microS (ctl 0 0) none []).seq 0).micro, u.count ((microS (ctl 0 0) none []).macroMn 0 u.disp) a = 0) ∧
      ∀ u ∈ ((microS (ctl 0 0) none []).seq 0).micro, u.count ((microS (ctl 0 0) none []).macroMn 0 u.disp) b ≠ 0) :=
  ⟨by decide +kernel, by decide +kernel, by decide +kernel, by decide +kernel, by decide +kernel, by decide +kernel, 9, 0, by decide +kernel, by decide +kernel⟩

/-- A packet: class, command, LEN, destination tile and port, tag, AUX, data (R117). -/
def pkt (cls cmd tile port tag aux : Nat) (data : List W256) : Packet := ⟨mkHeader cls cmd data.length tile port 4 33 0 tag 0 0 aux, data⟩

/-- An accepted transfer of engine queue slot 5 whose arm orders to `l` are on their way. -/
def armed (l : List Nat) : Transfer := ⟨5, ⟨0, 0, 0, 0⟩, 0, [], [], 0, [], [], [], [], [], false, 0, 0, l, false⟩
/-- A net in which the first data flit of `k`, which came from the north, stands before the T port of its tile. -/
def atTile (k : Packet) : Net :=
  { Net.reset with queues := [(32 * k.tile + 4 * 3 + k.cls, [⟨k, 1⟩])], owner := [(32 * k.tile + 4 * 4 + k.cls, some ⟨3, k⟩)] }
/-- An RDATA whose first data flit has still to enter the mesh. -/
def replyS : Reply := ⟨pkt 1 0x81 33 5 9 0 [0], 0, [0]⟩

theorem witness_MeshRequestsAtTiles :
    State.reset.admits (pkt 0 0x01 1023 4 9 2 []) 0 0x01 = true ∧ (pkt 0 0x01 1023 4 9 2 []).dport = 4 ∧
    State.reset.admits (pkt 0 0x02 1023 4 9 0 [1]) 0 0x02 = true ∧ State.reset.admits (pkt 2 0x40 1023 4 9 0 [1]) 2 0x40 = true ∧
    (∀ e ∈ [(0, 0x01), (0, 0x02), (2, 0x40)], State.reset.admits (pkt e.1 e.2 0 1 9 0 []) e.1 e.2 = true ∧ (pkt e.1 e.2 0 1 9 0 []).dport ≠ 4) ∧
    (∀ c ∈ [0xC0, 0xC1, 0xC2], State.reset.admits (pkt 3 c 0 4 9 0 []) 3 c = true) ∧
    State.reset.tagged (pkt 3 0xC2 0 4 9 0 []) = none ∧ (pkt 0 0x02 1023 4 9 0 [1]).data.length ≤ 255 ∧
    (let k := pkt 3 0xC2 0 4 5 0 []; let x := armed [0]
      (State.reset.setStg 0 [x]).tagged k = some (0, x) ∧ (State.reset.setStg 0 [x]).admits k 3 0xC2 = true ∧ k.dport = 4 ∧ k.tile ∈ x.unarmed) ∧
    (let f : MeshFlit := ⟨pkt 0 0x02 33 4 9 0 [1], 1⟩; (atTile f.pkt).ejects (fun _ _ => false) = [f] ∧ f.writes = true ∧
      State.reset.endpointShut f.pkt = false) ∧
    (let m : Net := { Net.reset with replies := [replyS] }
      let n : Net := { m with entering := [(m.entry replyS.pkt, [⟨replyS.pkt, 1⟩])] }
      replyS ∈ m.replies ∧ 0 < replyS.data.length ∧ n.waits ⟨replyS.pkt, 0 + 1⟩ = true ∧ m.waits ⟨replyS.pkt, 0 + 1⟩ = false) := by
  decide +kernel

/-- A gateway entry under tag 9. -/
def gwS : State := { State.reset with fabric := { Fabric.reset with entries := [(9, some ⟨1, 4, 2, 3⟩)] } }
/-- A reserved flit due at tile 33, port 3, whose slot holds the entry `e`. -/
def flitS (e : Nat) : State :=
  { (on ((Reg.CRD_FRAME_FRAME 0, 4) :: part0)).setReg (Reg.CRD_SLOT_V 33 0).off (BitVec.ofNat 64 e) with links := [⟨33, 3, 0, 0, 0, 7, false⟩] }

theorem witness_MeshResponsesAndReservedFlits :
    (∀ c ∈ [0x81, 0x82, 0x8F], State.reset.admits (pkt 1 c 0 4 9 0 []) 1 c = true ∧ (pkt 1 c 0 4 9 0 []).dport ≠ 7 ∧
      gwS.admits (pkt 1 c (hRouter 0) 7 9 0 []) 1 c = true ∧ (SMap.get none gwS.fabric.entries (pkt 1 c 0 7 9 0 []).tag).isSome = true) ∧
    (∀ c ∈ [0x01, 0x02], (pkt 0 c 0 3 9 0 []).cls = 0 ∧ (pkt 0 c 0 3 9 0 []).cmd = c ∧ (pkt 0 c 0 3 9 0 []).remote = false ∧
      (pkt 0 c 0 3 9 0 []).cls ≠ 2 ∧ State.reset.behind (pkt 0 c 0 3 9 0 []) = false ∧
      portExists 0 3 = false ∧ portExists 0 4 = true ∧ (on [(Reg.MSH_FENCE_PHASE 0, 3)]).turnsAway (pkt 0 c 0 4 9 0 []) = true) ∧
    (let k := pkt 2 0x40 0 4 9 0 []; let s := on [(Reg.MSH_FENCE_PHASE 0, 3)]; k.cls = 2 ∧ k.cmd = 0x40 ∧ k.remote = false ∧ s.behind k = false ∧
      portExists k.tile k.dport = true ∧ s.turnsAway k = true) ∧
    (cmdDefined 0 0x03 = false ∧ State.reset.admits (pkt 0 0x03 0 4 9 0 []) 0 0x03 = true) ∧
    (∀ e ∈ [2 ^ 31 + 3 * 2 ^ 24 + 2 ^ 20, 0], (flitS e).links.find? (fun l => decide (l.tile = 33) && decide (l.port = 3) && decide (l.part = 0)) =
      some ⟨33, 3, 0, 0, 0, 7, false⟩ ∧ 0 ≤ (flitS e).horizon 0 ∧ (flitS e).slotServed 0 33 0 = true) ∧
    (let e := (flitS (2 ^ 31 + 3 * 2 ^ 24 + 2 ^ 20)).cordEntry 33 0; cordV e = true ∧ cordIn e = 3 ∧ cordPart e = 0 ∧ cordLast e = false) ∧
    cordV ((flitS 0).cordEntry 33 0) = false ∧
    (let s := (flitS (2 ^ 31 + 2 ^ 29 + 3 * 2 ^ 24 + 4 * 2 ^ 20)).set (Reg.MSH_FENCE_PHASE 0) 1; cordLast (s.cordEntry 33 0) = true ∧
      s.portShut 33 (cordOut (s.cordEntry 33 0)) = true) := by decide +kernel

theorem witness_MeshResponsesAndReservedFlits_poisoned :
    (let k := pkt 0 0x02 33 4 9 0 [1, 2]; ∀ header ∈ [true, false], (flitS 0).poisonedLink ((flitS 0).identify k) 33 3 header = none ∧
      (flitS 0).partOfTile 33 = some 0 ∧ (flitS 0).behind k = false ∧ (flitS 0).turnsAway k = false ∧ k.dport = 4 ∧ k.cls = 0 ∧ k.cmd = 0x02 ∧
      ({ flitS 0 with mesh := [pkt 0 0x02 33 4 8 0 [], k] } : State).behind k = true) ∧
    (flitS 0).poisonedLink ((flitS 0).identify (pkt 2 0x40 33 4 9 0 [7])) 33 3 false = some ⟨33, 3, 0, 0, 0, 7, false⟩ ∧
    (let x := armed []; let s := State.reset.setStg 0 [x]
      ∀ c ∈ [0x81, 0x82, 0x8F], s.tagged (pkt 1 c 15 5 5 0 []) = some (0, x) ∧ s.admits (s.identify (pkt 1 c 15 5 5 0 [])) 1 c = true ∧ x.desc.cord = false ∧
        x.desc.dir ≠ 2) := by decide +kernel

/-- Where the second data flit of a packet has left the mesh, the first is good whatever the free value is. -/
theorem witness_MeshResponsesAndReservedFlits_good (k : Packet) : ∃ f, f < ({ State.reset with net := { Net.reset with landed := [⟨k, 2⟩] } } : State).goodCount k false :=
  ⟨0, by simp only [State.goodCount, Bool.false_eq_true, if_false, decide_true, List.filter_cons_of_pos, List.filter_nil, List.length_singleton]; omega⟩

/-- A fence that picked its step. -/
def fenced (d phase : Nat) : State := (on [(Reg.MSH_FENCE_PHASE d, phase)]).setFence d { Fence.open with host := true, step := some 0 }

theorem witness_FencesGoThroughTheirPhases : (isDomain 87 = true ∧ State.reset.hostBarred 87 = false ∧ State.reset.phase 87 = 0) ∧
    (isDomain 0 = true ∧ State.reset.streamsOpen 0 = false) ∧
    ((fenced 63 1).phase 63 = 1 ∧ ((fenced 63 1).fence 63).step.isSome = true) ∧ ((fenced 63 2).phase 63 = 2 ∧ (fenced 63 2).inFlight 63 = false ∧ (fenced 63 2).net.returning = []) ∧
    ({ fenced 63 2 with net := { Net.reset with returning := [(0, 1)] } } : State).net.returning ≠ [] ∧
    ({ fenced 63 2 with mesh := [pkt 0 0x02 1023 4 9 0 []] } : State).inFlight 63 = true ∧
    (fenced 63 3).phase 63 = 3 ∧
    (((fenced 63 2).fence 63).reset = false ∧ (fenced 63 2).get Reg.MSH_FENCE_TMO_TMO ≠ 0) ∧
    ((fenced 63 4).hostBarred 63 = false ∧ (fenced 63 4).phase 63 ≠ 0) ∧
    ((fenced 63 0).phase 63 = 0 ∧ ((fenced 63 0).fence 63).step.isSome = true ∧ (fenced 63 0).streamsOpen 63 = false ∧
      (fenced 63 0).get (Reg.TRF_STATE_STATE 63) ≠ 5) := by decide +kernel

/-- An IN transfer of `len` planes from HBM, one tile at the turf's corner, by engine 0; bit 6 binds it to the Cord. -/
def desc (q0 len : Nat) : StgDesc := ⟨BitVec.ofNat 64 q0, 0, BitVec.ofNat 64 (len * 2 ^ 16), 0⟩
/-- The stacks are up and turf 0 is in service; sequencer 0 offers `d`. -/
def offers (d : StgDesc) : State := (on ((Reg.HBM_STAT_STATE 0, 2) :: part0)).setSeq 0 { Seq.reset with offer := some d }
/-- Sequencer 0 at STGQ of the descriptor at word 2. -/
def stgqS : State := code (short 0x3E (4096 * sa 2)) []
/-- An accepted transfer with a segment to send again. -/
def xfer (d : StgDesc) (lost : List (Nat × Nat)) : Transfer := ⟨5, d, 0, [(0, 64)], [], 1, lost, [], [], [], [], false, 0, 0, [], false⟩
def lostS (d : StgDesc) : State := ((on [(Reg.HBM_STAT_STATE 0, 2)]).setStg 0 [xfer d [(0, 63)]]).setSeq 0 { Seq.reset with job := some ⟨0, 0, false⟩ }

theorem witness_StagingQueuesAndResends :
    (∀ d ∈ [desc 0 1, desc 0 0, desc 0x800 1, desc 2 1], ((offers d).seq 0).offer = some d ∧ d.eng = 0 ∧ ((offers d).stg 0).length < 64 ∧
      (SMap.get none (offers d).rst.targets 272).isSome = false) ∧
    (let f (d : StgDesc) : Nat := ((offers d).setSeq 0 { (offers d).seq 0 with offer := none }).stgRefusal 0 0 d;
      f (desc 0 1) = 0 ∧ f (desc 0 0) = 0 ∧ f (desc 2 1) = 0 ∧ f (desc 0x800 1) ≠ 0) ∧
    ((desc 0 1).len ≠ 0 ∧ (desc 2 1).dir = 2 ∧ (desc 0 0).len = 0 ∧ (desc 0 0).dir ≠ 2) ∧
    (at_ .stgq stgqS && decide (stgqS.specAddr 0 (ins stgqS).a 8 false = 16) && [16, 24, 32, 40].all (fun a => gives (stgqS.fetch 0 8 (.bytes a)) 0) &&
      decide ((stgqS.seq 0).offer = none)) = true ∧
    (∀ d ∈ [desc 0x40 1, desc 0 1], let x := xfer d [(0, 63)]
      ((lostS d).stg 0).find? (fun y => decide (y.slot = 5)) = some x ∧ ((lostS d).seq x.part).job.isSome = true ∧
      x.lost.filter (fun l => decide (x.desc.segments ≤ SMap.get 0 x.sent l.1)) ≠ [] ∧ x.resend ++ (x.lost.map (fun r => (r.1, r.2 / 4))).eraseDups ≠ []) ∧
    ((desc 0x40 1).cord = true ∧ (desc 0 1).cord = false) ∧
    (let x := { xfer (desc 0x40 1) [(0, 63)] with sent := [(0, 60)] }; x.lost.filter (fun l => decide (x.desc.segments ≤ SMap.get 0 x.sent l.1)) = []) ∧
    (let x := { xfer (desc 0 1) [] with mask := [(0, 63)], resend := [(0, 15)] }; x.mask = [(0, 63)] ∧ x.resend = [(0, 63 / 4)]) := by decide +kernel

/-- Engine 0 with that transfer, the stack up. -/
def movesS (x : Transfer) : State := (on [(Reg.HBM_STAT_STATE 0, 2)]).setStg 0 [x]

theorem witness_StagingMovesThePlanes :
    (let d := desc 0 1; 63 < 64 ∧ d.tr0 + d.rows ≤ 16 ∧ d.tc0 + d.cols ≤ 16 ∧ 0 < d.rows * d.cols ∧ d.len ≤ 8192 ∧ 512 * 0 + 4 * 15 + 3 < d.segments) ∧
    ∀ q0 ∈ [0, 1], let d := desc q0 1
      let x := xfer d []
      let s := movesS x
      (s.stg 0).find? (fun y => decide (y.slot = 5) && decide (y.desc.dir ≠ 2)) = some x ∧ d.cord = false ∧ x.failed = false ∧
      s.stgBarred 0 x = false ∧ bitAt (s.get Reg.DBG_BFRZ_FRZ) 0 = 0 ∧ d.dir = q0 ∧ x.packets ≠ 0 ∧
      ((State.flush 0 5 (2 * s.mesh.length + 1) s).stg 0).find? (fun y => decide (y.slot = x.slot)) = some x ∧
      (∀ t ∈ d.tiles 0, SMap.get 0 x.sent t = d.segments) ∧ d.tr0 + d.rows ≤ 16 ∧ d.tc0 + d.cols ≤ 16 := by decide +kernel

/-- A checkpoint of partition 0 in its two stages. -/
def ckptS (written : Bool) : State :=
  { (on ((Reg.HBM_STAT_STATE 0, 2) :: (Reg.HBM_STAT_STATE 1, 2) :: part0)).setSeq 0 { Seq.reset with ckpt := some ⟨desc 2 0, 0, true, written, false⟩ } with
    saved := [(0, some ⟨0, [0], 0, 0, 0, [], 0, 0, ⟨false, false, false, false⟩, 0, 0, false, false, 0, 0, [], 0⟩)] }

theorem witness_HbmPowerAndCheckpoints :
    (on [(Reg.HBM_STAT_STATE 7, 2)]).get (Reg.HBM_STAT_STATE 7) = 2 ∧ (on [(Reg.HBM_STAT_STATE 7, 2)]).flag (Reg.HBM_CFG_SRDIS 7) = false ∧
    (on [(Reg.HBM_STAT_STATE 7, 3)]).get (Reg.HBM_STAT_STATE 7) = 3 ∧
    (let s := on [(Reg.HBM_CFG_PWROFF 7, 1), (Reg.MSH_FENCE_PHASE 71, 4)]; s.flag (Reg.HBM_CFG_PWROFF 7) = true ∧ s.phase (64 + 7) = 4) ∧
    ((on [(Reg.HBM_STAT_STATE 7, 1)]).get (Reg.HBM_STAT_STATE 7) = 1 ∧ (on [(Reg.HBM_STAT_STATE 7, 1)]).flag (Reg.HBM_CFG_PWROFF 7) = false ∧
      (on [(Reg.HBM_STAT_STATE 7, 1)]).get (Reg.HBM_CFG_RATE 7) % 3 ≤ (0 : Fin 3).val) ∧
    (let s := ckptS false; (s.seq 0).ckpt = some ⟨desc 2 0, 0, true, false, false⟩ ∧ (s.part 0).drained = true ∧ (s.part 0).results = [] ∧
      (s.seq 0).outstanding = [] ∧ (s.diesOf 0).all s.dieEngines = true ∧ ∀ die ∈ s.diesOf 0, s.hbmUp (0x800000000 * die + (desc 2 0).maddr) (ckptSize (desc 2 0).len (s.turfsOnDie 0 die).length) = true) ∧
    ((ckptS true).seq 0).ckpt = some ⟨desc 2 0, 0, true, true, false⟩ ∧ (SMap.get none (ckptS true).saved 0).isSome = true := by decide +kernel

/-- A DMA descriptor of 8 bytes from space `ssp` to space `dsp`, the last of its chain. -/
def dmaD (ssp dsp : Nat) : List Byte := leBytes 8 0 ++ leBytes 8 0x1000000 ++ leBytes 8 (8 + ssp * 2 ^ 32 + dsp * 2 ^ 36 + 2 ^ 41) ++ leBytes 8 0
def dmaS : State := on [(Reg.DMA_STAT_STATE 15, 1), (Reg.HBM_STAT_STATE 0, 2)]
/-- One of 32 bytes between stream port 0 and another space; the fabric runs and 32 bytes stand in that port. -/
def dmaStream (ssp dsp : Nat) : List Byte := leBytes 8 0 ++ leBytes 8 (if dsp = 4 then 8 else 0) ++ leBytes 8 (32 + ssp * 2 ^ 32 + dsp * 2 ^ 36 + 2 ^ 41) ++ leBytes 8 0
def streamS : State := { with_ dmaS [(Reg.EDG_STAT_STATE, 2)] with edge := { Edge.reset with ports := [(0, List.replicate 32 1)] } }

/-- Whether channel 15 is to move the descriptor with `n` bytes of it at once. -/
def moves (s : State) (desc : List Byte) (ssp dsp : Nat) (bytes : List Byte) (n : Nat) : Bool :=
  let s0 := (s.dmaDesc 15 desc).1
  let d := (s.dmaDesc 15 desc).2
  decide (s.get (Reg.DMA_STAT_STATE 15) = 1) && decide (bitAt (s.get Reg.DBG_BFRZ_FRZ) (8 + 15) = 0) && decide (s.chainCheck 15 = 0) &&
    decide (32 ≤ desc.length) && decide (d.check = 0) && decide (0 < d.len) && decide (d.ssp = ssp) && decide (d.dsp = dsp) &&
    !s.dmaFenced d.ssp d.src d.len && !s.dmaFenced d.dsp d.dst d.len && (decide (d.ssp ≠ 0) || decide (d.len ≤ bytes.length)) &&
    decide (s0.dmaRoom d (d.len - SMap.get 0 s.dma 15) = n)

theorem witness_DmaMovesItsDescriptors :
    (State.reset.get (Reg.DMA_STAT_STATE 15) ≠ 1 ∧ State.reset.inReset (288 + 15) = false ∧ dmaS.get (Reg.DMA_STAT_STATE 15) = 1) ∧
    (let d := DmaDesc.ofBytes (dmaD 0 2); dmaS.get (Reg.DMA_HSP_SPACE 15) = 0 ∧ 32 ≤ (dmaD 0 2).length ∧ dmaS.chainCheck 15 = 0 ∧ d.check = 0 ∧
      d.ssp = 0 ∧ d.dsp = 2 ∧ SMap.get 0 dmaS.dma 15 = 0) ∧
    (moves streamS (dmaStream 4 1) 4 1 [] 32 && moves streamS (dmaStream 0 4) 0 4 (List.replicate 32 0) 32 &&
      moves { streamS with edge := Edge.reset } (dmaStream 4 1) 4 1 [] 0 && decide (streamS.get Reg.EDG_STAT_STATE = 2)) = true ∧
    ∀ e ∈ [(0, 0), (0, 1), (1, 2), (2, 3), (3, 2)], moves dmaS (dmaD e.1 e.2) e.1 e.2 (List.replicate 8 0) 8 = true := by decide +kernel

/-- A turf image for T5 with one section of 8 bytes, unsigned. -/
def turfImage : List Byte :=
  [0x5A, 0x53, 0x49, 0x46] ++ leBytes 2 3 ++ leBytes 2 1 ++ leBytes 8 0 ++ leBytes 4 292 ++ leBytes 4 1 ++ leBytes 8 5 ++ List.replicate 96 0 ++
    (leBytes 2 1 ++ leBytes 2 0 ++ leBytes 4 144 ++ leBytes 4 8 ++ leBytes 4 0) ++ List.replicate 8 0 ++ List.replicate 140 0
def loadS (st : Nat) : State :=
  { on [(Reg.HST_SIFSTAT_STATE, st), (Reg.HST_SIFLEN_LEN, 292), (Reg.MSH_FENCE_PHASE 5, 3)] with loader := some ⟨turfImage, false, [(5, 0)], 0, [], Edge.reset⟩ }
def idleLoad : State := on [(Reg.HST_SIFLEN_LEN, 292)]

theorem witness_LoaderGoesThroughItsStates :
    (let i := idleLoad.sourceBytes 0 0 292 turfImage true; idleLoad.get Reg.HST_SIFSTAT_STATE = 0 ∧ (sourceRefuse 0 0 292).1 = 0 ∧
      (firstRefuse [headerRefuse i 292, idleLoad.targetRefuse i]).1 = 0 ∧ imgTurfs i = [5] ∧ idleLoad.moduleReset = false ∧ (loadS 2).moduleReset = false) ∧
    (loadS 2).get Reg.HST_SIFSTAT_STATE ≠ 0 ∧ ((loadS 1).get Reg.HST_SIFSTAT_STATE = 1 ∧ (loadS 1).loader.isSome = true) ∧
    (firstRefuse [fetchRefuse [], (loadS 1).verifyRefuse []]).1 ≠ 0 ∧ ((loadS 2).commitRefuse [] []).1 = 0 ∧
    ((loadS 2).get Reg.HST_SIFSTAT_STATE = 2) ∧ ((loadS 3).get Reg.HST_SIFSTAT_STATE = 3 ∧ (loadS 3).targetsHeld ⟨turfImage, false, [(5, 0)], 0, [], Edge.reset⟩ = true) := by
  decide +kernel

/-- The verified image reads Loaded, and its COMMIT passes; whether a signature verifies is an opaque constant (log entry 10). -/
theorem witness_LoaderGoesThroughItsStates_verified (s : State) (h : s.signedBy turfImage purposeImage = true) (hh : s.sifHash = List.replicate 64 0) :
    (firstRefuse [fetchRefuse turfImage, s.verifyRefuse turfImage]).1 = 0 := by
  have a : fetchRefuse turfImage = (0, 0) := by decide +kernel
  have b : bytesAt turfImage 0x20 64 = List.replicate 64 0 := by decide +kernel
  simp [firstRefuse, a, State.verifyRefuse, firstFail, h, hh, b]

/-- DIRECT set, one shadow write of TRF_CFG0. -/
def bareS : State := { on [(Reg.RST_OPT_BYTES 0, 2 ^ 16)] with shadow := [((Reg.TRF_CFG_ASSIGNED 0).off, 0x80000000)] }
theorem witness_LoaderGoesThroughItsStates_bare : bareS.get Reg.HST_SIFSTAT_STATE = 0 ∧ bareS.bareRefuse.1 = 0 ∧ bareS.fabric.coll = [] ∧
    State.reset.bareRefuse.1 ≠ 0 ∧ (let s := on [(wdrawBit 63, 1)]; s.flag (wdrawBit 63) = true ∧ s.retired 63 = false ∧ (s.fence 63).host = false ∧
      (s.fence 63).loader = false ∧ (s.fence 63).reset = false) := by decide +kernel

/-! ## Witnesses: the edge fabric, the Kindling engines -/

/-- The edge fabric in state `st` with a capture armed. -/
def edgeS (st : Nat) (l : List (Field × Nat)) : State :=
  { on ((Reg.EDG_STAT_STATE, st) :: l) with edge := { Edge.reset with loaded := true, armed := some (7, 5) } }

theorem witness_EdgeFabricCommands : ((5 : BitVec 16) ≠ 0) ∧
    ((edgeS 2 []).edge.armed = some ((7 : Fin 8).val, 5) ∧ (7 ∈ [7]) ∧ (7 ∉ [6]) ∧ 1 < 5 ∧
      (({ edgeS 2 [] with edge := { Edge.reset with armed := some (7, 1) } } : State).edge.armed = some (7, 1))) ∧
    ((edgeS 3 [(Reg.EDG_CTL_FREEZE, 1)]).edge.armed = some (7, 5) ∧ (edgeS 3 [(Reg.EDG_CTL_FREEZE, 1)]).flag Reg.EDG_CTL_FREEZE = true) ∧
    ((edgeS 1 []).edge.armed = some (7, 5) ∧ (edgeS 1 []).flag Reg.EDG_CTL_FREEZE = false ∧ (edgeS 1 []).edgeRuns = false) ∧
    (∀ n : Nat, State.reset.edge.armed ≠ some (7, n)) ∧
    (edgeS 2 []).edge.due = false ∧ (({ edgeS 3 [] with edge := { Edge.reset with due := true } } : State).edge.due = true) ∧
    SMap.wf (fun _ => false) (edgeS 2 []).edge.ffs = true ∧ (edgeS 2 []).get Reg.EDG_STAT_STATE = 2 ∧
    (edgeS 3 []).get Reg.EDG_STAT_STATE = 3 ∧ (edgeS 2 []).edge.loaded = true ∧
    (let s := edgeS 4 [(Reg.EDG_EVMASK_EN, 2 ^ 31)]; bitAt (s.get Reg.EDG_EVMASK_EN) 31 = 1 ∧ s.flag Reg.EDG_CTL_FREEZE = false ∧
      s.get Reg.EDG_STAT_STATE = 4 ∧ (SMap.get none s.rst.targets 304).isNone = true) ∧
    bitAt ((edgeS 4 []).get Reg.EDG_EVMASK_EN) 31 = 0 :=
  ⟨by decide +kernel, by decide +kernel, by decide +kernel, by decide +kernel, fun _ h => (by cases h), by decide +kernel, by decide +kernel, by decide +kernel,
    by decide +kernel, by decide +kernel, by decide +kernel, by decide +kernel, by decide +kernel⟩

/-- Which CLOCK frames name a pin the manual leaves open (log entry 21): a clock whose frame does may be lost. -/
theorem witness_EdgeFabricCommands_clock (h : 1 ≤ Config.clockSource ((edgeS 2 []).clockFrame 7) ∧ Config.clockSource ((edgeS 2 []).clockFrame 7) ≤ 6) :
    (edgeS 2 []).edge.loaded = true ∧ (edgeS 2 []).pinClock (7 : Fin 8) = true := ⟨rfl, by
    show (decide _ && decide _) = true
    exact (Bool.and_eq_true _ _).mpr ⟨decide_eq_true h.1, decide_eq_true h.2⟩⟩

/-- A clock from the PLL runs, and its captures are taken. -/
theorem witness_EdgeFabricCommands_pll (h : Config.clockSource ((edgeS 2 [(Reg.EDG_STAT_CLKRUN, 128)]).clockFrame 7) = 0) :
    let s := edgeS 2 [(Reg.EDG_STAT_CLKRUN, 128)]
    s.edge.armed = some ((7 : Fin 8).val, 5) ∧ s.flag Reg.EDG_CTL_FREEZE = false ∧ s.edgeRuns = true ∧ bitAt (s.get Reg.EDG_STAT_CLKRUN) 7 = 1 ∧
      Config.clockSource (s.clockFrame (7 : Fin 8)) = 0 :=
  ⟨by decide +kernel, by decide +kernel, by decide +kernel, by decide +kernel, h⟩

/-- Engine 3 running, the turn of channel 127, the Kindling word `w` at its PC; a word in TX; registers set. -/
def kdlS (w : Nat) (l : List (Field × Nat)) : State :=
  let s := on ([(Reg.KDL_ESTAT_STATE 3, 1), (Reg.KDL_PMEM_WORD 3 0, w), (Reg.KDL_CCFG_QST 127, 1)] ++ l)
  { s with kdl := { Kindling.reset with engs := [(3, ⟨[127, 96], false, false⟩)], chans := [(127, { KChan.reset with tx := [9] })] } }
/-- A Kindling word (R291). -/
def kw (op rest : Nat) : Nat := op * 2 ^ 27 + rest

/-- The word that an instruction of `kindlingCommands` has in the witnesses, and the state where it stands at the PC. -/
def kwOf (op : Nat) : Nat := kw op 0
def kdlAt (op : Nat) : State := kdlS (kwOf op) [(Reg.KDL_CST_LATCHED 127, 1)]

theorem witness_KindlingInstructionsTakeTheirTurn : (∀ e ∈ kindlingCommands, (kdlAt e.1).kReady 127 e.1 = true ∧ (kdlAt e.1).kFails 127 = false ∧
      (e.2.2 127 (kwOf e.1) ((kdlAt e.1).see 1).sampled ((kdlAt e.1).see 1)).isSome = true) ∧
    (let s := kdlAt 0; ({ s with kdl := { s.kdl with bad := [512 * 3] } } : State).kFails 127 = true) := by decide +kernel

theorem witness_KindlingInstructionResults : (kdlS 0 []).kFails 127 = false ∧
    (∀ c ∈ [0, 1, 4], (kdlS (kw 1 (c * 2 ^ 23 + 511)) []).kReady 127 1 = true ∧ bitsOf (kw 1 (c * 2 ^ 23 + 511)) 26 23 = c) ∧
    (let s := kdlS (kw 2 0) []; s.kReady 127 2 = true ∧ bitsOf (kw 2 0) 26 25 = 0 ∧
      lineAt (s.see 1).sampled (bitsOf (kw 2 0) 7 0) = decide (bitAt (kw 2 0) 24 = 1)) ∧
    (let s := kdlS (kw 2 (2 ^ 25)) [(Reg.KDL_CST_LATCHED 127, 1)]; s.kReady 127 2 = true ∧ bitsOf (kw 2 (2 ^ 25)) 26 25 = 1 ∧ s.flag (Reg.KDL_CST_LATCHED 127) = true) ∧
    (let s := kdlS (kw 2 (2 ^ 26)) [(Reg.KDL_CST_TICK 127, 1)]; s.kReady 127 2 = true ∧ bitsOf (kw 2 (2 ^ 26)) 26 25 = 2 ∧ s.flag (Reg.KDL_CST_TICK 127) = true) ∧
    (∀ op ∈ [0x03, 0x04, 0x05, 0x06, 0x07, 0x08, 0x09, 0x0A, 0x0B, 0x0C, 0x0D, 0x0E, 0x0F], (kdlS (kw op 0) []).kReady 127 op = true) ∧
    (bitAt (kw 4 (2 ^ 24)) 24 ≠ 0 ∧ (kdlS (kw 4 (2 ^ 24)) [(Reg.KDL_CSC_TXN 127, 32)]).get (Reg.KDL_CSC_TXN 127) ≠ 0) ∧
    (bitAt (kw 5 0) 24 = 0 ∧ bitsOf (kw 5 0) 26 25 = 0) ∧ (((kdlS (kw 6 0) []).kch 127).tx = [9]) ∧
    (bitAt (kw 7 0) 25 = 0 ∧ bitAt (kw 7 0) 26 = 0 ∧ (kdlS (kw 7 0) []).rxRoom 127 1 = true) ∧
    (kdlS (kw 7 0) [(Reg.KDL_CCFG_QST 127, 0)]).rxRoom 127 1 = false ∧
    ((kdlS (kw 0xE 0) [(Reg.KDL_CST_LATCHED 127, 1)]).rxRoom 127 2 = true ∧ (kdlS (kw 0xE 0) [(Reg.KDL_CST_LATCHED 127, 1)]).flag (Reg.KDL_CST_LATCHED 127) = true) := by
  decide +kernel

theorem witness_KindlingTurnsAndEngines : ((kdlS 0 []).kTurn 127 = true ∧ (kdlS 0 [(Reg.KDL_CEDGE_SLP 127, 65535)]).get (Reg.KDL_CEDGE_SLP 127) ≠ 0) ∧
    (let s := kdlS (kw 2 (2 ^ 24)) []; s.kTurn 127 = true ∧ s.kFails 127 = false ∧ s.get (Reg.KDL_CEDGE_SLP 127) = 0 ∧
      kStalls 127 (s.kWord 127) (s.see 0).sampled (s.see 0) = true) ∧
    (let s := kdlS 0 [(Reg.KDL_CEDGE_EDGE 127, 1), (Reg.KDL_CEDGE_LINE 127, 175)]
      let u : State := { s with edge := { Edge.reset with ek := 2 ^ 31 } }
      u.flag (Reg.KDL_CST_LATCHED 127) = false ∧ u.get (Reg.KDL_CEDGE_EDGE 127) = 1 ∧ u.get (Reg.KDL_CEDGE_LINE 127) = (175 : Fin 176).val ∧
      u.edge.ek.getLsbD (175 - 144) = true ∧ u.edge.ekWas.getLsbD (175 - 144) = !true) ∧
    (let s := kdlS 0 [(Reg.KDL_CEDGE_EDGE 127, 3), (Reg.KDL_CEDGE_LINE 127, 143)]
      let u : State := { s with edge := { Edge.reset with banks := List.replicate 2048 255 } }
      u.flag (Reg.KDL_CST_LATCHED 127) = false ∧ u.get (Reg.KDL_CEDGE_EDGE 127) = 3 ∧ u.get (Reg.KDL_CEDGE_LINE 127) = (143 : Fin 176).val ∧
      bitsOf (u.pinRecord 143) 3 0 ≠ 0) ∧
    (let s := kdlS 0 [(Reg.KDL_CPACE_INC 127, 5)]; s.get (Reg.KDL_ESTAT_STATE (127 / 32)) = 1 ∧ s.get (Reg.KDL_CPACE_INC 127) ≠ 0 ∧ (s.kch 127).phase < 2 ^ 32) ∧
    ((kdlS 0 []).kch 127).tx.length < (kdlS 0 []).txDepth 127 ∧
    (kdlS 0 [(Reg.KDL_CCFG_QST 127, 4)]).txDepth 127 ≤ ((kdlS 0 [(Reg.KDL_CCFG_QST 127, 4)]).kch 127).tx.length ∧
    (let s : State := { State.reset with kdl := { Kindling.reset with chans := [(127, { KChan.reset with rx := [9] })] } }; (s.kch 127).rx = [9]) ∧
    (State.reset.kch 127).rx = [] ∧ (kdlS 0 []).get (Reg.KDL_ESTAT_STATE 3) = 1 ∧ State.reset.get (Reg.KDL_ESTAT_STATE 3) = 0 ∧
    (8 : BitVec 4).getLsbD 3 = true ∧ (on [(Reg.KDL_ESTAT_STATE 3, 2)]).get (Reg.KDL_ESTAT_STATE 3) = 2 ∧ (State.reset.keng 3).start = false ∧ State.reset.enginesHeld = false ∧
    State.reset.inReset (256 + 3) = false ∧
    ({ State.reset with loader := some ⟨[], false, [], 0, [], Edge.reset⟩ } : State).enginesHeld = true ∧
    (({ on [(Reg.KDL_ESTAT_STATE 3, 2)] with kdl := { Kindling.reset with engs := [(3, ⟨[], true, true⟩)] } } : State).keng 3).start = true ∧
    ∀ d : Fin 4, State.reset.get (Reg.KDL_ESTAT_STATE d) ≠ 1 := by decide +kernel

/-! ## Witnesses: events, rings, windows -/

/-- MSI-X vector 0 of the PF unmasked, source 5 enabled. -/
def srcS (l : List (Field × Nat)) : State := { on ((Reg.EVT_SRC_EN 5, 1) :: l) with ep := { Endpoint.reset with msix := [(3, 0)] } }

theorem witness_RaisedSourcesSetFlagsAndSend : 1023 < 1024 ∧
    (∀ s ∈ [srcS [], srcS [(Reg.EVT_SRC_VEC 5, 1)], srcS [(Reg.EVT_SRC_FN 5, 5)]], s.flag (Reg.EVT_SRC_EN 5) = true ∧ s.flag (pendBit 5) = false) ∧
    ((srcS []).ep.hasVector (srcS []).hiv2 0 0 = true ∧ (srcS []).ep.masked 0 0 = false ∧ (srcS []).ep.d3hot.getLsbD 0 = false) ∧
    ((srcS []).ep.hasVector (srcS []).hiv2 0 1 = true ∧ (srcS []).ep.masked 0 1 = true) ∧ (srcS []).ep.hasVector (srcS []).hiv2 5 0 = false ∧
    State.reset.flag (Reg.EVT_SRC_EN 5) = false := by decide +kernel

theorem witness_EventAndPtmCommands : (listedSource 5 = true ∧ (srcS [(pendBit 5, 1)]).flag (pendBit 5) = true ∧ (0x80000000 : W32).getLsbD 31 = true ∧
      bitsOf (0x80000000 : W32).toNat 30 28 = 0 ∧ bitsOf (0x80000000 : W32).toNat 27 20 = 0 ∧ (srcS []).ep.hasVector (srcS []).hiv2 0 0 = true ∧
      (srcS []).ep.masked 0 0 = false ∧ (srcS []).ep.d3hot.getLsbD 0 = false) ∧ listedSource 1023 = false ∧
    (let s := (on [(Reg.EVT_SMIR_EN 0, 1)]).setSeq 0 { Seq.reset with mirrorDirty := true }; s.flag (Reg.EVT_SMIR_EN 0) = true ∧
      (s.seq 0).mirrorDirty = true) ∧
    (let s : State := { on [(Reg.HST_PTMCTL_PERIOD, 1)] with ep := { Endpoint.reset with ptmEnable := true, dialog := true }, kdl := { Kindling.reset with align := true } };
      s.ep.ptmEnable = true ∧ s.get Reg.HST_PTMCTL_PERIOD ≠ 0 ∧ s.ep.dialog = true ∧ s.kdl.align = true) ∧ State.reset.kdl.align = false := by decide +kernel

/-- HIV 3 chosen, ring 0 set up with 16 entries and two slots. -/
def setup (l : List (Field × Nat)) : State := on ([(Reg.HST_HIV_CHOSEN, 3), (Reg.HST_RCTL_RSIZE 0, 4), (Reg.HST_RMBOX_MBN 0, 2)] ++ l)
def ringS (r : Ring) (l : List (Field × Nat)) : State := (setup ((Reg.HST_RCTL_EN 0, 1) :: l)).setRing 0 r
def entryOf (flags addr : Nat) : List Byte := leBytes 8 5 ++ leBytes 4 addr ++ leBytes 4 flags ++ List.replicate 48 0
def compl : Completion := ⟨5, 0, 0, true, false, 0, 0, 0, 0⟩

theorem witness_RingsTakeJobsAndComplete :
    (let s := setup []; s.flag (Reg.HST_RCTL_EN 0) = false ∧ s.get Reg.HST_HIV_CHOSEN ≠ 0 ∧ s.ringSizeBad 0 = false ∧ s.ringAlignBad 0 = false ∧
      s.ringMboxBad 0 = false ∧ s.moduleReset = false) ∧ (setup [(Reg.HST_RCTL_RSIZE 0, 3)]).ringSizeBad 0 = true ∧
    (let s := ringS ring1 []; s.flag (Reg.HST_RCTL_EN 0) = true ∧ (15 : W32).toNat % 65536 < 2 ^ (s.ring 0).rsize ∧ 2 ^ (s.ring 0).rsize ≤ (16 : W32).toNat % 65536 ∧
      (s.ring 0).entry = none ∧ (s.ring 0).launch = none ∧ (s.ring 0).fetched ≠ (s.ring 0).tail ∧ s.get (Reg.SEQ_STATE_STATE 0) ≠ seqFaulted ∧
      (s.ring 0).ready = true ∧ s.ringFull 0 = false ∧ (s.ring 0).held = []) ∧
    ((entryOf 1 4).length = 64 ∧ entryFlags (entryOf 1 4) < 2 ∧ entryAddr (entryOf 1 4) % 4 = 0) ∧ 2 ≤ entryFlags (entryOf 2 4) ∧ entryAddr (entryOf 1 5) % 4 ≠ 0 ∧
    (let s := ringS { ring1 with entry := some (entryOf 1 4) } []; (s.ring 0).entry = some (entryOf 1 4) ∧ (s.ring 0).slots.length < (s.ring 0).mbn) ∧
    (let s := ringS { ring1 with launch := some 4 } []; (s.ring 0).launch = some 4 ∧ s.get (Reg.SEQ_STATE_STATE 0) = seqStopped ∧ (s.seq 0).disabled = false ∧
      s.inReset 0 = false) ∧
    (let s := ringS { ring1 with held := [compl] } []; (s.ring 0).held = [compl] ∧ s.ringFull 0 = false) ∧
    (∀ p : SeqId, State.reset.flag (Reg.HST_RCTL_EN p) = false) ∧ (dmaS.get (Reg.DMA_STAT_STATE 15) = 1 ∧ dmaS.get (Reg.DMA_HSP_SPACE 15) = 0) ∧
    (let s := State.reset.setStg 7 [xfer (desc 4 1) []]; (s.stg 7).find? (fun y => decide (y.slot = 5)) = some (xfer (desc 4 1) []) ∧
      (desc 4 1).dir = 0 ∧ (desc 4 1).mem = 1 ∧ s.mesh = [] ∧ (xfer (desc 4 1) []).packets ≠ 0) := by decide +kernel

/-- A window access of 8 bytes. -/
def win (fn : Fin 5) (bar off : Nat) (write : Bool) : WinAccess := ⟨fn, bar, off, write, List.replicate 8 7, 8⟩
def upS : State := { on [(Reg.HBM_STAT_STATE 0, 2)] with ep := { Endpoint.reset with vfEnable := true, numVfs := 4 } }

theorem witness_EndpointWindows : upS.moduleReset = false ∧
    (∀ w ∈ [true, false], upS.place (win 4 2 0x1FFFF8 w) = .hearth (0x200000 * 3 + 0x1FFFF8) ∧ (4 : Fin 5).val ≤ upS.vfs ∧
      (win 4 2 0x1FFFF8 w).off % 0x100000 + 8 ≤ 0x100000 ∧ upS.place (win 0 2 0 w) = .hbm 0 ∧ upS.beyondLimit (win 0 2 0 w) = false ∧ upS.hbmUp 0 8 = true) ∧
    (0 < 2 ^ upS.ep.bar2 - 0x4000000) ∧ (0x7FFFF8 < 0x800000) ∧ ((win 4 2 0x200000 true).off < 0x300000) ∧
    (let s := with_ upS [(Reg.HST_VFWIN_SIZE 3, 1)]; let limit := s.get (Reg.HST_VFWIN_SIZE 3) * 0x40000000
      limit < (win 4 4 0x3FFFFFF9 true).off + 8 ∧ ¬limit < (win 4 4 0x3FFFFFF8 true).off + 8) ∧
    (64 < (win 4 0 0x10039 true).off % 64 + 8 ∧ (win 4 0 0x10038 true).off = 0x10000 + 0x38 ∧ 0x38 + 8 ≤ 0x40 ∧ upS.spineBad = false) ∧
    upS.vfs < (4 : Nat) + 1 ∧ State.reset.vfs < (win 4 0 0 true).fn.val ∧
    (0xFFFFF8 - 0xF00000 + 8 ≤ 0x100000 ∧ List.replicate 8 (0 : Byte) ≠ []) ∧ upS.get (Reg.SEQ_STATE_STATE 0) = seqStopped ∧
    (code 0 []).get (Reg.SEQ_STATE_STATE 0) = seqRunning ∧ 64 < 63 % 64 + 2 ∧ (4 ≤ upS.vfs ∧ 2 ^ 32 - 1 < 2 ^ 32 ∧ 27 ≤ 38) := by decide +kernel

/-! ## Witnesses: the fabric -/

/-- Port 7 in state `st`, registers set; the module's serial is 50. -/
def portS (st : Nat) (l : List (Field × Nat)) : State :=
  let s := on ((Reg.FAB_PSTAT_STATE 7, st) :: l)
  { s with regs := (Reg.FAB_SERIAL_SERIAL.off, 50) :: s.regs }
/-- Port 7 ACTIVE with link state `q`. -/
def linkS (q : Port) (l : List (Field × Nat)) : State := { portS 5 l with ports := [(7, q)] }
/-- A CAP message. -/
def capM (vmin vmax : Nat) : CapMsg := ⟨vmin, vmax, 77, false, 0, false, 0, 0, false⟩
/-- A frame that carries the packet `k`. -/
def frameOf (k : Packet) (seq : BitVec 16) (good : Bool) : Frame := ⟨frameSlots false k, seq, 0, [], good⟩
/-- A remote packet of class `cls` for module `dest` (R353). -/
def far (cls cmd dest : Nat) : Packet := ⟨putBits (putBits (mkHeader cls cmd 0 0 4 4 33 0 9 0 0 0) 253 253 1) 231 216 dest, []⟩
/-- A broadcast of that class (R354). -/
def castP (cls : Nat) : Packet := ⟨putBits (far cls 0x40 0).header 252 252 1, []⟩

theorem witness_PortsTrainAndFramesCarryPackets :
    ((portS 0 [(Reg.FAB_CTL_EN, 1), (Reg.FAB_PCTL_EN 7, 1)]).get (Reg.FAB_PSTAT_STATE 7) = 0 ∧
      (portS 0 [(Reg.FAB_CTL_EN, 1), (Reg.FAB_PCTL_EN 7, 1)]).portOn 7 = true ∧
      State.reset.inReset (264 + 7) = false) ∧
    ((portS 1 []).get (Reg.FAB_PSTAT_STATE 7) = 1 ∧ ((portS 1 []).port 7).cable = true) ∧ (portS 2 []).get (Reg.FAB_PSTAT_STATE 7) = 2 ∧
    (portS 3 []).get (Reg.FAB_PSTAT_STATE 7) = 3 ∧
    ((portS 4 [(Reg.FAB_PCTL_VMAX 7, 2)]).get (Reg.FAB_PSTAT_STATE 7) = 4 ∧ (portS 4 [(Reg.FAB_PCTL_VMAX 7, 2)]).capReason 7 (capM 1 3) = 0 ∧
      (portS 4 [(Reg.FAB_PCTL_VMAX 7, 2)]).capReason 7 (capM 3 3) ≠ 0) ∧
    (portS 6 []).get (Reg.FAB_PSTAT_STATE 7) = 6 ∧
    ((portS 5 []).get (Reg.FAB_PSTAT_STATE 7) = 5 ∧ ∀ c ∈ (portS 5 []).fabric.coll, (7 : Fin 8).val ∉ c.children ∧ (portS 5 []).fabric.parent ≠ some (7 : Fin 8).val) ∧
    (let q := { Port.reset with rxSeq := 65535, retrySeq := 3, retries := 6 };
      let k := far 0 1 2;
      (linkS q []).get (Reg.FAB_PSTAT_STATE 7) = 5 ∧ ((frameOf k 65535 true).crcGood = true ∧ (frameOf k 65535 true).seq.toNat = ((linkS q []).port 7).rxSeq ∧
        (frameOf k 65535 true).slots = frameSlots false k) ∧ (frameOf k 0 false).crcGood = false ∧
      ((∀ x ∈ (frameOf k 0 true).slots, bitsOf x.tag.toNat 7 5 ≤ 2) ∧ (frameOf k 0 true).seq.toNat ≠ ((linkS q []).port 7).rxSeq) ∧
      (if ((linkS q []).port 7).retrySeq = (3 : BitVec 16).toNat then ((linkS q []).port 7).retries + 1 else 1) < 8 ∧
      8 ≤ (if (({ q with retries := 7 } : Port)).retrySeq = (3 : BitVec 16).toNat then ({ q with retries := 7 } : Port).retries + 1 else 1) ∧
      (linkS { q with retries := 7 } []).fabric.coll = []) := by decide +kernel

/-- A fabric enabled in discovered mode. -/
def fabS (f : Fabric) : State := { linkS Port.reset [(Reg.FAB_CTL_EN, 1)] with fabric := f }

/-- The modules of a ring of three, as discovery tells the root: one keeps its ID, one requests it, one requests another. -/
def mods : List (FabModule × Nat) :=
  [(⟨50, some 0, none, [some (60, 0)]⟩, 0), (⟨60, none, some 0, [some (50, 0), some (70, 0)]⟩, 1), (⟨70, none, some 9, [some (60, 1)]⟩, 2)]
/-- The tree of those modules, 50 the root. -/
def tree : List TreeEdge := [⟨60, 50, 0, 0⟩, ⟨70, 60, 0, 1⟩]

/-- The root, whose map names modules 50 and 9; and one with a packet at port 7. -/
def readyS : State := (fabS { Fabric.reset with bankEpoch := some 5, mapped := [50, 9] }).set Reg.FAB_STAT_ROOT 1
def fullS : State := { readyS with ports := [(7, { Port.reset with queue := [⟨0, true, true, 0⟩] })] }

theorem witness_ElectionsAndEpochs :
    (let f := { Fabric.reset with draining := some 5, bank := [(65535, (1 : W32))] }; (fabS f).fabric.draining = some 5 ∧
      SMap.wf (fun _ => 0) (fabS f).fabric.bank = true ∧ (fabS f).fabric.coll = []) ∧
    (let f := { Fabric.reset with bankEpoch := some 5, bankParent := some 3 }; (fabS f).fabric.bankEpoch = some 5 ∧ (fabS f).fabric.bankParent = some 3) ∧
    (readyS.fabric.bankEpoch = some 5 ∧ readyS.fabric.bankParent = none ∧ readyS.flag Reg.FAB_STAT_ROOT = true ∧
      (readyS.fabric.mapped.all (fun m => [50, (9 : W64)].contains m) && !readyS.fabric.mapped.all (fun m => [(9 : W64)].contains m)) = true ∧
      readyS.fabric.draining = none ∧ readyS.queuesEmpty = true ∧ fullS.queuesEmpty = false) ∧
    ((fabS Fabric.reset).discovers = true ∧ (fabS Fabric.reset).get (Reg.FAB_PSTAT_STATE 7) = 5 ∧
      keyLess (!true, (9 : W64).toNat) (fabS Fabric.reset).bestKey = true ∧ keyLess (fabS Fabric.reset).bestKey (fabS Fabric.reset).ownKey = false ∧
      (fabS Fabric.reset).flag Reg.FAB_STAT_ROOT = false) := by decide +kernel

theorem witness_ElectionsAndEpochs_maps :
    (let s := fabS Fabric.reset; s.fabric.bankEpoch ≠ some (5 : W32).toNat ∧ s.get Reg.FAB_EPOCH_EPOCH ≠ (5 : W32).toNat ∧
      s.get Reg.FAB_SERIAL_SERIAL = 50 ∧ idIn [(50, 3)] 50 = some 3 ∧ idIn [(60, 3)] 50 = none ∧ ([(60, (3 : BitVec 16))] : FabIds).all (fun x => decide (x.1 ≠ 50)) = true ∧
      ([(50, (3 : BitVec 16)), ((60 : W64), 4)].map (·.2)).Nodup ∧ (tree.find? (fun x => decide (x.child = 50))).isNone = true ∧
      ([(⟨50, 60, 7, 0⟩ : TreeEdge)].find? (fun x => decide (x.child = 50))).map (·.childPort.toNat) = some 7) ∧
    ((fabS { Fabric.reset with bankEpoch := some 5 }).fabric.bankEpoch = some (5 : W32).toNat ∧
      (fabS { Fabric.reset with bankEpoch := some 5 }).fabric.draining = none) ∧
    ((mods.map (·.1.serial)).Nodup ∧ idIn (assignIds mods) 50 = some 0 ∧ (∀ x ∈ mods, x.1.held ≠ some 9) ∧
      (∀ x ∈ mods, x.1.request = some 9 → (70 : W64).toNat ≤ x.1.serial.toNat) ∧
      ∀ x ∈ mods, x.1.held = some 0 → (50 : W64).toNat ≤ x.1.serial.toNat) ∧
    ((tree.find? (fun y => decide (y.child = 60))).map (·.parent) = some 50 ∧ (tree.find? (fun y => decide (y.child = 60))).map (·.parent) = some 50 ∧
      (60 : W64) ∉ ancestors tree tree.length 50) := by decide +kernel

/-- The route of module 3 with that entry, port 7 ACTIVE. -/
def routeS (e : Nat) : State := linkS Port.reset [(Reg.FAB_ROUTE_ENTRY 3, e), (Reg.FAB_CTL_EN, 1), (Reg.FAB_PSTAT_VER 7, 2)]
/-- A remote command packet (R360): serial, counter, operation, argument, zeros. -/
def cmdP (serial counter op : Nat) : Packet :=
  ⟨(far 3 0xC8 0).header, [BitVec.ofNat 256 (serial + 2 ^ 64 * counter + 2 ^ 128 * op + 2 ^ 160 * 0xFF), 0, 0, 0, 0, 0]⟩
def rcS (v : W64) : State :=
  let s := on [(Reg.FAB_CTL_RCEN, 1), (Reg.RST_OPT_BYTES 0, 0x20000)]
  { s with regs := (Reg.SEC_STAT_ENGBUSY.off, v) :: s.regs }

/-- A remote command that this module sent itself is under verification, or waits for its WACK to leave. -/
def verifyS (op : Nat) (done : Bool) : State :=
  { State.reset with fabric := { Fabric.reset with rcmd := some ⟨5, op, 0xFF, far 3 0xC8 0, done⟩ }, rst := { ResetCtl.reset with boot := none } }

theorem witness_ForwardingAndTheGateway :
    ((far 0 1 3).remote = true ∧ (far 0 1 3).bcast = false ∧ State.reset.fabric.draining = none ∧ (far 0 1 3).dest = 3) ∧
    bitAt ((routeS 0x800000).get (Reg.FAB_ROUTE_ENTRY (far 0 1 3).dest)) 23 = 1 ∧
    (let e := (routeS 0).get (Reg.FAB_ROUTE_ENTRY (far 0 1 3).dest); bitAt e 23 = 0 ∧ bitAt e 31 = 0 ∧ bitAt e 27 = 0) ∧
    ((far 0 1 3).cls = 0 ∧ (far 0 1 3).sfab = (routeS 0).get Reg.FAB_STAT_ID) ∧
    (let e := (routeS 0xF0000000).get (Reg.FAB_ROUTE_ENTRY (far 0 1 3).dest); let k := far 0 1 3; let s := routeS 0xF0000000;
      bitAt e 23 = 0 ∧ bitAt e 31 = 1 ∧ bitsOf e 30 28 = 7 ∧ s.portUp 7 = true ∧ s.fabric.static = false ∧ k.h 251 251 = 0 ∧
      ¬(k.cls = 3 ∧ k.cmd = 0xC8 ∧ s.get (Reg.FAB_PSTAT_VER 7) < 3) ∧ (s.port 7).queue = [] ∧ (s.port 7).unacked.length < 128 ∧
      k.data.length < 15 ∧ ∀ dl : Bool, k.data.length < (s.port 7).credits.getD (vcOf k.cls (dl && true && decide (2 ≤ s.get (Reg.FAB_PSTAT_VER 7)))) 0) ∧
    (∀ cls ∈ [0, 1, 2, 3], (far cls 0x40 3).remote = true ∧ ¬((far cls 0x40 3).cls = 3 ∧ (far cls 0x40 3).cmd = 0xC8) ∧ (far cls 0x40 3).cls = cls) ∧
    SMap.get none gwS.fabric.entries (9 : Fin 1024) = some ⟨1, 4, 2, 3⟩ ∧
    (∀ cls ∈ [0, 1, 2, 3], (castP cls).remote = true ∧ (castP cls).bcast = true ∧ (castP cls).cls = cls) ∧
    (∀ n ∈ State.reset.treePorts, State.reset.portUp n = false) := by decide +kernel

theorem witness_ForwardingAndTheGateway_rcmd :
    State.reset.flag Reg.FAB_CTL_RCEN = false ∧ (rcS 0).flag Reg.FAB_CTL_RCEN = true ∧ (rcS 0).optRcmd = true ∧
    (rcS 0xFFFFFFFF).flag Reg.SEC_STAT_ENGBUSY = true ∧
    ((rcS 0).flag Reg.SEC_STAT_ENGBUSY = false ∧ rcmdNat (cmdP 0 0 1) 8 8 ≤ (rcS 0).get Reg.FAB_RCNT_COUNT) ∧
    (∀ serial ∈ [0, 2 ^ 64 - 1], ∀ op ∈ [1, 2], let k := cmdP serial 5 op; (rcmdBytes k).length = 192 ∧ rcmdNat k 0 8 = serial ∧ rcmdNat k 16 2 = op ∧
      rcmdNat k 18 2 = 0 ∧ rcmdNat k 28 32 = 0 ∧ (rcS 0).get Reg.FAB_RCNT_COUNT < rcmdNat k 8 8) ∧
    (rcS 0).fabric.rcmd = none ∧
    (∀ op ∈ [1, 2], ∀ done ∈ [true, false], let s := verifyS op done
      s.fabric.rcmd = some ⟨5, op, 0xFF, far 3 0xC8 0, done⟩ ∧ s.rst.module = none ∧ s.rst.boot = none ∧
      (far 3 0xC8 0).sfab = s.get Reg.FAB_STAT_ID ∧ (far 3 0xC8 0).cls = 3 ∧ s.wackLeft (s.fabricReply (far 3 0xC8 0) 0x82 0) = true ∧
      ({ s with fabric := { s.fabric with arrivals := [⟨none, false, s.fabricReply (far 3 0xC8 0) 0x82 0⟩] } } : State).wackLeft
        (s.fabricReply (far 3 0xC8 0) 0x82 0) = false) := by decide +kernel

/-- With every gateway entry in use there is no free one, and with none in use there is one. -/
def gwFull : State := { State.reset with fabric := { Fabric.reset with entries := (List.range' 0 1024).map (fun i => (i, some ⟨0, 0, 0, 0⟩)) } }
theorem gwFull_get (e : GwEntry) (i : Nat) : ∀ n a, a ≤ i → i < a + n →
    SMap.get none ((List.range' a n).map (fun j => (j, some e))) i = some e := by
  intro n
  induction n with
  | zero => intro a h1 h2; omega
  | succ n ih =>
    intro a h1 h2
    simp only [List.range'_succ, List.map_cons, SMap.get]
    split
    · rfl
    · exact ih (a + 1) (by omega) (by omega)
theorem witness_ForwardingAndTheGateway_entries : (State.reset.freeEntry).isSome = true ∧ gwFull.freeEntry = none := by
  refine ⟨by decide +kernel, List.find?_eq_none.mpr fun i h => ?_⟩
  have e := gwFull_get ⟨0, 0, 0, 0⟩ i 1024 0 (by omega) (by have := List.mem_range.mp h; omega)
  show ¬ (SMap.get none gwFull.fabric.entries i).isNone = true
  unfold gwFull
  rw [e]
  decide

/-- With SEC_STAT at `v`: without a valid root a command is signed by no authorised key; one may verify against the factory root, which is an opaque
constant (log entry 10). -/
def rootS (v : W64) (s : State) : State := { s with regs := (Reg.SEC_STAT_FROOT.off, v) :: s.regs }
theorem witness_ForwardingAndTheGateway_signed : (rootS 0 (verifyS 2 false)).rcmdSigned (far 3 0xC8 0) = false := by decide +kernel
theorem witness_ForwardingAndTheGateway_verified (k : Packet) (h : verifies (Config.rootKey 0) ((rcmdBytes k).take 60) (((rcmdBytes k).drop 60).take 132) = true) :
    (rootS 0xFFFFFFFFFFFFFFFF (verifyS 2 false)).rcmdSigned k = true := by
  have a : (rootS 0xFFFFFFFFFFFFFFFF (verifyS 2 false)).rootValid 0 = true := by decide +kernel
  have b : issuerPermitted 0 purposeFabric = true := by decide
  simp only [State.rcmdSigned, List.any_eq_true]
  refine ⟨Config.rootKey 0, List.mem_filterMap.mpr ⟨0, List.mem_cons_self, ?_⟩, h⟩
  unfold State.authorised
  rw [a, b]
  rfl

/-- A command that carries the serial of the module, whatever it is. -/
theorem witness_ForwardingAndTheGateway_serial : ∃ serial : Nat, serial = Config.serial.toNat ∧ serial < 2 ^ 64 := ⟨_, rfl, Config.serial.isLt⟩

/-- Collective descriptor of partition 3, slot 15: a 64-bit sum of two members. -/
def collS (f : Fabric) : State :=
  { on [(Reg.FAB_CTL_CEN, 1)] with
    hearth := writeBytes [] (0x1FFF000 + 0x400 * 3 + 64 * 15) (leBytes 8 (7 + 2 * 2 ^ 36) ++ leBytes 8 64 ++ List.replicate 40 0 ++ leBytes 8 1)
    fabric := f }
/-- A context of that collective with one local member. -/
def ctx (count : Nat) : CollCtx := ⟨7, 0, 64, 3, count, 5, [⟨3, true, 0, 64⟩], [], []⟩

theorem witness_CollectivesCombineAndComplete :
    ((collS Fabric.reset).flag Reg.FAB_CTL_CEN = true ∧ bitAt ((collS Fabric.reset).get Reg.DBG_BFRZ_FRZ) 29 = 0) ∧
    (let s := collS Fabric.reset; let at_ := 0x1FFF000 + 0x400 * 3 + 64 * 15; let q (i : Nat) : Nat := leNat (s.hearthRead (at_ + 8 * i) 8);
      bitAt (q 7) 0 = 1 ∧ collFormatBad (q 0) (q 1) (q 2) (q 3) (q 4) (q 5) (q 6) = false ∧ s.collCtx (BitVec.ofNat 32 (q 0)) = none ∧
      s.fabric.coll.length < 64 ∧ s.fabric.parent = none ∧ bitsOf (q 0) 54 36 ≠ 1) ∧
    (let s := collS { Fabric.reset with coll := [ctx 1] }; let x : Partial := ⟨7, 0, 64, 3, 1, 2 ^ 64 - 5⟩; s.collCtx x.cid = some (ctx 1) ∧
      ((ctx 1).op = x.op ∧ (ctx 1).width = x.width ∧ (ctx 1).nmem = x.nmem ∧ s.fabric.parent = none ∧ 0 < (ctx 1).count ∧
        (ctx 1).count + x.count < (ctx 1).nmem) ∧
      (∀ m ∈ (ctx 1).members, m.part < 4) ∧ (ctx 1).members = [⟨3, true, 0, 64⟩] ∧
      hearthAt 3 0 (8 * cdiv (collWidth 0 64) 64) = some 0x600000 ∧ hearthAt 3 64 8 = some 0x600040 ∧
      0x600000 + 8 * cdiv (collWidth 0 64) 64 ≤ 0x600040) ∧
    (let s := linkS { Port.reset with credits := List.replicate 8 96 } [(Reg.FAB_CTL_CEN, 1)]
      let t : State := { s with fabric := { Fabric.reset with parent := some 7 } }
      t.collCtx 7 = none ∧ t.treePorts = [7] ∧ t.portUp 7 = true ∧ (t.port 7).queue = [] ∧ (t.port 7).unacked.length < 128 ∧
        0 < (t.port 7).credits.getD (vcOf 2 false) 0) := by decide +kernel

/-! ## Witnesses: recovery, repairs, resets, the store, debug -/

/-- A fault of kind `k` in partition 3, unit `u`. -/
def flt (k u : Nat) : FaultInfo := ⟨k, 3, none, u, false⟩
/-- A job open in partition 3. -/
def jobS (s : State) : State := s.setSeq 3 { s.seq 3 with job := some ⟨0, 0, false⟩ }

theorem witness_FaultsStartTheirRecovery :
    (let s := { State.reset with detected := [flt 2 5] }; flt 2 5 ∈ s.detected ∧ (flt 2 5).shared = false ∧ (flt 2 5).kind ≠ 0xC ∧
      s.recLog.length < 64 ∧ s.recordOnly (flt 2 5) = true ∧ (flt 2 5).step = none) ∧
    (∀ f ∈ [flt 2 5, flt 6 5], let s := jobS { State.reset with detected := [f], saved := [(3, some ⟨0, [], 0, 0, 0, [], 0, 0, ⟨false, false, false, false⟩, 0, 0, false, false, 0, 0, [], 0⟩)] };
      f ∈ s.detected ∧ s.recordOnly f = false ∧ s.recov 3 = none ∧ (s.seq 3).ckpt = none ∧ (firstAction f = 1 ∨ firstAction f = 2)) ∧
    (let s := (jobS { State.reset with detected := [flt 2 5] }).setPart 3 { Part.reset with opened := [⟨dsp 8, 6, 9, [], []⟩], results := [⟨6, 8, none, 0, [7], false⟩], streams := [⟨6, 0, 1, 6, 7, 0, [], false, false⟩] };
      flt 2 5 ∈ s.detected ∧ (s.part 3).results.map (·.upto) = [8] ∧ (s.part 3).streams.map (·.last) = [7] ∧ s.recov 3 = none ∧ (s.seq 3).ckpt = none ∧
        firstAction (flt 2 5) = 1 ∧ (flt 2 5).kind ≠ 0xD ∧ ((flt 2 5).step.map (·.toNat)).getD (s.part 3).confirmed < 8) ∧
    (flt 9 1033 ∉ State.reset.detected ∧ (flt 9 1033).kind = 9 ∧ (flt 9 1033).shared = false ∧ State.reset.recordOnly (State.reset.attributed (flt 9 1033)) = true ∧
      State.reset.recLog.length < 64) ∧
    (flt 0 2047 ∉ State.reset.detected ∧ (flt 0 2047).unit < 2048 ∧ 2 ^ 16 ≤ (flt 0 0x1FFFF).unit ∧ (flt 0 0x1FFFF).unit < 2 ^ 17) ∧
    (flt 8 27 ∉ dmaS.detected ∧ 12 ≤ (flt 8 27).unit ∧ (flt 8 27).unit < 28 ∧ dmaS.recLog.length < 64 ∧
      dmaS.get (Reg.DMA_STAT_STATE ((flt 8 27).unit - 12)) = 1) ∧
    (flt 0xC 0x10004 ∉ State.reset.detected ∧ (flt 0xC 0x10004).kind = 0xC ∧ State.reset.rst.module = none ∧ State.reset.optMcWarm = false ∧
      (flt 0xC 0x10004).unit / 2 ^ 16 % 16 ≤ 1 ∧ (State.reset.seq 3).haltReq = false ∧ bitAt (State.reset.get Reg.DBG_HALT_HALTED) 3 = 0) ∧
    ((8 : BitVec 4).getLsbD 3 = true ∧ State.reset.halted 3 = false ∧ (8 : BitVec 4).getLsbD 0 = false) ∧ State.reset.recLog.length ≤ 64 := by decide +kernel

/-- The recovery `r` of partition 3 under way, its frame four steps long. -/
def recS (r : Recovery) (l : List (Field × Nat)) : State :=
  { on ([(Reg.CRD_FRAME_FRAME 3, 4), (Reg.HBM_STAT_STATE 0, 2), (Reg.HBM_STAT_STATE 1, 2)] ++ l) with recovery := [(3, some r)] }
/-- An IDLE macro-instruction of three steps, the sixth. -/
def openIdle : OpenMacro := ⟨{ dsp 0 with aop := 0, param := 3 }, 6, 9, [], []⟩
/-- A checkpoint of partition 3: step 6, turf 0, one plane. -/
def ckpt0 : SavedSeq := ⟨6, [0], 0, 1, 8, [], 0, 0, ⟨false, false, false, false⟩, 0, 0, false, false, 0, 0, [], 0⟩

/-- A fault recovery with that action, stage and list. -/
def rec3 (f : FaultInfo) (action stage : Nat) (todo : List OpenMacro) : Recovery := ⟨f, action, stage, todo, none, 0, false⟩

theorem witness_ReplayAndRollbackRestore :
    (let r := rec3 (flt 2 5) 1 0 []; let s := recS r []; s.recov 3 = some r ∧ s.halted 3 = false ∧ 0 < s.frameLen 3) ∧
    (let r := rec3 (flt 2 5) 1 0 []; let s := (recS r []).setPart 3 { Part.reset with opened := [openIdle] };
      s.recov 3 = some r ∧ (s.part 3).opened = [openIdle] ∧ r.fault.step = none ∧ s.slotBad 3 openIdle = false ∧ (s.net.sync s.mesh).still = true) ∧
    (let r := rec3 (flt 2 5) 1 2 [openIdle]; let s := recS r []; r.stage = 2 ∧ r.todo = [openIdle] ∧ (s.part 3).issue = [] ∧ (s.part 3).stopped = false ∧
      (s.seq 3).micro = none ∧ r.unfinished = none ∧ aopMn openIdle.disp.aop = some .idle ∧ s.patchedAop 3 openIdle.disp.aop = false ∧
      0 < openIdle.disp.param.toNat ∧ openIdle.disp.param.toNat ≤ 8192) ∧
    (let s := { recS (rec3 (flt 6 5) 2 0 []) [] with saved := [(3, some ckpt0)] };
      SMap.get none s.saved (3 : SeqId) = some ckpt0 ∧ s.ckptUp 3 ckpt0 = true ∧ (s.diesOf 3).all s.dieEngines = true ∧
      s.flag (Reg.RST_SUBST_V 3) = false ∧ s.mesh = [] ∧ s.net = Net.reset ∧ ∀ u ∈ ckpt0.turfs, u < 64 ∧ s.phase u = 0) ∧
    (SMap.get none (recS (rec3 (flt 6 5) 2 0 []) []).saved (3 : SeqId) = none ∧ (flt 6 5).part = 3) ∧
    ((recS (rec3 (flt 6 5) 2 1 []) []).seq 3).disabled = false ∧
    (ckpt0.turfs.filter (fun v => decide (2 * (v / 32) + v % 8 / 4 = 0))).findIdx? (fun v => decide (v = 0)) = some 0 := by decide +kernel

/-- A snapshot slot whose parity bit is wrong. -/
theorem witness_ReplayAndRollbackRestore_parity :
    let s := recS (rec3 (flt 2 5) 1 0 []) [(Reg.TRF_CFG_ASSIGNED 0, 1), (Reg.TRF_STATE_STATE 0, 1), (Reg.TRF_CFG_PART 0, 3)]
    s.slotBad 3 { openIdle with parity := [(0, false)] } = true ∧ s.recLog.length < 64 := by
  refine ⟨List.any_eq_true.mpr ⟨0, List.mem_flatMap.mpr ⟨0, ?_, List.mem_flatMap.mpr ⟨0, by simp, List.mem_map.mpr ⟨0, by simp, by decide⟩⟩⟩, by decide⟩, by decide +kernel⟩
  have h : (recS (rec3 (flt 2 5) 1 0 []) [(Reg.TRF_CFG_ASSIGNED 0, 1), (Reg.TRF_STATE_STATE 0, 1), (Reg.TRF_CFG_PART 0, 3)]).serving 3 = [0] := by decide +kernel
  rw [h]
  simp

/-- The same checkpoint with the header that stands in HBM. -/
theorem witness_ReplayAndRollbackRestore_header : let s := recS (rec3 (flt 6 5) 2 0 []) []
    let c := { ckpt0 with header := s.hbmRead (s.ckptBase 3 ckpt0) 4096 }
    let t : State := { s with saved := [(3, some c)] }
    SMap.get none t.saved (3 : SeqId) = some c ∧ t.hbmRead (t.ckptBase 3 c) 4096 = c.header := ⟨rfl, rfl⟩

theorem witness_RepairsAndMarchTests : State.reset.moduleReset = false ∧
    (State.reset.outOfService (turfOfTile 1023) = true ∧ State.reset.flag (Reg.RST_RMAP_RET 1023) = false ∧ State.reset.flag (Reg.RST_RMAP_V 1023) = false) ∧
    (on [(Reg.TRF_STATE_STATE 63, 1)]).outOfService (turfOfTile 1023) = false ∧
    ((on [(Reg.RST_RMAP_V 1023, 1), (Reg.RST_RMAP_COL 1023, 63)]).flag (Reg.RST_RMAP_V 1023) = true ∧
      (on [(Reg.RST_RMAP_V 1023, 1), (Reg.RST_RMAP_COL 1023, 63)]).get (Reg.RST_RMAP_COL 1023) ≠ (0 : BitVec 6).toNat) ∧
    (on [(Reg.RST_RMAP_RET 1023, 1)]).flag (Reg.RST_RMAP_RET 1023) = true ∧
    (SMap.get none State.reset.march (63 : TurfId) = none ∧ State.reset.outOfService 63 = true) ∧
    (∀ back ∈ [0, 4], ∀ keep ∈ [true, false], let s : State := { (fenced 63 0).setFence 63 { Fence.open with wdraw := true } with march := [(63, some ⟨keep, back⟩)] };
      SMap.get none s.march (63 : TurfId) = some ⟨keep, back⟩ ∧ (s.fence 63).loader = false ∧ (s.fence 63).wdraw = true) := by decide +kernel

/-- The boot done, levels and targets as given, registers set. -/
def upR (r : ResetCtl) (l : List (Field × Nat)) : State := { on l with rst := { r with boot := none } }

theorem witness_SourcesAssertTheirReach :
    (∀ s ∈ [upR ResetCtl.reset [], { upR ResetCtl.reset [(Reg.RST_WDCFG_EN 3, 1)] with ep := { upS.ep with linkUp := true } }],
      s.rst.module = none ∧ s.rst.boot = none ∧ s.level 1 = false ∧ s.level 2 = false ∧ s.level 3 = false ∧ s.rst.hold = false ∧
      s.rst.refclk = true ∧ (∀ d, d < 5 → SMap.get 0 s.rst.temps d < 100) ∧ (∀ p : SeqId, SMap.get none s.rst.targets p = none) ∧
      SMap.get none s.rst.targets (256 + (0x30 : Byte).toNat) = none) ∧
    (upR { ResetCtl.reset with levels := [1] } []).level 1 = true ∧ (upR { ResetCtl.reset with refclk := false } []).rst.refclk = false ∧ (115 ≤ (115 : Byte).toNat) ∧ isBlock (0x30 : Byte).toNat = true ∧
    (let s := { upR ResetCtl.reset [(Reg.RST_WDCFG_EN 3, 1)] with ep := { upS.ep with linkUp := true } }; s.ep.linkUp = true ∧
      (3 : SeqId).val < s.vfs ∧ s.flag (Reg.RST_WDCFG_EN 3) = true ∧ s.wdHeld 3 = false ∧ s.optWdWarm = false) := by decide +kernel

theorem witness_SourcesAssertTheirReach_map : SMap.wf resetValue (upR ResetCtl.reset []).regs = true := rfl

theorem witness_ResetsRunTheirSequence :
    (∀ idle ∈ [true, false], let x : Pending := ⟨2, 7, idle, some 31⟩; let s := upR { ResetCtl.reset with targets := [(3, some x)] } [];
      SMap.get none s.rst.targets (3 : SeqId) = some x ∧ s.rst.refclk = true ∧ s.targetIdle 3 = true ∧ s.get Reg.RST_IDLETMO_TMO ≠ 0 ∧
      (∀ i ∈ x.record, i < 32) ∧ s.rst.module = none ∧ SMap.wf (fun _ => 0) s.regs = true) ∧
    (let x : Pending := ⟨4, 1, true, none⟩; let s := upR { ResetCtl.reset with module := some x } []; s.rst.module = some x ∧ s.rst.levels = [] ∧
      s.rst.refclk = true ∧ s.rst.hold = false) ∧
    State.reset.rst.boot = some (4, 1) ∧ ({ State.reset with rst := { ResetCtl.reset with boot := some (3, 7) } } : State).rst.boot = some (3, 7) ∧
    ((on [(Reg.HBM_STAT_STATE 7, 1)]).get (Reg.HBM_STAT_STATE 7) = 1 ∧ (on [(Reg.HBM_STAT_STATE 7, 1)]).get (Reg.HBM_CFG_RATE 7) % 3 ≤ (2 : Fin 3).val ∧
      (on [(Reg.HBM_STAT_STATE 7, 1)]).phase (64 + 7) < 3) ∧
    ((upR ResetCtl.reset []).rst.boot = none ∧ (upR ResetCtl.reset []).rst.module = none ∧ (upR ResetCtl.reset []).flag Reg.RST_BOOT_FWFAIL = false ∧
      ∀ n : Fin 8, (upR ResetCtl.reset []).get (Reg.HBM_STAT_STATE n) ≠ 1) ∧
    (on [(Reg.RST_BOOT_FWFAIL, 1)]).flag Reg.RST_BOOT_FWFAIL = true ∧ State.reset.rst.targets = [] ∧
    (let s := on [(Reg.PWR_TURFOFF_OFF, 2 ^ 63), (Reg.MSH_FENCE_PHASE 63, 4)]; bitAt (s.get Reg.PWR_TURFOFF_OFF) (63 : TurfId) = 1 ∧ s.phase 63 = 4 ∧
      s.flag (Reg.TRF_CFG_ASSIGNED 63) = false) ∧ bitAt (State.reset.get Reg.PWR_TURFOFF_OFF) (63 : TurfId) = 0 := by decide +kernel

/-- A module whose configuration flash is empty boots without a firmware slot. -/
theorem witness_ResetsRunTheirSequence_firmware : State.reset.rst.boot = some (4, 1) ∧ State.reset.flash = [] ∧
    (0 : BitVec 4).getLsbD 3 = false ∧ (8 : BitVec 4).getLsbD 3 = true := by decide +kernel

theorem witness_WatchdogsAndTemperature : (0x80000000 : W32).getLsbD 31 = true ∧
    ((1 : BitVec 4).getLsbD 0 = true ∧ (on [(Reg.RST_WDCFG_EN 0, 1)]).flag (Reg.RST_WDCFG_EN 0) = true ∧ (on [(Reg.RST_WDCFG_EN 0, 1)]).flag (Reg.RST_WDCFG_EN 3) = false) ∧
    (State.reset.get Reg.PWR_TWARN_LIMIT ≤ (255 : Byte).toNat ∧ State.reset.rst.warned = false) ∧
    ({ State.reset with rst := { ResetCtl.reset with warned := true } } : State).rst.warned = true ∧
    ((0 : Byte).toNat + 5 ≤ State.reset.get Reg.PWR_TWARN_LIMIT ∧ ∀ d, d < 5 → SMap.get 0 State.reset.rst.temps d + 5 ≤ State.reset.get Reg.PWR_TWARN_LIMIT) := by
  decide +kernel

/-- A STORE of area `a` under way. -/
def storing (a : Nat) : State := { State.reset with sec := { Sec.reset with store := some ⟨a, 0x10000, [1, 2], []⟩ } }

theorem witness_StoresAndReports : State.reset.moduleReset = false ∧
    ({ State.reset with rst := { ResetCtl.reset with module := some ⟨3, 3, true, none⟩ } } : State).moduleReset = true ∧ ((storing 0).sec.store.isSome = true ∧ State.reset.sec.store = none) ∧
    (∀ area ∈ [6, 7], gives (State.reset.storeContent area) ([], []) = false ∧ 5 < area) ∧ gives (State.reset.storeContent 3) ([], []) = true ∧
    (storing 3).sec.store = some ⟨3, 0x10000, [1, 2], []⟩ ∧ (storing 0).sec.store = some ⟨0, 0x10000, [1, 2], []⟩ ∧
    (∀ a ∈ [0x1FFC, 0x10000], let v := (on [(Reg.NVM_RDADDR_ADDR, a)]).get Reg.NVM_RDADDR_ADDR / 4 * 4; v + 4 ≤ 0x2000 ∨ 0x10000 ≤ v) ∧
    State.reset.sec.report = none ∧ ({ State.reset with sec := { Sec.reset with report := some [1] } } : State).sec.report = some [1] ∧
    State.reset.fabric.rcmd = none := by decide +kernel

/-- A session of level 2 open. -/
def dbgS (l : List (Field × Nat)) : State := on ([(Reg.DBG_STAT_OPEN, 1), (Reg.DBG_STAT_LEVEL, 2)] ++ l)

theorem witness_SessionsOpenAndClose :
    (State.reset.dbgOpen = false ∧ State.reset.flag Reg.DBG_STAT_LOCKED = false ∧ (List.replicate 32 (0 : Byte)).length = 32 ∧
      (on [(Reg.RST_OPT_BYTES 4, 0)]).optPwen = false ∧ State.reset.optPwHash = 0) ∧
    ((List.replicate 296 (0 : Byte)).length = 296 ∧ (List.replicate 132 (0 : Byte)).length = 132 ∧ State.reset.certSigned (List.replicate 296 0) = false) ∧
    (let x : Kex := ⟨[], [], 2, [], []⟩; ({ State.reset with dbg := { Debug.reset with kex := some x } } : State).dbg.kex = some x) ∧
    (dbgS []).dbgOpen = true ∧ (on [(Reg.DBG_STAT_LOCKED, 1)]).flag Reg.DBG_STAT_LOCKED = true ∧ (dbgS [(Reg.RST_OPT_BYTES 5, 5)]).optIdle ≠ 0 := by decide +kernel

/-- A password opens a session where its hash is that of the option bytes, a certificate that the signature engine accepts a key exchange; what
those engines answer is not the model's to say. -/
theorem witness_SessionsOpenAndClose_keys (s : State) (pw cert sig : List Byte) (x : Kex) (hp : pw.length = 32 ∧ s.optPwen = true ∧ s.optPwHash ≠ 0 ∧
    (Config.sha512 pw).toNat = s.optPwHash) (hc : s.certSigned cert = true ∧ s.certAllows cert purposeDebug = true)
    (hk : verifies (certKey x.cert) x.signed sig = true) :
    ∃ pw cert sig x, (Config.sha512 pw).toNat = s.optPwHash ∧ s.certSigned cert = true ∧ verifies (certKey (Kex.cert x)) x.signed sig = true :=
  ⟨pw, cert, sig, x, hp.2.2.2, hc.1, hk⟩

theorem witness_DebugAccessesTheirSpaces : State.reset.dbgOpen = false ∧
    ((on [(Reg.DBG_STAT_OPEN, 1), (Reg.DBG_STAT_LEVEL, 1)]).dbgOpen = true ∧ (on [(Reg.DBG_STAT_OPEN, 1), (Reg.DBG_STAT_LEVEL, 1)]).get Reg.DBG_STAT_LEVEL = 1) ∧
    ((dbgS []).peek 0 0x100000 4).isSome = true ∧ (∀ r ∈ touched 0x100000 4, reportsDevice r.2 = false) ∧
    (((dbgS []).senseAll 0x300000 4).peek 0 0x300000 4).isSome = true ∧ peRegAt (2 ^ 29 + 1023 + 11 * 2 ^ 16) 512 = some (1023, 11) ∧ (dbgS []).peek 0 0x3FFFFFF 2 = none ∧
    (0x1FFFFFFFF8 + 8 ≤ 0x2000000000 ∧ (dbgS [(Reg.HBM_STAT_STATE 7, 2)]).hbmUp 0x1FFFFFFFF8 8 = true) ∧
    tileAt (1023 + 8191 * 2 ^ 16) 8 = some (1023, 8191) ∧ (dbgS []).get Reg.DBG_STAT_LEVEL = 2 ∧
    (([1] : List Byte) ≠ [] ∧ (List.replicate 8 (1 : Byte)).length ≤ 1091 ∧ 0x7FFFF8 + 8 ≤ 0x800000) ∧
    (bitAt ((dbgS []).get Reg.DBG_TFRZ_FRZ) (turfOfTile 1023) = 0 ∧ bitAt ((dbgS [(Reg.DBG_TFRZ_FRZ, 2 ^ 63)]).get Reg.DBG_TFRZ_FRZ) (turfOfTile 1023) = 1) ∧
    debugBarred 0x8078 8 = true ∧ ((dbgS []).halted (0x300000 / 0x100000) = false ∧ 0x3FFFF8 % 0x100000 + 8 ≤ 0x100000) ∧
    (bitAt ((dbgS []).get Reg.DBG_BFRZ_FRZ) 27 ≠ (0x8000000 : W32).toNat / 2 ^ 27 % 2) ∧ (dbgS []).optRsten = false ∧
    (let s := { dbgS [(Reg.RST_OPT_BYTES 4, 2)] with rst := { ResetCtl.reset with boot := none } }; s.optRsten = true ∧ s.rst.module = none ∧ s.rst.boot = none) := by
  decide +kernel

/-- Sequencer 3 in state `st` with a session open. -/
def hltS (st : Nat) (q : Seq) (l : List (Field × Nat)) : State := (dbgS ((Reg.SEQ_STATE_STATE 3, st) :: l)).setSeq 3 q

theorem witness_HaltsStopAndResume :
    (∀ st ∈ [0, 1, 2, 3], let s := hltS st Seq.reset []; s.dbgOpen = true ∧ s.get Reg.DBG_STAT_LEVEL = 2 ∧ bitAt (s.get Reg.DBG_HALT_HALTED) 3 = 0 ∧
      s.get (Reg.SEQ_STATE_STATE 3) = st ∧ st ≠ seqHalted ∧ s.atBoundary 3 = true) ∧
    (hltS 1 { Seq.reset with micro := ((microS 0 none []).seq 0).micro } []).atBoundary 3 = false ∧
    (∀ l ∈ [0, 1, 3], let s := hltS 4 { Seq.reset with left := some l } [(Reg.DBG_HALT_HALTED, 8)]; bitAt (s.get Reg.DBG_HALT_HALTED) 3 = 1 ∧
      s.get (Reg.SEQ_STATE_STATE 3) = seqHalted ∧ (s.seq 3).left = some l ∧ l < 4 ∧ s.recov 3 = none ∧ (s.seq 3).stopReq = false) := by decide +kernel

theorem witness_SmbusRepliesChangeNothing : (upR ResetCtl.reset []).coreCold = false ∧
    (upR { ResetCtl.reset with module := some ⟨4, 1, true, none⟩ } []).coreCold = true ∧ (5 < (6 : Byte).toNat ∧ 5 < (255 : Byte).toNat) := by decide +kernel

/-! ## Ill-formed commands -/

theorem test_wf_registerWrite : (Instr.registerWrite false 60 (List.replicate 8 0)).wf = false ∧ (Instr.registerWrite false 0 []).wf = false := by decide +kernel
theorem test_wf_shadowWrite : (Instr.shadowWrite 2 0).wf = false ∧ (Instr.shadowWrite 0x4000000 0).wf = false := by decide +kernel
theorem test_wf_readClear : (Instr.readClear 32 64).wf = false ∧ (Instr.readClear 32 0).wf = false := by decide +kernel
theorem test_wf_oversize : (Instr.bar0OversizeAccess 0 64 true).wf = false := by decide +kernel
theorem test_wf_packets : ∀ i ∈ [Instr.read, .write, .rdata, .wack, .err, .sdata, .ping, .mread, .mwrite, .badcmd, .gatewayDelivery, .rcmd,
    .fabricForward none false, .broadcast none, fun k => .poisonedFlit k 0 0 true false],
    (i ⟨0, List.replicate 256 0⟩).wf = false := by decide +kernel
theorem test_wf_instructionMemoryWrite : (Instr.instructionMemoryWrite 0 0xFFFFF [0, 0]).wf = false := by decide +kernel
theorem test_wf_windowAccess : (Instr.windowAccess ⟨0, 4, 0, false, [], 8⟩).wf = false ∧ (Instr.windowAccess ⟨1, 2, 0, true, [], 8⟩).wf = false := by decide +kernel
theorem test_wf_entryFetch : (Instr.entryFetch 0 (List.replicate 63 0)).wf = false := by decide +kernel
theorem test_wf_frameReceive : (Instr.frameReceive 0 ⟨[], 0, 0, List.replicate 8 0, true⟩).wf = false ∧
    (Instr.frameReceive 0 ⟨List.replicate 15 ⟨0, 0⟩, 0, 0, List.replicate 8 32, true⟩).wf = false := by decide +kernel
theorem test_wf_collective : (Instr.collectivePartial 0 ⟨0, 9, 64, 2, 1, 0⟩).wf = false ∧ (Instr.collectiveResult ⟨0, 0, 0, 2, 1, 0⟩ ⟨0, none⟩).wf = false := by decide +kernel
theorem test_wf_debug : (Instr.kexInit [] [] 256).wf = false ∧ (Instr.debugRead 0 0 65536).wf = false := by decide +kernel
theorem test_wf_debugWrite : (Instr.debugWrite 0 0 (List.replicate 1092 0)).wf = false := by decide +kernel

/-! ## Units written out from the encodings of the manual -/

/-- The units of R161's example: REP 8 is 0x00001002. -/
theorem test_decode_rep : (ins (code 0x00001002 [])).mn = .rep ∧ (ins (code 0x00001002 [])).num = 8 := by decide +kernel
/-- MOV with D = POST P3 and X = REV P2 is 0x00C50C60 (R161). -/
theorem test_decode_mov : (ins (code 0x00C50C60 [])).mn = .mov ∧ (ins (code 0x00C50C60 [])).kw = 0 ∧ (ins (code 0x00C50C60 [])).d = .post 3 1 ∧
    (ins (code 0x00C50C60 [])).a = .rev 2 1 := by decide +kernel
/-- The third access of R161's table: P2 = 2 reads at 0x0480 and steps to 3. -/
theorem test_rev : let s := on [(Reg.SEQ_PADDR_VALUE 0 2, 2), (Reg.SEQ_PDESC_VALUE 0 2, 3 * 2 ^ 56 + 0x400)];
    s.specAddr 0 (.rev 2 1) 64 true = 0x480 ∧ (s.specStep 0 (.rev 2 1) 64).ptr 0 2 = 3 := by decide +kernel
/-- A long ADD of 64 bits, D = word 3, A = word 1, B = word 2: the fields of R158 written out. -/
theorem test_decode_add : (ins (code 0x0002000100030345 [])).mn = .sAdd ∧ (ins (code 0x0002000100030345 [])).sz = 8 ∧
    (ins (code 0x0002000100030345 [])).d = .abs 3 ∧ (ins (code 0x0002000100030345 [])).a = .abs 1 ∧ (ins (code 0x0002000100030345 [])).b = .abs 2 := by decide +kernel

/-! ## Integer edge results of the scalar core at 64 bits (R190) -/

/-- The long instruction `maj` with sources `a` and `b` in words 1 and 2 of data memory and its destination at word 3. -/
def two (maj md a b : Nat) : State := { code (long maj 3 md 3 1 2) [] with hearth := writeBytes [] 8 (leBytes 8 a ++ leBytes 8 b) }
/-- Whether word 3, or words 3 and 4, and Z, N, C, V are as given. -/
def sees (n v : Nat) (z c1 c2 c3 : Bool) (t : State) : Bool :=
  decide (leNat (t.hearthRead 24 n) = v) && decide ((t.seq 0).sst = ⟨z, c1, c2, c3⟩)
/-- The outstanding result of sequencer 0 written. -/
def late (p : State → Bool) (t : State) : Bool := after (.outstandingResultWrite 0 0) t p

theorem test_add_overflow : after (.scalarAdd 0) (two 0x11 0 0x7FFFFFFFFFFFFFFF 1) (sees 8 0x8000000000000000 false true false true) = true := by decide +kernel
theorem test_add_carry : after (.scalarAdd 0) (two 0x11 0 0xFFFFFFFFFFFFFFFF 1) (sees 8 0 true false true false) = true := by decide +kernel
theorem test_sub_borrow : after (.scalarSub 0) (two 0x13 0 0 1) (sees 8 0xFFFFFFFFFFFFFFFF false true false false) = true := by decide +kernel
theorem test_sub_overflow : after (.scalarSub 0) (two 0x13 0 0x8000000000000000 1) (sees 8 0x7FFFFFFFFFFFFFFF false false true true) = true := by decide +kernel
theorem test_mulw_signed : after (.mulw 0) (two 0x1F 1 0x8000000000000000 0x8000000000000000)
    (late (sees 16 (0x4000000000000000 * 2 ^ 64) false false true true)) = true := by decide +kernel
theorem test_mulw_unsigned : after (.mulw 0) (two 0x1F 0 0xFFFFFFFFFFFFFFFF 0xFFFFFFFFFFFFFFFF)
    (late (sees 16 (0xFFFFFFFFFFFFFFFE * 2 ^ 64 + 1) false true true true)) = true := by decide +kernel
theorem test_divs_overflow : after (.scalarDivs 0) (two 0x31 0 0x8000000000000000 0xFFFFFFFFFFFFFFFF)
    (late (sees 16 0x8000000000000000 false true false true)) = true := by decide +kernel
theorem test_divs_truncates : after (.scalarDivs 0) (two 0x31 0 (2 ^ 64 - 7) 2)
    (late (sees 16 ((2 ^ 64 - 1) * 2 ^ 64 + (2 ^ 64 - 3)) false true false false)) = true := by decide +kernel
theorem test_divu_zero : after (.scalarDivu 0) (two 0x30 0 200 0) (late (sees 16 (200 * 2 ^ 64 + 0xFFFFFFFFFFFFFFFF) false true true false)) = true := by
  decide +kernel

/-! ## Array division (R59), floating point, the Flue -/

theorem test_array_division : divide 8 false 200 7 = (28, 4, 0) ∧ divide 8 true 156 7 = (encodeInt (-14) 8, encodeInt (-2) 8, 0) ∧
    divide 8 true 100 (encodeInt (-7) 8) = (encodeInt (-14) 8, 2, 0) ∧ divide 8 false 200 0 = (0xFF, 200, 8) ∧
    divide 8 true 128 255 = (128, 0, 4) := by decide +kernel
/-- CMPU of x = 1 and y = 3 on a bundle of two PEs: the borrow that enters comes from the head, so PE 0 compares 1 with 1 (R49). -/
theorem test_truncated_flags : let s : State := { State.reset with peMem := [(0, 0x101), (1, 0x100)] }
    let D := { dsp 8 with kw := 1, lx := 1, ly := 1, ld := 1, aop := 0x024 }
    (s.regsAfter .cmpu D 0 0).c = true ∧ (s.regsAfter .cmpu D 0 0).f = false ∧ (s.regsAfter .cmpu D 0 1).c = false := by decide +kernel
/-- In (8, 24): 1 + 1 = 2 exactly; 1 / 3 rounds to nearest and sets E[0] (R69, R70). -/
theorem test_fp : fpAdd ⟨8, 24⟩ 0 false 0x3F800000 0x3F800000 = (0x40000000, 0) ∧ fpDiv ⟨8, 24⟩ 0 false 0x3F800000 0x40400000 = (0x3EAAAAAB, 1) := by
  decide +kernel

/-! ## Other commands -/

/-- The all-zero short unit is NOP; it advances the PC by its four bytes (R158). -/
theorem test_nop : after (.nop 0) (code 0 []) (fun t => decide (t.pc 0 = 4)) = true := by decide +kernel
theorem test_start : after (.start 0) (on [(Reg.SEQ_ENTRY_ENTRY 0, 3)]) (fun t => decide (t.pc 0 = 12) && decide (t.get (Reg.SEQ_STATE_STATE 0) = 1)) = true := by
  decide +kernel
/-- A watchdog of TIMEOUT 0 counts one unit (R405). -/
theorem test_watchdog : after (.watchdogEnable 3 0x80000000) State.reset (fun t => decide (t.get (Reg.RST_WDCNT_REMAIN 3) = 1000)) = true := by decide +kernel
/-- SHO takes from bit 31 downward with TXMSB and shifts left (R293). -/
theorem test_sho : after (.sho 127) (kdlS (kw 4 0) [(Reg.KDL_CSHF_TXMSB 127, 1), (Reg.KDL_CTXS_VALUE 127, 0xC0000001), (Reg.KDL_CSC_TXN 127, 32)])
    (fun t => decide (t.get (Reg.KDL_CTXS_VALUE 127) = 0x80000002) && decide (t.get (Reg.KDL_CSC_TXN 127) = 31)) = true := by decide +kernel
/-- An idle step counts in KTIME and nothing else of the registers (log entry 2). -/
theorem test_idle_tick : (match step State.reset with | .next t => decide (t.regs ≠ []) && decide (t.peMem = []) | _ => false) = true := by decide +kernel

end Sys2Proof.Tests
end

section
/-!
The statements of 00_scope.md: canonical memories (log entry 3), register writes, register reads and shadow writes (R5, R7, R9).
-/
namespace Sys2Proof.Machine

/-! ## Every step keeps the memories canonical -/

/-- Every command completes and keeps what its unit's lemma says it keeps: one arm a constructor, as in the dispatch. -/
theorem exec_keeps {z s : State} (i : Instr) (hk : Keeps z s) : ResKeeps z (exec i s) :=
  match i with
  | .registerWrite dbg off data => execRegisterWrite_keeps dbg off data hk
  | .shadowWrite off value => execShadowWrite_keeps off value hk
  | .readClear off len => execReadClear_keeps off len hk
  | .burstIssue p => execBurstIssue_keeps p hk
  | .burstArrival p => execBurstArrival_keeps p hk
  | .step p => execStep_keeps p hk
  | .retentionEntry t => execRetentionEntry_keeps t hk
  | .retentionWake t => execRetentionWake_keeps t hk
  | .paceWindow t steps => execPaceWindow_keeps t steps hk
  | .paceClear t => execPaceClear_keeps t hk
  | .mov p => execMov_keeps p hk
  | .extu p => execExtu_keeps p hk
  | .exts p => execExts_keeps p hk
  | .bool p => execBool_keeps p hk
  | .add p => execAdd_keeps p hk
  | .sub p => execSub_keeps p hk
  | .addv p => execAddv_keeps p hk
  | .subv p => execSubv_keeps p hk
  | .cmpu p => execCmpu_keeps p hk
  | .cmps p => execCmps_keeps p hk
  | .shl p => execShl_keeps p hk
  | .shru p => execShru_keeps p hk
  | .shrs p => execShrs_keeps p hk
  | .mulu p => execMulu_keeps p hk
  | .muls p => execMuls_keeps p hk
  | .divu p => execDivu_keeps p hk
  | .divs p => execDivs_keeps p hk
  | .fset p => execFset_keeps p hk
  | .sprd p => execSprd_keeps p hk
  | .idle p => execIdle_keeps p hk
  | .fadd p => execFadd_keeps p hk
  | .fsub p => execFsub_keeps p hk
  | .fmul p => execFmul_keeps p hk
  | .fdiv p => execFdiv_keeps p hk
  | .fsqrt p => execFsqrt_keeps p hk
  | .ffma p => execFfma_keeps p hk
  | .fmulx p => execFmulx_keeps p hk
  | .fcvt p => execFcvt_keeps p hk
  | .ftol p => execFtol_keeps p hk
  | .ltof p => execLtof_keeps p hk
  | .fcmp p => execFcmp_keeps p hk
  | .fcmps p => execFcmps_keeps p hk
  | .fcls p => execFcls_keeps p hk
  | .fneg p => execFneg_keeps p hk
  | .fabs p => execFabs_keeps p hk
  | .eclr p => execEclr_keeps p hk
  | .rany p => execRany_keeps p hk
  | .rall p => execRall_keeps p hk
  | .rcnt p => execRcnt_keeps p hk
  | .rsumu p => execRsumu_keeps p hk
  | .rsums p => execRsums_keeps p hk
  | .rmaxu p => execRmaxu_keeps p hk
  | .rmaxs p => execRmaxs_keeps p hk
  | .rminu p => execRminu_keeps p hk
  | .rmins p => execRmins_keeps p hk
  | .tmaxu p => execTmaxu_keeps p hk
  | .tmaxs p => execTmaxs_keeps p hk
  | .tminu p => execTminu_keeps p hk
  | .tmins p => execTmins_keeps p hk
  | .flueResultWrite p => execFlueResultWrite_keeps p hk
  | .nop p => execNop_keeps p hk
  | .rep p => execRep_keeps p hk
  | .b p => execB_keeps p hk
  | .call p => execCall_keeps p hk
  | .ret p => execRet_keeps p hk
  | .iret p => execIret_keeps p hk
  | .wait p => execWait_keeps p hk
  | .waitFlagSatisfied p => execWaitFlagSatisfied_keeps p hk
  | .sig p => execSig_keeps p hk
  | .fbar p => execFbar_keeps p hk
  | .jobs p => execJobs_keeps p hk
  | .jobe p => execJobe_keeps p hk
  | .ldp p => execLdp_keeps p hk
  | .stp p => execStp_keeps p hk
  | .pset p => execPset_keeps p hk
  | .padd p => execPadd_keeps p hk
  | .snum p => execSnum_keeps p hk
  | .setl p => execSetl_keeps p hk
  | .setlm p => execSetlm_keeps p hk
  | .stgq p => execStgq_keeps p hk
  | .halt p => execHalt_keeps p hk
  | .scalarMov p => execScalarMov_keeps p hk
  | .scalarAdd p => execScalarAdd_keeps p hk
  | .adc p => execAdc_keeps p hk
  | .scalarSub p => execScalarSub_keeps p hk
  | .sbc p => execSbc_keeps p hk
  | .cmp p => execCmp_keeps p hk
  | .and p => execAnd_keeps p hk
  | .or p => execOr_keeps p hk
  | .xor p => execXor_keeps p hk
  | .scalarShl p => execScalarShl_keeps p hk
  | .shr p => execShr_keeps p hk
  | .sar p => execSar_keeps p hk
  | .tas p => execTas_keeps p hk
  | .lr p => execLr_keeps p hk
  | .sc p => execSc_keeps p hk
  | .mulw p => execMulw_keeps p hk
  | .scalarDivu p => execScalarDivu_keeps p hk
  | .scalarDivs p => execScalarDivs_keeps p hk
  | .scalarFadd p => execScalarFadd_keeps p hk
  | .scalarFsub p => execScalarFsub_keeps p hk
  | .scalarFmul p => execScalarFmul_keeps p hk
  | .scalarFdiv p => execScalarFdiv_keeps p hk
  | .scalarFsqrt p => execScalarFsqrt_keeps p hk
  | .scalarFfma p => execScalarFfma_keeps p hk
  | .scalarFcmp p => execScalarFcmp_keeps p hk
  | .scalarFcvt p => execScalarFcvt_keeps p hk
  | .fstr p => execFstr_keeps p hk
  | .fstw p => execFstw_keeps p hk
  | .outstandingResultWrite p k => execOutstandingResultWrite_keeps p k hk
  | .trapDelivery p => execTrapDelivery_keeps p hk
  | .interruptEntry p => execInterruptEntry_keeps p hk
  | .start p => execStart_keeps p hk
  | .stop p => execStop_keeps p hk
  | .clrf p => execClrf_keeps p hk
  | .stepMicroword p => execStepMicroword_keeps p hk
  | .loop p => execLoop_keeps p hk
  | .jump p => execJump_keeps p hk
  | .bft p => execBft_keeps p hk
  | .bff p => execBff_keeps p hk
  | .bpt p => execBpt_keeps p hk
  | .microCall p => execMicroCall_keeps p hk
  | .microRet p => execMicroRet_keeps p hk
  | .read pkt => execRead_keeps pkt hk
  | .write pkt => execWrite_keeps pkt hk
  | .rdata pkt => execRdata_keeps pkt hk
  | .wack pkt => execWack_keeps pkt hk
  | .err pkt => execErr_keeps pkt hk
  | .sdata pkt => execSdata_keeps pkt hk
  | .ping pkt => execPing_keeps pkt hk
  | .mread pkt => execMread_keeps pkt hk
  | .mwrite pkt => execMwrite_keeps pkt hk
  | .badcmd pkt => execBadcmd_keeps pkt hk
  | .poisonedFlit pkt tile port crc header => execPoisonedFlit_keeps pkt tile port crc header hk
  | .reservedFlitArrival tile port p flit => execReservedFlitArrival_keeps tile port p flit hk
  | .fenceRequest d => execFenceRequest_keeps d hk
  | .fenceStopComplete d => execFenceStopComplete_keeps d hk
  | .fenceDrainComplete d => execFenceDrainComplete_keeps d hk
  | .fenceClamp d => execFenceClamp_keeps d hk
  | .fenceTimeout d => execFenceTimeout_keeps d hk
  | .fenceRelease d => execFenceRelease_keeps d hk
  | .turfRejoin t => execTurfRejoin_keeps t hk
  | .descriptorAccept e p => execDescriptorAccept_keeps e p hk
  | .transferComplete e slot bytes d => execTransferComplete_keeps e slot bytes d hk
  | .stagingResend e slot => execStagingResend_keeps e slot hk
  | .checkpoint p => execCheckpoint_keeps p hk
  | .checkpointComplete p => execCheckpointComplete_keeps p hk
  | .selfRefreshEntry n => execSelfRefreshEntry_keeps n hk
  | .selfRefreshExit n => execSelfRefreshExit_keeps n hk
  | .hbmPowerOff n => execHbmPowerOff_keeps n hk
  | .hbmRetrainComplete n => execHbmRetrainComplete_keeps n hk
  | .dmaStart c => execDmaStart_keeps c hk
  | .dmaAbort c => execDmaAbort_keeps c hk
  | .dmaDescriptorComplete c desc bytes d => execDmaDescriptorComplete_keeps c desc bytes d hk
  | .load auto image readGood => execLoad_keeps auto image readGood hk
  | .loaded => execLoaded_keeps hk
  | .commit => execCommit_keeps hk
  | .bareCommit => execBareCommit_keeps hk
  | .apply => execApply_keeps hk
  | .abort => execAbort_keeps hk
  | .withdrawal t => execWithdrawal_keeps t hk
  | .return t => execReturn_keeps t hk
  | .readbackArm clk edges => execReadbackArm_keeps clk edges hk
  | .readbackCapture clk => execReadbackCapture_keeps clk hk
  | .readbackDataRead => execReadbackDataRead_keeps hk
  | .edgeFreeze on => execEdgeFreeze_keeps on hk
  | .clkloss n => execClkloss_keeps n hk
  | .edgeEvent n => execEdgeEvent_keeps n hk
  | .kindlingNop c => execKindlingNop_keeps c hk
  | .br c lines => execBr_keeps c lines hk
  | .kindlingWait c lines => execKindlingWait_keeps c lines hk
  | .sleep c => execSleep_keeps c hk
  | .sleepTurn c => execSleepTurn_keeps c hk
  | .stallTurn c lines => execStallTurn_keeps c lines hk
  | .sho c => execSho_keeps c hk
  | .shi c lines => execShi_keeps c lines hk
  | .take c => execTake_keeps c hk
  | .give c => execGive_keeps c hk
  | .drv c => execDrv_keeps c hk
  | .smp c lines => execSmp_keeps c lines hk
  | .dir c => execDir_keeps c hk
  | .ldi c => execLdi_keeps c hk
  | .opr c => execOpr_keeps c hk
  | .arm c => execArm_keeps c hk
  | .stmp c => execStmp_keeps c hk
  | .evt c => execEvt_keeps c hk
  | .edgeLatch c rising line => execEdgeLatch_keeps c rising line hk
  | .tick c => execTick_keeps c hk
  | .engineStop e => execEngineStop_keeps e hk
  | .cleanStop e => execCleanStop_keeps e hk
  | .engineStart e => execEngineStart_keeps e hk
  | .globalStart mask => execGlobalStart_keeps mask hk
  | .kindlingFreeze e on => execKindlingFreeze_keeps e on hk
  | .align => execAlign_keeps hk
  | .txEnqueue c word => execTxEnqueue_keeps c word hk
  | .rxDequeue c => execRxDequeue_keeps c hk
  | .doorbell p value => execDoorbell_keeps p value hk
  | .entryFetch p entry => execEntryFetch_keeps p entry hk
  | .mailboxDelivery p => execMailboxDelivery_keeps p hk
  | .launch p => execLaunch_keeps p hk
  | .completionWrite p => execCompletionWrite_keeps p hk
  | .ringEnable p => execRingEnable_keeps p hk
  | .ringDisable p => execRingDisable_keeps p hk
  | .completionHeadWrite p value => execCompletionHeadWrite_keeps p value hk
  | .hivOffer value => execHivOffer_keeps value hk
  | .flr fn => execFlr_keeps fn hk
  | .bar0OversizeAccess off len write => execBar0OversizeAccess_keeps off len write hk
  | .instructionMemoryWrite p addr data => execInstructionMemoryWrite_keeps p addr data hk
  | .windowAccess a => execWindowAccess_keeps a hk
  | .linkTrained speed => execLinkTrained_keeps speed hk
  | .eventEnable n value => execEventEnable_keeps n value hk
  | .pendingClear j mask => execPendingClear_keeps j mask hk
  | .vectorUnmask fn vec => execVectorUnmask_keeps fn vec hk
  | .waitFlagMirrorWrite p => execWaitFlagMirrorWrite_keeps p hk
  | .ptmTrigger => execPtmTrigger_keeps hk
  | .ptmPeriodExpiry => execPtmPeriodExpiry_keeps hk
  | .ptmDialogComplete t => execPtmDialogComplete_keeps t hk
  | .portEnable n => execPortEnable_keeps n hk
  | .partnerDetected n => execPartnerDetected_keeps n hk
  | .equalisationDone n rate112 lanes => execEqualisationDone_keeps n rate112 lanes hk
  | .frameLock n => execFrameLock_keeps n hk
  | .cap n msg => execCap_keeps n msg hk
  | .trainingTimeout n => execTrainingTimeout_keeps n hk
  | .failedRetry n => execFailedRetry_keeps n hk
  | .linkDown n => execLinkDown_keeps n hk
  | .cablePresentChange n present => execCablePresentChange_keeps n present hk
  | .frameReceive n frame => execFrameReceive_keeps n frame hk
  | .retry n seq => execRetry_keeps n seq hk
  | .keyFlood n appointed serial => execKeyFlood_keeps n appointed serial hk
  | .rootDeclare => execRootDeclare_keeps hk
  | .heartbeat => execHeartbeat_keeps hk
  | .electionTimeout => execElectionTimeout_keeps hk
  | .parentMap epoch root ids edges arrival => execParentMap_keeps epoch root ids edges arrival hk
  | .epoch value => execEpoch_keeps value hk
  | .epochDrainTimeout => execEpochDrainTimeout_keeps hk
  | .fabricForward arrival dl pkt => execFabricForward_keeps arrival dl pkt hk
  | .gatewayDelivery pkt => execGatewayDelivery_keeps pkt hk
  | .gatewayTimeout n => execGatewayTimeout_keeps n hk
  | .broadcast arrival pkt => execBroadcast_keeps arrival pkt hk
  | .collectiveSubmit p slot => execCollectiveSubmit_keeps p slot hk
  | .collectivePartial n part => execCollectivePartial_keeps n part hk
  | .collectiveResult part res => execCollectiveResult_keeps part res hk
  | .collectiveTimeout cid => execCollectiveTimeout_keeps cid hk
  | .rcmd pkt => execRcmd_keeps pkt hk
  | .rcmdVerified good => execRcmdVerified_keeps good hk
  | .faultReport f => execFaultReport_keeps f hk
  | .replay p => execReplay_keeps p hk
  | .rollback p => execRollback_keeps p hk
  | .rollbackResume p => execRollbackResume_keeps p hk
  | .rollbackRequest mask => execRollbackRequest_keeps mask hk
  | .columnRepair tile col => execColumnRepair_keeps tile col hk
  | .retire tile => execRetire_keeps tile hk
  | .marchTestStart t preserving => execMarchTestStart_keeps t preserving hk
  | .marchTestEnd t psave tiles => execMarchTestEnd_keeps t psave tiles hk
  | .recoveryLogRead => execRecoveryLogRead_keeps hk
  | .poweron asserted aux => execPoweron_keeps asserted aux hk
  | .drwLongLow asserted => execDrwLongLow_keeps asserted hk
  | .perst asserted => execPerst_keeps asserted hk
  | .hotReset => execHotReset_keeps hk
  | .linkDownReset => execLinkDownReset_keeps hk
  | .software reach target => execSoftware_keeps reach target hk
  | .watchdog p => execWatchdog_keeps p hk
  | .watchdogEnable p value => execWatchdogEnable_keeps p value hk
  | .watchdogKick mask => execWatchdogKick_keeps mask hk
  | .thermalTrip die reading => execThermalTrip_keeps die reading hk
  | .thermalWarning die reading => execThermalWarning_keeps die reading hk
  | .refclkLoss => execRefclkLoss_keeps hk
  | .refclkReturn => execRefclkReturn_keeps hk
  | .idleReached target => execIdleReached_keeps target hk
  | .idleTimeout target => execIdleTimeout_keeps target hk
  | .resetRelease target => execResetRelease_keeps target hk
  | .coldBoot info => execColdBoot_keeps info hk
  | .warmBoot info => execWarmBoot_keeps info hk
  | .hbmTrainingComplete n rate failedSome => execHbmTrainingComplete_keeps n rate failedSome hk
  | .ready ms => execReady_keeps ms hk
  | .ashClear => execAshClear_keeps hk
  | .turfOff t => execTurfOff_keeps t hk
  | .svnburn => execSvnburn_keeps hk
  | .attestation => execAttestation_keeps hk
  | .attestationDone => execAttestationDone_keeps hk
  | .store area => execStore_keeps area hk
  | .storeComplete good => execStoreComplete_keeps good hk
  | .storeReadData => execStoreReadData_keeps hk
  | .openPw password => execOpenPw_keeps password hk
  | .kexInit cert key level => execKexInit_keeps cert key level hk
  | .kexFinish signature => execKexFinish_keeps signature hk
  | .close => execClose_keeps hk
  | .sessionIdleTimeout => execSessionIdleTimeout_keeps hk
  | .kill => execKill_keeps hk
  | .debugStatus => execDebugStatus_keeps hk
  | .debugRead space addr len => execDebugRead_keeps space addr len hk
  | .debugWrite space addr data => execDebugWrite_keeps space addr data hk
  | .debugHalt mask => execDebugHalt_keeps mask hk
  | .debugResume mask => execDebugResume_keeps mask hk
  | .debugStep p => execDebugStep_keeps p hk
  | .debugReset reach target => execDebugReset_keeps reach target hk
  | .turfFreeze mask => execTurfFreeze_keeps mask hk
  | .turfUnfreeze mask => execTurfUnfreeze_keeps mask hk
  | .blockFreeze value => execBlockFreeze_keeps value hk
  | .smbusStatus => execSmbusStatus_keeps hk
  | .smbusTemp => execSmbusTemp_keeps hk
  | .smbusPower => execSmbusPower_keeps hk
  | .smbusSerial => execSmbusSerial_keeps hk
  | .ashlast => execAshlast_keeps hk
  | .smbusUnknownCommand code => execSmbusUnknownCommand_keeps code hk
  | .completionTimeout r => execCompletionTimeout_keeps r hk
  | .readyReport serial => execReadyReport_keeps serial hk
  | .junctionSensorReading die reading => execJunctionSensorReading_keeps die reading hk
  | .configurationMemoryParity => execConfigurationMemoryParity_keeps hk
  | .controllerStateParity firmware addr => execControllerStateParity_keeps firmware addr hk
  | .newAop p => execNewAop_keeps p hk

/-- A step, of a command or of an idle cycle, leaves canonical memories canonical. -/
theorem step_memWf {s t : State} (hwf : s.memWf = true) (hstep : step s = .next t) : t.memWf = true := by
  unfold step at hstep
  split at hstep
  case h_1 =>
    cases hstep
    exact (State.idle_keeps (Keeps.refl s)).mem hwf
  case h_2 i rest _ =>
    obtain ⟨u, hu, hkeeps⟩ := exec_keeps i (Keeps.refl { s with pending := rest })
    cases hu.symm.trans hstep
    exact hkeeps.mem hwf

/-- Settles O3: the canonical form is part of what every command and every idle cycle keeps. -/
theorem stepKeepsMemoriesCanonical : Obligations.StepKeepsMemoriesCanonical :=
  fun _ _ hwf hstep => step_memWf hwf hstep

/-! ## The CMT fields of a register and its shadow (R9, R260) -/

/-- Masks of the fields that `p` picks, gathered from `a` on: bit `i` is in `a` or in such a field. -/
theorem getLsbD_foldl_fieldMask (p : FieldRow → Bool) (fs : List FieldRow) (hfs : ∀ f ∈ fs, f.lo ≤ f.hi ∧ f.hi < 64) (a : W64) (i : Nat) :
    (fs.foldl (fun a f => if p f then a ||| fieldMask f.hi f.lo else a) a).getLsbD i =
      (a.getLsbD i || fs.any (fun f => p f && decide (f.lo ≤ i) && decide (i ≤ f.hi))) := by
  induction fs generalizing a with
  | nil => simp
  | cons f fs ih =>
    obtain ⟨hlo, hhi⟩ := hfs f (by simp)
    rw [List.foldl_cons, ih (fun g hg => hfs g (by simp [hg])), List.any_cons]
    cases hp : p f
    · simp
    · have hi64 : (decide (i < 64) && decide (f.lo ≤ i) && decide (i ≤ f.hi)) = (decide (f.lo ≤ i) && decide (i ≤ f.hi)) := by
        by_cases h : i ≤ f.hi
        · simp [show i < 64 by omega]
        · simp [h]
      simp [getLsbD_fieldMask _ _ _ hlo, hi64, Bool.or_assoc]

/-- The CMT bits of a register are the bits of its CMT fields. -/
theorem RegRow.getLsbD_cmtMask (r : RegRow) (hr : ∀ f ∈ r.fields, f.lo ≤ f.hi ∧ f.hi < 64) (i : Nat) :
    r.cmtMask.getLsbD i = r.fields.any (fun f => f.cmt && decide (f.lo ≤ i) && decide (i ≤ f.hi)) := by
  simpa [RegRow.cmtMask] using getLsbD_foldl_fieldMask (·.cmt) r.fields hr 0 i

/-- A register with a CMT field has CMT bits. -/
theorem RegRow.cmtMask_ne_zero (r : RegRow) (hr : ∀ f ∈ r.fields, f.lo ≤ f.hi ∧ f.hi < 64) (hc : r.fields.any (·.cmt) = true) :
    r.cmtMask ≠ 0 := by
  obtain ⟨f, hf, hcmt⟩ := List.any_eq_true.mp hc
  intro h0
  have hbit : r.cmtMask.getLsbD f.lo = true := by
    rw [r.getLsbD_cmtMask hr]
    exact List.any_eq_true.mpr ⟨f, hf, by simp [hcmt, (hr f hf).1]⟩
  simp [h0] at hbit

/-- A write that covers no CMT bit holds nothing. -/
theorem State.holdShadow_of_none (s : State) (off : Nat) (r : RegRow) (mask v : W64) (h : mask &&& r.cmtMask = 0) :
    s.holdShadow off r mask v = s := by
  simp [State.holdShadow, h]

/-- While the loader is Idle, what a write gives the CMT bits it covers is held. -/
theorem State.holdShadow_of_idle (s : State) (off : Nat) (r : RegRow) (mask v : W64) (h : mask &&& r.cmtMask ≠ 0)
    (hidle : s.get Reg.HST_SIFSTAT_STATE = 0) :
    s.holdShadow off r mask v =
      { s with
        shadow := SMap.insert s.shadow off
          ((SMap.get (s.reg off) s.shadow off &&& r.cmtMask &&& ~~~(mask &&& r.cmtMask)) ||| (v &&& (mask &&& r.cmtMask))) } := by
  simp only [State.holdShadow, if_neg h, hidle, ne_eq, not_true_eq_false, if_false]

/-- What is held: of the CMT bits `c`, those under the mask as written and the others as they were in `x`. -/
theorem getLsbD_held (x c m v : W64) (i : Nat) :
    ((x &&& c &&& ~~~(m &&& c)) ||| (v &&& (m &&& c))).getLsbD i = (c.getLsbD i && if m.getLsbD i then v.getLsbD i else x.getLsbD i) := by
  by_cases hi : i < 64
  · simp only [BitVec.getLsbD_or, BitVec.getLsbD_and, BitVec.getLsbD_not, hi, decide_true, Bool.true_and]
    cases c.getLsbD i <;> cases m.getLsbD i <;> simp
  · simp [BitVec.getLsbD_of_ge c i (by omega)]

/-- In any other state of the loader it is ignored, with IGNW. -/
theorem State.holdShadow_of_busy (s : State) (off : Nat) (r : RegRow) (mask v : W64) (h : mask &&& r.cmtMask ≠ 0)
    (hbusy : s.get Reg.HST_SIFSTAT_STATE ≠ 0) : s.holdShadow off r mask v = s.set Reg.HST_SIFSTAT_IGNW 1 := by
  simp only [State.holdShadow, if_neg h, if_pos hbusy]

/-- IGNW reads as 1 once it is set. -/
theorem State.get_set_IGNW (s : State) : (s.set Reg.HST_SIFSTAT_IGNW 1).get Reg.HST_SIFSTAT_IGNW = 1 :=
  State.get_set_same s _ 1 (by decide)

/-- Only the register of the field set reads otherwise. -/
theorem SameRegs.set (s : State) (f : Field) (v : Nat) : SameRegs [f.off] s (s.set f v) :=
  fun _ hoff => State.reg_set_other s f v (by simpa using hoff)

/-- Settles O8: a shadow write covers all bits, so what it holds is the value's bits in the CMT fields. -/
theorem shadowWriteIsHeldForCommit : Obligations.ShadowWriteIsHeldForCommit := by
  intro s off value r a b hreg hr hc
  have hexec : exec (.shadowWrite off value) s = .next (s.holdShadow off r (BitVec.allOnes 64) value) := by
    simp only [exec, execShadowWrite, hreg]
  have hm : BitVec.allOnes 64 &&& r.cmtMask ≠ 0 := BitVec.allOnes_and.symm ▸ r.cmtMask_ne_zero hr hc
  refine ⟨fun hidle => ⟨_, hexec, ?_⟩, fun hbusy => ⟨_, hexec, ?_⟩⟩
  · rw [State.holdShadow_of_idle s off r _ value hm hidle]
    refine ⟨rfl, fun i => ?_, fun k hk => SMap.get_insert_other _ _ _ hk⟩
    rw [SMap.get_insert_same, getLsbD_held, ← r.getLsbD_cmtMask hr, BitVec.getLsbD_allOnes, Bool.and_comm]
    by_cases hi : i < 64
    · simp [hi]
    · simp [BitVec.getLsbD_of_ge _ i (Nat.le_of_not_lt hi)]
  · rw [State.holdShadow_of_busy s off r _ value hm hbusy]
    exact ⟨rfl, s.get_set_IGNW, SameRegs.set s _ _⟩

/-! ## The fields of a register under a write (R5, R7) -/

/-- One bit of a field: what a write leaves of the bit `old`, where `m` says that the write covers it and `v` is the bit written (R7). -/
def FieldRow.writeBit (f : FieldRow) (m old v : Bool) : Bool :=
  if f.cmt then old
  else match f.own, f.acc with
    | .row, _ => old
    | .rise, .rw => old && (v || !m)
    | _, .rw => (old && !m) || (v && m)
    | _, .w1c => old && !(v && m)
    | _, .w1s => old || (v && m)
    | _, _ => old

/-- A bit that a write does not cover stays. -/
@[simp] theorem FieldRow.writeBit_uncovered (f : FieldRow) (old v : Bool) : f.writeBit false old v = old := by
  unfold FieldRow.writeBit
  split
  · rfl
  · split <;> simp

/-- A write of a field acts bit by bit, on the bits of the field that the mask covers. -/
theorem getLsbD_fieldWrite (f : FieldRow) (old mask v : W64) (i : Nat) :
    (fieldWrite f old mask v).getLsbD i =
      f.writeBit ((mask &&& fieldMask f.hi f.lo).getLsbD i) (old.getLsbD i) (v.getLsbD i) := by
  by_cases hi : i < 64
  · fun_cases fieldWrite f old mask v <;> simp_all +zetaDelta [FieldRow.writeBit]
  · have h0 (w : W64) : w.getLsbD i = false := BitVec.getLsbD_of_ge w i (Nat.le_of_not_lt hi)
    rw [h0, h0, h0, h0, FieldRow.writeBit_uncovered]

/-- The bits of a field: those from `lo` to `hi`. -/
theorem getLsbD_fieldWrite_inside (f : FieldRow) (old mask v : W64) {i : Nat} (hi64 : f.hi < 64) (hlo : f.lo ≤ i) (hhi : i ≤ f.hi) :
    (fieldWrite f old mask v).getLsbD i = f.writeBit (mask.getLsbD i) (old.getLsbD i) (v.getLsbD i) := by
  rw [getLsbD_fieldWrite, BitVec.getLsbD_and, getLsbD_fieldMask _ _ _ (Nat.le_trans hlo hhi)]
  simp [hlo, hhi, show i < 64 by omega]

/-- A write of a field leaves the bits outside it. -/
theorem getLsbD_fieldWrite_outside (f : FieldRow) (old mask v : W64) {i : Nat} (hf : f.lo ≤ f.hi) (h : i < f.lo ∨ f.hi < i) :
    (fieldWrite f old mask v).getLsbD i = old.getLsbD i := by
  have hmask : (mask &&& fieldMask f.hi f.lo).getLsbD i = false := by
    rw [BitVec.getLsbD_and, getLsbD_fieldMask _ _ _ hf]
    obtain h | h := h <;> simp [Nat.not_le.mpr h]
  rw [getLsbD_fieldWrite, hmask, FieldRow.writeBit_uncovered]

/-- What a write of `v` under `mask` makes of a register with the fields `fs`. -/
def writeFields (fs : List FieldRow) (mask v old : W64) : W64 := fs.foldl (fun a f => fieldWrite f a mask v) old

/-- Bits outside the fields stay. -/
theorem getLsbD_writeFields_outside (fs : List FieldRow) (mask v old : W64) {i : Nat} (hfs : ∀ f ∈ fs, f.lo ≤ f.hi)
    (h : ∀ f ∈ fs, i < f.lo ∨ f.hi < i) : (writeFields fs mask v old).getLsbD i = old.getLsbD i := by
  induction fs generalizing old with
  | nil => rfl
  | cons f fs ih =>
    exact (ih _ (fun g hg => hfs g (by simp [hg])) (fun g hg => h g (by simp [hg]))).trans
      (getLsbD_fieldWrite_outside f old mask v (hfs f (by simp)) (h f (by simp)))

/-- Where no two fields share a bit, each field takes its own write. -/
theorem getLsbD_writeFields_inside (fs : List FieldRow) (mask v old : W64) (hdis : fs.Pairwise (fun f g => f.hi < g.lo ∨ g.hi < f.lo))
    (hfs : ∀ f ∈ fs, f.lo ≤ f.hi ∧ f.hi < 64) {f : FieldRow} (hf : f ∈ fs) {i : Nat} (hlo : f.lo ≤ i) (hhi : i ≤ f.hi) :
    (writeFields fs mask v old).getLsbD i = f.writeBit (mask.getLsbD i) (old.getLsbD i) (v.getLsbD i) := by
  induction fs generalizing old with
  | nil => cases hf
  | cons g fs ih =>
    obtain ⟨hg, hfs'⟩ := List.forall_mem_cons.mp hfs
    obtain ⟨hgdis, hdis'⟩ := List.pairwise_cons.mp hdis
    change (writeFields fs mask v (fieldWrite g old mask v)).getLsbD i = _
    obtain rfl | hf := List.mem_cons.mp hf
    · rw [getLsbD_writeFields_outside fs _ _ _ (fun k hk => (hfs' k hk).1) (fun k hk => by have := hgdis k hk; omega)]
      exact getLsbD_fieldWrite_inside f old mask v hg.2 hlo hhi
    · rw [ih _ hdis' hfs' hf, getLsbD_fieldWrite_outside g old mask v hg.1 (by have := hgdis f hf; omega)]

/-- A write leaves the CMT bits in effect: they wait for the commit (R9). -/
theorem getLsbD_writeFields_cmt (r : RegRow) (mask v old : W64) (hdis : r.fields.Pairwise (fun f g => f.hi < g.lo ∨ g.hi < f.lo))
    (hr : ∀ f ∈ r.fields, f.lo ≤ f.hi ∧ f.hi < 64) {i : Nat} (hi : r.cmtMask.getLsbD i = true) :
    (writeFields r.fields mask v old).getLsbD i = old.getLsbD i := by
  rw [r.getLsbD_cmtMask hr] at hi
  obtain ⟨f, hf, hbits⟩ := List.any_eq_true.mp hi
  simp only [Bool.and_eq_true, decide_eq_true_eq] at hbits
  obtain ⟨⟨hcmt, hlo⟩, hhi⟩ := hbits
  rw [getLsbD_writeFields_inside _ _ _ _ hdis hr hf hlo hhi]
  simp [FieldRow.writeBit, hcmt]

/-! ## A 32-bit word written (R4, R311) -/

/-- The half of a 64-bit register that a word covers: its bits 63 to 32, or 31 to 0. -/
def halfMask (high : Bool) : W64 := fieldMask (if high then 63 else 31) (if high then 32 else 0)

/-- The word `v` in its place in the register. -/
def halfValue (high : Bool) (v : BitVec 32) : W64 := BitVec.ofNat 64 (v.toNat * 2 ^ (32 * bnat high))

theorem getLsbD_halfMask (high : Bool) {i : Nat} (hi : i < 64) : (halfMask high).getLsbD i = decide (i / 32 = bnat high) := by
  unfold halfMask
  rw [getLsbD_fieldMask _ _ _ (by cases high <;> decide)]
  rw [Bool.eq_iff_iff]
  cases high <;> simp only [bnat, Bool.and_eq_true, decide_eq_true_eq, if_true, if_false, Bool.false_eq_true] <;> omega

theorem getLsbD_halfValue (high : Bool) (v : BitVec 32) {i : Nat} (h : i / 32 = bnat high) :
    (halfValue high v).getLsbD i = v.getLsbD (i % 32) := by
  have hbit : bnat high ≤ 1 := by cases high <;> decide
  rw [halfValue, BitVec.getLsbD_ofNat, Nat.testBit_mul_two_pow, show i - 32 * bnat high = i % 32 by omega, BitVec.testBit_toNat]
  simp [show i < 64 by omega, show 32 * bnat high ≤ i by omega]

/-- Four bytes at an aligned offset are an access that BAR0 accepts (R311). -/
theorem barAccess_word {off : Nat} (h4 : off % 4 = 0) (hend : off + 4 ≤ 0x4000000) : barAccess off 4 = true := by
  simp only [barAccess, Bool.and_eq_true, decide_eq_true_eq]
  omega

/-- An aligned write of four bytes is the write of their word. -/
theorem State.barWrite_word (s : State) {off : Nat} (v : Nat) (h4 : off % 4 = 0) :
    s.barWrite off (leBytes 4 v) = s.wordWrite off (v % 2 ^ 32) := by
  have hoff : off / 4 * 4 = off := by omega
  have hv : leNat (List.take 4 (leBytes 4 v)) = v % 2 ^ 32 := by
    rw [List.take_of_length_le (by simp)]
    exact leNat_leBytes 4 v
  simp [State.barWrite, h4, cdiv, hoff, hv]

/-- A REGISTER_WRITE of an aligned word is the write of the word. -/
theorem exec_registerWrite_word (s : State) (dbg : Bool) {off : Nat} (v : Nat) (h4 : off % 4 = 0) (hend : off + 4 ≤ 0x4000000)
    (hspine : s.spineBad = false) : exec (.registerWrite dbg off (leBytes 4 v)) s = .next (s.wordWrite off (v % 2 ^ 32)) := by
  simp only [exec, execRegisterWrite, leBytes_length, barAccess_word h4 hend, hspine, s.barWrite_word v h4]
  simp [show ¬ 0x10000000 ≤ off by omega]

/-- A word of a register written: its half of the register. -/
theorem State.wordWrite_listed (s : State) {off : Nat} (v : BitVec 32) {r : RegRow} {a b start : Nat} {high : Bool}
    (hserves : s.serves off = true) (hmsix : msixWord off = none) (hword : findWord off = some (r, a, b, start, high)) :
    s.wordWrite off v.toNat = s.regWrite start r (halfMask high) (halfValue high v) := by
  cases high <;> simp [State.wordWrite, hserves, hmsix, hword, halfMask, halfValue, bnat]

/-- A register whose change sets nothing else off takes the write field by field, and holds what it gives the CMT fields. -/
theorem State.regWrite_plain (s : State) {start : Nat} (r : RegRow) (mask v : W64) (hsource : barredSource start = false)
    (hchannel : s.barredChannel start = false) (hafter : ∀ o t, State.afterWrite o t start = t) :
    s.regWrite start r mask v = (s.setReg start (writeFields r.fields mask v (s.reg start))).holdShadow start r mask v := by
  simp [State.regWrite, hsource, hchannel, hafter, writeFields]

/-- A bit of a field that a word write may cover: by its access code where the word covers it, as it was elsewhere (R7). -/
theorem getLsbD_writeFields_half (r : RegRow) (high : Bool) (v : BitVec 32) (old : W64)
    (hdis : r.fields.Pairwise (fun f g => f.hi < g.lo ∨ g.hi < f.lo)) (hr : ∀ f ∈ r.fields, f.lo ≤ f.hi ∧ f.hi < 64)
    {f : FieldRow} (hf : f ∈ r.fields) {i : Nat} (hlo : f.lo ≤ i) (hhi : i ≤ f.hi) :
    (writeFields r.fields (halfMask high) (halfValue high v) old).getLsbD i =
      f.writeBit (decide (i / 32 = bnat high)) (old.getLsbD i) (v.getLsbD (i % 32)) := by
  have hi64 : i < 64 := Nat.lt_of_le_of_lt hhi (hr f hf).2
  rw [getLsbD_writeFields_inside _ _ _ _ hdis hr hf hlo hhi, getLsbD_halfMask high hi64]
  by_cases hhalf : i / 32 = bnat high
  · rw [getLsbD_halfValue high v hhalf]
  · simp [hhalf]

/-- A bit read from a map depends on the default only by that bit of it. -/
theorem getLsbD_get_default_congr {d d' : W64} {i : Nat} (h : d.getLsbD i = d'.getLsbD i) (m : SMap W64) (k : Nat) :
    (SMap.get d m k).getLsbD i = (SMap.get d' m k).getLsbD i := by
  induction m with
  | nil => exact h
  | cons e m ih =>
    unfold SMap.get
    split
    · rfl
    · exact ih

/-- A field of another register than the one written. -/
theorem State.get_setReg_other (s : State) (g : Field) {off : Nat} (v : W64) (h : g.off ≠ off) : (s.setReg off v).get g = s.get g := by
  simp only [State.get, s.reg_setReg_other v h]

/-- A write held in shadow state leaves the register, unless it is the one that IGNW stands in. -/
theorem State.reg_holdShadow (s : State) (start : Nat) (r : RegRow) (mask v : W64)
    (h : mask &&& r.cmtMask ≠ 0 → start ≠ Reg.HST_SIFSTAT_IGNW.off) : (s.holdShadow start r mask v).reg start = s.reg start := by
  by_cases hm : mask &&& r.cmtMask = 0
  · rw [s.holdShadow_of_none _ _ _ _ hm]
  by_cases hidle : s.get Reg.HST_SIFSTAT_STATE = 0
  · rw [s.holdShadow_of_idle _ _ _ _ hm hidle]
    rfl
  · rw [s.holdShadow_of_busy _ _ _ _ hm hidle]
    exact s.reg_set_other _ _ (h hm)

/-- The state that a write of a word leaves: the fields written, then what it gives the CMT fields held. -/
def State.afterWord (s : State) (start : Nat) (r : RegRow) (high : Bool) (v : BitVec 32) : State :=
  (s.setReg start (writeFields r.fields (halfMask high) (halfValue high v) (s.reg start))).holdShadow start r (halfMask high) (halfValue high v)

section
variable (s : State) (start : Nat) (r : RegRow) (high : Bool) (v : BitVec 32)

/-- A word without CMT bits changes its register alone. -/
theorem State.afterWord_of_none (h : halfMask high &&& r.cmtMask = 0) :
    s.afterWord start r high v = { s with regs := (s.afterWord start r high v).regs } ∧ SameRegs [start] s (s.afterWord start r high v) := by
  rw [State.afterWord, State.holdShadow_of_none _ _ _ _ _ h]
  exact ⟨rfl, fun off hoff => s.reg_setReg_other _ (by simpa using hoff)⟩

/-- With the loader Idle, a word with CMT bits changes its register and the register's shadow. -/
theorem State.afterWord_of_idle (h : halfMask high &&& r.cmtMask ≠ 0) (hstart : start ≠ Reg.HST_SIFSTAT_IGNW.off)
    (hidle : s.get Reg.HST_SIFSTAT_STATE = 0) (hdis : r.fields.Pairwise (fun f g => f.hi < g.lo ∨ g.hi < f.lo))
    (hr : ∀ f ∈ r.fields, f.lo ≤ f.hi ∧ f.hi < 64) :
    let t := s.afterWord start r high v
    t = { s with regs := t.regs, shadow := t.shadow } ∧ SameRegs [start] s t ∧
      (∀ i, (SMap.get 0 t.shadow start).getLsbD i = (r.cmtMask.getLsbD i &&
        (if i / 32 = bnat high then v.getLsbD (i % 32) else (SMap.get (s.reg start) s.shadow start).getLsbD i))) ∧
      ∀ k, k ≠ start → SMap.get 0 t.shadow k = SMap.get 0 s.shadow k := by
  have hidle' (w : W64) : (s.setReg start w).get Reg.HST_SIFSTAT_STATE = 0 := 
    (s.get_setReg_other Reg.HST_SIFSTAT_STATE w hstart.symm).trans hidle
  rw [State.afterWord, State.holdShadow_of_idle _ _ _ _ _ h (hidle' _)]
  refine ⟨rfl, fun off hoff => s.reg_setReg_other _ (by simpa using hoff), fun i => ?_, fun k hk => SMap.get_insert_other _ _ _ hk⟩
  rw [SMap.get_insert_same, getLsbD_held, s.reg_setReg_same]
  cases hc : r.cmtMask.getLsbD i
  · rfl
  have hi64 : i < 64 := BitVec.lt_of_getLsbD hc
  rw [getLsbD_halfMask high hi64]
  by_cases hhalf : i / 32 = bnat high
  · simp [hhalf, getLsbD_halfValue]
  · simp [hhalf, getLsbD_get_default_congr (getLsbD_writeFields_cmt r _ _ _ hdis hr hc)]

/-- With the loader in any other state, a word with CMT bits changes its register and sets IGNW. -/
theorem State.afterWord_of_busy (h : halfMask high &&& r.cmtMask ≠ 0) (hstart : start ≠ Reg.HST_SIFSTAT_IGNW.off)
    (hbusy : s.get Reg.HST_SIFSTAT_STATE ≠ 0) :
    let t := s.afterWord start r high v
    t = { s with regs := t.regs } ∧ SameRegs [start, Reg.HST_SIFSTAT_IGNW.off] s t ∧ t.get Reg.HST_SIFSTAT_IGNW = 1 := by
  have hbusy' (w : W64) : (s.setReg start w).get Reg.HST_SIFSTAT_STATE ≠ 0 :=
    fun h0 => hbusy ((s.get_setReg_other Reg.HST_SIFSTAT_STATE w hstart.symm).symm.trans h0)
  rw [State.afterWord, State.holdShadow_of_busy _ _ _ _ _ h (hbusy' _)]
  refine ⟨rfl, fun off hoff => ?_, State.get_set_IGNW _⟩
  obtain ⟨hne, hign⟩ : off ≠ start ∧ off ≠ Reg.HST_SIFSTAT_IGNW.off := by simpa using hoff
  rw [State.reg_set_other _ _ _ hign, s.reg_setReg_other _ hne]

end

/-- A REGISTER_WRITE of a word of a plain register leaves `State.afterWord`. -/
theorem exec_registerWrite_plain (s : State) (dbg : Bool) {off : Nat} (v : BitVec 32) {r : RegRow} {a b start : Nat} {high : Bool}
    (h4 : off % 4 = 0) (hend : off + 4 ≤ 0x4000000) (hword : findWord off = some (r, a, b, start, high)) (hserves : s.serves off = true)
    (hmsix : msixWord off = none) (hspine : s.spineBad = false) (hsource : barredSource start = false)
    (hchannel : s.barredChannel start = false) (hafter : ∀ o t, State.afterWrite o t start = t) :
    exec (.registerWrite dbg off (leBytes 4 v.toNat)) s = .next (s.afterWord start r high v) := by
  rw [exec_registerWrite_word s dbg _ h4 hend hspine, Nat.mod_eq_of_lt v.isLt, s.wordWrite_listed v hserves hmsix hword,
    s.regWrite_plain r _ _ hsource hchannel hafter, State.afterWord]

/-- An access that a CRC error on the spine fails writes nothing, and the error is spent on it (R137). -/
theorem exec_registerWrite_spineBad (s : State) (dbg : Bool) {off : Nat} {data : List Byte} (hoff : off < 0x10000000)
    (hspine : s.spineBad = true) (hbar : barAccess off data.length = true) :
    exec (.registerWrite dbg off data) s = .next { s with spineBad := false } := by
  simp [exec, execRegisterWrite, hspine, hbar, Nat.not_le.mpr hoff]

/-- Nor does it read anything; it is answered with Completer Abort (R137, log entry 43). -/
theorem exec_readClear_spineBad (s : State) {off len : Nat} (hoff : off < 0x10000000) (hspine : s.spineBad = true)
    (hbar : barAccess off len = true) : exec (.readClear off len) s = .next { s with spineBad := false, out := s.out ++ [.completerAbort] } := by
  simp [exec, execReadClear, hspine, hbar, Nat.not_le.mpr hoff, State.send]

/-- Settles O6: the write acts on each bit by `FieldRow.writeBit`, and on the shadow by the loader's state. -/
theorem registerWriteFollowsAccessCodes : Obligations.RegisterWriteFollowsAccessCodes := by
  refine ⟨?_, fun s off len dbg data hoff hspine =>
    ⟨exec_registerWrite_spineBad s dbg hoff hspine, exec_readClear_spineBad s hoff hspine⟩⟩
  intro s dbg off v r a b start high h4 hend hword hserves hmsix hspine hsource hchannel hafter hdis hr half held hheld
  have hreg : (s.afterWord start r high v).reg start = writeFields r.fields (halfMask high) (halfValue high v) (s.reg start) :=
    (State.reg_holdShadow _ start r _ _ hheld).trans (s.reg_setReg_same start _)
  refine ⟨_, exec_registerWrite_plain s dbg v h4 hend hword hserves hmsix hspine hsource hchannel hafter,
    s.afterWord_of_none start r high v, fun h hidle => s.afterWord_of_idle start r high v h (hheld h) hidle hdis hr,
    fun h hbusy => s.afterWord_of_busy start r high v h (hheld h) hbusy, fun f hf hown i hlo hhi => ?_, fun i hi => ?_⟩
  · rw [hreg, getLsbD_writeFields_half r high v _ hdis hr hf hlo hhi]
    unfold FieldRow.writeBit
    cases hacc : f.acc <;> by_cases hhalf : i / 32 = bnat high <;> simp [hown, hhalf]
  · rw [hreg, getLsbD_writeFields_outside _ _ _ _ (fun f hf => (hr f hf).1) hi]

/-! ## The registers an access reads (R4, R311) -/

/-- The register that starts at an offset is the one whose first word lies there. -/
theorem findWord_of_findReg {off : Nat} {r : RegRow} {a b : Nat} (h : findReg off = some (r, a, b)) :
    findWord off = some (r, a, b, off, false) := by
  simp [findWord, h]

/-- A word's register starts at the offset that the word names. -/
theorem findWord_start {off : Nat} {r : RegRow} {a b start : Nat} {high : Bool} (h : findWord off = some (r, a, b, start, high)) :
    findWord start = some (r, a, b, start, false) := by
  unfold findWord at h
  split at h
  case h_1 r' i j hreg =>
    cases h
    exact findWord_of_findReg hreg
  case h_2 =>
    split at h
    · cases h
    split at h
    case h_1 r' i j hreg =>
      split at h
      · cases h
        exact findWord_of_findReg hreg
      · cases h
    case h_2 => cases h

theorem regStart_listed {off : Nat} {r : RegRow} {a b start : Nat} {high : Bool} (h : findWord off = some (r, a, b, start, high)) :
    regStart off = start := by
  simp [regStart, h]

theorem regStart_reserved {off : Nat} (h : findWord off = none) : regStart off = off := by
  simp [regStart, h]

/-- Each of equal elements once is the element. -/
theorem eraseDups_of_forall_eq {l : List Nat} {a : Nat} (hne : l ≠ []) (h : ∀ x ∈ l, x = a) : l.eraseDups = [a] := by
  cases l with
  | nil => exact absurd rfl hne
  | cons b l =>
    obtain ⟨rfl, hl⟩ := List.forall_mem_cons.mp h
    rw [List.eraseDups_cons, List.filter_eq_nil_iff.mpr (fun x hx => by simp [hl x hx]), List.eraseDups_nil]

/-- The state in which an access reads the register at `start`: brought up to date if one stands there. -/
def State.sensed (s : State) (start : Nat) : State := if (findWord start).isSome then s.sense start else s

/-- The read effect of the register at `start`, if one stands there. -/
def State.effect (s : State) (start : Nat) : State := match findWord start with | some w => s.readEffect w.1 start | none => s

/-- An access whose words all lie at `start` returns its bytes and has the read effect once (R311). -/
theorem State.barRead_one (s : State) {off len start : Nat} (hlen : 0 < len)
    (hwords : ∀ a, a % 4 = 0 → off < a + 4 → a < off + len → regStart a = start) :
    s.barRead off len = ((s.sensed start).effect start).send (.readData ((s.sensed start).barPeek off len)) := by
  have hstarts : ((List.range (cdiv (off % 4 + len) 4)).map (fun i => regStart (off / 4 * 4 + 4 * i))).eraseDups = [start] := by
    apply eraseDups_of_forall_eq
    · have hpos : cdiv (off % 4 + len) 4 ≠ 0 := by unfold cdiv; omega
      simpa using hpos
    · intro x hx
      obtain ⟨i, hi, rfl⟩ := List.mem_map.mp hx
      have hi : i < cdiv (off % 4 + len) 4 := List.mem_range.mp hi
      unfold cdiv at hi
      exact hwords _ (by omega) (by omega) (by omega)
  have hall : (List.range len).filter (fun i => decide (regStart ((off + i) / 4 * 4) = start)) = List.range len :=
    List.filter_eq_self.mpr fun i hi => by
      have hi : i < len := List.mem_range.mp hi
      simpa using hwords ((off + i) / 4 * 4) (by omega) (by omega) (by omega)
  have hbytes (u : State) : (List.range len).flatMap (fun i => u.barPeek (off + i) 1) = u.barPeek off len := by
    simp [State.barPeek, wordBytes, List.map_eq_flatMap]
  simp only [State.barRead, hstarts, List.foldl_cons, List.foldl_nil, State.readPart, hall, hbytes, List.nil_append]
  rfl

/-- The first bytes of an access and the rest of them. -/
theorem State.barPeek_add (s : State) (off m n : Nat) : s.barPeek off (m + n) = s.barPeek off m ++ s.barPeek (off + m) n := by
  simp [State.barPeek, wordBytes, List.range_add, Nat.add_assoc]

/-- The bytes of a word. -/
theorem State.barPeek_word (s : State) {off : Nat} (h4 : off % 4 = 0) : s.barPeek off 4 = leBytes 4 (s.peekWord off) := by
  have hword (i : Nat) (hi : i < 4) : (off + i) / 4 * 4 = off ∧ (off + i) % 4 = i := by omega
  simp [State.barPeek, wordBytes, List.range_succ, leBytes, hword, Nat.div_div_eq_div_mul, show off / 4 * 4 = off by omega, h4]

/-- A READ_CLEAR of an aligned word. -/
theorem exec_readClear_word (s : State) {off : Nat} (h4 : off % 4 = 0) (hend : off + 4 ≤ 0x4000000) (hspine : s.spineBad = false) :
    exec (.readClear off 4) s = .next (((s.sensed (regStart off)).effect (regStart off)).send
      (.readData (leBytes 4 ((s.sensed (regStart off)).peekWord off)))) := by
  have hread : s.barRead off 4 = _ :=
    s.barRead_one (by decide) (fun a ha hlo hhi => by rw [show a = off by omega])
  simp only [exec, execReadClear, barAccess_word h4 hend, hspine, hread, State.barPeek_word _ h4]
  simp [show ¬ 0x10000000 ≤ off by omega]

/-! ## Little-endian bytes -/

theorem leBytes_add (m n v : Nat) : leBytes (m + n) v = leBytes m v ++ leBytes n (v / 256 ^ m) := by
  induction m generalizing v with
  | zero => simp [leBytes]
  | succ m ih =>
    rw [show m + 1 + n = m + n + 1 by omega, leBytes, leBytes, ih, Nat.div_div_eq_div_mul, ← Nat.pow_succ', List.cons_append]

/-- Only the low bits that fit the bytes matter. -/
theorem leBytes_mod (n v : Nat) : leBytes n (v % 256 ^ n) = leBytes n v := by
  induction n generalizing v with
  | zero => rfl
  | succ n ih =>
    have hlow : BitVec.ofNat 8 (v % 256 ^ (n + 1)) = BitVec.ofNat 8 v :=
      BitVec.eq_of_toNat_eq (by
        rw [BitVec.toNat_ofNat, BitVec.toNat_ofNat]
        exact Nat.mod_mod_of_dvd v ⟨256 ^ n, Nat.pow_succ'⟩)
    rw [leBytes, leBytes, hlow, Nat.pow_succ', Nat.mod_mul_right_div_self, ih]

/-- Bytes are the bytes of their number. -/
theorem leBytes_leNat (bs : List Byte) : leBytes bs.length (leNat bs) = bs := by
  induction bs with
  | nil => rfl
  | cons b bs ih =>
    have hb := b.isLt
    have hlow : BitVec.ofNat 8 (b.toNat + 256 * leNat bs) = b := BitVec.eq_of_toNat_eq (by rw [BitVec.toNat_ofNat]; omega)
    rw [List.length_cons, leNat, leBytes, hlow, show (b.toNat + 256 * leNat bs) / 256 = leNat bs by omega, ih]

/-! ## The effect of a read on the RC fields (R7) -/

/-- What a read makes of one field of the register at `off`. -/
def State.clearField (off : Nat) (s : State) (f : FieldRow) : State :=
  if f.acc = .rc ∧ f.own = .none then s.set ⟨off, f.hi, f.lo⟩ f.reset else s

/-- Fields given their reset values change that register alone. -/
theorem State.foldl_clearField_frame (off : Nat) (fs : List FieldRow) (s : State) :
    fs.foldl (State.clearField off) s = { s with regs := (fs.foldl (State.clearField off) s).regs } ∧
      SameRegs [off] s (fs.foldl (State.clearField off) s) := by
  induction fs generalizing s with
  | nil => exact ⟨rfl, fun _ _ => rfl⟩
  | cons f fs ih =>
    obtain ⟨hframe, hsame⟩ := ih (s.clearField off f)
    have hone : s.clearField off f = { s with regs := (s.clearField off f).regs } ∧ SameRegs [off] s (s.clearField off f) := by
      unfold State.clearField
      split
      · exact ⟨rfl, SameRegs.set s ⟨off, f.hi, f.lo⟩ f.reset⟩
      · exact ⟨rfl, fun _ _ => rfl⟩
    refine ⟨?_, fun k hk => (hsame k hk).trans (hone.2 k hk)⟩
    rw [List.foldl_cons, hframe, hone.1]

/-- The field itself reads as its reset value if it is RC. -/
theorem State.getField_clearField_same (off : Nat) (s : State) (f : FieldRow) (hf : f.lo ≤ f.hi ∧ f.hi < 64) :
    getField ((s.clearField off f).reg off) f.hi f.lo =
      if f.acc = .rc ∧ f.own = .none then f.reset % 2 ^ (f.hi + 1 - f.lo) else getField (s.reg off) f.hi f.lo := by
  unfold State.clearField
  split
  · exact s.get_set_same ⟨off, f.hi, f.lo⟩ f.reset hf
  · rfl

/-- A field without a bit in common reads as before. -/
theorem State.getField_clearField_other (off : Nat) (s : State) (f g : FieldRow) (hf : f.lo ≤ f.hi ∧ f.hi < 64) (hg : g.lo ≤ g.hi)
    (h : f.hi < g.lo ∨ g.hi < f.lo) : getField ((s.clearField off f).reg off) g.hi g.lo = getField (s.reg off) g.hi g.lo := by
  unfold State.clearField
  split
  · exact s.get_set_other_field ⟨off, f.hi, f.lo⟩ ⟨off, g.hi, g.lo⟩ f.reset hf hg rfl h.symm
  · rfl

/-- A field apart from all of `fs` reads as before. -/
theorem State.getField_foldl_clearField_other (off : Nat) (fs : List FieldRow) (s : State) (g : FieldRow)
    (hfs : ∀ f ∈ fs, f.lo ≤ f.hi ∧ f.hi < 64) (hg : g.lo ≤ g.hi) (h : ∀ f ∈ fs, f.hi < g.lo ∨ g.hi < f.lo) :
    getField ((fs.foldl (State.clearField off) s).reg off) g.hi g.lo = getField (s.reg off) g.hi g.lo := by
  induction fs generalizing s with
  | nil => rfl
  | cons f fs ih =>
    exact (ih _ (fun k hk => hfs k (by simp [hk])) (fun k hk => h k (by simp [hk]))).trans
      (s.getField_clearField_other off f g (hfs f (by simp)) hg (h f (by simp)))

/-- Where no two fields share a bit, each RC field reads as its reset value and every other field as before. -/
theorem State.getField_foldl_clearField (off : Nat) (fs : List FieldRow) (s : State)
    (hdis : fs.Pairwise (fun f g => f.hi < g.lo ∨ g.hi < f.lo)) (hfs : ∀ f ∈ fs, f.lo ≤ f.hi ∧ f.hi < 64) {f : FieldRow} (hf : f ∈ fs) :
    getField ((fs.foldl (State.clearField off) s).reg off) f.hi f.lo =
      if f.acc = .rc ∧ f.own = .none then f.reset % 2 ^ (f.hi + 1 - f.lo) else getField (s.reg off) f.hi f.lo := by
  induction fs generalizing s with
  | nil => cases hf
  | cons g fs ih =>
    obtain ⟨hg, hfs'⟩ := List.forall_mem_cons.mp hfs
    obtain ⟨hgdis, hdis'⟩ := List.pairwise_cons.mp hdis
    obtain rfl | hf := List.mem_cons.mp hf
    · exact ((s.clearField off f).getField_foldl_clearField_other off fs f hfs' hg.1 (fun k hk => (hgdis k hk).symm)).trans
        (s.getField_clearField_same off f hg)
    · rw [List.foldl_cons, ih _ hdis' hfs' hf, s.getField_clearField_other off g f hg (hfs' f hf).1 (hgdis f hf)]

/-! ## What a word reads as, and what its register's read does -/

theorem State.sensed_listed (s : State) {start : Nat} {r : RegRow} {a b : Nat} {high : Bool}
    (h : findWord start = some (r, a, b, start, high)) : s.sensed start = s.sense start := by
  simp [State.sensed, h]

/-- What does not come from the physical device needs no update. -/
theorem State.sense_of_not_reports (s : State) {start : Nat} (h : reportsDevice start = false) : s.sense start = s := by
  simp [State.sense, h]

theorem State.sensed_of_not_reports (s : State) {start : Nat} (h : reportsDevice start = false) : s.sensed start = s := by
  simp [State.sensed, s.sense_of_not_reports h]

/-- A reserved word reads as zero (R5). -/
theorem State.peekWord_reserved (s : State) {off : Nat} (hmsix : msixWord off = none) (hword : findWord off = none)
    (hcrxq : crxqAt off = none) (hedg : off ≠ Reg.EDG_RBDATA_DATA.off) (hnvm : off ≠ Reg.NVM_RDDATA_DATA.off)
    (hpba : ¬(0x209000 ≤ off ∧ off < 0x209020)) : s.peekWord off = 0 := by
  simp [State.peekWord, State.wordRead, hcrxq, hedg, hnvm, hmsix, hpba, hword]

/-- A word of a register that is no queue reads as its half of the register. -/
theorem State.peekWord_listed (s : State) {off : Nat} {r : RegRow} {a b start : Nat} {high : Bool} (hserves : s.serves off = true)
    (hmsix : msixWord off = none) (hword : findWord off = some (r, a, b, start, high)) (hcrxq : crxqAt off = none)
    (hedg : off ≠ Reg.EDG_RBDATA_DATA.off) (hnvm : off ≠ Reg.NVM_RDDATA_DATA.off) (hpba : ¬(0x209000 ≤ off ∧ off < 0x209020)) :
    s.peekWord off = (s.reg start).toNat / 2 ^ (32 * bnat high) % 2 ^ 32 := by
  cases high <;> simp [State.peekWord, State.wordRead, hserves, hcrxq, hedg, hnvm, hmsix, hpba, hword, bnat]

/-- The read effect of a register that is no queue is that on its RC fields. -/
theorem State.effect_listed (s : State) {start : Nat} {r : RegRow} {a b : Nat} (hword : findWord start = some (r, a, b, start, false))
    (hserves : s.serves start = true) (hcrxq : crxqAt start = none) (hedg : start ≠ Reg.EDG_RBDATA_DATA.off)
    (hnvm : start ≠ Reg.NVM_RDDATA_DATA.off) (hrec : start ≠ Reg.RST_RECLOG_ENTRY.off) :
    s.effect start = r.fields.foldl (State.clearField start) s := by
  simp only [State.effect, hword, State.readEffect, hserves, hcrxq, if_neg hedg, if_neg hnvm, if_neg hrec]
  rfl

/-- A normal read of a word of a register that is no queue. -/
theorem exec_readClear_listed (s : State) {off : Nat} {r : RegRow} {a b start : Nat} {high : Bool} (h4 : off % 4 = 0)
    (hend : off + 4 ≤ 0x4000000) (hword : findWord off = some (r, a, b, start, high)) (hmsix : msixWord off = none)
    (hspine : s.spineBad = false) (hpba : ¬(0x209000 ≤ off ∧ off < 0x209020))
    (hplain : ∀ x ∈ [off, start], (s.sense start).serves x = true ∧ crxqAt x = none ∧ x ≠ Reg.EDG_RBDATA_DATA.off ∧
      x ≠ Reg.NVM_RDDATA_DATA.off ∧ x ≠ Reg.RST_RECLOG_ENTRY.off) :
    exec (.readClear off 4) s = .next ((r.fields.foldl (State.clearField start) (s.sense start)).send
      (.readData (leBytes 4 (((s.sense start).reg start).toNat / 2 ^ (32 * bnat high))))) := by
  obtain ⟨hserves, hcrxq, hedg, hnvm, -⟩ := hplain off (by simp)
  obtain ⟨hserves', hcrxq', hedg', hnvm', hrec'⟩ := hplain start (by simp)
  have hstart := findWord_start hword
  rw [exec_readClear_word s h4 hend hspine, regStart_listed hword, s.sensed_listed hstart,
    State.effect_listed _ hstart hserves' hcrxq' hedg' hnvm' hrec', State.peekWord_listed _ hserves hmsix hword hcrxq hedg hnvm hpba,
    show (2 : Nat) ^ 32 = 256 ^ 4 from rfl, leBytes_mod]

/-- A reserved word reads as zero, and nothing changes (R5). -/
theorem exec_readClear_reserved (s : State) {off : Nat} (h4 : off % 4 = 0) (hend : off + 4 ≤ 0x4000000) (hspine : s.spineBad = false)
    (hword : findWord off = none) (hmsix : msixWord off = none) (hcrxq : crxqAt off = none) (hedg : off ≠ Reg.EDG_RBDATA_DATA.off)
    (hnvm : off ≠ Reg.NVM_RDDATA_DATA.off) (hpba : ¬(0x209000 ≤ off ∧ off < 0x209020)) :
    exec (.readClear off 4) s = .next (s.send (.readData [0, 0, 0, 0])) := by
  have hsensed : s.sensed off = s := by simp [State.sensed, hword]
  have heffect : s.effect off = s := by simp [State.effect, hword]
  rw [exec_readClear_word s h4 hend hspine, regStart_reserved hword, hsensed, heffect,
    s.peekWord_reserved hmsix hword hcrxq hedg hnvm hpba]
  rfl

/-- A write of a reserved word changes nothing (R5). -/
theorem State.wordWrite_reserved (s : State) {off : Nat} (v : Nat) (hmsix : msixWord off = none) (hword : findWord off = none) :
    s.wordWrite off v = s := by
  simp [State.wordWrite, hmsix, hword]

/-! ## Registers whose read dequeues (R276, R296, R387, R428, R435) -/

/-- Outside the module's reset and with Hearth firmware, every word is served. -/
theorem State.serves_all (s : State) (hfw : s.flag Reg.RST_BOOT_FWFAIL = false) (hreset : s.moduleReset = false) (off : Nat) :
    s.serves off = true := by
  simp [State.serves, hfw, hreset]

/-- A register's word read where nothing comes from the physical device. -/
theorem exec_readClear_register (s : State) {off : Nat} (h4 : off % 4 = 0) (hend : off + 4 ≤ 0x4000000) (hspine : s.spineBad = false)
    (hreg : (findReg off).isSome = true) (hdev : reportsDevice off = false) :
    exec (.readClear off 4) s = .next ((s.effect off).send (.readData (leBytes 4 (s.peekWord off)))) := by
  obtain ⟨⟨r, a, b⟩, hfind⟩ := Option.isSome_iff_exists.mp hreg
  rw [exec_readClear_word s h4 hend hspine, regStart_listed (findWord_of_findReg hfind), s.sensed_of_not_reports hdev]

/-- A register's read effect is that of its row. -/
theorem State.effect_register (s : State) {off : Nat} (hreg : (findReg off).isSome = true) : ∃ r, s.effect off = s.readEffect r off := by
  obtain ⟨⟨r, a, b⟩, hfind⟩ := Option.isSome_iff_exists.mp hreg
  exact ⟨r, by simp [State.effect, findWord_of_findReg hfind]⟩

/-- KDL_CRXQ of every channel is listed. -/
theorem findReg_crxq : ∀ c : Fin 128, (findReg (0x3C0102C + 0x40 * c.val)).isSome = true := by decide +kernel

theorem crxqAt_crxq (c : Fin 128) : crxqAt (0x3C0102C + 0x40 * c.val) = some c.val := by
  have hc := c.isLt
  rw [crxqAt, if_pos (by omega)]
  congr 1
  omega

/-- What is sent does not bear on the registers. -/
theorem State.set_send (s : State) (f : Field) (v : Nat) (o : Out) : (s.set f v).send o = (s.send o).set f v := rfl

theorem State.setKch_send (s : State) (c : Nat) (k : KChan) (o : Out) : (s.setKch c k).send o = (s.send o).setKch c k := by
  unfold State.setKch
  rw [State.set_send, State.set_send]
  rfl

/-- A queue gives up its head whether the answer is sent before or after. -/
theorem State.rxTake_send (s : State) (c : Nat) (o : Out) : (s.rxTake c).send o = (s.send o).rxTake c := by
  have hkch : (s.send o).kch c = s.kch c := rfl
  unfold State.rxTake
  rw [hkch]
  split
  · exact s.setKch_send c _ o
  · exact s.set_send _ 1 o

/-- A read of KDL_CRXQ is RX_DEQUEUE (R296). -/
theorem exec_readClear_crxq (s : State) (hserves : ∀ off, s.serves off = true) (hspine : s.spineBad = false) (c : Fin 128) :
    exec (.readClear (0x3C0102C + 0x40 * c.val) 4) s = exec (.rxDequeue c) s := by
  have hc := c.isLt
  obtain ⟨r, heffect⟩ := s.effect_register (findReg_crxq c)
  have hdev : reportsDevice (0x3C0102C + 0x40 * c.val) = false := by
    simp only [reportsDevice, Bool.or_eq_false_iff, Bool.and_eq_false_iff, decide_eq_false_iff_not]
    omega
  rw [exec_readClear_register s (by omega) (by omega) hspine (findReg_crxq c) hdev, heffect]
  simp [State.readEffect, State.peekWord, hserves, crxqAt_crxq, State.rxTake_send, exec, execRxDequeue]

/-- A read of EDG_RBDATA is READBACK_DATA_READ (R276). -/
theorem exec_readClear_rbdata (s : State) (hserves : ∀ off, s.serves off = true) (hspine : s.spineBad = false) :
    exec (.readClear Reg.EDG_RBDATA_DATA.off 4) s = exec .readbackDataRead s := by
  have hreg : (findReg Reg.EDG_RBDATA_DATA.off).isSome = true := by decide +kernel
  have hcrxq : crxqAt Reg.EDG_RBDATA_DATA.off = none := by decide
  have hbytes : leBytes 4 (leNat s.rbWord) = s.rbWord := leBytes_leNat s.rbWord
  obtain ⟨r, heffect⟩ := s.effect_register hreg
  rw [exec_readClear_register s (by decide) (by decide) hspine hreg (by decide), heffect]
  simp only [State.readEffect, State.peekWord, hserves, hcrxq, Bool.true_eq_false, if_false, if_true, hbytes]
  rfl

/-- A read of NVM_RDDATA is STORE_READ_DATA (R435). -/
theorem exec_readClear_rddata (s : State) (hserves : ∀ off, s.serves off = true) (hspine : s.spineBad = false) :
    exec (.readClear Reg.NVM_RDDATA_DATA.off 4) s = exec .storeReadData s := by
  have hreg : (findReg Reg.NVM_RDDATA_DATA.off).isSome = true := by decide +kernel
  have hcrxq : crxqAt Reg.NVM_RDDATA_DATA.off = none := by decide
  have hne : Reg.NVM_RDDATA_DATA.off ≠ Reg.EDG_RBDATA_DATA.off := by decide
  have hbytes : leBytes 4 (leNat s.rdWord) = s.rdWord := leBytes_leNat s.rdWord
  obtain ⟨r, heffect⟩ := s.effect_register hreg
  rw [exec_readClear_register s (by decide) (by decide) hspine hreg (by decide), heffect]
  simp only [State.readEffect, State.peekWord, hserves, hcrxq, Bool.true_eq_false, if_false, if_neg hne, if_true, hbytes]
  rfl

/-- The two words of RST_RECLOG. -/
theorem findWord_reclog : ∃ r a b, findWord Reg.RST_RECLOG_ENTRY.off = some (r, a, b, Reg.RST_RECLOG_ENTRY.off, false) ∧
    findWord (Reg.RST_RECLOG_ENTRY.off + 4) = some (r, a, b, Reg.RST_RECLOG_ENTRY.off, true) :=
  ⟨_, _, _, rfl, rfl⟩

/-- A peek at RST_RECLOG shows its eight bytes. -/
theorem State.barPeek_reclog (s : State) (hserves : ∀ off, s.serves off = true) :
    s.barPeek Reg.RST_RECLOG_ENTRY.off 8 = leBytes 8 (s.reg Reg.RST_RECLOG_ENTRY.off).toNat := by
  obtain ⟨r, a, b, hlow, hhigh⟩ := findWord_reclog
  rw [s.barPeek_add _ 4 4, s.barPeek_word (by decide), s.barPeek_word (by decide),
    s.peekWord_listed (hserves _) (by decide) hlow (by decide) (by decide) (by decide) (by decide),
    s.peekWord_listed (hserves _) (by decide) hhigh (by decide) (by decide) (by decide) (by decide),
    leBytes_add 4 4, show (2 : Nat) ^ 32 = 256 ^ 4 from rfl, leBytes_mod, leBytes_mod]
  simp [bnat]

/-- Its eight bytes lie in the one register. -/
theorem regStart_reclog {a : Nat} (h4 : a % 4 = 0) (hlo : Reg.RST_RECLOG_ENTRY.off < a + 4) (hhi : a < Reg.RST_RECLOG_ENTRY.off + 8) :
    regStart a = Reg.RST_RECLOG_ENTRY.off := by
  obtain ⟨r, i, j, hlow, hhigh⟩ := findWord_reclog
  have hoff : Reg.RST_RECLOG_ENTRY.off % 4 = 0 := by decide
  obtain rfl | rfl : a = Reg.RST_RECLOG_ENTRY.off ∨ a = Reg.RST_RECLOG_ENTRY.off + 4 := by omega
  · exact regStart_listed hlow
  · exact regStart_listed hhigh

/-- Its read effect is that the oldest record leaves the queue. -/
theorem State.effect_reclog (s : State) (hserves : ∀ off, s.serves off = true) : s.effect Reg.RST_RECLOG_ENTRY.off = s.recNext := by
  obtain ⟨r, i, j, hlow, -⟩ := findWord_reclog
  have hcrxq : crxqAt Reg.RST_RECLOG_ENTRY.off = none := by decide
  have hedg : Reg.RST_RECLOG_ENTRY.off ≠ Reg.EDG_RBDATA_DATA.off := by decide
  have hnvm : Reg.RST_RECLOG_ENTRY.off ≠ Reg.NVM_RDDATA_DATA.off := by decide
  simp [State.effect, hlow, State.readEffect, hserves, hcrxq, hedg, hnvm]

/-- A read of RST_RECLOG is RECOVERY_LOG_READ, where the register shows the queue (R387). -/
theorem exec_readClear_reclog (s : State) (hserves : ∀ off, s.serves off = true) (hspine : s.spineBad = false)
    (hshown : s.reg Reg.RST_RECLOG_ENTRY.off = s.recLog.headD 0) :
    exec (.readClear Reg.RST_RECLOG_ENTRY.off 8) s = exec .recoveryLogRead s := by
  have hbar : barAccess Reg.RST_RECLOG_ENTRY.off 8 = true := by decide
  have hbar0 : ¬ 0x10000000 ≤ Reg.RST_RECLOG_ENTRY.off := by decide
  have hread := s.barRead_one (len := 8) (by decide) (fun _ => regStart_reclog)
  rw [s.sensed_of_not_reports (by decide), s.effect_reclog hserves, s.barPeek_reclog hserves, hshown] at hread
  simp only [exec, execReadClear, if_neg hbar0, hbar, hspine, hread, Bool.true_eq_false, Bool.false_eq_true, if_false]
  rfl

/-- Settles O7: a read answers with the word and clears RC fields, a queue's read is its command, a reserved word reads as zero. -/
theorem registerReadReturnsThenClears : Obligations.RegisterReadReturnsThenClears := by
  refine ⟨?_, fun s hfw hreset hspine => ?_, fun s off hspine h4 hend hword hmsix hcrxq hedg hnvm hpba => ?_⟩
  · intro s off r a b start high h4 hend hword hmsix hspine hpba hdis hr u hplain
    refine ⟨fun hdev => s.sense_of_not_reports hdev, _, exec_readClear_listed s h4 hend hword hmsix hspine hpba hplain, ?_⟩
    obtain ⟨hframe, hsame⟩ := State.foldl_clearField_frame start r.fields (s.sense start)
    exact ⟨by rw [hframe]; rfl, by rw [hframe]; rfl, hsame, fun f hf => State.getField_foldl_clearField start r.fields _ hdis hr hf⟩
  · have hserves := s.serves_all hfw hreset
    exact ⟨exec_readClear_crxq s hserves hspine, exec_readClear_rbdata s hserves hspine, exec_readClear_rddata s hserves hspine,
      exec_readClear_reclog s hserves hspine⟩
  · refine ⟨exec_readClear_reserved s h4 hend hspine hword hmsix hcrxq hedg hnvm hpba, fun dbg v => ?_⟩
    rw [exec_registerWrite_word s dbg v h4 hend hspine, s.wordWrite_reserved _ hmsix hword]

end Sys2Proof.Machine
end

section
/-!
Laws of the array's words and steps (R15, R18, R36, R37, R46-R49): numbers given by their bits, bits and fields of a PE's memory, the digit
steps that the ROM issues for MOV, EXTU, BOOL, ADD and SUB, and what a bundle whose PEs all hold K = 1 holds after an instruction.
-/
namespace Sys2Proof.Machine

/-! ## Numbers given by their bits -/

theorem natOfBits_lt (n : Nat) (f : Nat → Bool) : natOfBits n f < 2 ^ n := by
  induction n with
  | zero => simp [natOfBits]
  | succ n ih =>
    rw [natOfBits, Nat.pow_succ]
    split <;> omega

@[simp] theorem testBit_natOfBits (n : Nat) (f : Nat → Bool) (i : Nat) : (natOfBits n f).testBit i = (decide (i < n) && f i) := by
  induction n with
  | zero => simp [natOfBits]
  | succ n ih =>
    have hsplit : natOfBits (n + 1) f = 2 ^ n * bnat (f n) + natOfBits n f := by
      rw [natOfBits, Nat.add_comm]
      cases f n <;> simp [bnat]
    rw [hsplit, Nat.testBit_two_pow_mul_add _ (natOfBits_lt n f), ih]
    obtain hlt | rfl | hgt := Nat.lt_trichotomy i n
    · simp [hlt, Nat.lt_succ_of_lt hlt]
    · cases f i <;> simp [bnat]
    · have hbit : (bnat (f n)).testBit (i - n) = false :=
        Nat.testBit_lt_two_pow (Nat.lt_of_le_of_lt (by cases f n <;> decide : bnat (f n) ≤ 1) (Nat.one_lt_two_pow (by omega)))
      simp [hbit, show ¬ i < n by omega, show ¬ i < n + 1 by omega]

theorem natOfBits_congr {n : Nat} {f g : Nat → Bool} (h : ∀ i, i < n → f i = g i) : natOfBits n f = natOfBits n g := by
  refine Nat.eq_of_testBit_eq fun i => ?_
  by_cases hi : i < n
  · simp [hi, h i hi]
  · simp [hi]

/-- The number of the low bits of `v` is `v` reduced. -/
theorem natOfBits_testBit (n v : Nat) : natOfBits n v.testBit = v % 2 ^ n :=
  Nat.eq_of_testBit_eq fun i => by simp [Nat.testBit_mod_two_pow]

/-- A chain of full adders: the sum bits and the last carry make up the sum of the words and the carry-in. -/
theorem natOfBits_ripple {m a b f : Nat → Bool}
    (hcell : ∀ j, bnat (m j) + 2 * bnat (f (j + 1)) = bnat (a j) + bnat (b j) + bnat (f j)) (n : Nat) :
    natOfBits n m + bnat (f n) * 2 ^ n = natOfBits n a + natOfBits n b + bnat (f 0) := by
  have hsucc (g : Nat → Bool) (j : Nat) : natOfBits (j + 1) g = natOfBits j g + bnat (g j) * 2 ^ j := by
    rw [natOfBits]
    cases g j <;> simp [bnat]
  induction n with
  | zero => simp [natOfBits]
  | succ n ih =>
    have hweight : bnat (m n) * 2 ^ n + bnat (f (n + 1)) * 2 ^ (n + 1) = (bnat (a n) + bnat (b n) + bnat (f n)) * 2 ^ n := by
      rw [← hcell, Nat.add_mul, Nat.pow_succ', ← Nat.mul_assoc, Nat.mul_comm (bnat (f (n + 1))) 2]
    simp only [Nat.add_mul] at hweight
    rw [hsucc, hsucc, hsucc]
    omega

theorem encodeInt_lt (v : Int) (w : Nat) : encodeInt v w < 2 ^ w := by
  have hpos : (0 : Int) < (2 ^ w : Nat) := Int.natCast_pos.mpr (Nat.two_pow_pos w)
  have hlt := Int.emod_lt_of_pos v hpos
  unfold encodeInt
  omega

/-! ## Fields of a PE's memory -/

theorem getLsbD_putBit (m : BitVec 8192) (i : Nat) (b : Bool) (j : Nat) (hi : i < 8192) :
    (putBit m i b).getLsbD j = if j = i then b else m.getLsbD j := by
  by_cases hj : j = i
  · subst hj
    cases b <;> simp [putBit, hi]
  · cases b <;> simp [putBit, BitVec.getLsbD_twoPow, hj, Ne.symm hj]
    exact fun h => BitVec.lt_of_getLsbD h

/-- A digit of a field reads as what was written to it; no field wraps onto itself (R46). -/
theorem fieldBit_putField (m : BitVec 8192) (a : Nat) (f : Nat → Bool) {n d : Nat} (hn : n ≤ 8192) (hd : d < n) :
    fieldBit (putField m a f n) a d = f d := by
  unfold fieldBit
  induction n with
  | zero => omega
  | succ n ih =>
    rw [putField, getLsbD_putBit _ _ _ _ (Nat.mod_lt _ (by decide))]
    by_cases hlast : d = n
    · simp [hlast]
    · rw [if_neg (by omega), ih (by omega) (by omega)]

theorem fieldWord_lt (k : Nat) (ms : List (BitVec 8192)) (a : Option Nat) (len : Nat) : fieldWord k ms a len < 2 ^ (len * k) := by
  cases a with
  | none => exact Nat.two_pow_pos _
  | some a => exact natOfBits_lt _ _

/-- The word of a field in which each PE wrote its digits of `word` is `word`, modulo the field's width (R48). -/
theorem fieldWord_written {k a len word : Nat} {ms : List (BitVec 8192)} (old : Nat → BitVec 8192) (hk : 0 < k) (hlen : len ≤ 8192)
    (hms : ∀ j, j < k → ms.getD j 0 = putField (old j) a (fun d => word.testBit (d * k + j)) len) :
    fieldWord k ms (some a) len = word % 2 ^ (len * k) := by
  rw [fieldWord, ← natOfBits_testBit]
  refine natOfBits_congr fun i hi => ?_
  have hdigit : i / k < len := Nat.div_lt_of_lt_mul (by rwa [Nat.mul_comm])
  rw [hms _ (Nat.mod_lt _ hk), fieldBit_putField _ _ _ hlen hdigit, Nat.div_add_mod']

/-! ## A bundle whose PEs all hold K = 1 -/

theorem getD_range_map {α : Type} (k : Nat) (f : Nat → α) (d : α) {j : Nat} (hj : j < k) : ((List.range k).map f).getD j d = f j := by
  simp [List.getD, hj]

/-- PE `j` of the bundle that begins at PE `i` (R35). -/
theorem add_mod_of_aligned {i j k : Nat} (hi : i % k = 0) (hj : j < k) : (i + j) % k = j := by
  rw [Nat.add_mod, hi, Nat.zero_add, Nat.mod_mod, Nat.mod_eq_of_lt hj]

section
variable (s : State) {i j k : Nat} (hi : i % k = 0) (hj : j < k)
include hi hj

theorem State.bundleMem_member : s.bundleMem k (i + j) = s.bundleMem k i := by
  simp [State.bundleMem, add_mod_of_aligned hi hj, hi]

theorem State.bundleRegs_member : s.bundleRegs k (i + j) = s.bundleRegs k i := by
  simp [State.bundleRegs, add_mod_of_aligned hi hj, hi]

theorem State.getD_bundleRegs : (s.bundleRegs k i).getD j PeRegs.reset = s.pe (i + j) := by
  rw [State.bundleRegs, getD_range_map _ _ _ hj, hi, Nat.sub_zero]

end

theorem sameK_of_all {k : Nat} {rs : List PeRegs} (h : ∀ j, j < k → (rs.getD j PeRegs.reset).k = true) : sameK k rs = true := by
  have hmask : flagMask k rs (·.k) = 2 ^ k - 1 := Nat.eq_of_testBit_eq fun j => by
    rw [flagMask, testBit_natOfBits, Nat.testBit_two_pow_sub_one, Bool.and_eq_left_iff_imp]
    exact fun hj => h j (of_decide_eq_true hj)
  simp [sameK, hmask]

section
variable (s : State) (m : Mn) (D : Dispatch) (flue : Nat) {i : Nat} (hi : i % 2 ^ D.kw = 0)
  (hk : ∀ j, j < 2 ^ D.kw → (s.pe (i + j)).k = true)
include hi hk

/-- A PE of a bundle whose PEs all hold K = 1 writes its part of the bundle's result (R51). -/
theorem State.writesAt_of_all {j : Nat} (hj : j < 2 ^ D.kw) : s.writesAt m D flue (i + j) =
    { bundleResult m D (s.bundleMem (2 ^ D.kw) i) (s.bundleRegs (2 ^ D.kw) i) flue with
      work := D.work, wn := workSize m D, wword := workWord m D (s.bundleMem (2 ^ D.kw) i) } := by
  have hsame : sameK (2 ^ D.kw) (s.bundleRegs (2 ^ D.kw) i) = true :=
    sameK_of_all fun j hj => by rw [s.getD_bundleRegs hi hj]; exact hk j hj
  simp [State.writesAt, s.bundleMem_member hi hj, s.bundleRegs_member hi hj, bundleWrites, hsame]

/-- The destination field of such a bundle then holds the result of an instruction without a work area (R48, R54). -/
theorem State.fieldWord_memAfter {d : Nat} {r : BundleResult} (hld : D.ld ≤ 8192) (hwork : workSize m D = 0)
    (hr : bundleResult m D (s.bundleMem (2 ^ D.kw) i) (s.bundleRegs (2 ^ D.kw) i) flue = r) (hdst : r.dst = d) (hlen : r.len = D.ld)
    (hword : r.word < 2 ^ (D.ld * 2 ^ D.kw)) :
    fieldWord (2 ^ D.kw) ((List.range (2 ^ D.kw)).map (fun j => s.memAfter m D flue (i + j))) (some d) D.ld = r.word := by
  rw [← Nat.mod_eq_of_lt hword]
  refine fieldWord_written (fun j => s.peMemory (i + j)) (Nat.two_pow_pos _) hld fun j hj => ?_
  rw [getD_range_map _ _ _ hj, State.memAfter, s.writesAt_of_all m D flue hi hk hj, hr, add_mod_of_aligned hi hj]
  simp [BundleResult.memory, hk j hj, hwork, putField, hdst, hlen]

/-- Such a bundle sets its result's E bits beside those already set, in an instruction that clears none (R59). -/
theorem State.regsAfter_e {j : Nat} (hj : j < 2 ^ D.kw) {r : BundleResult}
    (hr : bundleResult m D (s.bundleMem (2 ^ D.kw) i) (s.bundleRegs (2 ^ D.kw) i) flue = r) (hclear : r.clearE = false) :
    (s.regsAfter m D flue (i + j)).e = (s.pe (i + j)).e ||| r.e := by
  rw [State.regsAfter, s.writesAt_of_all m D flue hi hk hj, hr]
  simp [BundleResult.registers, hk j hj, hclear]

end

/-! ## The digit steps of the ROM (R15, R37, R53, R63) -/

/-- A field of a number is a field of its low bits. -/
theorem bitsOf_mod_two_pow (n lo : Nat) {hi m : Nat} (hm : hi < m) : bitsOf (n % 2 ^ m) hi lo = bitsOf n hi lo := by
  refine Nat.eq_of_testBit_eq fun i => ?_
  simp only [bitsOf, Nat.testBit_mod_two_pow, Nat.testBit_div_two_pow]
  by_cases hi' : i < hi + 1 - lo
  · simp [show i + lo < m by omega]
  · simp [hi']

/-- A burst of `n` steps, each of which reads a digit of x and, from source `srcb`, one of y, and writes one of d by table `g`; table `h` goes to C,
and `cce` enables the carry chain. -/
structure Burst.IsDigits (b : Burst) (n g h srcb cce x y d : Nat) : Prop where
  count : b.count = n
  gTable : b.nb 7 0 = g
  hTable : b.nb 15 8 = h
  aSource : b.nb 18 16 = 0
  bSource : b.nb 21 19 = srcb
  flagSelect : b.nb 23 22 = 0
  writes : b.nb 24 24 = 1
  flagDest : b.nb 28 25 = 1
  carryChain : b.nb 34 34 = cce
  multiplier : b.nb 37 35 = 0
  aAddr : ∀ j, b.aAddr j = (x + j) % 8192
  bAddr : ∀ j, b.bAddr j = (y + j) % 8192
  dAddr : ∀ j, b.dAddr j = (d + j) % 8192

theorem Burst.addr_one (a j : Nat) : Burst.addr (a % 8192) 1 j = (a + j) % 8192 := by
  unfold Burst.addr
  omega

/-- The ROM's burst of digit steps for fields that are not Z, with the trace tag `tag`. -/
def digitBurst (D : Dispatch) (first tag g h srcb cce x y d : Nat) : Burst :=
  ⟨BitVec.ofNat 256 (romNano g h 0 srcb 1 1 cce 0 + tag * 2 ^ 128), D.lx, x % 8192, y % 8192, d % 8192, 1, 1, 1, 0, D.kw, D.aop, first, false⟩

theorem romBurst_eq_digitBurst (D : Dispatch) (first g h srcb cce x y d : Nat) (hlx : 0 < D.lx) :
    ∃ tag, romBurst D first (romNano g h 0 srcb 1 1 cce 0) D.lx x y d 1 1 false = [digitBurst D first tag g h srcb cce x y d] :=
  ⟨_, if_neg (Nat.ne_of_gt hlx)⟩

/-- The trace tag lies above every field of the nanoword. -/
theorem nb_digitBurst (D : Dispatch) (first tag g h srcb cce x y d : Nat) {hi : Nat} (lo : Nat) (hhi : hi < 128) :
    (digitBurst D first tag g h srcb cce x y d).nb hi lo = bitsOf (romNano g h 0 srcb 1 1 cce 0) hi lo := by
  rw [Burst.nb, digitBurst, BitVec.toNat_ofNat, bitsOf_mod_two_pow _ _ (by omega), ← bitsOf_mod_two_pow _ _ hhi, Nat.add_mul_mod_self_right,
    bitsOf_mod_two_pow _ _ hhi]

theorem digitBurst_isDigits (D : Dispatch) (first tag x y d : Nat) {g h srcb cce : Nat} (hg : g < 256) (hh : h < 256)
    (hsrcb : srcb < 8) (hcce : cce < 2) : (digitBurst D first tag g h srcb cce x y d).IsDigits D.lx g h srcb cce x y d := by
  have hnb {hi : Nat} (lo : Nat) (hhi : hi < 128) := nb_digitBurst D first tag g h srcb cce x y d lo hhi
  have hasel : (digitBurst D first tag g h srcb cce x y d).nb 56 55 = 0 := by rw [hnb _ (by decide)]; simp only [bitsOf, romNano]; omega
  have hbsel : (digitBurst D first tag g h srcb cce x y d).nb 58 57 = 1 := by rw [hnb _ (by decide)]; simp only [bitsOf, romNano]; omega
  constructor
  case count => rfl
  case aAddr => exact fun j => by rw [Burst.aAddr, hasel]; exact Burst.addr_one x j
  case bAddr => exact fun j => by rw [Burst.bAddr, hbsel]; exact Burst.addr_one y j
  case dAddr => exact Burst.addr_one d
  all_goals
    rw [hnb _ (by decide)]
    simp only [bitsOf, romNano]
    omega

section
variable {v : StepEnv} {n g h srcb cce x y d : Nat} (hv : v.b.IsDigits n g h srcb cce x y d) (ms : List (BitVec 8192)) (rs : List PeRegs)
include hv

theorem StepEnv.a_of_digits (j : Nat) (m : BitVec 8192) (r : PeRegs) : v.a j m r = m.getLsbD ((x + v.j) % 8192) := by
  rw [StepEnv.a, hv.aSource, hv.aAddr]
  rfl

/-- What a PE computes in a digit step. -/
theorem StepEnv.bits_of_digits (j : Nat) : v.bits ms rs j =
    (g.testBit (ttIndex ((ms.getD j 0).getLsbD ((x + v.j) % 8192)) (v.bb j (ms.getD j 0) (rs.getD j PeRegs.reset)) (v.f ms rs j)),
      h.testBit (ttIndex ((ms.getD j 0).getLsbD ((x + v.j) % 8192)) (v.bb j (ms.getD j 0) (rs.getD j PeRegs.reset)) (v.f ms rs j))) := by
  simp only [StepEnv.bits, StepEnv.aG, hv.multiplier, hv.gTable, hv.hTable, StepEnv.a_of_digits hv]

/-- Operand b of a step that reads field y. -/
theorem StepEnv.bb_of_digits (hsrcb : srcb = 0) (j : Nat) (m : BitVec 8192) (r : PeRegs) : v.bb j m r = m.getLsbD ((y + v.j) % 8192) := by
  rw [StepEnv.bb, hv.bSource, hsrcb, hv.bAddr]
  rfl

/-- With the carry chain on, the flag of the first PE is the head's C. -/
theorem StepEnv.f_zero_of_chained (hcce : cce = 1) : v.f ms rs 0 = (rs.getD (v.k - 1) PeRegs.reset).c := by
  simp [StepEnv.f, StepEnv.chain, hv.carryChain, hv.flagSelect, hv.flagDest, hcce]

/-- With the carry chain on, the flag of every other PE is the carry of the PE before (R37). -/
theorem StepEnv.f_succ_of_chained (hcce : cce = 1) (j : Nat) : v.f ms rs (j + 1) = (v.bits ms rs j).2 := by
  have hchain : v.chain = true := by simp [StepEnv.chain, hv.carryChain, hv.flagSelect, hv.flagDest, hcce]
  cases j <;> simp [StepEnv.f, StepEnv.bits, StepEnv.chainH, hchain]

end

/-- Table 0xF0 copies a (R18). -/
theorem testBit_copyTable : ∀ a b f : Bool, Nat.testBit 0xF0 (ttIndex a b f) = a := by decide

/-- The sum and carry tables add (R53). -/
theorem addTables_add : ∀ a b f : Bool, bnat (Nat.testBit 0x96 (ttIndex a b f)) + 2 * bnat (Nat.testBit 0xE8 (ttIndex a b f)) =
    bnat a + bnat b + bnat f := by decide

/-- The difference and borrow tables subtract (R53). -/
theorem subTables_sub : ∀ a b f : Bool, bnat a + 2 * bnat (Nat.testBit 0x8E (ttIndex a b f)) =
    bnat (Nat.testBit 0x96 (ttIndex a b f)) + bnat b + bnat f := by decide

/-- The table of BOOL, from the code fn in the AOP (R55). -/
def boolTable (aop : Nat) : Nat := natOfBits 8 (fun i => aop.testBit (i / 2) && decide (i / 2 < 4))

theorem testBit_boolTable (aop : Nat) (a b f : Bool) :
    (boolTable aop).testBit (ttIndex a b f) = (aop % 16).testBit (2 * bnat a + bnat b) := by
  have hbound (c : Bool) : bnat c ≤ 1 := by cases c <;> decide
  have ha := hbound a
  have hb := hbound b
  have hf := hbound f
  have hhalf : ttIndex a b f / 2 = 2 * bnat a + bnat b := by unfold ttIndex; omega
  have hlt : ttIndex a b f < 8 := by unfold ttIndex; omega
  rw [boolTable, testBit_natOfBits, hhalf, show (16 : Nat) = 2 ^ 4 from rfl, Nat.testBit_mod_two_pow]
  simp [hlt, Bool.and_comm]

/-! ## The results of the digit steps (R54, R55) -/

/-- Digit `j` of the field at `a` in the PEs of a bundle, as a number (R48). -/
def digitWord (ms : List (BitVec 8192)) (k j a : Nat) : Nat := natOfBits k (fun i => (ms.getD i 0).getLsbD ((a + j) % 8192))

/-- What a step writes in the PEs of a bundle, as a number. -/
def StepEnv.outWord (v : StepEnv) (ms : List (BitVec 8192)) (rs : List PeRegs) : Nat := natOfBits v.k (fun j => (v.bits ms rs j).1)

section
variable {v : StepEnv} {n srcb x y d : Nat} (ms : List (BitVec 8192)) (rs : List PeRegs)

theorem outWord_of_copy (hv : v.b.IsDigits n 0xF0 0 srcb 0 x y d) :
    v.outWord ms rs = digitWord ms v.k v.j x ∧ ∀ j, (v.bits ms rs j).2 = false := by
  refine ⟨natOfBits_congr fun j _ => ?_, fun j => ?_⟩ <;> rw [StepEnv.bits_of_digits hv]
  · exact testBit_copyTable _ _ _
  · exact Nat.zero_testBit _

theorem bits_of_bool {aop : Nat} (hv : v.b.IsDigits n (boolTable aop) 0 0 0 x y d) (j : Nat) : v.bits ms rs j =
    ((aop % 16).testBit (2 * bnat ((ms.getD j 0).getLsbD ((x + v.j) % 8192)) + bnat ((ms.getD j 0).getLsbD ((y + v.j) % 8192))), false) := by
  rw [StepEnv.bits_of_digits hv, testBit_boolTable, StepEnv.bb_of_digits hv rfl, Nat.zero_testBit]

/-- In a chained step the carries ripple through the bundle, from the head's C to the carry of the head. -/
theorem f_at_width {g h : Nat} (hv : v.b.IsDigits n g h srcb 1 x y d) (hk : 0 < v.k) : v.f ms rs v.k = (v.bits ms rs (v.k - 1)).2 := by
  rw [← StepEnv.f_succ_of_chained hv ms rs rfl, Nat.sub_add_cancel hk]

theorem outWord_of_add (hv : v.b.IsDigits n 0x96 0xE8 0 1 x y d) (hk : 0 < v.k) :
    v.outWord ms rs + bnat (v.bits ms rs (v.k - 1)).2 * 2 ^ v.k =
      digitWord ms v.k v.j x + digitWord ms v.k v.j y + bnat (rs.getD (v.k - 1) PeRegs.reset).c := by
  rw [← f_at_width ms rs hv hk, ← StepEnv.f_zero_of_chained hv ms rs rfl]
  refine natOfBits_ripple (fun j => ?_) v.k
  rw [StepEnv.f_succ_of_chained hv ms rs rfl, StepEnv.bits_of_digits hv, StepEnv.bb_of_digits hv rfl]
  exact addTables_add _ _ _

theorem outWord_of_sub (hv : v.b.IsDigits n 0x96 0x8E 0 1 x y d) (hk : 0 < v.k) :
    digitWord ms v.k v.j x + bnat (v.bits ms rs (v.k - 1)).2 * 2 ^ v.k =
      v.outWord ms rs + digitWord ms v.k v.j y + bnat (rs.getD (v.k - 1) PeRegs.reset).c := by
  rw [← f_at_width ms rs hv hk, ← StepEnv.f_zero_of_chained hv ms rs rfl]
  refine natOfBits_ripple (fun j => ?_) v.k
  rw [StepEnv.f_succ_of_chained hv ms rs rfl, StepEnv.bits_of_digits hv, StepEnv.bb_of_digits hv rfl]
  exact subTables_sub _ _ _

end

/-! ## The first bursts of MOV, EXTU, BOOL, ADD and SUB (R53, R54, R63) -/

section
variable {D : Dispatch} {first x y d : Nat} {b : Burst} (hx : D.x = some x) (hy : D.y = some y) (hd : D.d = some d) (hlx : 0 < D.lx)

include hlx in
/-- A routine of the ROM that begins with digit steps. -/
theorem isDigits_of_head {m : Mn} {g h srcb cce x y d : Nat} (rest : List Burst) (hg : g < 256) (hh : h < 256) (hsrcb : srcb < 8) (hcce : cce < 2)
    (hm : romBursts m D first = romBurst D first (romNano g h 0 srcb 1 1 cce 0) D.lx x y d 1 1 false ++ rest)
    (hb : (romBursts m D first).head? = some b) : b.IsDigits D.lx g h srcb cce x y d := by
  obtain ⟨tag, hburst⟩ := romBurst_eq_digitBurst D first g h srcb cce x y d hlx
  rw [hm, hburst] at hb
  obtain rfl := Option.some.inj hb
  exact digitBurst_isDigits D first tag x y d hg hh hsrcb hcce

include hx hd hlx in
theorem isDigits_of_copy {m : Mn} (hm : m = .mov ∨ m = .extu) (hb : (romBursts m D first).head? = some b) :
    b.IsDigits D.lx 0xF0 0 4 0 x 0 d := by
  obtain rfl | rfl := hm
  · exact isDigits_of_head hlx [] (by decide) (by decide) (by decide) (by decide) (by simp [romBursts, srcOf, hx, hd]) hb
  · exact isDigits_of_head hlx (romBurst D first (romNano 0 0 4 4 1 1 0 0) (D.ld - D.lx) 0 0 (d + D.lx) 0 1 false)
      (by decide) (by decide) (by decide) (by decide) (by simp [romBursts, srcOf, hx, hd]) hb

include hx hy hd hlx

theorem isDigits_of_bool (hb : (romBursts .bool D first).head? = some b) : b.IsDigits D.lx (boolTable D.aop) 0 0 0 x y d :=
  isDigits_of_head hlx [] (natOfBits_lt 8 _) (by decide) (by decide) (by decide) (by simp [romBursts, srcOf, hx, hy, hd, boolTable]) hb

theorem isDigits_of_add (hb : (romBursts .add D first).head? = some b) : b.IsDigits D.lx 0x96 0xE8 0 1 x y d :=
  isDigits_of_head hlx [] (by decide) (by decide) (by decide) (by decide) (by simp [romBursts, srcOf, hx, hy, hd]) hb

theorem isDigits_of_sub (hb : (romBursts .sub D first).head? = some b) : b.IsDigits D.lx 0x96 0x8E 0 1 x y d :=
  isDigits_of_head hlx [] (by decide) (by decide) (by decide) (by decide) (by simp [romBursts, srcOf, hx, hy, hd]) hb

/-- Each of the five instructions that run step by step begins with digit steps. -/
theorem isDigits_of_stepwise {m : Mn} (hm : m ∈ [Mn.mov, .extu, .bool, .add, .sub]) (hb : (romBursts m D first).head? = some b) :
    ∃ g h srcb cce y', b.IsDigits D.lx g h srcb cce x y' d := by
  simp only [List.mem_cons, List.not_mem_nil, or_false] at hm
  obtain hm | hm | rfl | rfl | rfl := hm
  · exact ⟨_, _, _, _, _, isDigits_of_copy hx hd hlx (.inl hm) hb⟩
  · exact ⟨_, _, _, _, _, isDigits_of_copy hx hd hlx (.inr hm) hb⟩
  · exact ⟨_, _, _, _, _, isDigits_of_bool hx hy hd hlx hb⟩
  · exact ⟨_, _, _, _, _, isDigits_of_add hx hy hd hlx hb⟩
  · exact ⟨_, _, _, _, _, isDigits_of_sub hx hy hd hlx hb⟩

end

end Sys2Proof.Machine
end

section
/-!
The statements of 02_field_arithmetic.md: integer results on a bundle (R54, R55, R57, R58) and the edge cases of division (R59).
-/
namespace Sys2Proof.Machine

/-! ## The words of the other integer instructions (R54, R57, R58) -/

/-- Quotient and remainder of the unsigned division fit the dividend's width, whatever the divisor's (R58). -/
theorem quotientRemainder_lt {x y w : Nat} (hx : x < 2 ^ w) : x / y + x % y * 2 ^ w < 2 ^ (2 * w) := by
  have hq : x / y < 2 ^ w := Nat.lt_of_le_of_lt (Nat.div_le_self x y) hx
  have hr : x % y + 1 ≤ 2 ^ w := Nat.lt_of_le_of_lt (Nat.mod_le x y) hx
  calc x / y + x % y * 2 ^ w < (x % y + 1) * 2 ^ w := by rw [Nat.add_mul, Nat.one_mul]; omega
    _ ≤ 2 ^ w * 2 ^ w := Nat.mul_le_mul_right _ hr
    _ = 2 ^ (2 * w) := by rw [← Nat.pow_add, Nat.two_mul]

/-- The result of a division by zero fits its two halves (R59). -/
theorem zeroDivision_lt {x w : Nat} (hx : x < 2 ^ w) : 2 ^ w - 1 + x * 2 ^ w < 2 ^ (2 * w) := by
  calc 2 ^ w - 1 + x * 2 ^ w < (x + 1) * 2 ^ w := by have := Nat.two_pow_pos w; rw [Nat.add_mul, Nat.one_mul]; omega
    _ ≤ 2 ^ w * 2 ^ w := Nat.mul_le_mul_right _ hx
    _ = 2 ^ (2 * w) := by rw [← Nat.pow_add, Nat.two_mul]

theorem signedOf_zero (w : Nat) : signedOf 0 w = 0 := by simp [signedOf]

theorem encodeInt_zero (w : Nat) : encodeInt 0 w = 0 := by simp [encodeInt]

/-- By a zero divisor, of whatever width and signedness (R59). -/
theorem divResult_zero (dst lx ly k x : Nat) (signed : Bool) :
    (divResult dst lx ly k x 0 signed).word = 2 ^ (lx * k) - 1 + x * 2 ^ (lx * k) := by
  cases signed <;> simp [divResult, divide, signedOf_zero, encodeInt_zero]

theorem divResult_unsigned (dst lx ly k x : Nat) {y : Nat} (hy : y ≠ 0) :
    (divResult dst lx ly k x y false).word = x / y + x % y * 2 ^ (lx * k) := by
  simp [divResult, divide, hy]

/-! ## O10 -/

/-- Settles O10: a digit step of MOV, EXTU, BOOL, ADD or SUB looks up its tables and ripples the carry; any other instruction's destination field
holds its result word. -/
theorem arrayIntegerResultsAreWritten : Obligations.ArrayIntegerResultsAreWritten := by
  refine ⟨?_, ?_⟩
  · rintro m D first x y d b v ms rs hm hx hy hd hlx hb rfl hvk -
    have hk : 0 < v.k := hvk ▸ Nat.two_pow_pos _
    obtain ⟨_, _, _, _, _, hdigits⟩ := isDigits_of_stepwise hx hy hd hlx hm hb
    refine ⟨⟨hdigits.count, hdigits.dAddr _, hdigits.writes, hdigits.flagDest⟩, fun hcopy => ?_, ?_, ?_, ?_⟩
    · obtain ⟨hout, hc⟩ := outWord_of_copy ms rs (isDigits_of_copy hx hd hlx hcopy hb)
      exact ⟨hout, by rw [hc]; rfl⟩
    · rintro rfl
      have hbits := bits_of_bool ms rs (isDigits_of_bool hx hy hd hlx hb)
      exact ⟨fun j _ => by rw [hbits], by rw [hbits]; rfl⟩
    · rintro rfl
      exact outWord_of_add ms rs (isDigits_of_add hx hy hd hlx hb) hk
    · rintro rfl
      exact (outWord_of_sub ms rs (isDigits_of_sub hx hy hd hlx hb) hk).symm
  · intro s m D flue i d hi hd hld hk k x y c after w
    have hx : x < 2 ^ (D.lx * k) := fieldWord_lt _ _ _ _
    have hy : y < 2 ^ (D.ly * k) := fieldWord_lt _ _ _ _
    have hk0 : 0 < k := Nat.two_pow_pos _
    have hc : bnat ((s.bundleRegs k i).getD (k - 1) PeRegs.reset).c = c := by
      rw [s.getD_bundleRegs hi (by omega), ← Nat.add_sub_assoc hk0]
    have hdst : D.d.getD 0 = d := by rw [hd]; rfl
    have hw : D.ld = 2 * D.lx → 2 ^ w = 2 ^ (2 * (D.lx * k)) := fun h => by simp only [w, h, Nat.mul_assoc]
    refine ⟨?_, ?_, ?_, ?_, ?_, ?_, ?_⟩
    · rintro rfl
      exact s.fieldWord_memAfter _ D flue hi hk hld rfl rfl hdst rfl (encodeInt_lt _ _)
    · rintro rfl
      rw [← hc]
      exact s.fieldWord_memAfter _ D flue hi hk hld rfl rfl hdst rfl (Nat.mod_lt _ (Nat.two_pow_pos _))
    · rintro rfl
      rw [← hc]
      exact s.fieldWord_memAfter _ D flue hi hk hld rfl rfl hdst rfl (encodeInt_lt _ _)
    · rintro rfl hsum
      refine s.fieldWord_memAfter _ D flue hi hk hld rfl rfl hdst hsum.symm ?_
      rw [hsum, Nat.add_mul, Nat.pow_add]
      exact Nat.mul_lt_mul'' hx hy
    · rintro rfl hsum
      rw [show w = (D.lx + D.ly) * k by rw [← hsum]]
      refine s.fieldWord_memAfter _ D flue hi hk hld rfl rfl hdst hsum.symm ?_
      rw [hsum]
      exact encodeInt_lt _ _
    · rintro rfl hhalves hy0
      have hword := divResult_unsigned (D.d.getD 0) D.lx D.ly k x hy0
      rw [← hword]
      refine s.fieldWord_memAfter _ D flue hi hk hld rfl rfl hdst hhalves.symm ?_
      exact hword ▸ hw hhalves ▸ quotientRemainder_lt hx
    · intro hm hhalves hy0
      obtain ⟨signed, hwork, hr⟩ : ∃ signed, workSize m D = 0 ∧
          bundleResult m D (s.bundleMem k i) (s.bundleRegs k i) flue = divResult (D.d.getD 0) D.lx D.ly k x y signed := by
        obtain rfl | rfl := hm
        · exact ⟨false, rfl, rfl⟩
        · exact ⟨true, rfl, rfl⟩
      have hword := divResult_zero (D.d.getD 0) D.lx D.ly k x signed
      rw [hy0] at hr
      rw [← hword]
      refine s.fieldWord_memAfter _ D flue hi hk hld hwork hr hdst hhalves.symm ?_
      exact hword ▸ hw hhalves ▸ zeroDivision_lt hx

/-! ## Signed readings and the edge cases of division (R58, R59) -/

/-- The signed reading of a word of `w` bits. -/
theorem signedOf_of_lt {x w : Nat} (hw : 0 < w) (hx : x < 2 ^ w) :
    signedOf x w = if 2 ^ (w - 1) ≤ x then (x : Int) - (2 ^ w : Nat) else x := by
  rw [signedOf, if_neg (by omega), Nat.mod_eq_of_lt hx]

/-- The overflow case as a condition on the words: the most negative dividend over all ones. -/
theorem words_of_overflow {x y w : Nat} (hw : 0 < w) (hx : x < 2 ^ w) (hy : y < 2 ^ w) (ha : signedOf x w = -(2 ^ (w - 1) : Nat))
    (hb : signedOf y w = -1) : x = 2 ^ (w - 1) ∧ y = 2 ^ w - 1 := by
  have hdouble : 2 ^ w = 2 * 2 ^ (w - 1) := by rw [← Nat.pow_succ', Nat.succ_eq_add_one, Nat.sub_add_cancel hw]
  rw [signedOf_of_lt hw hx] at ha
  rw [signedOf_of_lt hw hy] at hb
  split at ha <;> split at hb <;> omega

theorem divide_overflow {w : Nat} (hw : 1 < w) : divide w true (2 ^ (w - 1)) (2 ^ w - 1) = (2 ^ (w - 1), 0, 0x04) := by
  have hdouble : 2 ^ w = 2 * 2 ^ (w - 1) := by rw [← Nat.pow_succ', Nat.succ_eq_add_one, Nat.sub_add_cancel (by omega)]
  have hhalf : 2 ≤ 2 ^ (w - 1) := Nat.le_pow (by omega)
  have ha : signedOf (2 ^ (w - 1)) w = -(2 ^ (w - 1) : Nat) := by
    rw [signedOf_of_lt (by omega) (by omega), if_pos (Nat.le_refl _)]
    omega
  have hb : signedOf (2 ^ w - 1) w = -1 := by
    rw [signedOf_of_lt (by omega) (by omega), if_pos (by omega)]
    omega
  rw [divide, if_neg (by omega), if_pos rfl, if_pos ⟨ha, hb⟩]

theorem signedOf_ne_zero {y w : Nat} (hw : 0 < w) (hy : y < 2 ^ w) (h : y ≠ 0) : signedOf y w ≠ 0 := by
  rw [signedOf_of_lt hw hy]
  split <;> omega

theorem divide_signed {x y w : Nat} (hw : 0 < w) (hx : x < 2 ^ w) (hy : y < 2 ^ w) (hy0 : y ≠ 0) (h : ¬(x = 2 ^ (w - 1) ∧ y = 2 ^ w - 1)) :
    divide w true x y = (encodeInt ((signedOf x w).tdiv (signedOf y w)) w, encodeInt ((signedOf x w).tmod (signedOf y w)) w, 0) := by
  rw [divide, if_neg hy0, if_pos rfl, if_neg fun hov => h (words_of_overflow hw hx hy hov.1 hov.2)]

/-- Division that truncates toward zero: the remainder is smaller than the divisor and has the dividend's sign (R58). -/
theorem tdiv_tmod_spec (a : Int) {b : Int} (hb : b ≠ 0) :
    a = a.tdiv b * b + a.tmod b ∧ (a.tmod b).natAbs < b.natAbs ∧ (0 ≤ a → 0 ≤ a.tmod b) ∧ (a ≤ 0 → a.tmod b ≤ 0) := by
  refine ⟨(Int.tdiv_mul_add_tmod a b).symm, ?_, fun h => Int.tmod_nonneg b h, fun h => ?_⟩
  · rw [Int.natAbs_tmod]
    exact Nat.mod_lt _ (Int.natAbs_pos.mpr hb)
  · have hneg := Int.tmod_nonneg b (Int.neg_nonneg.mpr h)
    rw [Int.neg_tmod] at hneg
    omega

/-! ## O11 -/

/-- Settles O11: the branches of `divide`, and what the registers of a PE with K = 1 take from the bundle's result. -/
theorem divisionEdgeResults : Obligations.DivisionEdgeResults := by
  refine ⟨fun w x y hw hx hy => ⟨fun hy0 => ?_, fun signed => ?_, ?_, fun hy0 hov => ?_⟩, ?_⟩
  · rw [divide, if_neg hy0, if_neg Bool.false_ne_true]
  · rw [divide, if_pos rfl]
  · rintro rfl rfl hw1
    exact divide_overflow hw1
  · exact ⟨_, _, divide_signed hw hx hy hy0 hov, tdiv_tmod_spec _ (signedOf_ne_zero hw hy hy0)⟩
  · intro s m D flue i j hi hj hm hk
    obtain rfl | rfl := hm
    · exact s.regsAfter_e _ D flue hi hk hj rfl rfl
    · exact s.regsAfter_e _ D flue hi hk hj rfl rfl

end Sys2Proof.Machine
end

section
/-!
The statements of 04_flue_reductions.md: what the Flue gives over the words it takes (R92) and how a result reaches the sequencer (R95, R105, R367).
-/
namespace Sys2Proof.Machine

/-! ## The greatest and the least of a list of readings (R92) -/

/-- A maximum that starts at or below every reading is the reading of one of the words, and no word reads above it. -/
theorem foldl_max_map {vs : List Nat} (g : Nat → Int) {b : Int} (hne : vs ≠ []) (hb : ∀ v ∈ vs, b ≤ g v) :
    ∃ v ∈ vs, (vs.map g).foldl max b = g v ∧ ∀ u ∈ vs, g u ≤ g v := by
  obtain ⟨i, hi⟩ := Option.isSome_iff_exists.mp (List.isSome_max?_of_ne_nil (l := vs.map g) (mt List.map_eq_nil_iff.mp hne))
  obtain ⟨hmem, hle⟩ := List.max?_eq_some_iff.mp hi
  obtain ⟨v, hv, rfl⟩ := List.mem_map.mp hmem
  refine ⟨v, hv, ?_, fun u hu => hle _ (List.mem_map_of_mem hu)⟩
  rw [List.foldl_max, hi, Option.getD_some, Int.max_eq_right (hb v hv)]

/-- A minimum that starts at or above every reading is the reading of one of the words, and no word reads below it. -/
theorem foldl_min_map {vs : List Nat} (g : Nat → Int) {b : Int} (hne : vs ≠ []) (hb : ∀ v ∈ vs, g v ≤ b) :
    ∃ v ∈ vs, (vs.map g).foldl min b = g v ∧ ∀ u ∈ vs, g v ≤ g u := by
  obtain ⟨i, hi⟩ := Option.isSome_iff_exists.mp (List.isSome_min?_of_ne_nil (l := vs.map g) (mt List.map_eq_nil_iff.mp hne))
  obtain ⟨hmem, hle⟩ := List.min?_eq_some_iff.mp hi
  obtain ⟨v, hv, rfl⟩ := List.mem_map.mp hmem
  refine ⟨v, hv, ?_, fun u hu => hle _ (List.mem_map_of_mem hu)⟩
  rw [List.foldl_min, hi, Option.getD_some, Int.min_eq_right (hb v hv)]

/-- The signed reading of a word of `w` bits lies between the most negative and the most positive one. -/
theorem signedOf_bounds {v w : Nat} (hw : 0 < w) (hv : v < 2 ^ w) :
    -(2 ^ (w - 1) : Nat) ≤ signedOf v w ∧ signedOf v w ≤ (2 ^ (w - 1) : Nat) - 1 := by
  have hdouble : 2 ^ w = 2 * 2 ^ (w - 1) := by rw [← Nat.pow_succ', Nat.succ_eq_add_one, Nat.sub_add_cancel hw]
  rw [signedOf_of_lt hw hv]
  split <;> omega

/-! ## The Flue's combinations (R92) -/

theorem bnat_eq_one_iff {b : Bool} : (bnat b : Int) = 1 ↔ b = true := by cases b <;> decide

theorem flueCombine_rany_iff (w : Nat) (vs : List Nat) : flueCombine .rany w vs = 1 ↔ ∃ v ∈ vs, v ≠ 0 := by
  refine bnat_eq_one_iff.trans ?_
  simp only [List.any_eq_true, decide_eq_true_eq]

theorem flueCombine_rall_iff (w : Nat) (vs : List Nat) : flueCombine .rall w vs = 1 ↔ ∀ v ∈ vs, v ≠ 0 := by
  refine bnat_eq_one_iff.trans ?_
  simp only [List.all_eq_true, decide_eq_true_eq]

/-- The sum of the unsigned readings is the sum of the words. -/
theorem sum_map_cast (vs : List Nat) : (vs.map (Nat.cast : Nat → Int)).sum = ((vs.sum : Nat) : Int) := by
  induction vs with
  | nil => rfl
  | cons v vs ih => rw [List.map_cons, List.sum_cons, List.sum_cons, ih, Int.natCast_add]

/-- A count or an unsigned sum is the sum of the words. -/
theorem flueCombine_sum {m : Mn} (hm : m = .rcnt ∨ m = .rsumu) (w : Nat) (vs : List Nat) : flueCombine m w vs = ((vs.sum : Nat) : Int) := by
  rw [← sum_map_cast, List.sum_eq_foldl]
  obtain rfl | rfl := hm <;> rfl

theorem flueCombine_rsums (w : Nat) (vs : List Nat) : flueCombine .rsums w vs = (vs.map (fun v => signedOf v w)).sum :=
  List.sum_eq_foldl.symm

section
variable {w : Nat} {vs : List Nat} (hne : vs ≠ [])
include hne

theorem flueCombine_rmaxu : ∃ v ∈ vs, flueCombine .rmaxu w vs = v ∧ ∀ u ∈ vs, u ≤ v := by
  obtain ⟨v, hv, heq, hle⟩ := foldl_max_map (Nat.cast : Nat → Int) hne (b := 0) (fun v _ => Int.natCast_nonneg v)
  exact ⟨v, hv, heq, fun u hu => Int.ofNat_le.mp (hle u hu)⟩

variable (hlt : ∀ v ∈ vs, v < 2 ^ w)
include hlt

theorem flueCombine_rminu : ∃ v ∈ vs, flueCombine .rminu w vs = v ∧ ∀ u ∈ vs, v ≤ u := by
  have hb : ∀ v ∈ vs, (v : Int) ≤ (2 ^ w : Nat) - 1 := fun v hv => by have := hlt v hv; omega
  obtain ⟨v, hv, heq, hle⟩ := foldl_min_map (Nat.cast : Nat → Int) hne hb
  exact ⟨v, hv, heq, fun u hu => Int.ofNat_le.mp (hle u hu)⟩

variable (hw : 0 < w)
include hw

theorem flueCombine_rmaxs : ∃ v ∈ vs, flueCombine .rmaxs w vs = signedOf v w ∧ ∀ u ∈ vs, signedOf u w ≤ signedOf v w :=
  foldl_max_map (fun v => signedOf v w) hne fun v hv => (signedOf_bounds hw (hlt v hv)).1

theorem flueCombine_rmins : ∃ v ∈ vs, flueCombine .rmins w vs = signedOf v w ∧ ∀ u ∈ vs, signedOf v w ≤ signedOf u w :=
  foldl_min_map (fun v => signedOf v w) hne fun v hv => (signedOf_bounds hw (hlt v hv)).2

end

/-! ## Writes to the Hearth memories through a sequencer's port (R178, R179) -/

/-- A reservation changed is a change of registers. -/
theorem State.setRsv_eq (s : State) (q : Nat) (v : Bool) : s.setRsv q v = { s with regs := (s.setRsv q v).regs } := rfl

/-- Steps that each change registers alone change registers alone. -/
theorem State.foldl_regs {α : Type} {f : State → α → State} (hf : ∀ t x, f t x = { t with regs := (f t x).regs }) (l : List α) (s : State) :
    l.foldl f s = { s with regs := (l.foldl f s).regs } := by
  induction l generalizing s with
  | nil => rfl
  | cons x l ih => rw [List.foldl_cons, ih, hf s x]

/-- The reservations that a write takes away are in registers alone. -/
theorem State.loseRsv_eq (s : State) (a n : Nat) : s.loseRsv a n = { s with regs := (s.loseRsv a n).regs } := by
  refine State.foldl_regs (fun t q => ?_) _ s
  dsimp only
  split
  · exact t.setRsv_eq q false
  · rfl

/-- Bytes written change the Hearth memories, and registers by the reservations lost. -/
theorem State.hearthPut_eq (s : State) (a : Nat) (bs : List Byte) :
    s.hearthPut a bs = { s with regs := (s.hearthPut a bs).regs, hearth := writeBytes s.hearth a bs } := by
  rw [State.hearthPut, s.loseRsv_eq a bs.length]

/-- A sequencer's write that no write of the system port can meet stands as it is. -/
theorem State.seqPut_of_calm {s : State} (hcalm : s.calm = true) (p a : Nat) (bs : List Byte) :
    s.seqPut p a bs = { s with regs := (s.hearthPut a bs).regs, hearth := writeBytes s.hearth a bs, lastPort := some ⟨some p, a, bs⟩ } := by
  have hput : { s.hearthPut a bs with lastPort := some ⟨some p, a, bs⟩ } = { s with
      regs := (s.hearthPut a bs).regs, hearth := writeBytes s.hearth a bs, lastPort := some ⟨some p, a, bs⟩ } := by
    rw [s.hearthPut_eq a bs]
  rw [← hput, State.seqPut]
  split
  next b cs hport => exact absurd hcalm (by rw [State.calm, hport]; exact Bool.false_ne_true)
  next => rfl

theorem sameHearth_of_writeBytes {s t : State} {a : Nat} {bs : List Byte} (h : t.hearth = writeBytes s.hearth a bs) :
    SameHearth a bs.length s t := fun k hk => by rw [h, get_writeBytes_other _ _ _ hk]

/-! ## The confirmation point (R366, R367, R371) -/

/-- The window of a replay that closes is in the recovery and in registers. -/
theorem State.closeReplay_eq (s : State) (p : Nat) :
    s.closeReplay p = { s with regs := (s.closeReplay p).regs, recovery := (s.closeReplay p).recovery } := by
  unfold State.closeReplay
  split
  · split <;> rfl
  · rfl

theorem State.part_closeReplay (s : State) (p q : Nat) : (s.closeReplay p).part q = s.part q := by rw [s.closeReplay_eq p]; rfl

/-- A confirmation changes the partitions, the recovery and registers. -/
theorem State.confirm_eq (s : State) (p c : Nat) : s.confirm p c =
    { s with regs := (s.confirm p c).regs, parts := (s.confirm p c).parts, recovery := (s.confirm p c).recovery } := by
  rw [State.confirm, State.closeReplay_eq]
  rfl

theorem State.results_confirm (s : State) (p c : Nat) : ((s.confirm p c).part p).results = (s.part p).results := by
  rw [State.confirm, State.part_closeReplay, State.part_setPart_same]

theorem State.confirmed_confirm (s : State) (p c : Nat) : ((s.confirm p c).part p).confirmed = max (s.part p).confirmed c := by
  rw [State.confirm, State.part_closeReplay, State.part_setPart_same]

/-! ## FLUE_RESULT_WRITE (R95, R105, R367) -/

theorem State.get_setFlc (s : State) (p : Nat) (v : Bool) : (s.setFlc p v).get (Reg.SEQ_STATE_FLC p) = bnat v := by
  rw [State.setFlc, State.get_set_same _ _ _ ⟨Nat.le_refl 16, (by decide : 16 < 64)⟩]
  cases v <;> rfl

/-- The oldest Flue result taken off, with the steps of its stream confirmed (R367). -/
def State.takeFlue (s : State) (p : Nat) (f : FlueResult) (rest : List FlueResult) : State :=
  (s.setPart p { s.part p with results := rest }).confirm p f.upto

/-- Taking a result off changes the partitions, the recovery and registers. -/
theorem State.takeFlue_eq (s : State) (p : Nat) (f : FlueResult) (rest : List FlueResult) : s.takeFlue p f rest =
    { s with regs := (s.takeFlue p f rest).regs, parts := (s.takeFlue p f rest).parts, recovery := (s.takeFlue p f rest).recovery } :=
  State.confirm_eq _ p f.upto

theorem State.calm_takeFlue (s : State) (p : Nat) (f : FlueResult) (rest : List FlueResult) : (s.takeFlue p f rest).calm = s.calm := by
  rw [s.takeFlue_eq p f rest]
  rfl

theorem State.results_takeFlue (s : State) (p : Nat) (f : FlueResult) (rest : List FlueResult) :
    ((s.takeFlue p f rest).part p).results = rest := by
  rw [State.takeFlue, State.results_confirm, State.part_setPart_same]

theorem State.upto_le_takeFlue (s : State) (p : Nat) (f : FlueResult) (rest : List FlueResult) :
    f.upto ≤ ((s.takeFlue p f rest).part p).confirmed := by
  rw [State.takeFlue, State.confirmed_confirm]
  exact Nat.le_max_right _ _

theorem State.deliverFlue_failed (s : State) (p : Nat) {f : FlueResult} (rest : List FlueResult) (hfail : f.failed = true) :
    s.deliverFlue p f rest = s.setPart p { s.part p with results := rest } := if_pos hfail

theorem State.deliverFlue_flc (s : State) (p : Nat) {f : FlueResult} (rest : List FlueResult) {v : Bool} (hfail : f.failed = false)
    (hflc : f.flc = some v) : s.deliverFlue p f rest = (s.takeFlue p f rest).setFlc p v := by
  simp only [State.deliverFlue, State.takeFlue, hfail, hflc, Bool.false_eq_true, if_false]

theorem State.deliverFlue_words (s : State) (p : Nat) {f : FlueResult} (rest : List FlueResult) (hfail : f.failed = false) (hflc : f.flc = none) :
    s.deliverFlue p f rest = (s.takeFlue p f rest).seqPut p (0x200000 * p + f.dst) (f.words.flatMap (fun w => leBytes 8 w.toNat)) := by
  simp only [State.deliverFlue, State.takeFlue, hfail, hflc, Bool.false_eq_true, if_false]

theorem exec_flueResultWrite {p : SeqId} {s : State} {f : FlueResult} {rest : List FlueResult} (hres : (s.part p).results = f :: rest)
    (hheld : s.stepsHeld p = false) : exec (.flueResultWrite p) s = .next (s.deliverFlue p f rest) := by
  change execFlueResultWrite p s = _
  simp only [execFlueResultWrite, hres, hheld, Bool.false_eq_true, if_false]

/-! ## O13 -/

/-- Settles O13: the combinations one by one, and the three ways in which a result is delivered: failed, to FLC, and to the words of `dst`. -/
theorem flueCombinesExactly : Obligations.FlueCombinesExactly := by
  refine ⟨fun w vs hne hlt hw => ⟨flueCombine_rany_iff w vs, flueCombine_rall_iff w vs, flueCombine_sum (.inl rfl) w vs,
    flueCombine_sum (.inr rfl) w vs, flueCombine_rsums w vs, flueCombine_rmaxu hne, flueCombine_rminu hne hlt, flueCombine_rmaxs hne hlt hw,
    flueCombine_rmins hne hlt hw⟩, ?_⟩
  intro p s f rest hres hheld hcase
  refine ⟨_, exec_flueResultWrite hres hheld, ?_⟩
  have hframe := s.takeFlue_eq p f rest
  have hpeMem : (s.takeFlue p f rest).peMem = s.peMem := by rw [hframe]
  have hpes : (s.takeFlue p f rest).pes = s.pes := by rw [hframe]
  have hhbm : (s.takeFlue p f rest).hbm = s.hbm := by rw [hframe]
  have hhearth : (s.takeFlue p f rest).hearth = s.hearth := by rw [hframe]
  have hresults := s.results_takeFlue p f rest
  have hupto := s.upto_le_takeFlue p f rest
  cases hfail : f.failed with
  | true =>
    rw [s.deliverFlue_failed p rest hfail]
    exact ⟨congrArg Part.results (s.part_setPart_same p _), nofun, rfl, rfl, rfl, nofun, nofun, fun _ => ⟨rfl, rfl⟩⟩
  | false =>
    cases hflc : f.flc with
    | some v =>
      rw [s.deliverFlue_flc p rest hfail hflc]
      refine ⟨hresults, fun _ => hupto, hpeMem, hpes, hhbm, ?_, nofun, nofun⟩
      rintro v - ⟨rfl⟩
      exact ⟨State.get_setFlc _ p v, hhearth⟩
    | none =>
      have hcalm : s.calm = true := by
        rw [hfail, hflc] at hcase
        exact (hcase.resolve_left Bool.false_ne_true).resolve_left Bool.false_ne_true
      rw [← s.calm_takeFlue p f rest] at hcalm
      rw [s.deliverFlue_words p rest hfail hflc, State.seqPut_of_calm hcalm, hhearth]
      refine ⟨hresults, fun _ => hupto, hpeMem, hpes, hhbm, nofun, fun _ _ => ⟨?_, ?_⟩, nofun⟩
      · exact readBytes_writeBytes _ _ _
      · exact sameHearth_of_writeBytes rfl

end Sys2Proof.Machine
end

section
/-!
The statement of 05_news_links_and_array_mesh.md about fences and their phases (R121, R133-R136), with what raising an event's source changes.
-/
namespace Sys2Proof.Machine

/-! ## Fields of a register apart (R5) -/

/-- A field with no bit in common with the one set reads as before, in whichever register it stands. -/
theorem State.get_set_apart (s : State) (f g : Field) (v : Nat) (hf : f.lo ≤ f.hi ∧ f.hi < 64) (hg : g.lo ≤ g.hi)
    (h : g.off ≠ f.off ∨ g.hi < f.lo ∨ f.hi < g.lo) : (s.set f v).get g = s.get g := by
  by_cases ho : g.off = f.off
  · exact s.get_set_other_field f g v hf hg ho (h.resolve_left (not_not_intro ho))
  · exact s.get_set_other_reg f g v ho

theorem State.get_lt (s : State) (f : Field) : s.get f < 2 ^ (f.hi + 1 - f.lo) := Nat.mod_lt _ (Nat.two_pow_pos _)

theorem State.get_congr {s t : State} {g : Field} (h : t.reg g.off = s.reg g.off) : t.get g = s.get g :=
  congrArg (fun r => getField r g.hi g.lo) h

/-- Steps that each leave what `g` reads leave it together. -/
theorem State.foldl_reads {α β : Type} {f : State → α → State} {g : State → β} (hf : ∀ t x, g (f t x) = g t) (l : List α) (s : State) :
    g (l.foldl f s) = g s := by
  induction l generalizing s with
  | nil => rfl
  | cons x l ih => rw [List.foldl_cons, ih, hf]

/-! ## What an event's source sets off (R315, R324, R325) -/

/-- From `s` to `t` nothing has changed but wait flags with their images, EVT_ERR.ROUTE, and messages held or sent. -/
structure OnlySignals (s t : State) : Prop where
  frame : t = { s with regs := t.regs, seqs := t.seqs, ep := t.ep, out := t.out }
  reg : ∀ off, off < 0x202200 ∨ 0x202300 < off → t.reg off = s.reg off

theorem OnlySignals.refl (s : State) : OnlySignals s s := ⟨rfl, fun _ _ => rfl⟩

theorem OnlySignals.trans {s t u : State} (h : OnlySignals s t) (k : OnlySignals t u) : OnlySignals s u :=
  ⟨k.frame.trans (by rw [h.frame]), fun off hoff => (k.reg off hoff).trans (h.reg off hoff)⟩

theorem OnlySignals.foldl {α : Type} {f : State → α → State} {l : List α} (hf : ∀ t, ∀ x ∈ l, OnlySignals t (f t x)) (s : State) :
    OnlySignals s (l.foldl f s) := by
  induction l generalizing s with
  | nil => exact .refl s
  | cons x l ih => exact (hf s x List.mem_cons_self).trans (ih (fun t y hy => hf t y (List.mem_cons_of_mem x hy)) _)

theorem State.setFlag_onlySignals (s : State) {q n : Nat} (hq : q < 4) (hn : n < 256) (v : Bool) : OnlySignals s (s.setFlag q n v) := by
  unfold State.setFlag
  split
  · exact .refl s
  · refine ⟨rfl, fun off hoff => State.reg_set_other _ _ _ ?_⟩
    simp only [waitFlag, Reg.EVT_SFLAG_FLAG]
    omega

theorem State.message_onlySignals (s : State) (fn vec : Nat) : OnlySignals s (s.message fn vec) := by
  unfold State.message
  split
  · split
    · split
      · exact .refl s
      · exact ⟨rfl, fun _ _ => rfl⟩
    · exact ⟨rfl, fun _ _ => rfl⟩
  · refine ⟨rfl, fun off hoff => State.reg_set_other _ _ _ ?_⟩
    simp only [Reg.EVT_ERR_ROUTE]
    omega

theorem State.messageAfter_onlySignals (s : State) (fn vec : Nat) (qs : List Nat) : OnlySignals s (s.messageAfter fn vec qs) := by
  unfold State.messageAfter
  split
  · exact s.message_onlySignals fn vec
  · exact ⟨rfl, fun _ _ => rfl⟩

/-- A source raised is pending; what follows are wait flags and a message. -/
theorem State.raise_onlySignals (s : State) (i : Nat) : OnlySignals (s.set (pendBit i) 1) (s.raise i) := by
  have hflags : ∀ t : State, ∀ q ∈ List.range 4, OnlySignals t
      (if bitAt ((s.set (pendBit i) 1).get (Reg.EVT_SRC_SEQ i)) q = 1 then
        t.setFlag q ((s.set (pendBit i) 1).get (Reg.EVT_SRC_WFLAG i)) true else t) := fun t q hq => by
    split
    · exact t.setFlag_onlySignals (List.mem_range.mp hq) (State.get_lt _ _) true
    · exact .refl t
  have hset := OnlySignals.foldl hflags (s.set (pendBit i) 1)
  unfold State.raise
  dsimp only
  split
  · exact hset.trans (State.messageAfter_onlySignals _ _ _ _)
  · exact hset

theorem State.raise_frame (s : State) (i : Nat) :
    s.raise i = { s with regs := (s.raise i).regs, seqs := (s.raise i).seqs, ep := (s.raise i).ep, out := (s.raise i).out } :=
  (s.raise_onlySignals i).frame

/-- A register outside the event block reads as before a source is raised. -/
theorem State.reg_raise_other (s : State) {i off : Nat} (hi : i < 1024) (hoff : off < 0x201000 ∨ 0x202300 < off) :
    (s.raise i).reg off = s.reg off := by
  rw [(s.raise_onlySignals i).reg off (by omega)]
  refine s.reg_set_other _ _ ?_
  simp only [pendBit, Reg.EVT_PEND_PEND]
  omega

theorem State.get_raise_other (s : State) {i : Nat} (g : Field) (hi : i < 1024) (hoff : g.off < 0x201000 ∨ 0x202300 < g.off) :
    (s.raise i).get g = s.get g :=
  State.get_congr (s.reg_raise_other hi hoff)

theorem State.flag_pendBit_raise (s : State) {i : Nat} (hi : i < 1024) : (s.raise i).flag (pendBit i) = true := by
  have hreg : (s.raise i).reg (pendBit i).off = (s.set (pendBit i) 1).reg (pendBit i).off := by
    refine (s.raise_onlySignals i).reg _ (.inl ?_)
    simp only [pendBit, Reg.EVT_PEND_PEND]
    omega
  have hset := s.get_set_same (pendBit i) 1 ⟨Nat.le_refl _, by simp only [pendBit]; omega⟩
  simp only [State.flag, State.get, hreg, decide_eq_true_eq] at hset ⊢
  rw [hset]
  simp [pendBit]

/-! ## A fence's holders and its register (R133, R136, R138) -/

/-- The phase just set; the phases of R133 fit its field. -/
theorem State.phase_set_phase (s : State) (d : Nat) {v : Nat} (hv : v < 8) : (s.set (Reg.MSH_FENCE_PHASE d) v).phase d = v :=
  (s.get_set_same (Reg.MSH_FENCE_PHASE d) v ⟨Nat.zero_le 2, by simp [Reg.MSH_FENCE_PHASE]⟩).trans (Nat.mod_eq_of_lt hv)

theorem State.req_set_req (s : State) (d : Nat) (b : Bool) : (s.set (Reg.MSH_FENCE_REQ d) (bnat b)).get (Reg.MSH_FENCE_REQ d) = bnat b :=
  (s.get_set_same (Reg.MSH_FENCE_REQ d) _ ⟨Nat.le_refl 31, by simp [Reg.MSH_FENCE_REQ]⟩).trans (by cases b <;> rfl)

theorem State.forced_set_forced (s : State) (d : Nat) (b : Bool) :
    (s.set (Reg.MSH_FENCE_FORCED d) (bnat b)).get (Reg.MSH_FENCE_FORCED d) = bnat b :=
  (s.get_set_same (Reg.MSH_FENCE_FORCED d) _ ⟨Nat.le_refl 7, by simp [Reg.MSH_FENCE_FORCED]⟩).trans (by cases b <;> rfl)

theorem State.set_frame (s : State) (f : Field) (v : Nat) : s.set f v = { s with regs := (s.set f v).regs } := rfl

theorem State.setFence_frame (s : State) (d : Nat) (f : Fence) : s.setFence d f = { s with fences := (s.setFence d f).fences } := rfl

theorem State.showFence_frame (s : State) (d : Nat) : s.showFence d = { s with regs := (s.showFence d).regs } := rfl

/-- REQ shows that an agent holds the fence. -/
theorem State.req_showFence (s : State) (d : Nat) : (s.showFence d).get (Reg.MSH_FENCE_REQ d) = bnat (s.fence d).held := by
  rw [State.showFence, State.get_set_apart _ _ _ _ (by simp [Reg.MSH_FENCE_OWNER]) (by simp [Reg.MSH_FENCE_REQ])
    (by simp [Reg.MSH_FENCE_OWNER, Reg.MSH_FENCE_REQ])]
  exact s.req_set_req d _

/-- REQ and OWNER stand in the fence's own register. -/
theorem State.reg_showFence_other (s : State) (d : Nat) {off : Nat} (h : off ≠ (Reg.MSH_FENCE_PHASE d).off) :
    (s.showFence d).reg off = s.reg off := by
  rw [State.showFence, State.reg_set_other _ (Reg.MSH_FENCE_OWNER d) _ h, State.reg_set_other _ (Reg.MSH_FENCE_REQ d) _ h]

theorem State.pickStep_frame (s : State) (d : Nat) : s.pickStep d = { s with fences := (s.pickStep d).fences } := by
  unfold State.pickStep
  split <;> rfl

/-- A fence that picks its step keeps its holders. -/
theorem State.fence_pickStep (s : State) (d : Nat) : ∃ o, (s.pickStep d).fence d = { s.fence d with step := o } := by
  unfold State.pickStep
  split
  · exact ⟨_, rfl⟩
  · exact ⟨_, s.fence_setFence_same d _⟩

/-- It has a step where no Flue stream keeps it from being picked (R133). -/
theorem State.isSome_step_pickStep (s : State) {d : Nat} (h : 64 ≤ d ∨ s.streamsOpen d = false) :
    ((s.pickStep d).fence d).step.isSome = true := by
  have hpick : ¬(d < 64 ∧ s.streamsOpen d = true) := fun ⟨hlt, hopen⟩ =>
    h.elim (Nat.not_le.mpr hlt) (fun hclosed => Bool.false_ne_true (hclosed.symm.trans hopen))
  rw [State.pickStep, if_neg hpick, s.fence_setFence_same]
  rfl

/-- Which streams are open does not turn on fences, nor on registers but the turf's assignment. -/
theorem State.streamsOpen_congr {s t : State} (hframe : t = { s with regs := t.regs, fences := t.fences }) (d : Nat)
    (hcfg : t.reg (Reg.TRF_CFG_PART d).off = s.reg (Reg.TRF_CFG_PART d).off) : t.streamsOpen d = s.streamsOpen d := by
  have hpart : t.get (Reg.TRF_CFG_PART d) = s.get (Reg.TRF_CFG_PART d) := State.get_congr hcfg
  have hassigned : t.get (Reg.TRF_CFG_ASSIGNED d) = s.get (Reg.TRF_CFG_ASSIGNED d) := State.get_congr hcfg
  have hflue (p : Nat) : t.flueClosed p = s.flueClosed p := by rw [hframe]; rfl
  simp only [State.streamsOpen, State.flag, hassigned, hpart, hflue]

/-! ## The request and the release (R133, R135, R136) -/

/-- The fence in Stop, its holders shown and its step still to be picked. -/
def State.stopFence (s : State) (d : Nat) (f : Fence) : State :=
  (((s.setFence d f).showFence d).set (Reg.MSH_FENCE_FORCED d) 0).set (Reg.MSH_FENCE_PHASE d) 1

theorem State.holdFence_of_open (s : State) {d : Nat} (f : Fence → Fence) (hphase : s.phase d = 0) :
    s.holdFence d f = (s.stopFence d (f (s.fence d))).pickStep d := by
  unfold State.holdFence
  simp only [hphase, ne_eq, not_true_eq_false, if_false]
  rfl

theorem State.reg_stopFence_other (s : State) (d : Nat) (f : Fence) {off : Nat} (h : off ≠ (Reg.MSH_FENCE_PHASE d).off) :
    (s.stopFence d f).reg off = s.reg off := by
  rw [State.stopFence, State.reg_set_other _ (Reg.MSH_FENCE_PHASE d) _ h, State.reg_set_other _ (Reg.MSH_FENCE_FORCED d) _ h,
    State.reg_showFence_other _ _ h, State.reg_setFence]

theorem State.phase_stopFence (s : State) (d : Nat) (f : Fence) : (s.stopFence d f).phase d = 1 := State.phase_set_phase _ d (by decide)

theorem State.forced_stopFence (s : State) (d : Nat) (f : Fence) : (s.stopFence d f).get (Reg.MSH_FENCE_FORCED d) = 0 := by
  rw [State.stopFence, State.get_set_apart _ _ _ _ (by simp [Reg.MSH_FENCE_PHASE]) (by simp [Reg.MSH_FENCE_FORCED])
    (by simp [Reg.MSH_FENCE_PHASE, Reg.MSH_FENCE_FORCED])]
  exact State.forced_set_forced _ d false

theorem State.req_stopFence (s : State) (d : Nat) (f : Fence) : (s.stopFence d f).get (Reg.MSH_FENCE_REQ d) = bnat f.held := by
  rw [State.stopFence, State.get_set_apart _ _ _ _ (by simp [Reg.MSH_FENCE_PHASE]) (by simp [Reg.MSH_FENCE_REQ])
      (by simp [Reg.MSH_FENCE_PHASE, Reg.MSH_FENCE_REQ]),
    State.get_set_apart _ _ _ _ (by simp [Reg.MSH_FENCE_FORCED]) (by simp [Reg.MSH_FENCE_REQ])
      (by simp [Reg.MSH_FENCE_FORCED, Reg.MSH_FENCE_REQ]), State.req_showFence, State.fence_setFence_same]

/-- FENCE_REQUEST: the domain stops, held by the host. -/
theorem exec_fenceRequest {d : Fin 88} {s : State} (hdom : isDomain d = true) (hbar : s.hostBarred d = false) (hphase : s.phase d = 0) :
    exec (.fenceRequest d) s = .next ((s.stopFence d { s.fence d with host := true }).pickStep d) := by
  change execFenceRequest d s = _
  simp only [execFenceRequest, hdom, hbar, hphase, s.holdFence_of_open _ hphase, Bool.not_true, Bool.or_false, ne_eq, not_true_eq_false,
    decide_false, Bool.false_eq_true, if_false]

theorem fenceRequest_stops {d : Fin 88} {s : State} (hdom : isDomain d = true) (hbar : s.hostBarred d = false) (hphase : s.phase d = 0) :
    Runs (.fenceRequest d) s (fun t => t.phase d = 1 ∧ (t.fence d).host = true ∧
      t.get (Reg.MSH_FENCE_REQ d) = 1 ∧ t.get (Reg.MSH_FENCE_FORCED d) = 0 ∧
      (64 ≤ d.val ∨ s.streamsOpen d = false → (t.fence d).step.isSome = true) ∧
      t = { s with regs := t.regs, fences := t.fences } ∧ SameRegs [(Reg.MSH_FENCE_PHASE d).off] s t) := by
  let f : Fence := { s.fence d with host := true }
  let u := s.stopFence d f
  have hregs : (u.pickStep d).regs = u.regs := by rw [u.pickStep_frame d]
  have hget (g : Field) : (u.pickStep d).get g = u.get g := by simp only [State.get, State.reg, hregs]
  have hreg (off : Nat) : (u.pickStep d).reg off = u.reg off := by simp only [State.reg, hregs]
  obtain ⟨o, hfence⟩ := u.fence_pickStep d
  have hhost : (u.fence d).host = true := congrArg Fence.host (s.fence_setFence_same d f)
  refine ⟨_, exec_fenceRequest hdom hbar hphase, (hget _).trans (s.phase_stopFence d f), ?_, ?_,
    (hget _).trans (s.forced_stopFence d f), fun hopen => ?_, ?_, fun off hoff => ?_⟩
  · rw [hfence]
    exact hhost
  · refine (hget _).trans ((s.req_stopFence d f).trans ?_)
    simp [f, Fence.held, bnat]
  · refine u.isSome_step_pickStep (hopen.imp_right (fun hclosed => ?_))
    rw [← hclosed]
    refine State.streamsOpen_congr rfl d (s.reg_stopFence_other d f ?_)
    simp only [Reg.TRF_CFG_PART, Reg.MSH_FENCE_PHASE]
    omega
  · rw [u.pickStep_frame d]
    rfl
  · exact (hreg off).trans (s.reg_stopFence_other d f (by simpa using hoff))

/-- The fence in phase 0 again, its holders shown. -/
def State.openFence (s : State) (d : Nat) (f : Fence) : State := ((s.setFence d f).showFence d).set (Reg.MSH_FENCE_PHASE d) 0

theorem State.phase_openFence (s : State) (d : Nat) (f : Fence) : (s.openFence d f).phase d = 0 := State.phase_set_phase _ d (by decide)

theorem State.fence_openFence (s : State) (d : Nat) (f : Fence) : (s.openFence d f).fence d = f := s.fence_setFence_same d f

theorem State.req_openFence (s : State) (d : Nat) (f : Fence) : (s.openFence d f).get (Reg.MSH_FENCE_REQ d) = bnat f.held := by
  rw [State.openFence, State.get_set_apart _ _ _ _ (by simp [Reg.MSH_FENCE_PHASE]) (by simp [Reg.MSH_FENCE_REQ])
    (by simp [Reg.MSH_FENCE_PHASE, Reg.MSH_FENCE_REQ]), State.req_showFence, State.fence_setFence_same]

/-- When the last holder lets go, a turf waits for its rejoin; another domain is back, and what it reads changes in a register of its own. -/
theorem State.releaseFence_of_last (s : State) {d : Nat} (hd : d < 88) (f : Fence → Fence) (hheld : (f (s.fence d)).held = false) :
    let u := s.openFence d (f (s.fence d))
    s.releaseFence d f = u ∨ s.releaseFence d f = u.setFence d Fence.open ∨
      ∃ g v, g.off ≠ (Reg.MSH_FENCE_PHASE d).off ∧ s.releaseFence d f = (u.setFence d Fence.open).set g v := by
  have hlast : (((s.setFence d (f (s.fence d))).showFence d).fence d).held = false := by
    rw [State.showFence, State.fence_set, State.fence_set, State.fence_setFence_same, hheld]
  unfold State.releaseFence
  simp only [hlast, Bool.false_eq_true, if_false]
  split
  · exact .inl rfl
  · split
    · refine .inr (.inr ⟨_, _, ?_, rfl⟩)
      simp only [Reg.MSH_FENCE_PHASE, Reg.HBM_STAT_STATE]
      omega
    · split
      · refine .inr (.inr ⟨_, _, ?_, rfl⟩)
        simp only [Reg.MSH_FENCE_PHASE, Reg.EDG_STAT_STATE]
        omega
      · exact .inr (.inl rfl)

theorem State.openFence_frame (s : State) (d : Nat) (f : Fence) :
    s.openFence d f = { s with regs := (s.openFence d f).regs, fences := (s.openFence d f).fences } := by
  rw [State.openFence, State.set_frame, State.showFence_frame, State.setFence_frame]

/-- A fence let go by its last holder opens: the phase and REQ read 0, and nobody holds it. -/
theorem State.releaseFence_opens (s : State) {d : Nat} (hd : d < 88) (f : Fence → Fence) (hheld : (f (s.fence d)).held = false) :
    let t := s.releaseFence d f
    t.phase d = 0 ∧ t.get (Reg.MSH_FENCE_REQ d) = 0 ∧ (t.fence d = f (s.fence d) ∨ t.fence d = Fence.open) ∧
      t = { s with regs := t.regs, fences := t.fences } := by
  have hphase : (s.openFence d (f (s.fence d))).get (Reg.MSH_FENCE_PHASE d) = 0 := s.phase_openFence d _
  have hreq : (s.openFence d (f (s.fence d))).get (Reg.MSH_FENCE_REQ d) = 0 := by rw [State.req_openFence, hheld]; rfl
  have hframe := s.openFence_frame d (f (s.fence d))
  simp only [State.phase]
  rcases s.releaseFence_of_last hd f hheld with h | h | ⟨g, v, hg, h⟩
  · rw [h]
    exact ⟨hphase, hreq, .inl (s.fence_openFence d _), hframe⟩
  · rw [h, State.get_setFence, State.get_setFence, State.fence_setFence_same]
    exact ⟨hphase, hreq, .inr rfl, by rw [State.setFence_frame, hframe]⟩
  · have hreq' := State.get_set_other_reg ((s.openFence d (f (s.fence d))).setFence d Fence.open) g (Reg.MSH_FENCE_REQ d) v hg.symm
    rw [h, hreq', State.get_set_other_reg _ _ _ _ hg.symm, State.get_setFence, State.get_setFence, State.fence_set, State.fence_setFence_same]
    exact ⟨hphase, hreq, .inr rfl, by rw [State.set_frame, State.setFence_frame, hframe]⟩

theorem fenceRelease_opens {d : Fin 88} {s : State} (hdom : isDomain d = true) (hbar : s.hostBarred d = false) (hphase : s.phase d ≠ 0) :
    Runs (.fenceRelease d) s (fun t => t.phase d = 0 ∧ (t.fence d).host = false ∧ t.get (Reg.MSH_FENCE_REQ d) = 0 ∧
      t = { s with regs := t.regs, fences := t.fences }) := by
  have hexec : exec (.fenceRelease d) s = .next (s.releaseFence d (fun f => { f with host := false })) := by
    change execFenceRelease d s = _
    simp only [execFenceRelease, hdom, hbar, hphase, Bool.not_true, Bool.or_false, decide_false, Bool.false_eq_true, if_false]
  have hheld : ({ s.fence d with host := false } : Fence).held = false := by
    simpa [State.hostBarred, Fence.held, and_assoc, and_comm, and_left_comm] using hbar
  obtain ⟨hopen, hreq, hfence, hframe⟩ := s.releaseFence_opens d.isLt (fun f => { f with host := false }) hheld
  refine ⟨_, hexec, hopen, ?_, hreq, hframe⟩
  cases hfence with
  | inl h => rw [h]
  | inr h => rw [h]; rfl

/-! ## Stop, Drain and Fenced (R121, R133) -/

theorem fenceStopComplete_drains {d : Fin 88} {s : State} (hphase : s.phase d = 1) (hstep : (s.fence d).step.isSome = true) :
    Runs (.fenceStopComplete d) s (fun t => t.phase d = 2 ∧ t = { s with regs := t.regs } ∧
      (d.val < 64 → t.get (Reg.TRF_STATE_BURSTS d) = 0)) := by
  have hnone : (s.fence d).step.isNone = false := by rw [Option.isNone_eq_false_iff]; exact hstep
  have hexec : exec (.fenceStopComplete d) s = .next
      (if d.val < 64 then (s.set (Reg.MSH_FENCE_PHASE d) 2).set (Reg.TRF_STATE_BURSTS d) 0 else s.set (Reg.MSH_FENCE_PHASE d) 2) := by
    change execFenceStopComplete d s = _
    simp only [execFenceStopComplete, hphase, hnone, ne_eq, not_true_eq_false, Bool.false_eq_true, if_false]
  have hdrain : (s.set (Reg.MSH_FENCE_PHASE d) 2).phase d = 2 := s.phase_set_phase d (by decide)
  refine ⟨_, hexec, ?_⟩
  split
  · refine ⟨(State.get_set_other_reg _ _ _ _ ?_).trans hdrain, rfl, fun _ => State.get_set_same _ _ 0 ?_⟩
    · simp only [Reg.MSH_FENCE_PHASE, Reg.TRF_STATE_BURSTS]
      omega
    · simp [Reg.TRF_STATE_BURSTS]
  · exact ⟨hdrain, rfl, fun h => absurd h ‹_›⟩

/-- The edge fabric fenced is a change of the edge fabric and of EDG_STAT (R275, R286). -/
theorem State.edgeFenced_frame (s : State) : s.edgeFenced = { s with regs := s.edgeFenced.regs, edge := s.edgeFenced.edge } := by
  unfold State.edgeFenced
  split <;> rfl

theorem State.reg_edgeFenced_other (s : State) {off : Nat} (h : off ≠ Reg.EDG_STAT_STATE.off) : s.edgeFenced.reg off = s.reg off := by
  unfold State.edgeFenced
  split
  · rw [State.edgeState, State.showClocks, State.reg_set_other _ Reg.EDG_STAT_CLKRUN _ h, State.reg_set_other _ Reg.EDG_STAT_STATE _ h]
    rfl
  · exact s.reg_set_other Reg.EDG_STAT_STATE _ h

/-- What becomes Fenced does so in its registers, or in the edge fabric, before its event is raised. -/
theorem State.enterFenced_raises (s : State) {d : Nat} (hd : d < 88) : ∃ u : State, s.enterFenced d = u.raise (0x040 + d) ∧
    u = { s with regs := u.regs, edge := u.edge } ∧
    u.reg (Reg.MSH_FENCE_PHASE d).off = (s.set (Reg.MSH_FENCE_PHASE d) 3).reg (Reg.MSH_FENCE_PHASE d).off ∧
    (d < 64 → u.get (Reg.TRF_STATE_STATE d) = if (s.fence d).loader then 6 else 3) := by
  unfold State.enterFenced
  dsimp only
  split
  case isTrue hturf =>
    refine ⟨_, rfl, rfl, State.reg_set_other _ _ _ ?_, fun _ => (State.get_set_same _ _ _ ?_).trans ?_⟩
    · simp only [Reg.MSH_FENCE_PHASE, Reg.TRF_STATE_STATE]
      omega
    · simp [Reg.TRF_STATE_STATE]
    · split <;> rfl
  case isFalse hturf =>
    split
    · refine ⟨_, rfl, rfl, State.reg_set_other _ _ _ ?_, fun h => absurd h hturf⟩
      simp only [Reg.MSH_FENCE_PHASE, Reg.HBM_STAT_STATE]
      omega
    · split
      · refine ⟨_, rfl, (State.edgeFenced_frame _).trans rfl, State.reg_edgeFenced_other _ ?_, fun h => absurd h hturf⟩
        simp only [Reg.MSH_FENCE_PHASE, Reg.EDG_STAT_STATE]
        omega
      · exact ⟨_, rfl, rfl, rfl, fun h => absurd h hturf⟩

/-- A domain that is Fenced: its phase, FORCED as it was, its event pending, what a turf reads, and what stays. -/
theorem State.enterFenced_spec (s : State) {d : Nat} (hd : d < 88) :
    let t := s.enterFenced d
    t.phase d = 3 ∧ t.get (Reg.MSH_FENCE_FORCED d) = s.get (Reg.MSH_FENCE_FORCED d) ∧ t.flag (pendBit (0x040 + d)) = true ∧
      (d < 64 → t.get (Reg.TRF_STATE_STATE d) = if (s.fence d).loader then 6 else 3) ∧
      t.peMem = s.peMem ∧ t.pes = s.pes ∧ t.fences = s.fences := by
  obtain ⟨u, hraise, hframe, hreg, hturf⟩ := s.enterFenced_raises hd
  have hi : 0x040 + d < 1024 := by omega
  have hphase : u.phase d = 3 := (State.get_congr hreg).trans (s.phase_set_phase d (by decide))
  have hforced : u.get (Reg.MSH_FENCE_FORCED d) = s.get (Reg.MSH_FENCE_FORCED d) :=
    (State.get_congr (g := Reg.MSH_FENCE_FORCED d) hreg).trans (s.get_set_apart _ _ _ (by simp [Reg.MSH_FENCE_PHASE])
      (by simp [Reg.MSH_FENCE_FORCED]) (by simp [Reg.MSH_FENCE_PHASE, Reg.MSH_FENCE_FORCED]))
  have hout : 0x202300 < (Reg.MSH_FENCE_PHASE d).off := by simp only [Reg.MSH_FENCE_PHASE]; omega
  have hstate : 0x202300 < (Reg.TRF_STATE_STATE d).off := by simp only [Reg.TRF_STATE_STATE]; omega
  simp only [hraise]
  refine ⟨(u.get_raise_other _ hi (.inr hout)).trans hphase, (u.get_raise_other (Reg.MSH_FENCE_FORCED d) hi (.inr hout)).trans hforced,
    u.flag_pendBit_raise hi, fun h => (u.get_raise_other _ hi (.inr hstate)).trans (hturf h), ?_, ?_, ?_⟩ <;>
  rw [u.raise_frame, hframe]

/-- FENCE_DRAIN_COMPLETE with no packet of the domain left: credits on their way get one idle beat (R121). -/
theorem exec_fenceDrainComplete {d : Fin 88} {s : State} (hphase : s.phase d = 2) (hflight : s.inFlight d = false) :
    let u := if s.net.returning = [] then s else s.meshBeat none none
    exec (.fenceDrainComplete d) s = .next (if u.net.returning = [] then u.enterFenced d else u) := by
  change execFenceDrainComplete d s = _
  simp only [execFenceDrainComplete, hphase, hflight, and_self, if_true, List.isEmpty_iff]

theorem fenceDrainComplete_fences {d : Fin 88} {s : State} (hphase : s.phase d = 2) (hflight : s.inFlight d = false)
    (hback : s.net.returning = []) :
    Runs (.fenceDrainComplete d) s (fun t => t.phase d = 3 ∧ t.flag (pendBit (0x040 + d.val)) = true ∧
      (d.val < 64 → t.get (Reg.TRF_STATE_STATE d) = if (s.fence d).loader then 6 else 3) ∧ t.peMem = s.peMem ∧ t.fences = s.fences) := by
  have hexec := exec_fenceDrainComplete hphase hflight
  simp only [hback, if_true] at hexec
  obtain ⟨hthree, -, hevent, hturf, hpeMem, -, hfences⟩ := s.enterFenced_spec d.isLt
  exact ⟨_, hexec, hthree, hevent, hturf, hpeMem, hfences⟩

theorem fenceDrainComplete_beats {d : Fin 88} {s : State} (hphase : s.phase d = 2) (hflight : s.inFlight d = false)
    (hback : s.net.returning ≠ []) : let u := s.meshBeat none none
    Runs (.fenceDrainComplete d) s (fun t => (u.net.returning ≠ [] → t = u) ∧
      (u.net.returning = [] → t.phase d = 3 ∧ t.flag (pendBit (0x040 + d.val)) = true)) := by
  have hexec := exec_fenceDrainComplete hphase hflight
  simp only [hback, if_false] at hexec
  refine ⟨_, hexec, fun h => if_neg h, fun h => ?_⟩
  obtain ⟨hthree, -, hevent, -⟩ := (s.meshBeat none none).enterFenced_spec d.isLt
  rw [if_pos h]
  exact ⟨hthree, hevent⟩

theorem exec_fenceDrainComplete_inFlight {d : Fin 88} {s : State} (hflight : s.inFlight d = true) :
    exec (.fenceDrainComplete d) s = .next s := by
  change execFenceDrainComplete d s = _
  simp only [execFenceDrainComplete, hflight, Bool.true_eq_false, and_false, if_false]

/-! ## The clamps (R133, R264, R408) -/

/-- Entries chosen by their keys: a chosen key reads as before. -/
theorem SMap.get_filter_of_key {α : Type} (d : α) (m : SMap α) {p : Nat → Bool} {k : Nat} (hk : p k = true) :
    SMap.get d (m.filter (fun e => p e.1)) k = SMap.get d m k := by
  induction m with
  | nil => rfl
  | cons e m ih =>
    obtain ⟨j, w⟩ := e
    by_cases hj : k = j
    · subst hj
      simp [hk, SMap.get]
    · cases hp : p j <;> simp [hp, SMap.get, hj, ih]

/-- A turf switched off loses its own memory and no other; one whose bit of PWR_TURFOFF is 0 loses none. -/
theorem State.switchOff_spec (s : State) (d : Nat) :
    s.switchOff d = { s with peMem := (s.switchOff d).peMem } ∧
      (bitAt (s.get Reg.PWR_TURFOFF_OFF) d = 0 → (s.switchOff d).peMem = s.peMem) ∧
      ∀ i, turfOfPe i ≠ d → (s.switchOff d).peMemory i = s.peMemory i := by
  unfold State.switchOff
  split
  next h => exact ⟨rfl, fun hon => absurd h.1 (by rw [hon]; decide),
    fun i hi => SMap.get_filter_of_key (p := fun j => decide (turfOfPe j ≠ d)) 0 s.peMem (by simpa using hi)⟩
  next => exact ⟨rfl, fun _ => rfl, fun _ _ => rfl⟩

/-- The domain in Clamped; a turf withdrawn by HST_WDRAW reads state 4. -/
def State.clampFence (s : State) (d : Nat) : State :=
  if d < 64 ∧ (s.fence d).wdraw = true ∧ (s.fence d).loader = false then (s.set (Reg.MSH_FENCE_PHASE d) 4).set (Reg.TRF_STATE_STATE d) 4
  else s.set (Reg.MSH_FENCE_PHASE d) 4

theorem State.clampFence_spec (s : State) {d : Nat} (hd : d < 88) :
    (s.clampFence d).phase d = 4 ∧ s.clampFence d = { s with regs := (s.clampFence d).regs } ∧
      (s.clampFence d).get Reg.PWR_TURFOFF_OFF = s.get Reg.PWR_TURFOFF_OFF := by
  have hphase := s.phase_set_phase d (v := 4) (by decide)
  have hoff : (s.set (Reg.MSH_FENCE_PHASE d) 4).get Reg.PWR_TURFOFF_OFF = s.get Reg.PWR_TURFOFF_OFF :=
    State.get_set_other_reg _ _ _ _ (by simp only [Reg.PWR_TURFOFF_OFF, Reg.MSH_FENCE_PHASE]; omega)
  unfold State.clampFence
  split
  · refine ⟨(State.get_set_other_reg _ _ _ _ ?_).trans hphase, rfl, (State.get_set_other_reg _ _ _ _ ?_).trans hoff⟩
    · simp only [Reg.MSH_FENCE_PHASE, Reg.TRF_STATE_STATE]
      omega
    · simp only [Reg.PWR_TURFOFF_OFF, Reg.TRF_STATE_STATE]
      omega
  · exact ⟨hphase, rfl, hoff⟩

theorem fenceClamp_clamps {d : Fin 88} {s : State} (hphase : s.phase d = 3) :
    Runs (.fenceClamp d) s (fun t => t.phase d = 4 ∧ t.fences = s.fences ∧
      (64 ≤ d.val ∨ bitAt (s.get Reg.PWR_TURFOFF_OFF) d = 0 → t.peMem = s.peMem) ∧ t = { s with regs := t.regs, peMem := t.peMem } ∧
      ∀ i, turfOfPe i ≠ d.val → t.peMemory i = s.peMemory i) := by
  have hexec : exec (.fenceClamp d) s = .next (if d.val < 64 then (s.clampFence d).switchOff d else s.clampFence d) := by
    change execFenceClamp d s = _
    simp only [execFenceClamp, hphase, ne_eq, not_true_eq_false, if_false]
    rfl
  obtain ⟨hfour, hframe, hoff⟩ := s.clampFence_spec d.isLt
  have hpeMem : (s.clampFence d).peMem = s.peMem := by rw [hframe]
  refine ⟨_, hexec, ?_⟩
  split
  case isTrue hturf =>
    obtain ⟨hown, hon, hothers⟩ := (s.clampFence d).switchOff_spec d
    refine ⟨?_, ?_, fun h => ?_, ?_, fun i hi => (hothers i hi).trans (by rw [State.peMemory, hpeMem]; rfl)⟩
    · rw [hown]
      exact hfour
    · rw [hown, hframe]
    · rw [hon (hoff.symm ▸ h.resolve_left (Nat.not_le.mpr hturf)), hpeMem]
    · rw [hown, hframe]
  case isFalse =>
    exact ⟨hfour, by rw [hframe], fun _ => hpeMem, by rw [hframe], fun i _ => by rw [State.peMemory, hpeMem]; rfl⟩

/-! ## The timeout (R134) -/

/-- The PEs: their memories and their registers. -/
def State.peState (s : State) : SMap (BitVec 8192) × SMap PeRegs := (s.peMem, s.pes)

theorem State.peState_inject (s : State) (k : Packet) : (s.inject k).peState = s.peState := by
  unfold State.inject
  dsimp only
  split <;> rfl

theorem State.peState_answerErr (s : State) (k : Packet) (code : Nat) : (s.answerErr k code).peState = s.peState := by
  unfold State.answerErr
  split
  · exact s.peState_inject _
  · rfl

theorem State.peState_fabricAnswer (s : State) (k : Packet) (cmd code : Nat) : (s.fabricAnswer k cmd code).peState = s.peState := by
  unfold State.fabricAnswer
  split
  · rfl
  · split
    · exact s.peState_inject _
    · rfl

theorem State.peState_discardQueue (s : State) (n : Nat) : (s.discardQueue n).peState = s.peState :=
  State.foldl_reads (fun t _ => t.peState_fabricAnswer _ _ _) _ _

/-- Packets discarded and answered leave the PEs. -/
theorem State.peState_discardDomain (s : State) (d : Nat) : (s.discardDomain d).peState = s.peState := by
  have hqueue : (if d < 80 then s else s.discardQueue (d - 80)).peState = s.peState := by
    split
    · rfl
    · exact s.peState_discardQueue _
  exact (State.foldl_reads (fun t k => t.peState_inject _) _ _).trans ((State.foldl_reads (fun t k => t.peState_answerErr k 0x01) _ _).trans hqueue)

theorem State.peState_failStreams (s : State) (t : Nat) : (s.failStreams t).peState = s.peState := by
  unfold State.failStreams
  dsimp only
  split <;> rfl

/-- A turf forced out of Stop takes its fence step, its open streams failing; it takes no burst more. -/
def State.endSteps (s : State) (d : Nat) : State :=
  let s1 := if d < 64 ∧ (s.fence d).step.isNone then
      let t := s.failStreams d
      t.setFence d { t.fence d with step := some (t.part (t.get (Reg.TRF_CFG_PART d))).step }
    else s
  if d < 64 then s1.set (Reg.TRF_STATE_BURSTS d) 0 else s1

theorem State.forceFence_eq (s : State) (d : Nat) :
    s.forceFence d = (((s.endSteps d).discardDomain d).set (Reg.MSH_FENCE_FORCED d) 1).enterFenced d := by
  rw [State.forceFence, State.endSteps]

theorem State.peState_set (s : State) (f : Field) (v : Nat) : (s.set f v).peState = s.peState := rfl
theorem State.peState_setFence (s : State) (d : Nat) (f : Fence) : (s.setFence d f).peState = s.peState := rfl

theorem State.peState_endSteps (s : State) (d : Nat) : (s.endSteps d).peState = s.peState := by
  unfold State.endSteps
  dsimp only
  split <;> split <;> simp only [State.peState_set, State.peState_setFence, State.peState_failStreams]

/-- A fence forced: the domain is Fenced, FORCED says so, its event is pending, and the PEs stay. -/
theorem State.forceFence_spec (s : State) {d : Nat} (hd : d < 88) :
    let t := s.forceFence d
    t.phase d = 3 ∧ t.get (Reg.MSH_FENCE_FORCED d) = 1 ∧ t.flag (pendBit (0x040 + d)) = true ∧ t.peMem = s.peMem ∧ t.pes = s.pes := by
  let u := ((s.endSteps d).discardDomain d).set (Reg.MSH_FENCE_FORCED d) 1
  have hkept : u.peState = s.peState := by rw [State.peState_set, State.peState_discardDomain, State.peState_endSteps]
  obtain ⟨hphase, hforced, hevent, -, hpeMem, hpes, -⟩ := u.enterFenced_spec hd
  rw [s.forceFence_eq]
  exact ⟨hphase, hforced.trans (State.forced_set_forced _ d true), hevent, hpeMem.trans (congrArg Prod.fst hkept),
    hpes.trans (congrArg Prod.snd hkept)⟩

theorem fenceTimeout_forces {d : Fin 88} {s : State} (hphase : s.phase d = 1 ∨ s.phase d = 2) (hreset : (s.fence d).reset = false)
    (htmo : s.get Reg.MSH_FENCE_TMO_TMO ≠ 0) :
    Runs (.fenceTimeout d) s (fun t => t.phase d = 3 ∧ t.get (Reg.MSH_FENCE_FORCED d) = 1 ∧ t.flag (pendBit (0x040 + d.val)) = true ∧
      t.peMem = s.peMem ∧ t.pes = s.pes) := by
  have hexec : exec (.fenceTimeout d) s = .next (s.forceFence d) := if_pos ⟨hphase, hreset, htmo⟩
  exact ⟨_, hexec, s.forceFence_spec d.isLt⟩

/-! ## The rejoin (R104, R135) -/

/-- The turf waits no longer, and reads state `v`. -/
def State.rejoin (s : State) (u v : Nat) : State := (s.setFence u { s.fence u with step := none }).set (Reg.TRF_STATE_STATE u) v

theorem State.step_rejoin (s : State) (u v : Nat) : ((s.rejoin u v).fence u).step = none := by
  rw [State.rejoin, State.fence_set, State.fence_setFence_same]

theorem State.state_rejoin (s : State) (u : Nat) {v : Nat} (hv : v < 16) : (s.rejoin u v).get (Reg.TRF_STATE_STATE u) = v :=
  (State.get_set_same _ (Reg.TRF_STATE_STATE u) v (by simp [Reg.TRF_STATE_STATE])).trans (Nat.mod_eq_of_lt hv)

theorem State.rejoin_frame (s : State) (u v : Nat) : s.rejoin u v = { s with regs := (s.rejoin u v).regs, fences := (s.rejoin u v).fences } := by
  rw [State.rejoin, State.set_frame, State.setFence_frame]

theorem turfRejoin_joins {u : TurfId} {s : State} (hphase : s.phase u = 0) (hstep : (s.fence u).step.isSome = true)
    (hclosed : s.streamsOpen u = false) (hmarch : s.get (Reg.TRF_STATE_STATE u) ≠ 5) :
    Runs (.turfRejoin u) s (fun t => (t.fence u).step = none ∧ t = { s with regs := t.regs, fences := t.fences } ∧
      (s.flag (Reg.TRF_CFG_ASSIGNED u) = true → t.get (Reg.TRF_STATE_STATE u) = 1 ∧
        t.get (Reg.TRF_STEP_STEP u) = (s.part (s.get (Reg.TRF_CFG_PART u))).step % 2 ^ 64) ∧
      (s.flag (Reg.TRF_CFG_ASSIGNED u) = false → t.get (Reg.TRF_STATE_STATE u) = 0)) := by
  let n := (s.part (s.get (Reg.TRF_CFG_PART u))).step
  have hexec : exec (.turfRejoin u) s = if s.flag (Reg.TRF_CFG_ASSIGNED u) = true then .next ((s.rejoin u 1).set (Reg.TRF_STEP_STEP u) n)
      else .next (s.rejoin u 0) := by
    change execTurfRejoin u s = _
    rw [execTurfRejoin, if_pos ⟨hphase, hstep, hclosed, hmarch⟩]
    simp only [State.rejoin, n]
  cases hassigned : s.flag (Reg.TRF_CFG_ASSIGNED u) with
  | true =>
    rw [hassigned, if_pos rfl] at hexec
    refine ⟨_, hexec, ?_, ?_, fun _ => ⟨?_, ?_⟩, nofun⟩
    · rw [State.fence_set, State.step_rejoin]
    · rw [State.set_frame, State.rejoin_frame]
    · refine (State.get_set_other_reg _ _ _ _ ?_).trans (s.state_rejoin u (by decide))
      simp only [Reg.TRF_STATE_STATE, Reg.TRF_STEP_STEP]
      omega
    · exact State.get_set_same _ (Reg.TRF_STEP_STEP u) _ (by simp [Reg.TRF_STEP_STEP])
  | false =>
    rw [hassigned, if_neg Bool.false_ne_true] at hexec
    exact ⟨_, hexec, s.step_rejoin u 0, s.rejoin_frame u 0, nofun, fun _ => s.state_rejoin u (by decide)⟩

/-! ## O32 -/

/-- Settles O32, phase by phase. -/
theorem fencesGoThroughTheirPhases : Obligations.FencesGoThroughTheirPhases :=
  ⟨fun _ _ hdom => ⟨fenceRequest_stops hdom, fenceStopComplete_drains, fenceDrainComplete_beats,
    fun _ => exec_fenceDrainComplete_inFlight, fenceDrainComplete_fences, fenceClamp_clamps, fenceTimeout_forces,
    fenceRelease_opens hdom⟩,
  fun _ _ => turfRejoin_joins⟩

end Sys2Proof.Machine
end

section
/-!
The statements of 05_news_links_and_array_mesh.md about Requests and Responses (R118-R120, R125). Both fail at one clause: a transfer put back into
an engine's queue also has STG_STAT show the queue (R245), and the frames of MWRITE and of a response at an X port hold every register as the
packet's way left it. The counterexamples are states whose STG_STAT does not show the queue, which the statements do not exclude.
-/
namespace Sys2Proof.Machine

/-! ## A queue that STG_STAT does not show -/

/-- A transfer in queue slot 5 that has moved nothing, its descriptor's first word and the tiles whose arm order has not come given. -/
def queuedTransfer (q0 : W64) (unarmed : List Nat) : Transfer where
  slot := 5
  desc := ⟨q0, 0, 0, 0⟩
  part := 0
  sent := []
  from_ := []
  packets := 0
  lost := []
  resend := []
  left := []
  mask := []
  got := []
  failed := false
  delta := 0
  last := 0
  unarmed := unarmed
  poisoned := false

/-- That transfer in the queue of engine 0, where STG_STAT reads an empty one. -/
def unshownState (x : Transfer) : State := { State.reset with staging := [(0, [x])] }

/-- What a register field reads after a command. -/
def fieldAfter (i : Instr) (s : State) (f : Field) : Option Nat :=
  match exec i s with
  | .next t => some (t.get f)
  | _ => none

theorem fieldAfter_of_sameRegisters {i : Instr} {s t c : State} (hexec : exec i s = .next t) (hregs : t.regs = c.regs) (f : Field) :
    fieldAfter i s f = some (c.get f) := by
  simp only [fieldAfter, hexec, State.get, State.reg, hregs]

/-! ## O30 -/

/-- What O30 says of MWRITE and registers: a field reads as the packet's way has left it. -/
theorem fieldAfter_mwrite_of_statement (h : Obligations.MeshRequestsAtTiles) {k : Packet} {s : State} (hlen : k.data.length ≤ 255)
    (hadmits : s.admits k 3 0xC2 = true) (f : Field) : fieldAfter (.mwrite k) s f = some ((s.carry k none).get f) := by
  obtain ⟨-, -, -, -, -, -, hmwrite⟩ := h.1 k s hlen
  obtain ⟨t, hexec, -, -, hframe, -⟩ := hmwrite hadmits
  exact fieldAfter_of_sameRegisters hexec (congrArg State.regs hframe) f

/-- The arm order for tile 0 of the transfer in queue slot 5 of engine 0: MWRITE at its T port. -/
def armOrder : Packet := ⟨mkHeader 3 0xC2 0 0 4 4 33 0 5 0 0 0, []⟩

/-- Refutes O30: an arm order that an engine waits for changes STG_STAT.QDEPTH from 0 to 1 in a state whose queue it does not show, and the
frame of MWRITE has no registers in it. -/
theorem not_meshRequestsAtTiles : ¬ Obligations.MeshRequestsAtTiles := by
  intro h
  have hadmits : (unshownState (queuedTransfer 0x41 [0])).admits armOrder 3 0xC2 = true := by decide +kernel
  have hbefore : ((unshownState (queuedTransfer 0x41 [0])).carry armOrder none).get (Reg.STG_STAT_QDEPTH 0) = 0 := by decide +kernel
  have hafter : fieldAfter (.mwrite armOrder) (unshownState (queuedTransfer 0x41 [0])) (Reg.STG_STAT_QDEPTH 0) = some 1 := by decide +kernel
  have hsame := fieldAfter_mwrite_of_statement h (by decide) hadmits (Reg.STG_STAT_QDEPTH 0)
  rw [hafter, hbefore] at hsame
  exact absurd hsame (by decide)

/-! ## O31 -/

/-- What O31 says of WACK at an engine's X port and registers: a field reads as the packet's way has left it. -/
theorem fieldAfter_wack_of_statement (h : Obligations.MeshResponsesAndReservedFlits) {k : Packet} {s : State} {n : Nat} {x : Transfer}
    (hadmits : s.admits k 1 0x82 = true) (hport : k.dport = 5) (htagged : s.tagged k = some (n, x)) (hcord : x.desc.cord = false)
    (hdir : x.desc.dir ≠ 2) (f : Field) : fieldAfter (.wack k) s f = some ((s.carry k none).get f) := by
  obtain ⟨⟨hpackets, -⟩, -⟩ := h
  obtain ⟨hresponses, -⟩ := hpackets k s
  obtain ⟨-, -, hengine⟩ := hresponses (0x82, .wack k, k) (by simp) hadmits
  obtain ⟨t, hexec, -, hframe, -⟩ := hengine n x (.inl hport) htagged hcord hdir
  exact fieldAfter_of_sameRegisters hexec (congrArg State.regs hframe) f

/-- The answer of tile 33 to a WRITE of the transfer in queue slot 5 of engine 0: WACK at port X0 of router 15. -/
def writeAnswer : Packet := ⟨mkHeader 1 0x82 0 15 5 4 33 0 5 0 0 0, []⟩

/-- Refutes O31: the answer to an engine's WRITE changes STG_STAT.QDEPTH from 0 to 1 in a state whose queue it does not show, and the frame of a
response at an X port has no registers in it. -/
theorem not_meshResponsesAndReservedFlits : ¬ Obligations.MeshResponsesAndReservedFlits := by
  intro h
  have hadmits : (unshownState (queuedTransfer 0 [])).admits writeAnswer 1 0x82 = true := by decide +kernel
  have htagged : (unshownState (queuedTransfer 0 [])).tagged writeAnswer = some (0, queuedTransfer 0 []) := by decide +kernel
  have hbefore : ((unshownState (queuedTransfer 0 [])).carry writeAnswer none).get (Reg.STG_STAT_QDEPTH 0) = 0 := by decide +kernel
  have hafter : fieldAfter (.wack writeAnswer) (unshownState (queuedTransfer 0 [])) (Reg.STG_STAT_QDEPTH 0) = some 1 := by decide +kernel
  have hsame := fieldAfter_wack_of_statement h hadmits (by decide) htagged (by decide) (by decide) (Reg.STG_STAT_QDEPTH 0)
  rw [hafter, hbefore] at hsame
  exact absurd hsame (by decide)

end Sys2Proof.Machine
end

section
/-!
The statement of 06_schedule_contract.md about replay and rollback (R150, R240, R372). It fails at one clause: the scratchpad comes from the checkpoint
part that HBM_CKPT.OFF names once the planes are back, and the packets that bring the planes clear their way in the mesh first (R124). Behind the
answer of a tile may go one to an engine 16, whose STG_STAT would stand where HBM_CKPT of partition 0 does. No such engine exists, and no command
gives it a transfer, but the statement does not exclude a state that holds one.
-/
namespace Sys2Proof.Machine

/-! ## What a write to the Hearth memories leaves -/

theorem head?_readBytes (m : SMap Byte) (a : Nat) {n : Nat} (hn : 0 < n) : (readBytes m a n).head? = some (SMap.get 0 m a) := by
  cases n with
  | zero => exact absurd hn (Nat.lt_irrefl 0)
  | succ n => rfl

/-- A write of the system port stands, and is held as the last one unless a sequencer's has met it in one cycle (R179). -/
theorem State.hearthWrite_stands (s : State) (a : Nat) (bs : List Byte) : (s.hearthWrite a bs).hearth = writeBytes s.hearth a bs ∧
    ((s.hearthWrite a bs).lastPort = none ∨ (s.hearthWrite a bs).lastPort = some ⟨none, a, bs⟩) := by
  have hput : (s.hearthPut a bs).hearth = writeBytes s.hearth a bs := by rw [s.hearthPut_eq a bs]
  unfold State.hearthWrite
  dsimp only
  split
  · split
    · split
      · rw [State.scratchMeet, State.raise_frame]
        exact ⟨hput, .inl rfl⟩
      · exact ⟨hput, .inr rfl⟩
    · exact ⟨hput, .inr rfl⟩
  · exact ⟨hput, .inr rfl⟩

/-- The first byte of the write that is held as the last one stands at its address. -/
theorem State.get_hearth_hearthWrite {s : State} {a : Nat} {bs : List Byte} {w : PortWrite} (hlast : (s.hearthWrite a bs).lastPort = some w)
    {b : Byte} (hfirst : w.data.head? = some b) : SMap.get 0 (s.hearthWrite a bs).hearth w.addr = b := by
  obtain ⟨hhearth, hnone | hsome⟩ := s.hearthWrite_stands a bs
  · exact absurd (hnone.symm.trans hlast) nofun
  · cases hsome.symm.trans hlast
    obtain ⟨l, hbs⟩ : ∃ l, bs = b :: l := List.head?_eq_some_iff.mp hfirst
    rw [hhearth, hbs]
    exact get_writeBytes_mem s.hearth a (b :: l) (i := 0) (Nat.succ_pos _)

/-! ## A rollback leaves the Hearth memories as its planes and scratchpad have come back -/

@[simp] theorem State.hearth_countRollback (s : State) (p : Nat) : (s.countRollback p).hearth = s.hearth := rfl

/-- The scratchpad's write is the last of those that bring the memories of a checkpoint back. -/
theorem State.get_hearth_restorePlanes {s : State} {p : Nat} {c : SavedSeq} {w : PortWrite} (hlast : (s.restorePlanes p c).lastPort = some w)
    {b : Byte} (hfirst : w.data.head? = some b) : SMap.get 0 (s.restorePlanes p c).hearth w.addr = b :=
  State.get_hearth_hearthWrite hlast hfirst

theorem State.hearth_hbmTouch (s : State) (a n : Nat) : (s.hbmTouch a n).hearth = s.hearth := by
  refine State.foldl_reads (fun t st => ?_) _ s
  dsimp only
  split <;> rfl

theorem State.hearth_putRow (s : State) (l : Landing) : (s.putRow l).hearth = s.hearth := by
  have hwake (u : Nat) : (s.wakeTurf u).hearth = s.hearth := by
    unfold State.wakeTurf
    split <;> rfl
  unfold State.putRow
  dsimp only
  split
  · split
    · exact hwake _
    · exact hwake _
  · exact hwake _

theorem State.hearth_takeRow (s : State) (step : Option (Nat × Nat)) (l : Landing) : (s.takeRow step l).hearth = s.hearth := by
  unfold State.takeRow
  split
  · split
    · rfl
    · exact s.hearth_putRow l
  · exact s.hearth_putRow l

/-- A beat of the mesh brings data to PE memory alone. -/
theorem State.hearth_meshBeat (s : State) (step : Option (Nat × Nat)) (bad : Option (Packet × Nat)) : (s.meshBeat step bad).hearth = s.hearth := by
  have hflit (t : State) (f : MeshFlit) : ((f.rows ((step.map (·.2)).getD 0)).foldl (State.takeRow · step) t).hearth = t.hearth :=
    State.foldl_reads (fun u l => u.hearth_takeRow step l) _ t
  unfold State.meshBeat
  exact State.foldl_reads hflit _ _

theorem State.hearth_stepBeats (s : State) (p b n : Nat) : (s.stepBeats p b n).hearth = s.hearth := by
  induction b generalizing s n with
  | zero => rfl
  | succ b ih =>
    rw [State.stepBeats]
    split
    · rfl
    · exact (ih _ _).trans (s.hearth_meshBeat _ _)

theorem State.hearth_beats (s : State) (p n b : Nat) : (s.beats p n b).hearth = s.hearth := State.hearth_stepBeats _ p b n

theorem State.hearth_takeSteps (s : State) (p n x : Nat) : (s.takeSteps p n x).hearth = s.hearth := by
  have hturf (next : Nat) (t : State) (u : Nat) : (t.turfSteps u n x next).hearth = t.hearth := rfl
  unfold State.takeSteps
  exact State.foldl_reads (hturf _) _ _

theorem State.hearth_restoreSeq (s : State) (p : Nat) (c : SavedSeq) : (s.restoreSeq p c).hearth = s.hearth :=
  State.foldl_reads (g := State.hearth) (fun _ _ => rfl) (List.range 16) _

/-- Of what restores a checkpoint, only the scratchpad's write reaches the Hearth memories. -/
theorem State.hearth_restoreCheckpoint (s : State) (p : Nat) (c : SavedSeq) :
    (s.restoreCheckpoint p c).hearth = (((s.dropDescriptors p).dropWork p).restorePlanes p c).hearth := by
  have hbursts (t : State) (l : List Nat) : (l.foldl (fun (v : State) (n : Nat) => v.set (Reg.TRF_STATE_BURSTS n) 0) t).hearth = t.hearth :=
    State.foldl_reads (fun v n => v.hearth_set _ 0) l t
  simp only [State.restoreCheckpoint, State.hearth_restoreSeq, State.hearth_hbmTouch, State.hearth_setPart, hbursts, State.hearth_setReg,
    State.hearth_takeSteps, State.hearth_beats]

theorem exec_rollback_restores {p : SeqId} {s : State} {r : Recovery} {c : SavedSeq} (hrecov : s.recov p = some r) (hhalted : s.halted p = false)
    (haction : r.action = 2) (hstage : r.stage = 0) (hsaved : SMap.get none s.saved p = some c) (hup : s.ckptUp p c = true)
    (hengines : (s.diesOf p).all s.dieEngines = true) : exec (.rollback p) s =
      .next (((s.restoreCheckpoint p c).countRollback p).setRecov p (some { r with stage := 1, todo := [], unfinished := none })) := by
  change execRollback p s = _
  simp only [execRollback, hrecov, haction, hstage, hhalted, hsaved, hup, hengines, ne_eq, not_true_eq_false, Bool.false_eq_true, or_self, if_false,
    if_true, Bool.not_true]

/-- What O51 says of the scratchpad after a rollback: it comes from where HBM_CKPT.OFF points before the rollback, whatever the planes' packets do
on their way. -/
theorem hearthRead_rollback_of_statement (h : Obligations.ReplayAndRollbackRestore) {p : SeqId} {s : State} {r : Recovery} {c : SavedSeq}
    (hrecov : s.recov p = some r) (hhalted : s.halted p = false) (hframe : 0 < s.frameLen p) (haction : r.action = 2) (hstage : r.stage = 0)
    (hsaved : SMap.get none s.saved p = some c) (hup : s.ckptUp p c = true) (hengines : (s.diesOf p).all s.dieEngines = true)
    (hheader : s.hbmRead (s.ckptBase p c) 4096 = c.header) :
    (((s.dropDescriptors p).dropWork p).restorePlanes p c).hearthRead (0x200000 * p) 0x200000 = s.hbmRead (s.ckptBase p c + 0x1000) 0x200000 := by
  obtain ⟨-, -, hrollback, -⟩ := h p s r hrecov hhalted hframe
  obtain ⟨t, hexec, hfacts⟩ := hrollback c haction hstage hsaved hup hengines hheader
  obtain ⟨-, -, -, -, -, -, -, -, -, -, -, -, -, -, -, -, -, hscratch, -⟩ := hfacts
  have hhearth : t.hearth = (s.restoreCheckpoint p c).hearth := by
    rw [← Host.Outcome.next.inj ((exec_rollback_restores hrecov hhalted haction hstage hsaved hup hengines).symm.trans hexec),
      State.hearth_setRecov, State.hearth_countRollback]
  rw [State.hearthRead, ← s.hearth_restoreCheckpoint p c, ← hhearth]
  exact hscratch

/-! ## A rollback that finds an answer to engine 16 in its way -/

/-- An answer of tile 0 at port X0 of router 0, where engine 0 of die 0 waits for its own: its TAG is that of queue slot 5 of an engine 16. -/
def strayAnswer : Packet := ⟨mkHeader 1 0x82 0 0 5 4 0 0 (64 * 16 + 5) 0 0 0, []⟩

/-- The WRITE that brings tile `t` of turf 0 the one plane of an empty checkpoint of partition 0. -/
def planeWrite (t : Nat) : Packet := State.reset.rowPacket (ckptOrigin 0 t) 0x02 t 0 0 (List.replicate 16 0)

/-- A rollback of partition 0 reported, its checkpoint in stacks 0 and 1 from address 0 on, the first byte of the scratchpad in it 1. The answer to
engine 16 is in the mesh, and the net holds it and every packet of the planes as arrived, so that none takes a beat. -/
def strayBase : State :=
  { (State.reset.set (Reg.HBM_STAT_STATE 0) 2).set (Reg.HBM_STAT_STATE 1) 2 with
    recovery := [(0, some ⟨⟨6, 0, none, 0, false⟩, 2, 0, [], none, 0, false⟩)]
    hbm := [(0x1000, 1)]
    staging := [(16, [queuedTransfer 0 []])]
    mesh := [strayAnswer]
    net := { Net.reset with
      arrived := strayAnswer :: (tilesOfTurf 0).flatMap (fun t => [planeWrite t, State.reset.response (planeWrite t) 0x82 0 []]) } }

/-- The checkpoint: turf 0, one plane, every register of the sequencer 0. -/
def strayCkpt : SavedSeq :=
  ⟨0, [0], 0, 1, 0, [], 0, 0, ⟨false, false, false, false⟩, 0, 0, false, false, 0, 0, strayBase.hbmRead 0 4096, 0⟩

def strayState : State := { strayBase with saved := [(0, some strayCkpt)] }

/-- The answer delivered shows engine 16 with one transfer: HBM_CKPT.OFF reads 0x10001 from then on, and the scratchpad's first byte is that of
address 0x11001. -/
theorem lastPort_restorePlanes_strayState :
    (((strayState.dropDescriptors 0).dropWork 0).restorePlanes 0 strayCkpt).lastPort.map (fun w => (w.addr, w.data.head?)) = some (0, some 0) := by
  decide +kernel

/-- Refutes O51: a rollback that finds an answer to an engine 16 in its way takes the scratchpad from 0x11001 on, not from 0x1000. -/
theorem not_replayAndRollbackRestore : ¬ Obligations.ReplayAndRollbackRestore := by
  intro h
  have hbase : strayState.ckptBase (0 : SeqId) strayCkpt = 0 := by decide +kernel
  obtain ⟨hhalted, hframe, hup, hengines⟩ : strayState.halted (0 : SeqId) = false ∧ 0 < strayState.frameLen (0 : SeqId) ∧
      strayState.ckptUp (0 : SeqId) strayCkpt = true ∧ (strayState.diesOf (0 : SeqId)).all strayState.dieEngines = true := by decide +kernel
  have hheader : strayState.hbmRead (strayState.ckptBase (0 : SeqId) strayCkpt) 4096 = strayCkpt.header := by rw [hbase]; rfl
  have hscratch := hearthRead_rollback_of_statement h (p := 0) (s := strayState) rfl hhalted hframe rfl rfl rfl hup hengines hheader
  have hfirst := congrArg List.head? hscratch
  rw [hbase, State.hearthRead, State.hbmRead, head?_readBytes _ _ (by decide), head?_readBytes _ _ (by decide)] at hfirst
  obtain ⟨w, hlast, hw⟩ := Option.map_eq_some_iff.mp lastPort_restorePlanes_strayState
  obtain ⟨haddr, hdata⟩ := Prod.mk.inj hw
  have hzero := State.get_hearth_restorePlanes hlast hdata
  rw [haddr] at hzero
  have hone : SMap.get 0 strayState.hbm (0 + 0x1000) = 1 := rfl
  exact absurd ((Option.some.inj hfirst).symm.trans hzero) (by rw [hone]; decide)

end Sys2Proof.Machine
end
